-- ==== Sys2Proof/Word.lean ====
section
/-! DEFINITION. The word types of the SX3 and their plainest names (R2, R44, R71). -/

namespace Sys2Proof

/-- A g register, and every 64-bit word of memory, of a message or of a control register (R71). -/
abbrev Word := BitVec 64

/-- A byte of memory. -/
abbrev Byte := BitVec 8

/-- A function digest, a measurement or a key of 256 bits (R4, R399). -/
abbrev Digest := BitVec 256

/-- Register numbers by class (R44). -/
abbrev GReg := BitVec 5
abbrev VIdx := BitVec 4
abbrev TIdx := BitVec 4
abbrev QIdx := BitVec 4
abbrev BIdx := BitVec 4
abbrev SIdx := BitVec 2
abbrev CIdx := BitVec 5
abbrev JIdx := BitVec 6

/-- A 96-bit instruction word (R43). -/
abbrev InstrWord := BitVec 96

end Sys2Proof
end

