-- ==== Sys2Proof/Syntax.lean ====
section
/-! DEFINITION. The instructions and events of the SX3: one constructor of Instr for each row of the opcode
table. An instruction carries the fields of its encoding (R43–R50); an event carries the unit it happens
at, or what arrives from outside. -/

namespace Sys2Proof

/-- The memory spaces, field SP (R46). -/
inductive Space where
  | s | a | w | c | xs | xa | xw | d | y
  deriving DecidableEq, Repr

/-- The sync modes, field SY (R46). -/
inductive Sync where
  | plain | wf | wfe | wef | sf | se
  deriving DecidableEq, Repr

/-- The access sizes, field SZ (R46): 1, 2, 4, 8 and 128 bytes. -/
inductive Size where
  | b | h | w | d | l
  deriving DecidableEq, Repr

/-- The consistency scopes, field SC, narrowest first (R12). -/
inductive Scope where
  | core | block | cluster | die | chip | job
  deriving DecidableEq, Repr

/-- The rounding modes, field RM (R48). -/
inductive Rm where
  | dyn | rne | rtz | rdn | rup | rna
  deriving DecidableEq, Repr

/-- The mem layout of MOD (R46). -/
structure MemF where
  sp : Space
  sy : Sync
  sz : Size
  sx : Bool
  ord : Bool
  sc : Scope
  deriving DecidableEq, Repr

/-- The num layout of MOD (R48). A format is its 5-bit code; codes 23 to 31 are reserved (R49). -/
structure Num where
  fmt : BitVec 5
  rm : Rm
  ovf : Bool
  fmt2 : BitVec 5
  opx : BitVec 2
  deriving DecidableEq, Repr

/-- A fabric packet (R362): the header flit's fields, its five 64-bit class fields, and its data. -/
structure Packet where
  pkind : BitVec 8
  ndata : BitVec 3
  ord : Bool := false
  val : Bool := false
  ph : Bool := false
  det : Bool := false
  dl : Bool := false
  vcl : BitVec 2 := 0
  hops : BitVec 8 := 0
  pkey : BitVec 16
  dst : BitVec 22
  src : BitVec 22
  mid : BitVec 22 := 0
  fseq : BitVec 24 := 0
  seq : BitVec 24 := 0
  pid : BitVec 16 := 0
  encl : BitVec 8 := 0
  addr : Word := 0
  aux : Word := 0
  srcv : Word := 0
  lo : Word := 0
  hi : Word := 0
  /-- The format tag of a vector payload: it travels with the data, in no field of R362 (log 18). -/
  vtag : BitVec 5 := 0
  /-- What a request does, where R362 gives no field for it: 0 data, 1 tags, 2 AMO, 3 AMOF, 4 CAS, 5 AMS (log 18). -/
  opkind : BitVec 3 := 0
  /-- FTYPE of its last flit: 2, or 3 for a stomp tail (R362, R365). -/
  ftype : BitVec 2 := 2
  /-- The lanes of a VAMO that reach their owner as one message (R210): address and operand of each, and in the answer its
  old value. R362 has no field for them (log 18). -/
  lanes : List (Word × Word) := []
  /-- The bits that an engine's write of part of a word names: R362 has no field for them (log 23). -/
  part : Option Nat := none
  /-- The message is a SENDNB's, which a FULL answer ends (R141): R362 has no field for that (log 18). -/
  nb : Bool := false
  data : List Byte := []
  deriving DecidableEq, Repr

/-- A part whose failure the launch journal handles (R405). -/
inductive Part where
  | core (t : Nat)
  | cluster (cl : Nat)
  | stations (die : Nat)
  | memoryChannel (n : Nat)
  | link (port : Nat)
  deriving DecidableEq, Repr

/-- The instructions of the SX3 and the events of its units: the rows of the opcode table. -/
inductive Instr where
  /-- Class 0, register-register (R74). -/
  | add (d a b : GReg)
  | sub (d a b : GReg)
  | and (d a b : GReg)
  | or (d a b : GReg)
  | xor (d a b : GReg)
  | andn (d a b : GReg)
  | shl (d a b : GReg)
  | shr (d a b : GReg)
  | sra (d a b : GReg)
  | rol (d a b : GReg)
  | ror (d a b : GReg)
  | min (d a b : GReg)
  | max (d a b : GReg)
  | minu (d a b : GReg)
  | maxu (d a b : GReg)
  | seq (d a b : GReg)
  | sne (d a b : GReg)
  | slt (d a b : GReg)
  | sltu (d a b : GReg)
  /-- Class 0, immediate (R75). -/
  | addi (d a : GReg) (imm : BitVec 48)
  | andi (d a : GReg) (imm : BitVec 48)
  | ori (d a : GReg) (imm : BitVec 48)
  | xori (d a : GReg) (imm : BitVec 48)
  | slti (d a : GReg) (imm : BitVec 48)
  /-- Class 0, immediate shifts (R75). -/
  | shli (d a : GReg) (n : BitVec 6)
  | shri (d a : GReg) (n : BitVec 6)
  | srai (d a : GReg) (n : BitVec 6)
  /-- Class 0, multiplication and division (R76). -/
  | mul (d a b : GReg)
  | mulh (d a b : GReg)
  | mulhu (d a b : GReg)
  | div (d a b : GReg)
  | divu (d a b : GReg)
  | rem (d a b : GReg)
  | remu (d a b : GReg)
  /-- Class 0 (R77). -/
  | sel (d a b c : GReg)
  /-- Class 0 (R78). -/
  | lea (d a b : GReg) (e : BitVec 3) (imm : BitVec 48)
  /-- Class 0 (R80). -/
  | widx (d a : GReg) (n : BitVec 3)
  | widc (d a : GReg) (n : BitVec 3)
  /-- Class 0 (R81). -/
  | clz (d a : GReg)
  | ctz (d a : GReg)
  | popc (d a : GReg)
  | bswap (d a : GReg)
  /-- Class 0 (R81). -/
  | sext (d a : GReg) (n : BitVec 7)
  | zext (d a : GReg) (n : BitVec 7)
  /-- Class 0, format W (R82). -/
  | li (d : GReg) (imm : Word)
  /-- Class 1 (R83, R84). -/
  | bmm8 (d a b : GReg)
  | bmm8x (d a b : GReg)
  | bmm8t (d a b : GReg)
  | pdep (d a b : GReg)
  | pext (d a b : GReg)
  /-- Class 1 (R85). -/
  | bperm (d a : GReg) (c : VIdx)
  /-- Class 1 (R86). -/
  | bfx (d a : GReg) (pos : BitVec 6) (len : BitVec 7)
  | bfi (d a b : GReg) (pos : BitVec 6) (len : BitVec 7)
  | brev (d a : GReg)
  /-- Class 1, scalar FP32 (R90–R95). -/
  | fadd (d a b : GReg) (n : Num)
  | fsub (d a b : GReg) (n : Num)
  | fmul (d a b : GReg) (n : Num)
  | fma (d a b c : GReg) (n : Num)
  | fmin (d a b : GReg) (n : Num)
  | fmax (d a b : GReg) (n : Num)
  | feq (d a b : GReg)
  | flt (d a b : GReg)
  | fle (d a b : GReg)
  | fcvtif (d a : GReg) (n : Num)
  | fcvtfi (d a : GReg) (n : Num)
  /-- Class 2 (R97–R123). -/
  | beq (a b : GReg) (off : BitVec 48)
  | bne (a b : GReg) (off : BitVec 48)
  | blt (a b : GReg) (off : BitVec 48)
  | bge (a b : GReg) (off : BitVec 48)
  | bltu (a b : GReg) (off : BitVec 48)
  | bgeu (a b : GReg) (off : BitVec 48)
  | jmp (off : BitVec 48)
  | jmpr (a : GReg)
  | leac (d : GReg) (off : BitVec 48)
  | loop (a : GReg) (len : BitVec 16)
  | loopi (len : BitVec 16) (count : BitVec 32)
  | calld (k : BitVec 32)
  | calldr (a : GReg)
  | ret
  | yield (vmask : BitVec 16) (deadline : BitVec 16) (gmask : BitVec 32)
  | endAct
  | trap (code : BitVec 48)
  | nop
  /-- Class 3 (R128–R159). -/
  | send (a b c : GReg) (n : BitVec 4) (ord : Bool)
  | sendnb (d a b c : GReg) (n : BitVec 4) (ord : Bool)
  | sendv (a : GReg) (b : VIdx) (c : GReg) (ord : Bool)
  | reply (b : GReg) (n : BitVec 4) (ord : Bool)
  | fork (a b : GReg) (j : JIdx) (off : BitVec 48)
  | join (j : JIdx)
  | jinit (a : GReg) (j : JIdx) (count : Bool)
  | launch (a b : GReg)
  | trigger
  | chbind (c : CIdx) (a b : GReg) (keep : Bool)
  | chinfo (d : GReg) (c : CIdx)
  | qpush (q : QIdx) (a : GReg)
  | qpop (d : GReg) (q : QIdx)
  | qpeek (d : GReg) (q : QIdx)
  | qtry (d : GReg) (q : QIdx) (b : GReg)
  | spop (d : GReg) (x : SIdx)
  | stry (d : GReg) (x : SIdx) (b : GReg)
  | getc (d : GReg) (n : BitVec 12)
  | setc (a : GReg) (n : BitVec 12)
  /-- Class 4 (R194–R198). -/
  | ld (d a b : GReg) (m : MemF) (imm : BitVec 48)
  | ldx (d a b : GReg) (m : MemF) (imm : BitVec 48)
  | st (a b c : GReg) (m : MemF) (imm : BitVec 48)
  | stx (a b c : GReg) (m : MemF) (imm : BitVec 48)
  | vld (d : VIdx) (a b : GReg) (m : MemF) (imm : BitVec 48)
  | vst (a b : GReg) (c : VIdx) (m : MemF) (imm : BitVec 48)
  | vldx (d : VIdx) (a : GReg) (b : VIdx) (m : MemF) (imm : BitVec 48)
  | vstx (a : GReg) (b c : VIdx) (m : MemF) (imm : BitVec 48)
  | tagrd (d a b : GReg) (m : MemF) (imm : BitVec 48)
  | tagwr (a b c : GReg) (m : MemF) (imm : BitVec 48)
  /-- Class 5 (R207–R223). -/
  | amo (d a b c : GReg) (m : MemF) (op : BitVec 8)
  | amof (d a b c : GReg) (m : MemF) (op : BitVec 8)
  | cas (d a b c : GReg) (m : MemF) (imm : BitVec 48)
  | vamo (d : VIdx) (a : GReg) (b c : VIdx) (m : MemF) (op : BitVec 8)
  | ams (d a b c : GReg) (m : MemF) (op : BitVec 8)
  | fence (sc : Scope)
  | binit (b : BIdx) (a : GReg)
  | barr (b : BIdx) (sc : Scope) (chk : Bool)
  | bsync (b : BIdx) (sc : Scope) (chk : Bool)
  | bwait (b : BIdx)
  | bdrop (b : BIdx)
  /-- Class 6 (R263–R281). -/
  | vadd (d a b : VIdx) (n : Num)
  | vsub (d a b : VIdx) (n : Num)
  | vmul (d a b : VIdx) (n : Num)
  | vfma (d a b c : VIdx) (n : Num)
  | vmin (d a b : VIdx) (n : Num)
  | vmax (d a b : VIdx) (n : Num)
  | vabs (d a : VIdx) (n : Num)
  | vneg (d a : VIdx) (n : Num)
  | vcmp (d a b : VIdx) (n : Num)
  | vsel (d a b c : VIdx) (n : Num)
  | vand (d a b : VIdx) (n : Num)
  | vor (d a b : VIdx) (n : Num)
  | vxor (d a b : VIdx) (n : Num)
  | vmov (d a : VIdx) (n : Num)
  | vtag (d : VIdx) (n : Num)
  | vshl (d a b : VIdx) (n : Num)
  | vshr (d a b : VIdx) (n : Num)
  | vsra (d a b : VIdx) (n : Num)
  | vcvt (d a : VIdx) (n : Num)
  | vexp2 (d a : VIdx) (n : Num)
  | vlog2 (d a : VIdx) (n : Num)
  | vrcp (d a : VIdx) (n : Num)
  | vrsq (d a : VIdx) (n : Num)
  | vsqrt (d a : VIdx) (n : Num)
  | vdiv (d a b : VIdx) (n : Num)
  | vscl (d a : VIdx) (b : GReg) (n : Num)
  | vred (d : GReg) (a : VIdx) (n : Num)
  | vbcast (d : VIdx) (a : GReg) (n : Num)
  | vext (d : GReg) (a : VIdx) (b : GReg) (n : Num)
  | vins (d : VIdx) (a b : GReg) (n : Num)
  | viota (d : VIdx) (n : Num)
  | vperm (d a b : VIdx) (n : Num)
  | vbmm8 (d a b : VIdx) (n : Num)
  | vpdep (d a b : VIdx) (n : Num)
  | vpext (d a b : VIdx) (n : Num)
  | vbperm (d a b : VIdx) (n : Num)
  /-- Class 7 (R282–R291). -/
  | swmap (a b : GReg) (n : Num)
  | swred (a b : GReg) (n : Num)
  | swcvt (a b : GReg) (n : Num)
  /-- Class 8 (R294–R318). -/
  | mma (d : TIdx) (a b : GReg) (n : Num)
  | mmab (d : TIdx) (a b : GReg) (n : Num)
  | mzero (d : TIdx)
  | mload (d : TIdx) (a : GReg) (n : Num)
  | mdrain (a : TIdx) (b : GReg) (n : Num)
  | mwait (a : TIdx)
  | mstat (d : GReg)
  /-- Class 9 (R331–R334). -/
  | cpy (a b : GReg)
  | cpys (d : SIdx) (a : GReg)
  | jwait (a : GReg)
  | jpoll (d a : GReg)
  | jcancel (d a : GReg)
  /-- Class 10 (R338–R356). -/
  | eqinit (a : GReg) (size : Bool) (lg : BitVec 2)
  | equnite (d a b : GReg)
  | eqfind (d a : GReg)
  | eqsame (d a b : GReg)
  | eqsize (d a : GReg)
  | eqsnap (d : GReg)
  | equndo (d : GReg)
  | eqcommit (d : GReg)
  | eqrelabel (a b : GReg) (dense : Bool) (red : BitVec 3)
  /-- Class 11 (R377–R380). -/
  | mcwait (d a : GReg)
  | flowend (a : GReg)
  | rankc (d a : GReg)
  /-- Class 12 (R395–R411). -/
  | mcall (n : BitVec 48)
  | mret
  | mext (a : GReg)
  | pent (a b : GReg)
  | pentr (d a : GReg)
  | keyslot (a b : GReg)
  | ctxsv (a : GReg)
  | ctxld (a : GReg)
  | scrub (a b : GReg)
  | codeinst (d a b : GReg)
  | codeevict (a : GReg)
  | quar (a : GReg)
  | vifrz (a : GReg)
  | stinv (a b : GReg)
  | atreqAttestation (a b : GReg)
  | atreqAllocation (a b : GReg)
  /-- Class 13 (R417–R420). -/
  | trmark (a : GReg) (mark : BitVec 48)
  | trctlFlush (a : GReg)
  | trctlPause (a : GReg)
  | trctlResume (a : GReg)
  | bkpt (code : BitVec 48)
  /-- A word of an unassigned opcode (R32, R50). -/
  | unassignedOpcode (w : InstrWord)
  /-- Event: the stalled send of thread t is granted (R141). -/
  | sendGrant (t : Nat)
  /-- Event (R157). -/
  | queueWaiterServed (blk : Nat) (q : QIdx)
  /-- Event: access seq of thread t is performed and answered (R178). -/
  | accessAnswer (t seq : Nat)
  /-- Event: the owner performs request seq of thread t (R200). -/
  | serviceOperation (t seq : Nat)
  /-- Event: owner o abandons its routine (R213). -/
  | routineAbandon (o : Nat)
  /-- Event (R223). -/
  | barrierBatch (cl : Nat) (b : BIdx)
  /-- Events of the retry lists (R216): for thread t's access seq, or as a packet from another chip; of owner o,
  or of the channel 65,536 + 32 · block + channel, or as a packet. -/
  | nak (t seq : Nat) (p : Option Packet)
  | call (o : Nat) (p : Option Packet)
  | ticketLapse (o : Nat)
  /-- Event (R263). -/
  | vectorGrant (blk : Nat)
  /-- Events of a sweep. -/
  | sweepStart (blk id : Nat)
  | sweepComplete (blk id : Nat)
  /-- Events of the matrix slice (R295–R314). -/
  | matrixJobStart (blk : Nat)
  | matrixOperandsConsumed (blk id : Nat)
  | matrixJobComplete (blk id : Nat)
  | gangBarrierFire (blk : Nat)
  | gangBreak (blk : Nat)
  | drainRow (blk id : Nat)
  /-- Events of the copy engine. -/
  | copyJobStart (blk id : Nat)
  | copyJobComplete (blk id : Nat)
  | cardOperandsConsumed (blk id : Nat)
  | streamElement (blk id : Nat)
  /-- Event (R133). -/
  | completionDelivery (blk eng : Nat)
  /-- Event (R344). -/
  | eqEntryWrites (blk : Nat)
  /-- Events: one step of thread t's oldest forest operation (R345, R346). -/
  | eqHop (t : Nat)
  | eqLink (t : Nat)
  /-- Events of a relabel job. -/
  | relabelJobStart (blk id : Nat)
  | relabelJobComplete (blk id : Nat)
  | doubleFault (code : Byte) (tval : Word)
  /-- Events: message i in flight is delivered (R130). -/
  | channelDelivery (i : Nat)
  | queueDelivery (i : Nat)
  | joinCellDelivery (i : Nat)
  /-- Event (R156). -/
  | joinContinuationRecruit (cl : Nat) (j : JIdx)
  | feWordDelivery (i : Nat)
  /-- Event (R138). -/
  | dispatch (blk : Nat)
  /-- Event (R152). -/
  | sendDisplacement (t : Nat)
  /-- Event: the oldest header of a launch inbox is served (R144). -/
  | launchHeader (cl : Nat)
  /-- Events of a launch (R146, R147, R132). -/
  | launchEnumeration (id : Word)
  | launchComplete (id : Word)
  | launchReportResend (id : Word)
  /-- Event (R165). -/
  | teamReplay (t : Nat)
  /-- Event: thread t's code miss asks its next source (R113). -/
  | codeMiss (t : Nat)
  | codeSourceTimeout (cl : Nat) (h : BitVec 32)
  /-- Event: an offer for handle h arrives and is installed or rejected (R109, R113). -/
  | codeInstall (cl : Nat) (h : BitVec 32) (offer : List Byte)
  | kilnInstallRetry (cl : Nat)
  | kilnInstallTimeout (cl : Nat)
  /-- Event (R176). -/
  | translationParkTimeout (t seq : Nat)
  /-- Events of the vector clock (R237). -/
  | releaseCountAdvance (die : Nat)
  | stampedWriteApply (i : Nat)
  /-- Events: a packet arrives (R363); port: on this one. -/
  | rd (p : Packet)
  | wr (p : Packet)
  | atm (p : Packet)
  | msg (p : Packet)
  | mcw (p : Packet)
  | rda (p : Packet)
  | ack (p : Packet)
  | tnak (p : Packet)
  | msga (p : Packet)
  | mcack (port : Nat) (p : Packet)
  | mcackTimeout (g : Nat)
  | seqnak (p : Packet)
  | seqnakTimer (src : BitVec 22) (fseq : BitVec 24)
  | requestResendTimer (fseq : BitVec 24) (dst : BitVec 22)
  | flowletTimeout (core : Nat) (rank : BitVec 22)
  /-- Events of a port (R364, R384). -/
  | flitReplay (port : Nat)
  | linkRetrain (port : Nat) (lane : Option (BitVec 3))
  | portDown (port : Nat) (why : Byte)
  | notice (port : Nat) (p : Packet)
  | cfreq (p : Packet)
  | cfdat (p : Packet)
  | cfnone (p : Packet)
  | mgw (p : Packet)
  | mgr (p : Packet)
  /-- Events: the register writes of the fabric manager (R382, R383). -/
  | keynextWrite (k : Digest)
  | rankMapBankFlip (slot : BitVec 6) (bank : Bool)
  | portEnWrite (port : Nat) (en : Bool)
  | fgeomWrite (w : Word)
  | pkaWrite (slot : BitVec 6) (w : Word)
  | thermalTrip (die : Nat) (temp : Byte)
  | thermalThrottle (die : Nat) (temp : Byte)
  | powerWindow (watts : BitVec 16)
  | inputVoltageFault (volts : Nat)
  | memoryTraining (chan : Nat)
  | clusterDrain (cl : Nat) (monitor : Digest)
  | partFailure (p : Part)
  | housekeepingRead (y : Word)
  | pwrlimWrite (w : Word)
  | viThaw (vi : BitVec 6)
  | portHold (port : Nat)
  | portRelease (port : Nat)
  | debugToken (token : List Byte)
  | debugStop (blks : List Nat)
  | debugResume (blks : List Nat)
  | traceIdleRecord (t : Nat)
  /-- Event (R165). -/
  | serviceOperationTimeout (t seq : Nat)
  | linkTrained (port : Nat)
  /-- Events of live service (R424). -/
  | serviceCoreFirmwareUpdate (k : Nat) (fw : Digest)
  | stationFirmwareUpdate (k : Nat) (fw : Digest)
  /-- Events: the monitor serves an MCALL (R395). -/
  | mcallInstallRoutine
  | mcallFormGroup
  | mcallSetCodePeers
  /-- Events of the issuing thread (R41, R392). -/
  | codeIntegrityFault
  /-- Events of the issuing thread (R120, R121). -/
  | deadlineOverrun
  | retireLimit
  /-- Events of the device (R423–R428). -/
  | moduleReset
  | resetCommand
  | debugChallenge
  /-- Event of the issuing thread (R36). -/
  | fallThroughPastInstance
  deriving DecidableEq, Repr

end Sys2Proof
end

