-- ==== Sys2Proof/WellFormed.lean ====
section
/-! DEFINITION. Which instructions are well formed: the field values that the encoding rules and each
entry allow (R45–R50 and the entries they point to). An instruction that is not well formed raises the
illegal-instruction fault. A reserved format code in a field that carries a format is well formed here:
it raises the format fault when it executes (R49). -/

namespace Sys2Proof

/-- Why an instruction is not well formed. -/
inductive IllForm where
  | fieldNumber      -- WIDX, WIDC field above 5 (R80)
  | bitCount         -- SEXT, ZEXT count of 0 or above 64 (R81)
  | bitField         -- BFX, BFI length or position (R86)
  | bodyLength       -- LOOP, LOOPI body of 0 slots (R50)
  | gMask            -- YIELD mask names g0 (R119)
  | wordCount        -- SEND, SENDNB, REPLY count (R50, R141)
  | statusRegister   -- QTRY, STRY with B = D (R50)
  | memField         -- a mem field that R47 or the entry refuses
  | operation        -- an operation code that the entry refuses
  | barrierScope     -- BARR, BSYNC scope (R222)
  | numField         -- a num field that R49 or the entry refuses
  | reduction        -- EQRELABEL RED above 4 (R353)
  deriving DecidableEq, Repr

namespace Num

/-- The code is reserved: it raises the format fault (R49). -/
def reserved (f : BitVec 5) : Bool := decide (23 ≤ f.toNat)

/-- The set F = FP32, BF16, FP16 (R266). -/
def isF (f : BitVec 5) : Bool := f == 8 || f == 9 || f == 10

/-- The set I of integer formats (R266). -/
def isI (f : BitVec 5) : Bool := decide (1 ≤ f.toNat ∧ f.toNat ≤ 7)

/-- The set A of formats 1 to 15 (R266). -/
def isA (f : BitVec 5) : Bool := decide (1 ≤ f.toNat ∧ f.toNat ≤ 15)

/-- The BFP formats, codes 16 to 22 (R48). -/
def isBfp (f : BitVec 5) : Bool := decide (16 ≤ f.toNat ∧ f.toNat ≤ 22)

/-- Lanes of a vector register in a format (R266). -/
def lanes (f : BitVec 5) : Nat :=
  if f == 7 then 32 else if f == 5 || f == 6 || f == 8 then 64
  else if f == 3 || f == 4 || f == 9 || f == 10 then 128 else if f == 15 then 512 else 256

end Num

namespace WellFormed

/-- Which num fields an entry uses, and which formats it accepts in FMT (R267, R304, R429). -/
def numUses (n : Num) (fmtOk rmOk ovfOk fmt2Ok opxOk : Bool) : Bool :=
  (fmtOk || Num.reserved n.fmt) && (rmOk || n.rm == .dyn) && (ovfOk || !n.ovf) &&
  (fmt2Ok || n.fmt2 == 0) && (opxOk || n.opx == 0)

/-- FMT must be NONE, and only OPX may be used (R267). -/
def numRaw (n : Num) (opxOk : Bool) : Bool :=
  n.fmt == 0 && n.rm == .dyn && !n.ovf && n.fmt2 == 0 && (opxOk || n.opx == 0)

/-- The parts rule of VCVT (R274). -/
def cvtParts (n : Num) : Bool :=
  let ns := Num.lanes n.fmt2
  let nd := Num.lanes n.fmt
  let q := max ns nd / min ns nd
  decide (q ≤ 4 ∧ n.opx.toNat < q)

/-- Format pairs of SWRED (R286): FMT is the result, FMT2 the source. -/
def swredPair (r src : BitVec 5) : Bool :=
  (r == 8 && decide (8 ≤ src.toNat ∧ src.toNat ≤ 15)) || (r == 7 && Num.isI src) ||
  (r == 5 && Num.isI src && src != 7)

/-- Format pairs of MMA (R306). -/
def mmaPair (x y : BitVec 5) : Bool :=
  (x == 9 && y == 9) || (x == 10 && y == 10) || ((x == 11 || x == 12) && (y == 11 || y == 12)) ||
  ((x == 1 || x == 2) && (y == 1 || y == 2))

/-- A pair rule where a reserved code in either field leaves the fault to the format check. -/
def pairOk (p : BitVec 5 → BitVec 5 → Bool) (ok : BitVec 5 → Bool) (ok2 : BitVec 5 → Bool) (x y : BitVec 5) : Bool :=
  if Num.reserved x then Num.reserved y || ok2 y else if Num.reserved y then ok x else p x y

/-- The rules of R47 that hold for every mem instruction. -/
def memCommon (m : MemF) : Bool :=
  (!m.ord || m.sp == .d) &&
  (m.sy == .plain || !(m.sp == .a || m.sp == .w || m.sp == .c || m.sp == .xa || m.sp == .xw))

def loadSync (m : MemF) : Bool := m.sy == .plain || m.sy == .wf || m.sy == .wfe
def storeSync (m : MemF) : Bool := m.sy == .plain || m.sy == .wef || m.sy == .sf || m.sy == .se

/-- A scalar load (R194): SX only below 8 bytes. -/
def loadOk (m : MemF) : Bool := memCommon m && loadSync m && m.sz != .l && !(m.sx && m.sz == .d)
def storeOk (m : MemF) : Bool := memCommon m && storeSync m && m.sz != .l && !m.sx
/-- A vector load or store of words or lines (R196). -/
def vecOk (m : MemF) (sync : Bool) : Bool := memCommon m && sync && (m.sz == .d || m.sz == .l) && !m.sx
/-- A gather or scatter (R197). -/
def gatherOk (m : MemF) (sync : Bool) : Bool := memCommon m && sync && m.sz != .l && !m.sx
def tagOk (m : MemF) : Bool := memCommon m && m.sy == .plain && (m.sz == .d || m.sz == .l) && !m.sx
/-- An atomic of one word (R205). -/
def atomOk (m : MemF) (sxOk : Bool) : Bool :=
  memCommon m && (m.sz == .w || m.sz == .d) && (!m.sx || (sxOk && m.sz == .w))

def opn (op : BitVec 8) : Nat := (op.extractLsb' 0 6).toNat

/-- The word count rule of SEND, SENDNB and REPLY (R50, R141). -/
def countOk (b : GReg) (n : BitVec 4) : Bool :=
  decide (n.toNat ≤ 8) && (if n == 0 then b == 0 else decide (b.toNat + n.toNat ≤ 32))

def require (b : Bool) (e : IllForm) : Option IllForm := if b then none else some e

/-- The first check that an instruction fails, if any. Events have no encoding and no check. -/
def check : Instr → Option IllForm
  | .widx _ _ n | .widc _ _ n => require (decide (n.toNat ≤ 5)) .fieldNumber
  | .sext _ _ n | .zext _ _ n => require (decide (1 ≤ n.toNat ∧ n.toNat ≤ 64)) .bitCount
  | .bfx _ _ p l | .bfi _ _ _ p l => require (decide (1 ≤ l.toNat ∧ p.toNat + l.toNat ≤ 64)) .bitField
  | .fadd _ _ _ n | .fsub _ _ _ n | .fmul _ _ _ n | .fma _ _ _ _ n | .fmin _ _ _ n | .fmax _ _ _ n =>
    require (n.fmt == 0 && n.fmt2 == 0 && !n.ovf && n.opx == 0) .numField
  | .fcvtif _ _ n | .fcvtfi _ _ n => require (numUses n (Num.isI n.fmt) true true false false) .numField
  | .loop _ l | .loopi l _ => require (l != 0) .bodyLength
  | .yield _ _ g => require (!g.getLsbD 0) .gMask
  | .send _ b _ n _ | .sendnb _ _ b _ n _ | .reply b n _ => require (countOk b n) .wordCount
  | .qtry d _ b | .stry d _ b => require (b != d || d == 0) .statusRegister
  | .ld _ _ _ m _ | .ldx _ _ _ m _ => require (loadOk m) .memField
  | .st _ _ _ m _ | .stx _ _ _ m _ => require (storeOk m) .memField
  | .vld _ _ _ m _ => require (vecOk m (loadSync m)) .memField
  | .vst _ _ _ m _ => require (vecOk m (storeSync m)) .memField
  | .vldx _ _ _ m _ => require (gatherOk m (loadSync m)) .memField
  | .vstx _ _ _ m _ => require (gatherOk m (storeSync m)) .memField
  | .tagrd _ _ _ m _ | .tagwr _ _ _ m _ => require (tagOk m) .memField
  | .amo _ _ _ _ m op =>
    if atomOk m true then require (decide (opn op ≤ 9)) .operation else some .memField
  | .amof _ _ _ _ m op =>
    if atomOk m false && m.sz == .w then require (decide (opn op ≤ 2)) .operation else some .memField
  | .cas _ _ _ _ m _ => require (atomOk m true) .memField
  | .vamo _ _ _ _ m op =>
    if atomOk m false then
      require (decide (opn op ≤ 9) || (m.sz == .w && decide (0x10 ≤ opn op ∧ opn op ≤ 0x12))) .operation
    else some .memField
  | .ams _ _ _ _ m _ => require (atomOk m false && m.sz == .d && m.sy == .plain) .memField
  | .barr _ sc _ | .bsync _ sc _ => require (sc != .core && sc != .block) .barrierScope
  | .vadd _ _ _ n | .vsub _ _ _ n | .vmul _ _ _ n | .vfma _ _ _ _ n =>
    require (numUses n (Num.isI n.fmt || Num.isF n.fmt) (Num.isF n.fmt) true false false) .numField
  | .vmin _ _ _ n | .vmax _ _ _ n =>
    require (numUses n (Num.isI n.fmt || Num.isF n.fmt) false false false false) .numField
  | .vabs _ _ n | .vneg _ _ n =>
    require (numUses n (Num.isI n.fmt || Num.isF n.fmt) false (Num.isI n.fmt) false false) .numField
  | .vcmp _ _ _ n => require (numUses n (Num.isI n.fmt || Num.isF n.fmt) false false false true) .numField
  | .vsel _ _ _ _ n => require (numUses n (Num.isA n.fmt) false false false false) .numField
  | .vand _ _ _ n | .vor _ _ _ n | .vxor _ _ _ n | .vmov _ _ n => require (numRaw n false) .numField
  | .vpdep _ _ _ n | .vpext _ _ _ n | .vbperm _ _ _ n => require (numRaw n false) .numField
  | .vbmm8 _ _ _ n => require (numRaw n true && n.opx != 3) .numField
  | .vtag _ n => require (numUses n (decide (n.fmt.toNat ≤ 15)) false false false false) .numField
  | .vshl _ _ _ n | .vshr _ _ _ n | .vsra _ _ _ n =>
    require (numUses n (Num.isI n.fmt) false false false false) .numField
  | .vcvt _ _ n =>
    require (pairOk (fun x y => Num.isA x && Num.isA y && cvtParts n) Num.isA Num.isA n.fmt n.fmt2) .numField
  | .vexp2 _ _ n | .vlog2 _ _ n | .vrcp _ _ n | .vrsq _ _ n | .vsqrt _ _ n | .vdiv _ _ _ n | .vscl _ _ _ n =>
    require (numUses n (Num.isF n.fmt) true true false false) .numField
  | .vred _ _ n =>
    require (numUses n (Num.isI n.fmt || Num.isF n.fmt) (Num.isF n.fmt) true false true && n.opx != 3) .numField
  | .vbcast _ _ n | .vext _ _ _ n | .vins _ _ _ n =>
    require (numUses n (Num.isA n.fmt) false false false false) .numField
  | .viota _ n => require (numUses n (Num.isI n.fmt || Num.isF n.fmt) false false false false) .numField
  | .vperm _ _ _ n => require (numUses n (Num.isA n.fmt && n.fmt != 15) false false false false) .numField
  | .swmap _ _ n =>
    let arith := n.opx == 0 || n.opx == 1
    require (numUses n (n.fmt == 5 || Num.isF n.fmt) (arith && Num.isF n.fmt) arith false true) .numField
  | .swred _ _ n =>
    require (pairOk swredPair (fun r => r == 8 || r == 5 || r == 7) Num.isA n.fmt n.fmt2
      && (n.fmt == 8 || n.rm == .dyn)) .numField
  | .swcvt _ _ n =>
    let ok := fun f => Num.isA f || Num.isBfp f
    require (pairOk (fun x y => ok x && ok y) ok ok n.fmt n.fmt2 && n.opx == 0) .numField
  | .mma _ _ _ n =>
    let ok := fun f : BitVec 5 => f == 1 || f == 2 || f == 9 || f == 10 || f == 11 || f == 12
    require (pairOk mmaPair ok ok n.fmt n.fmt2 && n.rm == .dyn &&
      !(n.ovf && (Num.isI n.fmt || Num.isI n.fmt2))) .numField
  | .mmab _ _ _ n =>
    require (pairOk (fun x y => Num.isBfp x && Num.isBfp y) Num.isBfp Num.isBfp n.fmt n.fmt2 && n.rm == .dyn) .numField
  | .mload _ _ n => require (numUses n (n.fmt == 5 || Num.isF n.fmt) false false false false) .numField
  | .mdrain _ _ n => require (numUses n (n.fmt == 5 || n.fmt == 8) false false false true && !n.opx.getLsbD 1) .numField
  | .eqrelabel _ _ _ r => require (decide (r.toNat ≤ 4)) .reduction
  | _ => none

end WellFormed

/-- Every field has a value its entry allows. -/
def Instr.wellFormed (i : Instr) : Bool := (WellFormed.check i).isNone

end Sys2Proof
end

