-- ==== Sys2Proof/Decode.lean ====
section
/-! DEFINITION. The decoder, total on any 96-bit word and rejecting by name (R43–R50), and the encoder
written from the same tables. Both stand below; neither is used to define the other. -/

namespace Sys2Proof

/-- Why a word is rejected: it raises the illegal-instruction fault (R42 step 3). -/
inductive DecodeError where
  | reservedBits     -- bits [49:48], or MOD17 of LI (R43)
  | unusedField      -- a field the opcode map marks unused is not zero (R44, R45)
  | register         -- a register number outside its class (R44)
  | immediate        -- an unused IMM48 bit is set (R45)
  | modField         -- a bit of an own MOD layout that its entry leaves zero (R45)
  | memField         -- a reserved SP, SY, SZ or SC code (R47)
  | numField         -- a reserved RM code (R49)
  | illFormed (e : IllForm)
  deriving DecidableEq, Repr

namespace Decode

/-- The fields of format G (R43). -/
structure Fields where
  d : BitVec 5
  a : BitVec 5
  b : BitVec 5
  c : BitVec 5
  mod : BitVec 16
  imm : BitVec 48
  word : InstrWord
  deriving DecidableEq, Repr

def opOf (w : InstrWord) : BitVec 10 := w.extractLsb' 86 10

def fieldsOf (w : InstrWord) : Fields :=
  { d := w.extractLsb' 81 5, a := w.extractLsb' 76 5, b := w.extractLsb' 71 5, c := w.extractLsb' 66 5,
    mod := w.extractLsb' 50 16, imm := w.extractLsb' 0 48, word := w }

/-- A word of format G with reserved bits zero (R43). -/
def encG (op : BitVec 10) (d a b c : BitVec 5) (mod : BitVec 16) (imm : BitVec 48) : InstrWord :=
  op ++ d ++ a ++ b ++ c ++ mod ++ 0#2 ++ imm

/-- A word of format W with MOD17 zero (R43). -/
def encW (op : BitVec 10) (d : BitVec 5) (imm : Word) : InstrWord := op ++ d ++ 0#17 ++ imm

def low (n : Nat) {w : Nat} (x : BitVec w) : BitVec n := x.setWidth n
def fits {w : Nat} (x : BitVec w) (n : Nat) : Bool := decide (x.toNat < 2 ^ n)

def spaceOf (x : BitVec 4) : Option Space :=
  if x == 0 then some .s else if x == 1 then some .a else if x == 2 then some .w else if x == 3 then some .c
  else if x == 4 then some .xs else if x == 5 then some .xa else if x == 6 then some .xw
  else if x == 7 then some .d else if x == 15 then some .y else none
def spaceCode : Space → BitVec 4
  | .s => 0 | .a => 1 | .w => 2 | .c => 3 | .xs => 4 | .xa => 5 | .xw => 6 | .d => 7 | .y => 15

def syncOf (x : BitVec 3) : Option Sync :=
  if x == 0 then some .plain else if x == 1 then some .wf else if x == 2 then some .wfe
  else if x == 3 then some .wef else if x == 4 then some .sf else if x == 5 then some .se else none
def syncCode : Sync → BitVec 3
  | .plain => 0 | .wf => 1 | .wfe => 2 | .wef => 3 | .sf => 4 | .se => 5

def sizeOf (x : BitVec 3) : Option Size :=
  if x == 0 then some .b else if x == 1 then some .h else if x == 2 then some .w else if x == 3 then some .d
  else if x == 5 then some .l else none
def sizeCode : Size → BitVec 3
  | .b => 0 | .h => 1 | .w => 2 | .d => 3 | .l => 5

def scopeOf (x : BitVec 3) : Option Scope :=
  if x == 0 then some .core else if x == 1 then some .block else if x == 2 then some .cluster
  else if x == 3 then some .die else if x == 4 then some .chip else if x == 5 then some .job else none
def scopeCode : Scope → BitVec 3
  | .core => 0 | .block => 1 | .cluster => 2 | .die => 3 | .chip => 4 | .job => 5

def rmOf (x : BitVec 3) : Option Rm :=
  if x == 0 then some .dyn else if x == 1 then some .rne else if x == 2 then some .rtz
  else if x == 3 then some .rdn else if x == 4 then some .rup else if x == 5 then some .rna else none
def rmCode : Rm → BitVec 3
  | .dyn => 0 | .rne => 1 | .rtz => 2 | .rdn => 3 | .rup => 4 | .rna => 5

/-- The mem layout (R46); bit 50 must be zero. -/
def memOf (m : BitVec 16) : Option MemF :=
  match spaceOf (m.extractLsb' 12 4), syncOf (m.extractLsb' 9 3), sizeOf (m.extractLsb' 6 3), scopeOf (m.extractLsb' 1 3) with
  | some sp, some sy, some sz, some sc =>
    if m.getLsbD 0 then none else some ⟨sp, sy, sz, m.getLsbD 5, m.getLsbD 4, sc⟩
  | _, _, _, _ => none
def memMod (m : MemF) : BitVec 16 :=
  spaceCode m.sp ++ syncCode m.sy ++ sizeCode m.sz ++ BitVec.ofBool m.sx ++ BitVec.ofBool m.ord ++ scopeCode m.sc ++ 0#1

/-- The num layout (R48). -/
def numOf (m : BitVec 16) : Option Num :=
  match rmOf (m.extractLsb' 8 3) with
  | some rm => some ⟨m.extractLsb' 11 5, rm, m.getLsbD 7, m.extractLsb' 2 5, m.extractLsb' 0 2⟩
  | none => none
def numMod (n : Num) : BitVec 16 := n.fmt ++ rmCode n.rm ++ BitVec.ofBool n.ovf ++ n.fmt2 ++ n.opx

/-- FENCE's MOD, and with a CHK bit that of BARR and BSYNC (R47, R222). -/
def scMod (sc : Scope) (chk : Bool) : BitVec 16 := 0#12 ++ scopeCode sc ++ BitVec.ofBool chk

/-- The ORD bit of the sends, instruction bit 54 (R141). -/
def ordBit (m : BitVec 16) : Bool := m.getLsbD 4
def ordMod (ord : Bool) : BitVec 16 := 0#11 ++ BitVec.ofBool ord ++ 0#4

/-- IMM48 of BFX and BFI: position [5:0], length [14:8] (R86). -/
def bitField (pos : BitVec 6) (len : BitVec 7) : BitVec 48 := 0#33 ++ len ++ 0#2 ++ pos

/-! One reader per shape of row of the opcode map (R50). -/

def liF (f : Fields) : Except DecodeError Instr :=
  if f.word.extractLsb' 64 17 == 0 then .ok (.li f.d (f.word.extractLsb' 0 64)) else .error .reservedBits

def ggg (mk : BitVec 5 → BitVec 5 → BitVec 5 → Instr) (f : Fields) : Except DecodeError Instr :=
  if !(f.c == 0 && f.mod == 0 && f.imm == 0) then .error .unusedField else
  .ok (mk f.d f.a f.b)

def gg (mk : BitVec 5 → BitVec 5 → Instr) (f : Fields) : Except DecodeError Instr :=
  if !(f.b == 0 && f.c == 0 && f.mod == 0 && f.imm == 0) then .error .unusedField else
  .ok (mk f.d f.a)

def gggg (mk : BitVec 5 → BitVec 5 → BitVec 5 → BitVec 5 → Instr) (f : Fields) : Except DecodeError Instr :=
  if !(f.mod == 0 && f.imm == 0) then .error .unusedField else
  .ok (mk f.d f.a f.b f.c)

def ggImm (mk : BitVec 5 → BitVec 5 → BitVec 48 → Instr) (f : Fields) : Except DecodeError Instr :=
  if !(f.b == 0 && f.c == 0 && f.mod == 0) then .error .unusedField else
  .ok (mk f.d f.a f.imm)

def ggSh (mk : BitVec 5 → BitVec 5 → BitVec 6 → Instr) (f : Fields) : Except DecodeError Instr :=
  if !(f.b == 0 && f.c == 0 && f.mod == 0) then .error .unusedField else
  if !(fits f.imm 6) then .error .immediate else
  .ok (mk f.d f.a (low 6 f.imm))

def ggFld (mk : BitVec 5 → BitVec 5 → BitVec 3 → Instr) (f : Fields) : Except DecodeError Instr :=
  if !(f.b == 0 && f.c == 0 && f.mod == 0) then .error .unusedField else
  if !(fits f.imm 3) then .error .immediate else
  .ok (mk f.d f.a (low 3 f.imm))

def ggCnt (mk : BitVec 5 → BitVec 5 → BitVec 7 → Instr) (f : Fields) : Except DecodeError Instr :=
  if !(f.b == 0 && f.c == 0 && f.mod == 0) then .error .unusedField else
  if !(fits f.imm 7) then .error .immediate else
  .ok (mk f.d f.a (low 7 f.imm))

def leaF (mk : BitVec 5 → BitVec 5 → BitVec 5 → BitVec 3 → BitVec 48 → Instr) (f : Fields) : Except DecodeError Instr :=
  if !(f.c == 0) then .error .unusedField else
  if !(fits f.mod 3) then .error .modField else
  .ok (mk f.d f.a f.b (low 3 f.mod) f.imm)

def bpermF (mk : BitVec 5 → BitVec 5 → BitVec 4 → Instr) (f : Fields) : Except DecodeError Instr :=
  if !(f.b == 0 && f.mod == 0 && f.imm == 0) then .error .unusedField else
  if !(fits f.c 4) then .error .register else
  .ok (mk f.d f.a (low 4 f.c))

def bfxF (mk : BitVec 5 → BitVec 5 → BitVec 6 → BitVec 7 → Instr) (f : Fields) : Except DecodeError Instr :=
  if !(f.b == 0 && f.c == 0 && f.mod == 0) then .error .unusedField else
  if !(f.imm.extractLsb' 6 2 == 0 && fits f.imm 15) then .error .immediate else
  .ok (mk f.d f.a (low 6 f.imm) (f.imm.extractLsb' 8 7))

def bfiF (mk : BitVec 5 → BitVec 5 → BitVec 5 → BitVec 6 → BitVec 7 → Instr) (f : Fields) : Except DecodeError Instr :=
  if !(f.c == 0 && f.mod == 0) then .error .unusedField else
  if !(f.imm.extractLsb' 6 2 == 0 && fits f.imm 15) then .error .immediate else
  .ok (mk f.d f.a f.b (low 6 f.imm) (f.imm.extractLsb' 8 7))

def gggNum (mk : BitVec 5 → BitVec 5 → BitVec 5 → Num → Instr) (f : Fields) : Except DecodeError Instr :=
  if !(f.c == 0 && f.imm == 0) then .error .unusedField else
  match numOf f.mod with
  | none => .error .numField
  | some n =>
  .ok (mk f.d f.a f.b n)

def ggggNum (mk : BitVec 5 → BitVec 5 → BitVec 5 → BitVec 5 → Num → Instr) (f : Fields) : Except DecodeError Instr :=
  if !(f.imm == 0) then .error .unusedField else
  match numOf f.mod with
  | none => .error .numField
  | some n =>
  .ok (mk f.d f.a f.b f.c n)

def ggNum (mk : BitVec 5 → BitVec 5 → Num → Instr) (f : Fields) : Except DecodeError Instr :=
  if !(f.b == 0 && f.c == 0 && f.imm == 0) then .error .unusedField else
  match numOf f.mod with
  | none => .error .numField
  | some n =>
  .ok (mk f.d f.a n)

def abImm (mk : BitVec 5 → BitVec 5 → BitVec 48 → Instr) (f : Fields) : Except DecodeError Instr :=
  if !(f.d == 0 && f.c == 0 && f.mod == 0) then .error .unusedField else
  .ok (mk f.a f.b f.imm)

def offF (mk : BitVec 48 → Instr) (f : Fields) : Except DecodeError Instr :=
  if !(f.d == 0 && f.a == 0 && f.b == 0 && f.c == 0 && f.mod == 0) then .error .unusedField else
  .ok (mk f.imm)

def aF (mk : BitVec 5 → Instr) (f : Fields) : Except DecodeError Instr :=
  if !(f.d == 0 && f.b == 0 && f.c == 0 && f.mod == 0 && f.imm == 0) then .error .unusedField else
  .ok (mk f.a)

def dF (mk : BitVec 5 → Instr) (f : Fields) : Except DecodeError Instr :=
  if !(f.a == 0 && f.b == 0 && f.c == 0 && f.mod == 0 && f.imm == 0) then .error .unusedField else
  .ok (mk f.d)

def abF (mk : BitVec 5 → BitVec 5 → Instr) (f : Fields) : Except DecodeError Instr :=
  if !(f.d == 0 && f.c == 0 && f.mod == 0 && f.imm == 0) then .error .unusedField else
  .ok (mk f.a f.b)

def none0 (mk : Instr) (f : Fields) : Except DecodeError Instr :=
  if !(f.d == 0 && f.a == 0 && f.b == 0 && f.c == 0 && f.mod == 0 && f.imm == 0) then .error .unusedField else
  .ok mk

def loopF (mk : BitVec 5 → BitVec 16 → Instr) (f : Fields) : Except DecodeError Instr :=
  if !(f.d == 0 && f.b == 0 && f.c == 0 && f.imm == 0) then .error .unusedField else
  .ok (mk f.a f.mod)

def loopiF (mk : BitVec 16 → BitVec 32 → Instr) (f : Fields) : Except DecodeError Instr :=
  if !(f.d == 0 && f.a == 0 && f.b == 0 && f.c == 0) then .error .unusedField else
  if !(fits f.imm 32) then .error .immediate else
  .ok (mk f.mod (low 32 f.imm))

def calldF (mk : BitVec 32 → Instr) (f : Fields) : Except DecodeError Instr :=
  if !(f.d == 0 && f.a == 0 && f.b == 0 && f.c == 0 && f.mod == 0) then .error .unusedField else
  if !(fits f.imm 32) then .error .immediate else
  .ok (mk (low 32 f.imm))

def yieldF (mk : BitVec 16 → BitVec 16 → BitVec 32 → Instr) (f : Fields) : Except DecodeError Instr :=
  if !(f.d == 0 && f.a == 0 && f.b == 0 && f.c == 0) then .error .unusedField else
  .ok (mk f.mod (low 16 f.imm) (f.imm.extractLsb' 16 32))

def dOff (mk : BitVec 5 → BitVec 48 → Instr) (f : Fields) : Except DecodeError Instr :=
  if !(f.a == 0 && f.b == 0 && f.c == 0 && f.mod == 0) then .error .unusedField else
  .ok (mk f.d f.imm)

def sendF (mk : BitVec 5 → BitVec 5 → BitVec 5 → BitVec 4 → Bool → Instr) (f : Fields) : Except DecodeError Instr :=
  if !(f.d == 0) then .error .unusedField else
  if !(f.mod == ordMod (ordBit f.mod)) then .error .modField else
  if !(fits f.imm 4) then .error .immediate else
  .ok (mk f.a f.b f.c (low 4 f.imm) (ordBit f.mod))

def sendnbF (mk : BitVec 5 → BitVec 5 → BitVec 5 → BitVec 5 → BitVec 4 → Bool → Instr) (f : Fields) : Except DecodeError Instr :=
  if !(f.mod == ordMod (ordBit f.mod)) then .error .modField else
  if !(fits f.imm 4) then .error .immediate else
  .ok (mk f.d f.a f.b f.c (low 4 f.imm) (ordBit f.mod))

def sendvF (mk : BitVec 5 → BitVec 4 → BitVec 5 → Bool → Instr) (f : Fields) : Except DecodeError Instr :=
  if !(f.d == 0 && f.imm == 0) then .error .unusedField else
  if !(f.mod == ordMod (ordBit f.mod)) then .error .modField else
  if !(fits f.b 4) then .error .register else
  .ok (mk f.a (low 4 f.b) f.c (ordBit f.mod))

def replyF (mk : BitVec 5 → BitVec 4 → Bool → Instr) (f : Fields) : Except DecodeError Instr :=
  if !(f.d == 0 && f.a == 0 && f.c == 0) then .error .unusedField else
  if !(f.mod == ordMod (ordBit f.mod)) then .error .modField else
  if !(fits f.imm 4) then .error .immediate else
  .ok (mk f.b (low 4 f.imm) (ordBit f.mod))

def forkF (mk : BitVec 5 → BitVec 5 → BitVec 6 → BitVec 48 → Instr) (f : Fields) : Except DecodeError Instr :=
  if !(f.d == 0 && f.c == 0) then .error .unusedField else
  if !(fits f.mod 6) then .error .modField else
  .ok (mk f.a f.b (low 6 f.mod) f.imm)

def joinF (mk : BitVec 6 → Instr) (f : Fields) : Except DecodeError Instr :=
  if !(f.d == 0 && f.a == 0 && f.b == 0 && f.c == 0 && f.imm == 0) then .error .unusedField else
  if !(fits f.mod 6) then .error .modField else
  .ok (mk (low 6 f.mod))

def jinitF (mk : BitVec 5 → BitVec 6 → Bool → Instr) (f : Fields) : Except DecodeError Instr :=
  if !(f.d == 0 && f.b == 0 && f.c == 0 && f.imm == 0) then .error .unusedField else
  if !(fits f.mod 7) then .error .modField else
  .ok (mk f.a (low 6 f.mod) (f.mod.getLsbD 6))

def chbindF (mk : BitVec 5 → BitVec 5 → BitVec 5 → Bool → Instr) (f : Fields) : Except DecodeError Instr :=
  if !(f.c == 0 && f.imm == 0) then .error .unusedField else
  if !(fits f.mod 1) then .error .modField else
  .ok (mk f.d f.a f.b (f.mod.getLsbD 0))

def qpushF (mk : BitVec 4 → BitVec 5 → Instr) (f : Fields) : Except DecodeError Instr :=
  if !(f.b == 0 && f.c == 0 && f.mod == 0 && f.imm == 0) then .error .unusedField else
  if !(fits f.d 4) then .error .register else
  .ok (mk (low 4 f.d) f.a)

def qpopF (mk : BitVec 5 → BitVec 4 → Instr) (f : Fields) : Except DecodeError Instr :=
  if !(f.b == 0 && f.c == 0 && f.mod == 0 && f.imm == 0) then .error .unusedField else
  if !(fits f.a 4) then .error .register else
  .ok (mk f.d (low 4 f.a))

def qtryF (mk : BitVec 5 → BitVec 4 → BitVec 5 → Instr) (f : Fields) : Except DecodeError Instr :=
  if !(f.c == 0 && f.mod == 0 && f.imm == 0) then .error .unusedField else
  if !(fits f.a 4) then .error .register else
  .ok (mk f.d (low 4 f.a) f.b)

def spopF (mk : BitVec 5 → BitVec 2 → Instr) (f : Fields) : Except DecodeError Instr :=
  if !(f.b == 0 && f.c == 0 && f.mod == 0 && f.imm == 0) then .error .unusedField else
  if !(fits f.a 2) then .error .register else
  .ok (mk f.d (low 2 f.a))

def stryF (mk : BitVec 5 → BitVec 2 → BitVec 5 → Instr) (f : Fields) : Except DecodeError Instr :=
  if !(f.c == 0 && f.mod == 0 && f.imm == 0) then .error .unusedField else
  if !(fits f.a 2) then .error .register else
  .ok (mk f.d (low 2 f.a) f.b)

def getcF (mk : BitVec 5 → BitVec 12 → Instr) (f : Fields) : Except DecodeError Instr :=
  if !(f.a == 0 && f.b == 0 && f.c == 0 && f.mod == 0) then .error .unusedField else
  if !(fits f.imm 12) then .error .immediate else
  .ok (mk f.d (low 12 f.imm))

def setcF (mk : BitVec 5 → BitVec 12 → Instr) (f : Fields) : Except DecodeError Instr :=
  if !(f.d == 0 && f.b == 0 && f.c == 0 && f.mod == 0) then .error .unusedField else
  if !(fits f.imm 12) then .error .immediate else
  .ok (mk f.a (low 12 f.imm))

def ggMem (mk : BitVec 5 → BitVec 5 → BitVec 5 → MemF → BitVec 48 → Instr) (f : Fields) : Except DecodeError Instr :=
  if !(f.c == 0) then .error .unusedField else
  match memOf f.mod with
  | none => .error .memField
  | some m =>
  .ok (mk f.d f.a f.b m f.imm)

def abcMem (mk : BitVec 5 → BitVec 5 → BitVec 5 → MemF → BitVec 48 → Instr) (f : Fields) : Except DecodeError Instr :=
  if !(f.d == 0) then .error .unusedField else
  match memOf f.mod with
  | none => .error .memField
  | some m =>
  .ok (mk f.a f.b f.c m f.imm)

def vldF (mk : BitVec 4 → BitVec 5 → BitVec 5 → MemF → BitVec 48 → Instr) (f : Fields) : Except DecodeError Instr :=
  if !(f.c == 0) then .error .unusedField else
  match memOf f.mod with
  | none => .error .memField
  | some m =>
  if !(fits f.d 4) then .error .register else
  .ok (mk (low 4 f.d) f.a f.b m f.imm)

def vstF (mk : BitVec 5 → BitVec 5 → BitVec 4 → MemF → BitVec 48 → Instr) (f : Fields) : Except DecodeError Instr :=
  if !(f.d == 0) then .error .unusedField else
  match memOf f.mod with
  | none => .error .memField
  | some m =>
  if !(fits f.c 4) then .error .register else
  .ok (mk f.a f.b (low 4 f.c) m f.imm)

def vldxF (mk : BitVec 4 → BitVec 5 → BitVec 4 → MemF → BitVec 48 → Instr) (f : Fields) : Except DecodeError Instr :=
  if !(f.c == 0) then .error .unusedField else
  match memOf f.mod with
  | none => .error .memField
  | some m =>
  if !(fits f.d 4 && fits f.b 4) then .error .register else
  .ok (mk (low 4 f.d) f.a (low 4 f.b) m f.imm)

def vstxF (mk : BitVec 5 → BitVec 4 → BitVec 4 → MemF → BitVec 48 → Instr) (f : Fields) : Except DecodeError Instr :=
  if !(f.d == 0) then .error .unusedField else
  match memOf f.mod with
  | none => .error .memField
  | some m =>
  if !(fits f.b 4 && fits f.c 4) then .error .register else
  .ok (mk f.a (low 4 f.b) (low 4 f.c) m f.imm)

def amoF (mk : BitVec 5 → BitVec 5 → BitVec 5 → BitVec 5 → MemF → BitVec 8 → Instr) (f : Fields) : Except DecodeError Instr :=
  match memOf f.mod with
  | none => .error .memField
  | some m =>
  if !(fits f.imm 8) then .error .immediate else
  .ok (mk f.d f.a f.b f.c m (low 8 f.imm))

def casF (mk : BitVec 5 → BitVec 5 → BitVec 5 → BitVec 5 → MemF → BitVec 48 → Instr) (f : Fields) : Except DecodeError Instr :=
  match memOf f.mod with
  | none => .error .memField
  | some m =>
  .ok (mk f.d f.a f.b f.c m f.imm)

def vamoF (mk : BitVec 4 → BitVec 5 → BitVec 4 → BitVec 4 → MemF → BitVec 8 → Instr) (f : Fields) : Except DecodeError Instr :=
  match memOf f.mod with
  | none => .error .memField
  | some m =>
  if !(fits f.d 4 && fits f.b 4 && fits f.c 4) then .error .register else
  if !(fits f.imm 8) then .error .immediate else
  .ok (mk (low 4 f.d) f.a (low 4 f.b) (low 4 f.c) m (low 8 f.imm))

def fenceF (mk : Scope → Instr) (f : Fields) : Except DecodeError Instr :=
  if !(f.d == 0 && f.a == 0 && f.b == 0 && f.c == 0 && f.imm == 0) then .error .unusedField else
  match scopeOf (f.mod.extractLsb' 1 3) with
  | none => .error .memField
  | some sc =>
  if !(f.mod == scMod sc false) then .error .modField else
  .ok (mk sc)

def barrF (mk : BitVec 4 → Scope → Bool → Instr) (f : Fields) : Except DecodeError Instr :=
  if !(f.d == 0 && f.b == 0 && f.c == 0 && f.imm == 0) then .error .unusedField else
  match scopeOf (f.mod.extractLsb' 1 3) with
  | none => .error .memField
  | some sc =>
  if !(fits f.a 4) then .error .register else
  if !(f.mod == scMod sc (f.mod.getLsbD 0)) then .error .modField else
  .ok (mk (low 4 f.a) sc (f.mod.getLsbD 0))

def binitF (mk : BitVec 4 → BitVec 5 → Instr) (f : Fields) : Except DecodeError Instr :=
  if !(f.d == 0 && f.c == 0 && f.mod == 0 && f.imm == 0) then .error .unusedField else
  if !(fits f.a 4) then .error .register else
  .ok (mk (low 4 f.a) f.b)

def bF (mk : BitVec 4 → Instr) (f : Fields) : Except DecodeError Instr :=
  if !(f.d == 0 && f.b == 0 && f.c == 0 && f.mod == 0 && f.imm == 0) then .error .unusedField else
  if !(fits f.a 4) then .error .register else
  .ok (mk (low 4 f.a))

def tF (mk : BitVec 4 → Instr) (f : Fields) : Except DecodeError Instr :=
  if !(f.a == 0 && f.b == 0 && f.c == 0 && f.mod == 0 && f.imm == 0) then .error .unusedField else
  if !(fits f.d 4) then .error .register else
  .ok (mk (low 4 f.d))

def vvvNum (mk : BitVec 4 → BitVec 4 → BitVec 4 → Num → Instr) (f : Fields) : Except DecodeError Instr :=
  if !(f.c == 0 && f.imm == 0) then .error .unusedField else
  match numOf f.mod with
  | none => .error .numField
  | some n =>
  if !(fits f.d 4 && fits f.a 4 && fits f.b 4) then .error .register else
  .ok (mk (low 4 f.d) (low 4 f.a) (low 4 f.b) n)

def vvvvNum (mk : BitVec 4 → BitVec 4 → BitVec 4 → BitVec 4 → Num → Instr) (f : Fields) : Except DecodeError Instr :=
  if !(f.imm == 0) then .error .unusedField else
  match numOf f.mod with
  | none => .error .numField
  | some n =>
  if !(fits f.d 4 && fits f.a 4 && fits f.b 4 && fits f.c 4) then .error .register else
  .ok (mk (low 4 f.d) (low 4 f.a) (low 4 f.b) (low 4 f.c) n)

def vvNum (mk : BitVec 4 → BitVec 4 → Num → Instr) (f : Fields) : Except DecodeError Instr :=
  if !(f.b == 0 && f.c == 0 && f.imm == 0) then .error .unusedField else
  match numOf f.mod with
  | none => .error .numField
  | some n =>
  if !(fits f.d 4 && fits f.a 4) then .error .register else
  .ok (mk (low 4 f.d) (low 4 f.a) n)

def vNum (mk : BitVec 4 → Num → Instr) (f : Fields) : Except DecodeError Instr :=
  if !(f.a == 0 && f.b == 0 && f.c == 0 && f.imm == 0) then .error .unusedField else
  match numOf f.mod with
  | none => .error .numField
  | some n =>
  if !(fits f.d 4) then .error .register else
  .ok (mk (low 4 f.d) n)

def gvNum (mk : BitVec 5 → BitVec 4 → Num → Instr) (f : Fields) : Except DecodeError Instr :=
  if !(f.b == 0 && f.c == 0 && f.imm == 0) then .error .unusedField else
  match numOf f.mod with
  | none => .error .numField
  | some n =>
  if !(fits f.a 4) then .error .register else
  .ok (mk f.d (low 4 f.a) n)

def vgNum (mk : BitVec 4 → BitVec 5 → Num → Instr) (f : Fields) : Except DecodeError Instr :=
  if !(f.b == 0 && f.c == 0 && f.imm == 0) then .error .unusedField else
  match numOf f.mod with
  | none => .error .numField
  | some n =>
  if !(fits f.d 4) then .error .register else
  .ok (mk (low 4 f.d) f.a n)

def gvgNum (mk : BitVec 5 → BitVec 4 → BitVec 5 → Num → Instr) (f : Fields) : Except DecodeError Instr :=
  if !(f.c == 0 && f.imm == 0) then .error .unusedField else
  match numOf f.mod with
  | none => .error .numField
  | some n =>
  if !(fits f.a 4) then .error .register else
  .ok (mk f.d (low 4 f.a) f.b n)

def vggNum (mk : BitVec 4 → BitVec 5 → BitVec 5 → Num → Instr) (f : Fields) : Except DecodeError Instr :=
  if !(f.c == 0 && f.imm == 0) then .error .unusedField else
  match numOf f.mod with
  | none => .error .numField
  | some n =>
  if !(fits f.d 4) then .error .register else
  .ok (mk (low 4 f.d) f.a f.b n)

def vvgNum (mk : BitVec 4 → BitVec 4 → BitVec 5 → Num → Instr) (f : Fields) : Except DecodeError Instr :=
  if !(f.c == 0 && f.imm == 0) then .error .unusedField else
  match numOf f.mod with
  | none => .error .numField
  | some n =>
  if !(fits f.d 4 && fits f.a 4) then .error .register else
  .ok (mk (low 4 f.d) (low 4 f.a) f.b n)

def abNum (mk : BitVec 5 → BitVec 5 → Num → Instr) (f : Fields) : Except DecodeError Instr :=
  if !(f.d == 0 && f.c == 0 && f.imm == 0) then .error .unusedField else
  match numOf f.mod with
  | none => .error .numField
  | some n =>
  .ok (mk f.a f.b n)

def tgNum (mk : BitVec 4 → BitVec 5 → Num → Instr) (f : Fields) : Except DecodeError Instr :=
  if !(f.d == 0 && f.c == 0 && f.imm == 0) then .error .unusedField else
  match numOf f.mod with
  | none => .error .numField
  | some n =>
  if !(fits f.a 4) then .error .register else
  .ok (mk (low 4 f.a) f.b n)

def cpysF (mk : BitVec 2 → BitVec 5 → Instr) (f : Fields) : Except DecodeError Instr :=
  if !(f.b == 0 && f.c == 0 && f.mod == 0 && f.imm == 0) then .error .unusedField else
  if !(fits f.d 2) then .error .register else
  .ok (mk (low 2 f.d) f.a)

def eqinitF (mk : BitVec 5 → Bool → BitVec 2 → Instr) (f : Fields) : Except DecodeError Instr :=
  if !(f.d == 0 && f.b == 0 && f.c == 0 && f.imm == 0) then .error .unusedField else
  if !(fits f.mod 3) then .error .modField else
  .ok (mk f.a (f.mod.getLsbD 0) (f.mod.extractLsb' 1 2))

def eqrelF (mk : BitVec 5 → BitVec 5 → Bool → BitVec 3 → Instr) (f : Fields) : Except DecodeError Instr :=
  if !(f.d == 0 && f.c == 0 && f.imm == 0) then .error .unusedField else
  if !(fits f.mod 4) then .error .modField else
  .ok (mk f.a f.b (f.mod.getLsbD 0) (f.mod.extractLsb' 1 3))

def trmarkF (mk : BitVec 5 → BitVec 48 → Instr) (f : Fields) : Except DecodeError Instr :=
  if !(f.d == 0 && f.b == 0 && f.c == 0 && f.mod == 0) then .error .unusedField else
  .ok (mk f.a f.imm)

/-! The opcode map, class by class (R50). -/

def rows0 : List (Nat × (Fields → Except DecodeError Instr)) :=
  [(0x001, ggg .add),
   (0x002, ggg .sub),
   (0x003, ggImm .addi),
   (0x004, ggg .mul),
   (0x005, ggg .mulh),
   (0x006, ggg .mulhu),
   (0x007, ggg .div),
   (0x008, ggg .divu),
   (0x009, ggg .rem),
   (0x00A, ggg .remu),
   (0x00B, ggg .and),
   (0x00C, ggg .or),
   (0x00D, ggg .xor),
   (0x00E, ggg .andn),
   (0x00F, ggImm .andi),
   (0x010, ggImm .ori),
   (0x011, ggImm .xori),
   (0x012, ggg .shl),
   (0x013, ggg .shr),
   (0x014, ggg .sra),
   (0x015, ggSh .shli),
   (0x016, ggSh .shri),
   (0x017, ggSh .srai),
   (0x018, ggg .rol),
   (0x019, ggg .ror),
   (0x01A, ggg .min),
   (0x01B, ggg .max),
   (0x01C, ggg .minu),
   (0x01D, ggg .maxu),
   (0x01E, ggg .seq),
   (0x01F, ggg .sne),
   (0x020, ggg .slt),
   (0x021, ggg .sltu),
   (0x022, ggImm .slti),
   (0x023, gggg .sel),
   (0x024, leaF .lea),
   (0x025, ggFld .widx),
   (0x026, ggFld .widc),
   (0x027, gg .clz),
   (0x028, gg .ctz),
   (0x029, gg .popc),
   (0x02A, gg .bswap),
   (0x02B, ggCnt .sext),
   (0x02C, ggCnt .zext),
   (0x030, liF)]

def rows1 : List (Nat × (Fields → Except DecodeError Instr)) :=
  [(0x040, ggg .bmm8),
   (0x041, ggg .bmm8x),
   (0x042, ggg .bmm8t),
   (0x043, ggg .pdep),
   (0x044, ggg .pext),
   (0x045, bpermF .bperm),
   (0x046, bfxF .bfx),
   (0x047, bfiF .bfi),
   (0x048, gg .brev),
   (0x050, gggNum .fadd),
   (0x051, gggNum .fsub),
   (0x052, gggNum .fmul),
   (0x053, ggggNum .fma),
   (0x054, gggNum .fmin),
   (0x055, gggNum .fmax),
   (0x056, ggg .feq),
   (0x057, ggg .flt),
   (0x058, ggg .fle),
   (0x059, ggNum .fcvtif),
   (0x05A, ggNum .fcvtfi)]

def rows2 : List (Nat × (Fields → Except DecodeError Instr)) :=
  [(0x080, abImm .beq),
   (0x081, abImm .bne),
   (0x082, abImm .blt),
   (0x083, abImm .bge),
   (0x084, abImm .bltu),
   (0x085, abImm .bgeu),
   (0x086, offF .jmp),
   (0x087, aF .jmpr),
   (0x088, loopF .loop),
   (0x089, loopiF .loopi),
   (0x08A, calldF .calld),
   (0x08B, aF .calldr),
   (0x08C, none0 .ret),
   (0x08D, yieldF .yield),
   (0x08E, none0 .endAct),
   (0x08F, offF .trap),
   (0x090, none0 .nop),
   (0x091, dOff .leac)]

def rows3 : List (Nat × (Fields → Except DecodeError Instr)) :=
  [(0x0C0, sendF .send),
   (0x0C1, sendvF .sendv),
   (0x0C2, sendnbF .sendnb),
   (0x0C3, replyF .reply),
   (0x0C4, forkF .fork),
   (0x0C5, joinF .join),
   (0x0C6, abF .launch),
   (0x0C7, none0 .trigger),
   (0x0C8, chbindF .chbind),
   (0x0C9, gg .chinfo),
   (0x0CA, qpushF .qpush),
   (0x0CB, qpopF .qpop),
   (0x0CC, qpopF .qpeek),
   (0x0CD, qtryF .qtry),
   (0x0CE, spopF .spop),
   (0x0CF, stryF .stry),
   (0x0D0, getcF .getc),
   (0x0D1, setcF .setc),
   (0x0D2, jinitF .jinit)]

def rows4 : List (Nat × (Fields → Except DecodeError Instr)) :=
  [(0x100, ggMem .ld),
   (0x101, abcMem .st),
   (0x102, ggMem .ldx),
   (0x103, abcMem .stx),
   (0x104, vldF .vld),
   (0x105, vstF .vst),
   (0x106, vldxF .vldx),
   (0x107, vstxF .vstx),
   (0x108, ggMem .tagrd),
   (0x109, abcMem .tagwr)]

def rows5 : List (Nat × (Fields → Except DecodeError Instr)) :=
  [(0x140, amoF .amo),
   (0x141, casF .cas),
   (0x142, amoF .amof),
   (0x143, vamoF .vamo),
   (0x144, fenceF .fence),
   (0x145, binitF .binit),
   (0x146, barrF .barr),
   (0x147, bF .bwait),
   (0x148, bF .bdrop),
   (0x149, barrF .bsync),
   (0x14A, amoF .ams)]

def rows6 : List (Nat × (Fields → Except DecodeError Instr)) :=
  [(0x180, vvvNum .vadd),
   (0x181, vvvNum .vsub),
   (0x182, vvvNum .vmul),
   (0x183, vvvvNum .vfma),
   (0x184, vvvNum .vmin),
   (0x185, vvvNum .vmax),
   (0x186, vvNum .vabs),
   (0x187, vvNum .vneg),
   (0x188, vvvNum .vcmp),
   (0x189, vvvvNum .vsel),
   (0x18A, vvvNum .vand),
   (0x18B, vvvNum .vor),
   (0x18C, vvvNum .vxor),
   (0x18D, vvvNum .vshl),
   (0x18E, vvvNum .vshr),
   (0x18F, vvvNum .vsra),
   (0x190, vvNum .vcvt),
   (0x191, vvNum .vexp2),
   (0x192, vvNum .vlog2),
   (0x193, vvNum .vrcp),
   (0x194, vvNum .vrsq),
   (0x195, vvNum .vsqrt),
   (0x196, vvvNum .vdiv),
   (0x197, gvNum .vred),
   (0x198, vgNum .vbcast),
   (0x199, gvgNum .vext),
   (0x19A, vggNum .vins),
   (0x19B, vvvNum .vperm),
   (0x19C, vNum .viota),
   (0x19D, vvvNum .vbmm8),
   (0x19E, vvvNum .vpdep),
   (0x19F, vvvNum .vpext),
   (0x1A0, vvvNum .vbperm),
   (0x1A1, vvgNum .vscl),
   (0x1A2, vNum .vtag),
   (0x1A3, vvNum .vmov)]

def rows7 : List (Nat × (Fields → Except DecodeError Instr)) :=
  [(0x1C0, abNum .swmap),
   (0x1C1, abNum .swred),
   (0x1C2, abNum .swcvt)]

def rows8 : List (Nat × (Fields → Except DecodeError Instr)) :=
  [(0x200, vggNum .mma),
   (0x201, vggNum .mmab),
   (0x202, tF .mzero),
   (0x203, vgNum .mload),
   (0x204, tgNum .mdrain),
   (0x205, bF .mwait),
   (0x206, dF .mstat)]

def rows9 : List (Nat × (Fields → Except DecodeError Instr)) :=
  [(0x240, abF .cpy),
   (0x241, cpysF .cpys),
   (0x242, aF .jwait),
   (0x243, gg .jpoll),
   (0x244, gg .jcancel)]

def rows10 : List (Nat × (Fields → Except DecodeError Instr)) :=
  [(0x280, eqinitF .eqinit),
   (0x281, ggg .equnite),
   (0x282, gg .eqfind),
   (0x283, ggg .eqsame),
   (0x284, gg .eqsize),
   (0x285, eqrelF .eqrelabel),
   (0x286, dF .eqsnap),
   (0x287, dF .equndo),
   (0x288, dF .eqcommit)]

def rows11 : List (Nat × (Fields → Except DecodeError Instr)) :=
  [(0x2C0, gg .mcwait),
   (0x2C1, aF .flowend),
   (0x2C2, gg .rankc)]

def rows12 : List (Nat × (Fields → Except DecodeError Instr)) :=
  [(0x300, offF .mcall),
   (0x301, none0 .mret),
   (0x302, abF .pent),
   (0x303, gg .pentr),
   (0x304, abF .keyslot),
   (0x305, aF .ctxsv),
   (0x306, aF .ctxld),
   (0x307, abF .scrub),
   (0x308, aF .mext),
   (0x309, ggg .codeinst),
   (0x30A, aF .codeevict),
   (0x30B, aF .quar),
   (0x30C, aF .vifrz),
   (0x30D, abF .stinv),
   (0x30E, abF .atreqAttestation)]

def rows13 : List (Nat × (Fields → Except DecodeError Instr)) :=
  [(0x340, trmarkF .trmark),
   (0x341, aF .trctlFlush),
   (0x342, offF .bkpt)]

/-- The complete opcode map. -/
def opcodeMap : List (Nat × (Fields → Except DecodeError Instr)) :=
  rows0 ++ rows1 ++ rows2 ++ rows3 ++ rows4 ++ rows5 ++ rows6 ++ rows7 ++ rows8 ++ rows9 ++ rows10 ++ rows11 ++ rows12 ++ rows13

def lookup (n : Nat) : List (Nat × (Fields → Except DecodeError Instr)) → Option (Fields → Except DecodeError Instr)
  | [] => none
  | (k, r) :: t => if n = k then some r else lookup n t

/-- The row of an opcode, looked for in its class only. -/
def rowOf (op : BitVec 10) : Option (Fields → Except DecodeError Instr) :=
  lookup op.toNat (match op.toNat / 64 with
    | 0 => rows0
    | 1 => rows1
    | 2 => rows2
    | 3 => rows3
    | 4 => rows4
    | 5 => rows5
    | 6 => rows6
    | 7 => rows7
    | 8 => rows8
    | 9 => rows9
    | 10 => rows10
    | 11 => rows11
    | 12 => rows12
    | 13 => rows13
    | _ => [])

end Decode

open Decode in
/-- The instruction of a 96-bit word, or why the word is illegal. A word of an unassigned opcode is the
row UNASSIGNED_OPCODE (R32, R50). TRCTL and ATREQ words give their first row; step picks the row by the
register or the request (R411, R419). -/
def decode (w : InstrWord) : Except DecodeError Instr :=
  match rowOf (opOf w) with
  | none => .ok (.unassignedOpcode w)
  | some r =>
    if opOf w != 0x030 && w.extractLsb' 48 2 != 0 then .error .reservedBits else
    match r (fieldsOf w) with
    | .error e => .error e
    | .ok i =>
      match WellFormed.check i with
      | some e => .error (.illFormed e)
      | none => .ok i

/-- The instruction my decoder reads from a word numbered as the opcode table numbers it: bytes lie
little-endian, so bit 0 of w is bit 0 of the instruction (R2, R34). -/
def decodeTableWord (_nbits w : Nat) : Option Instr :=
  match decode (BitVec.ofNat 96 w) with
  | .ok i => some i
  | .error _ => none

open Decode in
/-- The word of an instruction; 0 for an event, which has none. -/
def encode : Instr → InstrWord
  | .add d a b => encG 0x001 d a b 0 0 0
  | .sub d a b => encG 0x002 d a b 0 0 0
  | .and d a b => encG 0x00B d a b 0 0 0
  | .or d a b => encG 0x00C d a b 0 0 0
  | .xor d a b => encG 0x00D d a b 0 0 0
  | .andn d a b => encG 0x00E d a b 0 0 0
  | .shl d a b => encG 0x012 d a b 0 0 0
  | .shr d a b => encG 0x013 d a b 0 0 0
  | .sra d a b => encG 0x014 d a b 0 0 0
  | .rol d a b => encG 0x018 d a b 0 0 0
  | .ror d a b => encG 0x019 d a b 0 0 0
  | .min d a b => encG 0x01A d a b 0 0 0
  | .max d a b => encG 0x01B d a b 0 0 0
  | .minu d a b => encG 0x01C d a b 0 0 0
  | .maxu d a b => encG 0x01D d a b 0 0 0
  | .seq d a b => encG 0x01E d a b 0 0 0
  | .sne d a b => encG 0x01F d a b 0 0 0
  | .slt d a b => encG 0x020 d a b 0 0 0
  | .sltu d a b => encG 0x021 d a b 0 0 0
  | .addi d a imm => encG 0x003 d a 0 0 0 imm
  | .andi d a imm => encG 0x00F d a 0 0 0 imm
  | .ori d a imm => encG 0x010 d a 0 0 0 imm
  | .xori d a imm => encG 0x011 d a 0 0 0 imm
  | .slti d a imm => encG 0x022 d a 0 0 0 imm
  | .shli d a n => encG 0x015 d a 0 0 0 (n.setWidth 48)
  | .shri d a n => encG 0x016 d a 0 0 0 (n.setWidth 48)
  | .srai d a n => encG 0x017 d a 0 0 0 (n.setWidth 48)
  | .mul d a b => encG 0x004 d a b 0 0 0
  | .mulh d a b => encG 0x005 d a b 0 0 0
  | .mulhu d a b => encG 0x006 d a b 0 0 0
  | .div d a b => encG 0x007 d a b 0 0 0
  | .divu d a b => encG 0x008 d a b 0 0 0
  | .rem d a b => encG 0x009 d a b 0 0 0
  | .remu d a b => encG 0x00A d a b 0 0 0
  | .sel d a b c => encG 0x023 d a b c 0 0
  | .lea d a b e imm => encG 0x024 d a b 0 (e.setWidth 16) imm
  | .widx d a n => encG 0x025 d a 0 0 0 (n.setWidth 48)
  | .widc d a n => encG 0x026 d a 0 0 0 (n.setWidth 48)
  | .clz d a => encG 0x027 d a 0 0 0 0
  | .ctz d a => encG 0x028 d a 0 0 0 0
  | .popc d a => encG 0x029 d a 0 0 0 0
  | .bswap d a => encG 0x02A d a 0 0 0 0
  | .sext d a n => encG 0x02B d a 0 0 0 (n.setWidth 48)
  | .zext d a n => encG 0x02C d a 0 0 0 (n.setWidth 48)
  | .li d imm => encW 0x030 d imm
  | .bmm8 d a b => encG 0x040 d a b 0 0 0
  | .bmm8x d a b => encG 0x041 d a b 0 0 0
  | .bmm8t d a b => encG 0x042 d a b 0 0 0
  | .pdep d a b => encG 0x043 d a b 0 0 0
  | .pext d a b => encG 0x044 d a b 0 0 0
  | .bperm d a c => encG 0x045 d a 0 (c.setWidth 5) 0 0
  | .bfx d a pos len => encG 0x046 d a 0 0 0 (bitField pos len)
  | .bfi d a b pos len => encG 0x047 d a b 0 0 (bitField pos len)
  | .brev d a => encG 0x048 d a 0 0 0 0
  | .fadd d a b n => encG 0x050 d a b 0 (numMod n) 0
  | .fsub d a b n => encG 0x051 d a b 0 (numMod n) 0
  | .fmul d a b n => encG 0x052 d a b 0 (numMod n) 0
  | .fma d a b c n => encG 0x053 d a b c (numMod n) 0
  | .fmin d a b n => encG 0x054 d a b 0 (numMod n) 0
  | .fmax d a b n => encG 0x055 d a b 0 (numMod n) 0
  | .feq d a b => encG 0x056 d a b 0 0 0
  | .flt d a b => encG 0x057 d a b 0 0 0
  | .fle d a b => encG 0x058 d a b 0 0 0
  | .fcvtif d a n => encG 0x059 d a 0 0 (numMod n) 0
  | .fcvtfi d a n => encG 0x05A d a 0 0 (numMod n) 0
  | .beq a b off => encG 0x080 0 a b 0 0 off
  | .bne a b off => encG 0x081 0 a b 0 0 off
  | .blt a b off => encG 0x082 0 a b 0 0 off
  | .bge a b off => encG 0x083 0 a b 0 0 off
  | .bltu a b off => encG 0x084 0 a b 0 0 off
  | .bgeu a b off => encG 0x085 0 a b 0 0 off
  | .jmp off => encG 0x086 0 0 0 0 0 off
  | .jmpr a => encG 0x087 0 a 0 0 0 0
  | .leac d off => encG 0x091 d 0 0 0 0 off
  | .loop a len => encG 0x088 0 a 0 0 len 0
  | .loopi len count => encG 0x089 0 0 0 0 len (count.setWidth 48)
  | .calld k => encG 0x08A 0 0 0 0 0 (k.setWidth 48)
  | .calldr a => encG 0x08B 0 a 0 0 0 0
  | .ret => encG 0x08C 0 0 0 0 0 0
  | .yield vmask deadline gmask => encG 0x08D 0 0 0 0 vmask (gmask ++ deadline)
  | .endAct => encG 0x08E 0 0 0 0 0 0
  | .trap off => encG 0x08F 0 0 0 0 0 off
  | .nop => encG 0x090 0 0 0 0 0 0
  | .send a b c n ord => encG 0x0C0 0 a b c (ordMod ord) (n.setWidth 48)
  | .sendnb d a b c n ord => encG 0x0C2 d a b c (ordMod ord) (n.setWidth 48)
  | .sendv a b c ord => encG 0x0C1 0 a (b.setWidth 5) c (ordMod ord) 0
  | .reply b n ord => encG 0x0C3 0 0 b 0 (ordMod ord) (n.setWidth 48)
  | .fork a b j off => encG 0x0C4 0 a b 0 (j.setWidth 16) off
  | .join j => encG 0x0C5 0 0 0 0 (j.setWidth 16) 0
  | .jinit a j count => encG 0x0D2 0 a 0 0 ((BitVec.ofBool count ++ j).setWidth 16) 0
  | .launch a b => encG 0x0C6 0 a b 0 0 0
  | .trigger => encG 0x0C7 0 0 0 0 0 0
  | .chbind c a b keep => encG 0x0C8 c a b 0 ((BitVec.ofBool keep).setWidth 16) 0
  | .chinfo d a => encG 0x0C9 d a 0 0 0 0
  | .qpush q a => encG 0x0CA (q.setWidth 5) a 0 0 0 0
  | .qpop d q => encG 0x0CB d (q.setWidth 5) 0 0 0 0
  | .qpeek d q => encG 0x0CC d (q.setWidth 5) 0 0 0 0
  | .qtry d q b => encG 0x0CD d (q.setWidth 5) b 0 0 0
  | .spop d x => encG 0x0CE d (x.setWidth 5) 0 0 0 0
  | .stry d x b => encG 0x0CF d (x.setWidth 5) b 0 0 0
  | .getc d n => encG 0x0D0 d 0 0 0 0 (n.setWidth 48)
  | .setc a n => encG 0x0D1 0 a 0 0 0 (n.setWidth 48)
  | .ld d a b m imm => encG 0x100 d a b 0 (memMod m) imm
  | .ldx d a b m imm => encG 0x102 d a b 0 (memMod m) imm
  | .st a b c m imm => encG 0x101 0 a b c (memMod m) imm
  | .stx a b c m imm => encG 0x103 0 a b c (memMod m) imm
  | .vld d a b m imm => encG 0x104 (d.setWidth 5) a b 0 (memMod m) imm
  | .vst a b c m imm => encG 0x105 0 a b (c.setWidth 5) (memMod m) imm
  | .vldx d a b m imm => encG 0x106 (d.setWidth 5) a (b.setWidth 5) 0 (memMod m) imm
  | .vstx a b c m imm => encG 0x107 0 a (b.setWidth 5) (c.setWidth 5) (memMod m) imm
  | .tagrd d a b m imm => encG 0x108 d a b 0 (memMod m) imm
  | .tagwr a b c m imm => encG 0x109 0 a b c (memMod m) imm
  | .amo d a b c m op => encG 0x140 d a b c (memMod m) (op.setWidth 48)
  | .amof d a b c m op => encG 0x142 d a b c (memMod m) (op.setWidth 48)
  | .cas d a b c m imm => encG 0x141 d a b c (memMod m) imm
  | .vamo d a b c m op => encG 0x143 (d.setWidth 5) a (b.setWidth 5) (c.setWidth 5) (memMod m) (op.setWidth 48)
  | .ams d a b c m op => encG 0x14A d a b c (memMod m) (op.setWidth 48)
  | .fence sc => encG 0x144 0 0 0 0 (scMod sc false) 0
  | .binit b a => encG 0x145 0 (b.setWidth 5) a 0 0 0
  | .barr b sc chk => encG 0x146 0 (b.setWidth 5) 0 0 (scMod sc chk) 0
  | .bsync b sc chk => encG 0x149 0 (b.setWidth 5) 0 0 (scMod sc chk) 0
  | .bwait b => encG 0x147 0 (b.setWidth 5) 0 0 0 0
  | .bdrop b => encG 0x148 0 (b.setWidth 5) 0 0 0 0
  | .vadd d a b n => encG 0x180 (d.setWidth 5) (a.setWidth 5) (b.setWidth 5) 0 (numMod n) 0
  | .vsub d a b n => encG 0x181 (d.setWidth 5) (a.setWidth 5) (b.setWidth 5) 0 (numMod n) 0
  | .vmul d a b n => encG 0x182 (d.setWidth 5) (a.setWidth 5) (b.setWidth 5) 0 (numMod n) 0
  | .vfma d a b c n => encG 0x183 (d.setWidth 5) (a.setWidth 5) (b.setWidth 5) (c.setWidth 5) (numMod n) 0
  | .vmin d a b n => encG 0x184 (d.setWidth 5) (a.setWidth 5) (b.setWidth 5) 0 (numMod n) 0
  | .vmax d a b n => encG 0x185 (d.setWidth 5) (a.setWidth 5) (b.setWidth 5) 0 (numMod n) 0
  | .vabs d a n => encG 0x186 (d.setWidth 5) (a.setWidth 5) 0 0 (numMod n) 0
  | .vneg d a n => encG 0x187 (d.setWidth 5) (a.setWidth 5) 0 0 (numMod n) 0
  | .vcmp d a b n => encG 0x188 (d.setWidth 5) (a.setWidth 5) (b.setWidth 5) 0 (numMod n) 0
  | .vsel d a b c n => encG 0x189 (d.setWidth 5) (a.setWidth 5) (b.setWidth 5) (c.setWidth 5) (numMod n) 0
  | .vand d a b n => encG 0x18A (d.setWidth 5) (a.setWidth 5) (b.setWidth 5) 0 (numMod n) 0
  | .vor d a b n => encG 0x18B (d.setWidth 5) (a.setWidth 5) (b.setWidth 5) 0 (numMod n) 0
  | .vxor d a b n => encG 0x18C (d.setWidth 5) (a.setWidth 5) (b.setWidth 5) 0 (numMod n) 0
  | .vmov d a n => encG 0x1A3 (d.setWidth 5) (a.setWidth 5) 0 0 (numMod n) 0
  | .vtag d n => encG 0x1A2 (d.setWidth 5) 0 0 0 (numMod n) 0
  | .vshl d a b n => encG 0x18D (d.setWidth 5) (a.setWidth 5) (b.setWidth 5) 0 (numMod n) 0
  | .vshr d a b n => encG 0x18E (d.setWidth 5) (a.setWidth 5) (b.setWidth 5) 0 (numMod n) 0
  | .vsra d a b n => encG 0x18F (d.setWidth 5) (a.setWidth 5) (b.setWidth 5) 0 (numMod n) 0
  | .vcvt d a n => encG 0x190 (d.setWidth 5) (a.setWidth 5) 0 0 (numMod n) 0
  | .vexp2 d a n => encG 0x191 (d.setWidth 5) (a.setWidth 5) 0 0 (numMod n) 0
  | .vlog2 d a n => encG 0x192 (d.setWidth 5) (a.setWidth 5) 0 0 (numMod n) 0
  | .vrcp d a n => encG 0x193 (d.setWidth 5) (a.setWidth 5) 0 0 (numMod n) 0
  | .vrsq d a n => encG 0x194 (d.setWidth 5) (a.setWidth 5) 0 0 (numMod n) 0
  | .vsqrt d a n => encG 0x195 (d.setWidth 5) (a.setWidth 5) 0 0 (numMod n) 0
  | .vdiv d a b n => encG 0x196 (d.setWidth 5) (a.setWidth 5) (b.setWidth 5) 0 (numMod n) 0
  | .vscl d a b n => encG 0x1A1 (d.setWidth 5) (a.setWidth 5) b 0 (numMod n) 0
  | .vred d a n => encG 0x197 d (a.setWidth 5) 0 0 (numMod n) 0
  | .vbcast d a n => encG 0x198 (d.setWidth 5) a 0 0 (numMod n) 0
  | .vext d a b n => encG 0x199 d (a.setWidth 5) b 0 (numMod n) 0
  | .vins d a b n => encG 0x19A (d.setWidth 5) a b 0 (numMod n) 0
  | .viota d n => encG 0x19C (d.setWidth 5) 0 0 0 (numMod n) 0
  | .vperm d a b n => encG 0x19B (d.setWidth 5) (a.setWidth 5) (b.setWidth 5) 0 (numMod n) 0
  | .vbmm8 d a b n => encG 0x19D (d.setWidth 5) (a.setWidth 5) (b.setWidth 5) 0 (numMod n) 0
  | .vpdep d a b n => encG 0x19E (d.setWidth 5) (a.setWidth 5) (b.setWidth 5) 0 (numMod n) 0
  | .vpext d a b n => encG 0x19F (d.setWidth 5) (a.setWidth 5) (b.setWidth 5) 0 (numMod n) 0
  | .vbperm d a b n => encG 0x1A0 (d.setWidth 5) (a.setWidth 5) (b.setWidth 5) 0 (numMod n) 0
  | .swmap a b n => encG 0x1C0 0 a b 0 (numMod n) 0
  | .swred a b n => encG 0x1C1 0 a b 0 (numMod n) 0
  | .swcvt a b n => encG 0x1C2 0 a b 0 (numMod n) 0
  | .mma d a b n => encG 0x200 (d.setWidth 5) a b 0 (numMod n) 0
  | .mmab d a b n => encG 0x201 (d.setWidth 5) a b 0 (numMod n) 0
  | .mzero d => encG 0x202 (d.setWidth 5) 0 0 0 0 0
  | .mload d a n => encG 0x203 (d.setWidth 5) a 0 0 (numMod n) 0
  | .mdrain a b n => encG 0x204 0 (a.setWidth 5) b 0 (numMod n) 0
  | .mwait b => encG 0x205 0 (b.setWidth 5) 0 0 0 0
  | .mstat d => encG 0x206 d 0 0 0 0 0
  | .cpy a b => encG 0x240 0 a b 0 0 0
  | .cpys d a => encG 0x241 (d.setWidth 5) a 0 0 0 0
  | .jwait a => encG 0x242 0 a 0 0 0 0
  | .jpoll d a => encG 0x243 d a 0 0 0 0
  | .jcancel d a => encG 0x244 d a 0 0 0 0
  | .eqinit a size lg => encG 0x280 0 a 0 0 ((lg ++ BitVec.ofBool size).setWidth 16) 0
  | .equnite d a b => encG 0x281 d a b 0 0 0
  | .eqfind d a => encG 0x282 d a 0 0 0 0
  | .eqsame d a b => encG 0x283 d a b 0 0 0
  | .eqsize d a => encG 0x284 d a 0 0 0 0
  | .eqsnap d => encG 0x286 d 0 0 0 0 0
  | .equndo d => encG 0x287 d 0 0 0 0 0
  | .eqcommit d => encG 0x288 d 0 0 0 0 0
  | .eqrelabel a b dense red => encG 0x285 0 a b 0 ((red ++ BitVec.ofBool dense).setWidth 16) 0
  | .mcwait d a => encG 0x2C0 d a 0 0 0 0
  | .flowend a => encG 0x2C1 0 a 0 0 0 0
  | .rankc d a => encG 0x2C2 d a 0 0 0 0
  | .mcall off => encG 0x300 0 0 0 0 0 off
  | .mret => encG 0x301 0 0 0 0 0 0
  | .mext a => encG 0x308 0 a 0 0 0 0
  | .pent a b => encG 0x302 0 a b 0 0 0
  | .pentr d a => encG 0x303 d a 0 0 0 0
  | .keyslot a b => encG 0x304 0 a b 0 0 0
  | .ctxsv a => encG 0x305 0 a 0 0 0 0
  | .ctxld a => encG 0x306 0 a 0 0 0 0
  | .scrub a b => encG 0x307 0 a b 0 0 0
  | .codeinst d a b => encG 0x309 d a b 0 0 0
  | .codeevict a => encG 0x30A 0 a 0 0 0 0
  | .quar a => encG 0x30B 0 a 0 0 0 0
  | .vifrz a => encG 0x30C 0 a 0 0 0 0
  | .stinv a b => encG 0x30D 0 a b 0 0 0
  | .atreqAttestation a b => encG 0x30E 0 a b 0 0 0
  | .atreqAllocation a b => encG 0x30E 0 a b 0 0 0
  | .trmark a mark => encG 0x340 0 a 0 0 0 mark
  | .trctlFlush a => encG 0x341 0 a 0 0 0 0
  | .trctlPause a => encG 0x341 0 a 0 0 0 0
  | .trctlResume a => encG 0x341 0 a 0 0 0 0
  | .bkpt off => encG 0x342 0 0 0 0 0 off
  | .unassignedOpcode w => w
  | .sendGrant _ => 0
  | .queueWaiterServed _ _ => 0
  | .accessAnswer _ _ => 0
  | .serviceOperation _ _ => 0
  | .routineAbandon _ => 0
  | .barrierBatch _ _ => 0
  | .nak _ _ _ => 0
  | .call _ _ => 0
  | .ticketLapse _ => 0
  | .vectorGrant _ => 0
  | .sweepStart _ _ => 0
  | .sweepComplete _ _ => 0
  | .matrixJobStart _ => 0
  | .matrixOperandsConsumed _ _ => 0
  | .matrixJobComplete _ _ => 0
  | .gangBarrierFire _ => 0
  | .gangBreak _ => 0
  | .drainRow _ _ => 0
  | .copyJobStart _ _ => 0
  | .copyJobComplete _ _ => 0
  | .cardOperandsConsumed _ _ => 0
  | .streamElement _ _ => 0
  | .completionDelivery _ _ => 0
  | .eqEntryWrites _ => 0
  | .eqHop _ => 0
  | .eqLink _ => 0
  | .relabelJobStart _ _ => 0
  | .relabelJobComplete _ _ => 0
  | .doubleFault _ _ => 0
  | .channelDelivery _ => 0
  | .queueDelivery _ => 0
  | .joinCellDelivery _ => 0
  | .joinContinuationRecruit _ _ => 0
  | .feWordDelivery _ => 0
  | .dispatch _ => 0
  | .sendDisplacement _ => 0
  | .launchHeader _ => 0
  | .launchEnumeration _ => 0
  | .launchComplete _ => 0
  | .launchReportResend _ => 0
  | .teamReplay _ => 0
  | .codeMiss _ => 0
  | .codeSourceTimeout _ _ => 0
  | .codeInstall _ _ _ => 0
  | .kilnInstallRetry _ => 0
  | .kilnInstallTimeout _ => 0
  | .translationParkTimeout _ _ => 0
  | .releaseCountAdvance _ => 0
  | .stampedWriteApply _ => 0
  | .rd _ => 0
  | .wr _ => 0
  | .atm _ => 0
  | .msg _ => 0
  | .mcw _ => 0
  | .rda _ => 0
  | .ack _ => 0
  | .tnak _ => 0
  | .msga _ => 0
  | .mcack _ _ => 0
  | .mcackTimeout _ => 0
  | .seqnak _ => 0
  | .seqnakTimer _ _ => 0
  | .requestResendTimer _ _ => 0
  | .flowletTimeout _ _ => 0
  | .flitReplay _ => 0
  | .linkRetrain _ _ => 0
  | .portDown _ _ => 0
  | .notice _ _ => 0
  | .cfreq _ => 0
  | .cfdat _ => 0
  | .cfnone _ => 0
  | .mgw _ => 0
  | .mgr _ => 0
  | .keynextWrite _ => 0
  | .rankMapBankFlip _ _ => 0
  | .portEnWrite _ _ => 0
  | .fgeomWrite _ => 0
  | .pkaWrite _ _ => 0
  | .thermalTrip _ _ => 0
  | .thermalThrottle _ _ => 0
  | .powerWindow _ => 0
  | .inputVoltageFault _ => 0
  | .memoryTraining _ => 0
  | .clusterDrain _ _ => 0
  | .partFailure _ => 0
  | .housekeepingRead _ => 0
  | .pwrlimWrite _ => 0
  | .viThaw _ => 0
  | .portHold _ => 0
  | .portRelease _ => 0
  | .debugToken _ => 0
  | .debugStop _ => 0
  | .debugResume _ => 0
  | .traceIdleRecord _ => 0
  | .serviceOperationTimeout _ _ => 0
  | .linkTrained _ => 0
  | .serviceCoreFirmwareUpdate _ _ => 0
  | .stationFirmwareUpdate _ _ => 0
  | .mcallInstallRoutine => 0
  | .mcallFormGroup => 0
  | .mcallSetCodePeers => 0
  | .codeIntegrityFault => 0
  | .deadlineOverrun => 0
  | .retireLimit => 0
  | .moduleReset => 0
  | .resetCommand => 0
  | .debugChallenge => 0
  | .fallThroughPastInstance => 0

/-- The rows that have an encoding of their own: instructions, not events. -/
def Instr.hasWord (i : Instr) : Bool := (Decode.rowOf (Decode.opOf (encode i))).isSome

end Sys2Proof
end

