-- ==== Sys2Proof/Config.lean ====
section
/-! DEFINITION. What an implementation of the SX3 fixes and the spec does not, and the free values.
Each constant is opaque, with no body: no proof can see its value. -/

namespace Sys2Proof.Config

/-- A value the spec leaves open, the n-th one a run meets (log 8): a read under another key (R181),
a challenge of the root of trust (R412). -/
opaque freeValue : Nat → BitVec 64

/-- The lifecycle state of the fuses, MSTATUS.LCS (R393). -/
opaque lifecycle : BitVec 2

/-- RSASSA-PSS verification of a signature over bytes under an RSA-3072 key record of 388 bytes
(R106, R114, R412); the spec names the standard and not its parameters (log 9). -/
opaque pssVerify : List Byte → List Byte → List Byte → Bool

/-- The signature of the device attestation key over bytes, 384 bytes of it (R411; log 9). -/
opaque attestSign : List Byte → Nat → Byte

/-- AES-256-GCM under a key, nonce, authenticated bytes and plaintext: byte n of ciphertext
followed by tag (R407, R418; log 9). -/
opaque gcmByte : Digest → List Byte → List Byte → List Byte → Nat → Byte

/-- The vendor debug key held in ROM (R412). -/
opaque vendorDebugKey : List Byte

/-- A chip's current measurement digest (R373), of MBOOT, MMON, MSTN and MSVC: the spec does not say how they
are combined (log 9). -/
opaque measurement : Digest → Digest → Digest → Digest → Digest

/-- The code lines of the monitor's function with a handle, as slots and line word: its program is firmware
(R390). The first argument is the digest of the monitor that live service installed, none for the one that
bring-up installed. A handle of no function has no lines. -/
opaque monitorCode : Option Digest → BitVec 32 → List (List InstrWord × BitVec 32)
/-- The digest table of that function, and the digest that names it (R104, R111). -/
opaque monitorDigests : Option Digest → BitVec 32 → List Digest
opaque monitorName : Option Digest → BitVec 32 → Digest

/-- The CRC-32 of a flit's bytes and its trailer's bits 63 to 32: the spec names no polynomial (R362; log 18). -/
opaque crc : List Byte → BitVec 32 → BitVec 32

/-- The device identifier, the SHA-256 of the device attestation public key (R411). -/
opaque deviceId : Digest

end Sys2Proof.Config
end

