-- ==== Sys2Proof/Machine/Map.lean ====
section
/-! DEFINITION. Sparse maps: keys strictly rising. Registers, memory bytes, threads, blocks and tables
are all held so. Map.set keeps no entry that equals what an unlisted key reads as, so equal contents are
equal data; Map.put keeps every entry. -/

namespace Sys2Proof.Machine

/-- A sparse map from numbers. -/
abbrev Map (α : Type) := List (Nat × α)

/-- What key i holds; d is what an unlisted key reads as. -/
def Map.get {α : Type} (d : α) : Map α → Nat → α
  | [], _ => d
  | (k, v) :: m, i => if i = k then v else Map.get d m i

/-- Puts x at key i. -/
def Map.put {α : Type} : Map α → Nat → α → Map α
  | [], i, x => [(i, x)]
  | (k, v) :: m, i, x =>
    if i < k then (i, x) :: (k, v) :: m
    else if i = k then (i, x) :: m
    else (k, v) :: Map.put m i x

/-- Removes the entries whose key p holds of: those keys read as unlisted. -/
def Map.drop {α : Type} (p : Nat → Bool) (m : Map α) : Map α := m.filter fun e => !p e.1

/-- Puts x at key i, or removes the entry when x is what an unlisted key reads as. -/
def Map.set {α : Type} [DecidableEq α] (d : α) (m : Map α) (i : Nat) (x : α) : Map α :=
  if x = d then Map.drop (fun k => k == i) m else Map.put m i x

/-- Keys strictly rising from lo, and no entry equal to d. -/
def Map.wfFrom {α : Type} [DecidableEq α] (d : α) : Nat → Map α → Bool
  | _, [] => true
  | lo, (k, v) :: m => decide (lo ≤ k) && decide (v ≠ d) && Map.wfFrom d (k + 1) m

/-- The canonical form of a sparse map. -/
def Map.wf {α : Type} [DecidableEq α] (d : α) (m : Map α) : Bool := Map.wfFrom d 0 m

end Sys2Proof.Machine
end

