-- ==== Sys2Proof/Machine/State.lean ====
section
/-! DEFINITION. The state of the machine, as plain data: threads (R21, R30), handler cores and memory-side
service cores (R199), blocks (R18), clusters (R17), dies (R237), memory, the chip's system state (R402) and
the fabric interface; and the state after module reset (R423). -/

namespace Sys2Proof.Machine

/-- The reasons a step can stop with a fault. -/
inductive Fault where
  /-- Raised by step when the agenda names a thread that is not on the chip. Safe: no such thread exists. -/
  | noThread
  deriving DecidableEq, Repr

/-- The reasons a step can be refused. -/
inductive Refusal where
  /-- Raised by exec for an instruction whose meaning is not written. Safe: nothing is concluded. -/
  | notModelled (mnemonic : String)
  deriving DecidableEq, Repr

/-- What exec and step answer. -/
abbrev Out (σ : Type) := Host.Outcome σ Fault Refusal

/-! ## Threads -/

/-- Monitor mode or context mode (R390). -/
inductive Mode where
  | context | monitor
  deriving DecidableEq, Repr

/-- A vector register: 2,048 bits and a format tag (R22, R251). -/
structure VReg where
  bits : BitVec 2048 := 0
  tag : BitVec 5 := 0
  deriving DecidableEq, Repr

/-- An entry of the loop stack (R100). -/
structure Loop where
  handle : BitVec 32
  first : Nat
  last : Nat
  count : BitVec 32
  calls : BitVec 32 := 0
  deriving DecidableEq, Repr

/-- An arrival record of a barrier cell (R219). -/
inductive Arrival where
  | none
  | arrived (phase : BitVec 32)
  | dropped
  deriving DecidableEq, Repr

/-- A stream register: the copy job it is bound to, and its buffer (R158, R328). -/
structure Stream where
  blk : Nat
  job : Nat
  buf : List Word := []
  ended : Bool := false
  deriving DecidableEq, Repr

/-- A multicast track: a group and the answers awaited for its stores (R376). -/
structure Track where
  group : BitVec 22
  /-- Sequence numbers of the stores not yet acknowledged. -/
  waiting : List Nat := []
  /-- AND of the answered stores' bitmaps, members, and the failure reports: index and cause (R378). -/
  bitmap : BitVec 512 := BitVec.allOnes 512
  nmem : Nat := 0
  reports : List (BitVec 9 × BitVec 4) := []
  failed : Bool := false
  lva : Word := 0
  /-- The MCWAIT that waits for it, by pc and retirements: it keeps its track until then (R378). -/
  awaited : Option (Word × Nat) := none
  deriving DecidableEq, Repr

/-- Everything that an activation is, and that a displacement saves (R119, R400). -/
structure Act where
  /-- The activation's own number, 0 for none. -/
  id : Nat := 0
  /-- TRCTL has paused its state records, until resume or END (R419). -/
  paused : Bool := false
  /-- Its name among its team's members, which a replay gives it again, and how many requests it has made: together they
  number a request, and a repeat has the first one's number (R165, R168). -/
  member : List Nat := []
  count : Nat := 0
  g : Map Word := []
  v : Map VReg := []
  gErr : BitVec 32 := 0
  vErr : BitVec 16 := 0
  pc : Word := 0
  /-- The TRIG of an entry whose TGT is still to be checked: 4 a dispatch, 5 a continuation; 0 for none (R37). -/
  enter : BitVec 4 := 0
  /-- A line's parity failed: its function is fetched again before the next issue, with TRIG 3 (R41). -/
  refetch : Bool := false
  /-- The latched reply address (R139). -/
  reply : Word := 0
  /-- The loop stack, top entry first (R100). -/
  loops : List Loop := []
  wid : Word := 0
  widspec : BitVec 36 := 0
  drm : BitVec 3 := 1
  /-- NV, DZ, OF, UF, NX (R88). -/
  flags : BitVec 5 := 0
  codeflt : Word := 0
  /-- MSTAT and JSTAT, with PEND zero: it is counted when read (R316, R330). -/
  mstat : Word := 0
  jstat : Word := 0
  mcack : Word := 0
  ticket : Word := 0
  rfault : Word := 0
  /-- The full address of the error RFAULT records, for MTVAL (R178). -/
  rfaultAddr : Word := 0
  /-- The errors received after it, oldest first, each as RFAULT would hold it, with its full address. -/
  later : List (Word × Word) := []
  /-- What RFAULT held when its fault was last taken, for the ERROR report (R145). -/
  taken : Word := 0
  /-- A release access that has completed takes the recorded error: the code address of that access (R178). -/
  due : Option Word := none
  /-- Registers whose parity is wrong (R70, R263). -/
  gBad : BitVec 32 := 0
  vBad : BitVec 16 := 0
  /-- A held hazard error, cause 0x17, with its address (R422). -/
  hazard : Option Word := none
  eqlast : BitVec 25 := 0
  ttlmask : Byte := 0
  dline : BitVec 32 := 0
  /-- RETIRE, 0 to 4,096 (R120). -/
  retire : Nat := 0
  /-- The channel by the context's number, and the block's channel that stands for it (R135). -/
  chan : CIdx := 0
  home : CIdx := 0
  stage : Byte := 0xFF
  prio : BitVec 3 := 0
  /-- The channel's default deadline in units of 256 cycles (R119, R135). -/
  deadline : BitVec 16 := 0
  /-- The last MMA, MMAB or MLOAD it had accepted (R323). -/
  lastMatrix : Option Nat := none
  streams : Map (Option Stream) := []
  arrivals : Map Arrival := []
  tracks : Map (Option Track) := []
  /-- A VSTX that stalls among its multicast lanes: its pc, the retirements, and one more than the number of those lanes
  that have been issued, its other lanes with them (R373, R376). -/
  lanesOut : Word × Nat × Nat := (0, 0, 0)
  pid : BitVec 16 := 0
  encl : Byte := 0
  vi : BitVec 6 := 0
  /-- The launch the activation belongs to (R135); 0 for none. -/
  launch : Word := 0
  /-- Its number among the launch's enumerated activations, if it is one (R146). -/
  enumNo : Option Nat := none
  recruit : Bool := false
  triggered : Bool := false
  /-- The source value of the message that started it (R139, R416). -/
  src : Word := 0
  deriving DecidableEq, Repr

/-- What an outstanding access does at its word (R185, R198, R207–R212). -/
inductive Access where
  | load
  | store
  | tagRead
  | tagWrite
  | amo (opn : BitVec 6)
  | amof (opn : BitVec 6)
  | cas
  | ams (k : BitVec 6)
  deriving DecidableEq, Repr

/-- Where an element stands with the retry list of its word's owner (R186, R216). -/
inductive Hold where
  | free
  /-- It has an entry. -/
  | waiting
  /-- Refused with a ticket; told: NAK has delivered it. -/
  | refused (owner : Nat) (ticket : BitVec 32) (told : Bool)
  /-- Its ticket has been called. -/
  | called (owner : Nat) (ticket : BitVec 32)
  deriving DecidableEq, Repr

/-- One element of an access: a word, a line, or a lane. -/
structure Elem where
  ea : Word
  size : Nat
  /-- Flat byte address, for a local or cross-block space. -/
  pa : Nat := 0
  /-- Key stamp of the access, for a local or cross-block space. -/
  key : Nat := 0
  /-- Byte offset of the element in the register. -/
  off : Nat := 0
  data : BitVec 1024 := 0
  data2 : Word := 0
  /-- A store to part of a word: the bits it writes (R234, R327). -/
  mask : Option Nat := none
  done : Bool := false
  /-- Where it lies, once its translation has been taken: flat address, stamp and leaf (R175). -/
  loc : Option (Nat × Nat × Word) := none
  /-- The level of that leaf. -/
  level : Nat := 3
  hold : Hold := .free
  res : BitVec 1024 := 0
  deriving DecidableEq, Repr

/-- The destination register of an answer. -/
inductive Dest where
  | none
  | g (d : GReg)
  | v (d : VIdx)
  deriving DecidableEq, Repr

/-- Where an outstanding access stands. -/
inductive Phase where
  | sent
  /-- An element waits in a retry list, or for the call of its ticket (R186, R216). -/
  | waiting
  /-- Parked on an unmapped page (R176). -/
  | parked
  /-- A registered routine runs for it (R212). -/
  | serving (owner : Nat)
  /-- On its way to another chip, as fabric packets (R363). -/
  | remote
  /-- Performed; the answer is on its way (R168). -/
  | done
  deriving DecidableEq, Repr

/-- An outstanding access of a thread (R168, R178). -/
structure Req where
  seq : Nat
  /-- The member of a team that makes it, and its number among that member's (R168). -/
  member : List Nat := []
  num : Nat := 0
  what : Access
  sp : Space
  sync : Sync := .plain
  acq : Bool := false
  rel : Bool := false
  ord : Bool := false
  sx : Bool := false
  sc : Scope := .core
  dst : Dest := .none
  pid : BitVec 16 := 0
  src : Word := 0
  /-- Elements act in order. For VAMO only those of one owner do (R210); for VLDX and VSTX, those of one
  word (R197). -/
  perOwner : Bool := false
  perWord : Bool := false
  /-- A multicast copy: all of its elements are stored, or none is (R375). -/
  whole : Bool := false
  elems : List Elem := []
  /-- The first error cause received, 0 for none (R177); 0x17 for a hazard (R422). -/
  err : Byte := 0
  errAddr : Word := 0
  flags : BitVec 5 := 0
  phase : Phase := .sent
  /-- Issued in monitor mode: the answer goes to the monitor bank. -/
  mon : Bool := false
  /-- Its activation has ended: the answer goes nowhere. -/
  orphan : Bool := false
  /-- The cross-die stamp of a write (R237). -/
  stamp : List (BitVec 16) := []
  /-- The code address of the instruction that issued it. -/
  pc : Word := 0
  deriving DecidableEq, Repr

/-- The send that a thread is stalled on (R141): its destination, its payload words, and whether it is SENDNB. -/
structure SendWait where
  dst : Word
  words : Nat
  nb : Bool := false
  deriving DecidableEq, Repr

/-- Why a thread stalls. -/
inductive Wait where
  | codeMiss (handle : BitVec 32) (trig : BitVec 4)
  | send
  | queue (q : QIdx) (pop : Bool)
  | stream (x : SIdx)
  | join (j : JIdx)
  | barrier (b : BIdx)
  | vector
  | engine
  | eqResult
  | access
  | replay
  | inbox
  deriving DecidableEq, Repr

/-- Whether a thread issues (R117, R141, R186). -/
inductive Status where
  | idle
  | running
  | stalled (why : Wait)
  deriving DecidableEq, Repr

/-- A fault that an instruction raises (R42, R391). nextSlot: MEPC is the slot after (TRAP, MCALL). epc: MEPC is the
address of an access that had retired (R178). -/
structure Trap where
  code : Byte
  val : Word
  nextSlot : Bool := false
  epc : Option Word := none
  /-- An illegal-instruction fault for what an operand's value names, which stands among the instruction's own faults in
  R42's order and not at its step 3 (log 82). -/
  own : Bool := false
  deriving DecidableEq, Repr

/-- A forest operation on its way through the engines (R345–R349, R352). -/
structure EqOp where
  /-- 0 EQUNITE, 1 EQFIND, 2 EQSAME, 3 EQSIZE, 4 EQSNAP, 5 EQUNDO, 6 EQCOMMIT. -/
  kind : Nat
  dst : GReg
  /-- Issued in monitor mode. -/
  mon : Bool := false
  x : Word := 0
  y : Word := 0
  begun : Bool := false
  forest : Nat := 0
  /-- Where the walks from x and y stand, what they visited, and the roots with their sizes. -/
  atX : Nat := 0
  atY : Nat := 0
  pathX : List Nat := []
  pathY : List Nat := []
  rootX : Option (Nat × Nat) := none
  rootY : Option (Nat × Nat) := none
  steps : Nat := 0
  /-- Compression writes that remain: element and new parent. -/
  compress : List (Nat × Nat) := []
  result : Option Word := none
  /-- 1: an entry's page is not mapped and the request is parked; 2: it has been so for 1 ms (R176). -/
  park : Nat := 0
  deriving DecidableEq, Repr

/-- An open block of a trace unit (R414). -/
structure TraceBlock where
  pid : BitVec 16 := 0
  conf : Bool := false
  cycle : Word := 0
  count : Nat := 0
  data : List Byte := []
  deriving DecidableEq, Repr

/-- A trace unit (R413–R419). -/
structure TraceUnit where
  /-- The open block of type 0 and that of type 1. -/
  states : TraceBlock := {}
  entries : TraceBlock := {}
  /-- Index the next activation record takes (R416), and that of the current activation. -/
  index : BitVec 16 := 0
  current : BitVec 16 := 0
  /-- Offset in the ring of the next block written. -/
  head : Nat := 0
  /-- The launch of the activation that the thread ran last is confidential (R418). -/
  conf : Bool := false
  last : BitVec 2 := 0
  lastTime : Word := 0
  deriving DecidableEq, Repr

/-- What a service thread serves: a registered routine (R212, R213). -/
structure Service where
  thread : Nat
  seq : Nat
  sp : Space
  /-- First byte of the granule, as a flat address, and its size. -/
  base : Nat
  size : Nat
  /-- Address of the granule as the routine names it. -/
  addr : Word
  key : Nat
  pid : BitVec 16
  retired : Nat := 0
  /-- The line whose parity failure made the routine be fetched again (R41). -/
  refetched : Option Nat := none
  /-- Buffered stores: flat byte address and value; and tags set. -/
  stores : List (Nat × Byte) := []
  tags : List (Nat × Bool) := []
  deriving DecidableEq, Repr

/-- The registers as they stood before a pair (R38). -/
structure View where
  /-- Code address of the pair's first member. -/
  pc : Word
  g : Map Word
  mg : Map Word
  v : Map VReg
  gErr : BitVec 32
  vErr : BitVec 16
  drm : BitVec 3
  flags : BitVec 5
  deriving DecidableEq, Repr

/-- A fetch line: five instruction words and the line word (R34). -/
structure Line where
  slots : List InstrWord
  lw : BitVec 32
  deriving DecidableEq, Repr

/-- A function instance resident in the kiln (R104, R106). -/
structure Inst where
  lines : List Line
  digs : List Digest := []
  /-- Call-site table: linear slot and digest-table index (R105). -/
  calls : List (Nat × BitVec 32) := []
  trans : Bool := false
  /-- SHA-256 of a translation's bytes (R106); 0 for a portable image. -/
  sum : Digest := 0
  image : List Byte := []
  deriving DecidableEq, Repr

/-- What a transfer that waits on a code miss needs: it completes though its own function may be evicted
meanwhile, and its target is not evicted before that (R109, R110, R117). -/
structure Transfer where
  /-- The function it leaves, and its instance. -/
  handle : BitVec 32
  inst : Inst
  target : BitVec 32
  deriving DecidableEq, Repr

/-- A hardware thread: an activation thread, or a service thread (R21). -/
structure Thread where
  act : Act := {}
  mode : Mode := .monitor
  /-- In monitor mode: the context as it stood at the entry, with what its own accesses and jobs brought since (R401). -/
  entry : Option Act := none
  /-- The monitor bank (R390). -/
  mg : Map Word := []
  mgErr : BitVec 32 := 0
  /-- Monitor registers, and the scalar latches, whose parity is wrong (R70). -/
  mgBad : BitVec 32 := 0
  latchBad : Bool := false
  status : Status := .idle
  mcause : Byte := 0
  mepc : Word := 0
  mtval : Word := 0
  norpl : Bool := false
  trcfg : Word := 0
  wdcfg : BitVec 16 := 4096
  /-- Retirements in the present monitor entry (R392). -/
  mretire : Nat := 0
  /-- The present monitor entry is an MCALL, and its service number is not yet served (R395). -/
  mcall : Bool := false
  served : Bool := false
  /-- The monitor's loop stack, top entry first (R100, log 15). -/
  mloops : List Loop := []
  outst : List Req := []
  nextSeq : Nat := 0
  /-- The next sequence number for each destination (R128, R168). -/
  seqs : List (Word × BitVec 24) := []
  eqops : List EqOp := []
  trace : TraceUnit := {}
  serve : Option Service := none
  /-- Cycles stalled on a send (R152), and that send. -/
  sendWait : Nat := 0
  sendDst : Option SendWait := none
  /-- The status that another chip answered to the thread's send (R141), not yet consumed. -/
  sendAns : Option Word := none
  /-- Per destination, the number below which its messages were sent before a replay (R165). -/
  resent : List (Word × BitVec 24) := []
  /-- The registers as they stood before a pair, while its second member executes (R38). -/
  view : Option View := none
  /-- The stalled instruction is a member of a pair: what it waits for lets the pair issue again. -/
  paired : Bool := false
  /-- A transfer that waits, or has waited, on a code miss and has not completed. -/
  transfer : Option Transfer := none
  /-- While MWAIT or JWAIT stalls: jobs with this number or a higher one came after its request (R317, R333). -/
  bound : Option Nat := none
  /-- CYCLE at which the instruction at the pc became the next to issue (R22), for the pc, the retirements and the
  activation given. -/
  head : Word := 0
  headOf : Word × Nat × Nat × Nat := (0, 0, 0, 0)
  /-- Its next access to its own block's banks, or its next EQINIT, does not act as it issues (R231, R348, log 3). -/
  late : Bool := false
  /-- For the accesses of an engine: the thread whose job it runs (R168, R335). -/
  issuer : Option Nat := none
  deriving DecidableEq, Repr

/-! ## Messages -/

/-- What a message reports, for those whose delivery failure goes somewhere (R132, R133). -/
inductive Origin where
  /-- Nobody hears of it: its activation has ended. -/
  | gone
  | thread (t : Nat)
  | job (blk id : Nat)
  | report (launch : Word) (final : Bool) (tries : Nat)
  | host (vi : BitVec 6)
  | remote (rank : BitVec 22)
  deriving DecidableEq, Repr

/-- A message in flight or in a slot (R128), with its sideband. -/
structure Msg where
  dest : Word
  reply : Word := 0
  payload : List Word := []
  vec : Option VReg := none
  src : Word := 0
  wid : Word := 0
  launch : Word := 0
  seq : BitVec 24 := 0
  pid : BitVec 16 := 0
  origin : Origin := .host 0
  /-- The die it comes from, its cross-die stamp, and whether the home has applied it (R237). -/
  die : Nat := 0
  stamp : List (BitVec 16) := []
  applied : Bool := true
  /-- The number of its thread's next access when it was sent (R226). -/
  after : Nat := 0
  /-- Number of the enumerated activation it starts (R146). -/
  enumNo : Option Nat := none
  deriving DecidableEq, Repr

/-! ## Handler cores and owners -/

/-- A protection entry (R398). -/
structure Pent where
  encl : Byte
  w : Bool
  r : Bool
  sp : BitVec 4
  base : BitVec 22
  limit : BitVec 22
  v : Bool
  deriving DecidableEq, Repr

/-- An entry of a retry list: an element of a thread's outstanding access, or of a packet's (R215). -/
structure Retry where
  thread : Nat
  seq : Nat
  ix : Nat
  word : Nat
  deriving DecidableEq, Repr

/-- An owner of words: a handler core, or a memory-side service core (R199, R215, R216). -/
structure Owner where
  retry : List Retry := []
  /-- Reserved entries: the tickets called and not yet used. -/
  reserved : List (BitVec 32) := []
  /-- Tickets refused and not yet called: ticket, thread and access. -/
  tickets : List (BitVec 32 × Nat × Nat) := []
  next : BitVec 32 := 0
  serve : BitVec 32 := 0
  pents : Map (Option Pent) := []
  withdrawn : Bool := false
  /-- A service operation has ended and the core's activation thread has not issued since (R201). -/
  turn : Bool := false
  /-- Firmware of a memory-side service core (R424). -/
  firmware : Digest := 0
  deriving DecidableEq, Repr

/-! ## Blocks -/

/-- A channel's binding (R135). -/
structure Binding where
  handle : BitVec 32
  prio : BitVec 3
  stage : Byte
  deadline : BitVec 16
  launch : Word
  pid : BitVec 16
  deriving DecidableEq, Repr

/-- A channel (R135). reserved counts the slots granted to messages not yet placed. -/
structure Channel where
  bind : Option Binding := none
  slots : List Msg := []
  reserved : Nat := 0
  running : Nat := 0
  /-- CYCLE at which the head became head (R138). -/
  since : Word := 0
  deriving DecidableEq, Repr

/-- A queue register, its reserved entries and its waiters in age order (R157): threads that push, pop or send, engines
with a completion for it, and launch inboxes with a report for it. -/
structure Queue where
  items : List Word := []
  reserved : Nat := 0
  waiters : List Nat := []
  deriving DecidableEq, Repr

/-- A displaced activation (R152, R162). -/
structure Displaced where
  act : Act
  /-- Stopped at a send (R152), whose target must have room. -/
  atSend : Option Word
  since : Word
  /-- The record of the save area that holds it, if one does (R400). -/
  place : Option Nat := none
  /-- A replayed member that starts again on this thread, when the member before it there has ended (R165). -/
  again : Option Nat := none
  stopped : Bool := false
  deriving DecidableEq, Repr

/-- The engines of a block (R18). -/
inductive Engine where
  | vector | matrix | copy | equiv
  deriving DecidableEq, Repr

/-- A region of a typed buffer: flat bytes base to base + len − 1 (R323). -/
structure Region where
  base : Nat
  len : Nat
  deriving DecidableEq, Repr

/-- A shape as a job holds it (R61, R284). Unused dimensions have size 1. -/
structure Shape where
  /-- Space code: 0 S, 1 A, 2 W, 3 C, 4 XS, 5 XA, 6 XW, 7 D. -/
  sp : Nat := 0
  /-- The block whose buffers a local space names. -/
  blk : Nat := 0
  fmt : BitVec 5 := 0
  /-- Address in the space. -/
  addr : Word := 0
  rank : Nat := 1
  sizes : List Nat := []
  strides : List Int := []
  /-- Key stamps by block (R283, R331). -/
  keys : List (Nat × Nat) := []
  deriving DecidableEq, Repr

/-- What an engine job does. -/
inductive JobOp where
  | swmap (n : Num)
  | swred (n : Num)
  | swcvt (n : Num)
  | mma (tile : TIdx) (a b : Word) (n : Num) (bfp : Bool)
  | mzero (tile : TIdx)
  | mload (tile : TIdx) (desc : Word) (n : Num)
  | mdrain (tile : TIdx) (dest : Word) (n : Num)
  | copy (dsy : BitVec 2)
  | stream (x : SIdx)
  | relabel (dense : Bool) (red : BitVec 3)
  deriving DecidableEq, Repr

/-- Where a job stands (R295, R325, R326); held: its completion waits for room (R133). -/
inductive JobPhase where
  | pending | started | consumed | held
  deriving DecidableEq, Repr

/-- A pending engine job (R295, R325). -/
structure Job where
  id : Nat
  eng : Engine
  op : JobOp
  phase : JobPhase := .pending
  /-- The issuing thread, the activation it ran, and its context. -/
  thread : Nat
  issuer : Nat
  pid : BitVec 16
  encl : Byte := 0
  launch : Word
  wid : Word
  tag : BitVec 32 := 0
  reply : Word := 0
  /-- Jobs it waits for: the job, and whether for its completion or for its operands consumed (R323, R325). -/
  waits : List (Nat × Bool) := []
  src : Option Shape := none
  dst : Option Shape := none
  out : Option Shape := none
  /-- Key stamps of the two operands of a matrix job. -/
  keyA : Nat := 0
  keyB : Nat := 0
  reads : List Region := []
  writes : List Region := []
  /-- Tiles it reads and writes, as masks (R296). -/
  rdTiles : BitVec 16 := 0
  wrTiles : BitVec 16 := 0
  /-- A joint job's instruction word, and its number among the joint jobs of its launch in its slice (R300). -/
  word : InstrWord := 0
  joint : Option Nat := none
  /-- Rows drained, or stream elements placed. -/
  pos : Nat := 0
  /-- The words read at operands consumed, by address; and the first address that could not be read. -/
  image : List (Nat × Word) := []
  failAt : Option Nat := none
  /-- The cause of that failure (R177). -/
  cause : Byte := 0
  flags : BitVec 5 := 0
  status : Byte := 0
  cancelled : Bool := false
  /-- The issuing member, and its number for the job's accesses: a replayed job has the same (R168, R335). -/
  member : List Nat := []
  num : Nat := 0
  /-- With TRCFG.HAZ set at issue: whether an access met a region that no edge orders (R233). -/
  haz : Option Bool := none
  /-- The labels of a relabel job and the units of OUT with their values, from the forest at its start (R355). -/
  labels : List Nat := []
  outs : List (Int × Nat) := []
  /-- The completion that waits for delivery (R133), and that its target has been asked. -/
  msg : Option Msg := none
  away : Bool := false
  deriving DecidableEq, Repr

/-- The binding of a block's equivalence engine (R340); snapshot, log and counts stand at the home engine. -/
structure Quern where
  bound : Bool := false
  pid : BitVec 16 := 0
  launch : Word := 0
  /-- The thread whose EQINIT bound it, and the activation that it ran. -/
  thread : Nat := 0
  issuer : Nat := 0
  /-- Released for an EQINIT that has not bound it yet: its thread and activation (R348). -/
  claim : Option (Nat × Nat) := none
  /-- The number of the binding: the engines of one forest have the same. -/
  forest : Nat := 0
  dev : Bool := false
  base : Word := 0
  n : Nat := 0
  sizeRule : Bool := false
  lg : Nat := 0
  /-- Entries not yet written after EQINIT (R344). -/
  due : Bool := false
  key : Nat := 0
  /-- The block that opened the snapshot (R352). -/
  snap : Option Nat := none
  /-- The log, newest first: the owner's block, and elements with their old entries. -/
  log : List (Nat × List (Nat × Word)) := []
  classes : Nat := 0
  maxSize : Nat := 0
  snapClasses : Nat := 0
  snapMax : Nat := 0
  /-- A relabel job holds the forest (R355). -/
  held : Bool := false
  deriving DecidableEq, Repr

/-- A continuation that a join cell owes and that waits for an idle thread (R156). -/
structure Owed where
  cont : Word
  pid : BitVec 16
  wid : Word
  prio : BitVec 3
  deadline : BitVec 16
  chan : CIdx
  stage : Byte
  launch : Word
  blocks : List Nat
  /-- The completion's source value. -/
  src : Word
  /-- The name that the continuation has among its team's members (R165). -/
  member : List Nat := []
  deriving DecidableEq, Repr

/-- A join cell (R153). -/
structure JoinCell where
  /-- none when idle; FORK mode is false, COUNT mode true. -/
  mode : Option Bool := none
  count : BitVec 32 := 0
  cont : Word := 0
  pid : BitVec 16 := 0
  wid : Word := 0
  prio : BitVec 3 := 0
  deadline : BitVec 16 := 0
  chan : CIdx := 0
  stage : Byte := 0xFF
  launch : Word := 0
  /-- The placed blocks of that launch in the cluster. -/
  blocks : List Nat := []
  /-- The member that armed it, and the number of that request: they name the continuation (R165). -/
  member : List Nat := []
  /-- The continuations it owes, oldest first; arming the cell again leaves them (R156, R167). -/
  owed : List Owed := []
  deriving DecidableEq, Repr

/-- The journal of a team in a block: one epoch (R163, R164). -/
structure Epoch where
  launch : Word
  team : Word
  /-- Activations at the epoch's opening, each with its thread. -/
  saved : List (Nat × Act) := []
  /-- Members that were displaced at the opening. -/
  rested : List Displaced := []
  /-- Old values: flat word address, value, tag; newest first. -/
  olds : List (Nat × Word × Bool) := []
  /-- Messages dispatched to members: the thread, the message, and the member's name. -/
  msgs : List (Nat × Msg × List Nat) := []
  /-- The first number of the epoch that a member's thread sent to a destination. -/
  sends : List (Nat × Word × BitVec 24) := []
  /-- Accepted requests that no journal undoes: member, number, address, answer, and its flags (R168). -/
  acc : List (List Nat × Nat × Word × Nat × BitVec 5) := []
  /-- The cluster's join cells that forks of the team held at the opening. -/
  joins : List (Nat × JoinCell) := []
  used : Nat := 0
  dead : Bool := false
  replays : Nat := 0
  deriving DecidableEq, Repr

/-- A block (R18). -/
structure Block where
  chans : Map Channel := []
  /-- The channel that stands for number c of context p, at 32 p + c; c itself where none is listed (R135, log 17). -/
  chanMap : Map CIdx := []
  queues : Map Queue := []
  jobs : List Job := []
  nextJob : Nat := 0
  /-- Joint jobs that have arrived at the slice, by launch (R300). -/
  joints : List (Word × Nat) := []
  /-- Format tags of the tiles; an unlisted one is FP32 (R251). -/
  tileTags : Map (BitVec 5) := []
  lastChan : CIdx := 31
  displaced : List Displaced := []
  vwait : List Nat := []
  vgrant : Option Nat := none
  /-- The unit's latches have bad parity (R263). -/
  unitBad : Bool := false
  /-- Copies of PHASE of the cluster's barrier cells (R220). -/
  phases : Map (BitVec 32) := []
  quern : Quern := {}
  epochs : List Epoch := []
  /-- Block key slots: enclave and key (R399), and LOCK (R393). -/
  keys : Map (Option (Byte × Digest)) := []
  lock : Byte := 0
  savebase : Word := 0
  /-- Save-area records 208 to 430 (R400): the number, what it holds, and whether it is sealed. -/
  records : List (Nat × Act × Bool) := []
  /-- Activations that a CTXLD has replaced on their thread while one of those records holds them: they have not ended. -/
  swapped : List Nat := []
  stopped : Bool := false
  deriving DecidableEq, Repr

/-! ## Clusters -/

/-- An entry of the kiln's directory (R107). -/
structure DirEntry where
  pid : BitVec 16
  digest : Digest
  handle : BitVec 32
  inst : Option Inst
  /-- The number of the last issue from it among the issues of the cluster (R109). -/
  last : Nat := 0
  /-- The line whose parity failure made its instance be refetched (R41). -/
  refetched : Option Nat := none
  deriving DecidableEq, Repr

/-- The resolution of a code miss (R113). -/
structure Fetch where
  pid : BitVec 16
  /-- The service routine that is fetched again (R41, R211). -/
  svc : Option (BitVec 6) := none
  handle : BitVec 32
  digest : Digest
  mask : Byte
  /-- The threads that wait, each with its cause (TRIG, R116). -/
  waiters : List (Nat × BitVec 4)
  /-- Peers still to be asked, the one being asked first; the host after them (R113). -/
  peers : List (BitVec 22)
  /-- 2 kiln, 3 peer, 4 host depot. -/
  source : BitVec 4
  /-- The request under way asks for a translation. -/
  askTrans : Bool
  nrej : Byte := 0
  rjsrc : BitVec 4 := 0
  reason : Byte := 0
  /-- An accepted instance that waits for room in the kiln (R109). -/
  waiting : Option Inst := none
  /-- A peer's answer: its parts by offset, and the image once it is whole (R385). -/
  parts : Map (List Byte) := []
  data : List Byte := []
  deriving DecidableEq, Repr

/-- What a barrier cell hears of the party whose event it takes: its context, its team, and its record (R220–R225). -/
structure Party where
  pid : BitVec 16
  launch : Word
  team : Option (Word × Word)
  record : Arrival
  deriving DecidableEq, Repr

/-- An event on its way to a barrier cell (R223): BINIT with its operand, ARRIVE with CHK, DROP with whether its
party's arrival was counted before; and the event of an activation that has ended since it sent it, which nobody waits for. -/
inductive BarEvent where
  | init (t : Nat) (w : Word)
  | arrive (t : Nat) (chk : Bool)
  | drop (t : Nat) (counted : Bool)
  | ofEnded (e : BarEvent) (p : Party)
  deriving DecidableEq, Repr

/-- A barrier cell (R219). -/
structure BarCell where
  owner : Option (BitVec 16 × Word) := none
  phase : BitVec 32 := 0
  expect : Nat := 0
  nextExp : Nat := 0
  arrived : Nat := 0
  /-- CHKP: none, checkpoint (true) or plain (false). -/
  chkp : Option Bool := none
  events : List BarEvent := []
  /-- Events processed whose instruction has not ended yet: the thread, and the fault's code or 0. -/
  answers : List (Nat × Byte) := []
  /-- The parties that arrived in the current phase, each by its team (R225). -/
  parties : List (Option (Word × Word)) := []
  deriving DecidableEq, Repr

/-- A launch header waiting in an inbox (R144). -/
structure Header where
  bytes : List Byte
  src : Word
  seq : BitVec 24
  pid : BitVec 16
  vi : BitVec 6
  wid : Word := 0
  /-- The cross-die stamp of the LAUNCH (R237). -/
  stamp : List (BitVec 16) := []
  /-- The rank of the sender's chip; none for a sender on this one. -/
  rank : Option (BitVec 22) := none
  deriving DecidableEq, Repr

/-- A cluster (R17). -/
structure Cluster where
  dir : List DirEntry := []
  /-- The handle the next new entry takes (R107). -/
  nextHandle : BitVec 32 := 0x100
  fetches : List Fetch := []
  joins : Map JoinCell := []
  bars : Map BarCell := []
  inbox : List Header := []
  /-- Broken gangs: launch and lowest block (R301). -/
  broken : List (Word × Nat) := []
  /-- Issues so far: they number the last issue of each instance (R109). -/
  issues : Nat := 0
  draining : Option Digest := none
  /-- The monitor that live service installed; none for the one that bring-up installed (R390, R425). -/
  monitor : Option Digest := none
  /-- The logical number is missing (R16). -/
  missing : Bool := false
  /-- The die's spare stands in for it (R16). -/
  spare : Bool := false
  deriving DecidableEq, Repr

/-! ## Dies, memory, chip -/

/-- A die's counts of cross-die releases (R237): compute dies 0 to 3, and the edge dies E0 and E1 as 4 and 5 (R13). -/
structure Die where
  own : BitVec 16 := 0
  k : List (BitVec 16) := [0, 0, 0, 0]
  a : List (BitVec 16) := [0, 0, 0, 0]
  deriving DecidableEq, Repr

/-- Memory: one flat space for the device tiers, the typed buffers and the Y registers (log 4).
full, poison and keys are by word (address / 8), macOk by device line (address / 128). -/
structure Mem where
  bytes : List Host.Cell := []
  full : Map Bool := []
  poison : Map Bool := []
  keys : Map Nat := []
  macOk : Map Bool := []
  deriving DecidableEq, Repr

/-- A launch in the journal (R143, R404). -/
structure Launch where
  id : Word
  pid : BitVec 16
  vi : BitVec 6
  src : Word
  /-- The cluster whose inbox took the header. -/
  inbox : Nat
  widspec : BitVec 36
  exts : List Nat
  base : Word
  chk : Byte
  cquota : Byte
  /-- Stages as channel, priority, deadline, stage number; one entry with stage 0xFF when NSTAGE = 0. -/
  stages : List (CIdx × BitVec 3 × BitVec 16 × Byte)
  gang : Nat
  param : Word
  reply : Word
  dep : Word
  noComp : Bool
  errStop : Bool
  conf : Bool
  /-- Placed blocks in order (R146). -/
  blocks : List Nat
  total : Nat
  nextEnum : Nat := 0
  dispatched : Nat := 0
  /-- Activations, recruits included, that have not ended. -/
  running : Nat := 0
  /-- Enumerated activations that have triggered or ended (R149). -/
  released : Nat := 0
  errors : Word := 0
  stopped : Bool := false
  /-- Its last report is on its way. -/
  finished : Bool := false
  /-- Teams that a fault has ended: their activations that are not yet enumerated never start (R166). -/
  deadTeams : List Word := []
  /-- Reports that were not delivered and wait to be resent (R132). -/
  unsent : List Msg := []
  deriving DecidableEq, Repr

/-- A record of the chip log (R402). -/
structure LogRec where
  cycle : Word
  src : Word
  cause : Byte
  sub : Byte
  mtval : Word
  deriving DecidableEq, Repr

/-- A cached translation (R175). -/
structure Xlate where
  pid : BitVec 16
  /-- LVA divided by its page size; the level of the leaf: 1, 2 or 3. -/
  lva : Word
  level : Nat
  pte : Word
  deriving DecidableEq, Repr

/-- The chip's system state (R402–R412, R423–R428). -/
structure Sys where
  launches : List Launch := []
  /-- Retired launches: id and the words of the final report (R404). -/
  retired : List (Word × Word × List Word) := []
  frozen : List (BitVec 6) := []
  quarantined : List (BitVec 16) := []
  logcnt : Word := 0
  log : List LogRec := []
  mboot : Digest := 0
  mmon : Digest := 0
  mstn : Digest := 0
  msvc : Digest := 0
  scrubdig : Digest := 0
  nscrub : BitVec 32 := 0
  /-- Scrub entries, newest first, 32 bytes each (R406). -/
  scrubs : List (List Byte) := []
  /-- Memory key slots by PID and slot; trace and sealing keys by PID (R399). -/
  memKeys : List (BitVec 16 × BitVec 3 × Digest) := []
  traceKeys : List (BitVec 16 × Digest) := []
  sealKeys : List (BitVec 16 × Digest) := []
  /-- Service routines in the stores of the edge dies, by PID and number (R211, R408). -/
  routines : List (BitVec 16 × BitVec 6 × Inst) := []
  /-- Measurements of installed functions by PID (R106, R408). -/
  measured : List (BitVec 16 × Digest × Digest) := []
  dbg : Bool := false
  challenge : Option Digest := none
  refusedTokens : Nat := 0
  portOpen : Bool := false
  stations : Map (List Xlate) := []
  /-- Firmware of the stations as updated (R424). -/
  stationFw : Map Digest := []
  /-- Bring-up stage and reset cause (R423, R428). -/
  stage : Nat := 1
  /-- A signature or a test of bring-up has failed: the chip stays at its stage (R423). -/
  stuck : Bool := false
  cause : Byte := 1
  pwrlim : BitVec 16 := 2800
  pwrnow : BitVec 32 := 0
  temps : Map Byte := []
  eccCount : Word := 0
  /-- SPARES: SHORT in [7:4], USED in [3:0] (R428). -/
  spares : BitVec 32 := 0
  throttle : Bool := false
  voltageBad : Bool := false
  /-- The last 1,000 power windows, newest first: watts, and whether the chip throttled in it (R426, R428). -/
  windows : List (BitVec 16 × Bool) := []
  /-- The register that the management controller's last read gave; none where it names none (R428). -/
  hkAnswer : Option Word := none
  /-- Frames of 64 KiB retired since reset, by flat address, and memory channels whose capacity is withdrawn (R424). -/
  retiredFrames : List Nat := []
  lostChannels : List Nat := []
  trained : Map Nat := []
  deriving DecidableEq, Repr

/-- A packet sent and not yet answered (R366). -/
structure Unacked where
  pkt : Packet
  /-- The thread and access it belongs to, or the multicast store or message. -/
  thread : Nat := 0
  seq : Nat := 0
  ix : Nat := 0
  /-- The elements of the access that it carries. -/
  ixs : List Nat := []
  resends : Nat := 0
  msg : Option Msg := none
  /-- Refused with a ticket, or answered FULL: it is sent again when its call comes (R216, R363). -/
  refused : Bool := false
  deriving DecidableEq, Repr

/-- A port (R364, R382). -/
structure Port where
  reg : Word := 0x3C00000000000000
  held : Bool := false
  rxCount : Nat := 0
  /-- Refusals of the flit that is sent now. -/
  refusals : Nat := 0
  /-- The packet that leaves now, and how many of its flits have left (R365). -/
  leaving : Option (Packet × Nat) := none
  /-- The link's sequence number of the next flit, and the trailer of the last one (R362). -/
  lseq : Byte := 0
  trailer : Word := 0
  /-- The retransmit buffer: the last 256 flits with their trailers, newest first (R364). -/
  retx : List (List Byte × Word) := []
  deriving DecidableEq, Repr

/-- A multicast copy awaiting its children (R374). -/
structure McWait where
  /-- The copy as it reached this chip, or as the root made it. -/
  pkt : Packet
  /-- Port towards the root, none at the root; ports of the children not yet heard. -/
  parent : Option Nat
  children : List Nat
  /-- At the root: the number of the thread's access. -/
  acc : Nat := 0
  /-- A local copy is still being performed. -/
  here : Bool := false
  bitmap : BitVec 512 := 0
  report : Option (BitVec 9 × BitVec 4) := none
  deriving DecidableEq, Repr

/-- A flowlet: the ORD packets of a core to a chip. It keeps its route, and the chip for every rank that it serves, each with
its PID (R371, R383). -/
structure Flowlet where
  core : Nat
  dst : BitVec 22
  names : List (BitVec 16 × BitVec 22) := []
  val : Bool := false
  mid : BitVec 22 := 0
  /-- The port taken in each direction so far. -/
  ports : List Nat := []
  /-- FLOWEND has closed it. -/
  closed : Bool := false
  deriving DecidableEq, Repr

/-- The FSEQ values seen from a source chip: the lowest not seen, those past it (R366), and the key and PID of the last
packet that passed the check, which a SEQNAK carries (R368). -/
structure Seen where
  next : BitVec 24 := 0
  past : List (BitVec 24) := []
  pkey : BitVec 16 := 0
  pid : BitVec 16 := 0
  deriving DecidableEq, Repr

/-- The fabric interface (R360–R386). -/
structure Fab where
  fgeom : Word := 0
  mnonce : Word := 0
  fmep : Map Word := []
  mkey : Digest := 0
  cntDrop : Word := 0
  cntLink : Word := 0
  ports : Map Port := []
  pka : Map Word := []
  pkb : Map Word := []
  /-- Rank maps: bank × 64 + slot, then rank, to the entry. -/
  ranks : Map Word := []
  /-- Chips that are known to be down (R370). -/
  downChips : List (BitVec 22) := []
  /-- Whole packets that wait at a port, oldest first. -/
  out : List (Nat × Packet) := []
  unacked : List Unacked := []
  fseq : Map (BitVec 24) := []
  seen : Map Seen := []
  /-- Requests with the answers that were kept (R168). -/
  answers : List (Packet × Packet) := []
  flowlets : List Flowlet := []
  mcwaits : List McWait := []
  notices : List (BitVec 22 × BitVec 32) := []
  noticeSeq : BitVec 32 := 0
  /-- Requests of other chips, kept as outstanding accesses of the memory side. -/
  inbound : List (Nat × Packet) := []
  /-- Messages of other chips that were answered FULL, by channel, oldest first (R363). -/
  fullWait : List (Nat × Packet) := []
  /-- Those among them that have been called, and have not come again. -/
  called : List Packet := []
  /-- Group entries that the group service has for other chips of a tree: the chip, the group and the entry (R372, R395). -/
  groupOut : List (BitVec 22 × Nat × List Byte) := []
  nextIn : Nat := 0
  deriving DecidableEq, Repr

/-- A soft error, or an error that ECC corrects or reports (R70, R182, R263, R290, R309, R329, R356). -/
inductive Upset where
  /-- The parity of a g register of the mode's bank, of a v register with its tag, or of the thread's scalar latches. -/
  | greg (t : Nat) (r : GReg)
  | vreg (t : Nat) (r : VIdx)
  | latch (t : Nat)
  /-- The parity of the latches of a block's vector unit. -/
  | unit (blk : Nat)
  /-- An engine's job. -/
  | job (blk id : Nat)
  /-- A word of memory, by its flat address over 8: corrected, or uncorrectable. -/
  | corrected (w : Nat)
  | word (w : Nat)
  /-- The rest of the packet that leaves on a port: lost with the port it arrived on, or of bad parity (R365). -/
  | tail (port : Nat)
  /-- A root-of-trust core has a double fault (R423). -/
  | root
  deriving DecidableEq, Repr

/-- What moves next: an input of the model (log 1). -/
inductive Move where
  /-- Thread t issues. -/
  | thread (t : Nat)
  /-- An event happens. -/
  | event (e : Instr)
  /-- A host sends a message through a VI, for a context (R26, R128). -/
  | host (vi : BitVec 6) (pid : BitVec 16) (seq : BitVec 24) (dest reply : Word) (payload : List Word)
  /-- n cycles pass. -/
  | tick (n : Nat)
  /-- An upset happens (log 81). -/
  | upset (u : Upset)
  /-- Thread t's next instruction acts later than it issues: its access to its own block's banks (R231), or the binding
  of its EQINIT (R348). -/
  | late (t : Nat)
  /-- The engine whose event comes next makes n of its accesses, and no more (R233, R234, R329). -/
  | pace (n : Nat)
  /-- The monitor maps a context's channel number c of a block to channel d (R135). -/
  | mapChannel (blk : Nat) (pid : BitVec 16) (c d : CIdx)
  /-- n flits leave on a port (R362, R365, R382). -/
  | depart (port n : Nat)
  /-- A chip goes down, or comes back: the switches learn of it (R370). -/
  | chip (c : BitVec 22) (up : Bool)
  /-- The group service of another chip writes a group entry here (R372, R395). -/
  | group (g : Nat) (entry : List Byte)
  /-- The present stage of bring-up ends: with success, and the digest of what it verified or the key that it loaded (R423). -/
  | bringUp (ok : Bool) (d : Digest)
  /-- The monitor retires the frame at a flat address (R424). -/
  | retireFrame (a : Nat)
  deriving DecidableEq, Repr

/-- The state of the machine. -/
structure State where
  /-- The thread whose instruction exec runs (log 1). -/
  cur : Nat := 0
  agenda : List Move := []
  /-- What the last exec raised (log 11). -/
  trap : Option Trap := none
  /-- Counts the free values taken (log 8). -/
  free : Nat := 0
  /-- The number the next activation takes. -/
  nextAct : Nat := 1
  /-- The accesses that the next engine's event makes; none for all (log 23). -/
  pace : Option Nat := none
  cycle : Word := 0
  threads : Map Thread := []
  owners : Map Owner := []
  blocks : Map Block := []
  clusters : Map Cluster := []
  dies : Map Die := []
  mem : Mem := {}
  flight : List Msg := []
  sys : Sys := {}
  fab : Fab := {}
  deriving DecidableEq, Repr

/-- The machine right after module reset (R423), with every register at the value the spec states or log 5 names. -/
def State.reset : State := {}

end Sys2Proof.Machine
end

