-- ==== Sys2Proof/Machine/Ops.lean ====
section
/-! DEFINITION. The named operations that every meaning is built from: places on the chip, registers,
memory words, code addresses, reports and the chip log, ending an activation, taking an exception (R391)
and the return from it (R396), and retiring an instruction (R102, R120). -/

namespace Sys2Proof.Machine

/-! ## Places (R13, R134, R161, log 1)

Thread number: the CORE register's value, so 0 to 16,383 are activation threads and 16,384 to 32,767
service threads; 32,768 + 32·e + k is memory-side service core k of edge die e. -/

def isAct (t : Nat) : Bool := decide (t < 16384)
def isCore (t : Nat) : Bool := decide (t < 32768)
/-- The threads of the four compute dies, and behind them the service cores of the two edge dies (R13, R14). -/
def isThread (t : Nat) : Bool := decide (t < 32832)
def coreOf (t : Nat) : Nat := t % 16384
def blockOf (t : Nat) : Nat := t % 16384 / 16
def clusterOf (t : Nat) : Nat := t % 16384 / 128
/-- The compute die of a core: four of them, 0 to 3 (R13). -/
def dieOf (t : Nat) : Nat := t % 16384 / 4096
/-- The thread that serves at owner o (R199). -/
def serviceOf (o : Nat) : Nat := if o < 16384 then o + 16384 else o
/-- The owner that a service thread serves for. -/
def ownerOf (t : Nat) : Nat := if t < 32768 then t % 16384 else t

/-- The source value of a thread (R134). -/
def sourceOf (t : Nat) : Word :=
  let c := coreOf t
  BitVec.ofNat 64 (c / 4096 * 2 ^ 36 + c / 128 % 32 * 2 ^ 31 + c / 16 % 8 * 2 ^ 28 + c % 16 * 2 ^ 24 +
    (if isAct t then 0 else 2 ^ 22))

/-- The source value of an engine of a block (R134). -/
def engineSource (blk e : Nat) : Word :=
  BitVec.ofNat 64 (blk / 256 * 2 ^ 36 + blk / 8 % 32 * 2 ^ 31 + blk % 8 * 2 ^ 28 + 2 * 2 ^ 22 + e * 2 ^ 20)

/-- Thread numbers under which the sequence numbers of an engine and of a launch inbox are kept (R128, R168). -/
def engineSender (blk e : Nat) : Nat := 52000 + 8 * blk + e
def inboxSender (cl : Nat) : Nat := 61000 + cl

/-- The source value of a launch inbox (R134). -/
def inboxSource (cl : Nat) : Word :=
  BitVec.ofNat 64 (cl / 32 * 2 ^ 36 + cl % 32 * 2 ^ 31 + 2 * 2 ^ 22 + 2 ^ 19)

/-! ## Units -/

def State.th (s : State) (t : Nat) : Thread := Map.get {} s.threads t
def State.setTh (s : State) (t : Nat) (x : Thread) : State := { s with threads := Map.put s.threads t x }
def State.modTh (s : State) (t : Nat) (f : Thread → Thread) : State := s.setTh t (f (s.th t))
def State.modAct (s : State) (t : Nat) (f : Act → Act) : State :=
  s.modTh t fun x => { x with act := f x.act }
/-- Changes the context of thread t from outside: in monitor mode, also as it stood at the entry (R401). -/
def State.modCtx (s : State) (t : Nat) (f : Act → Act) : State :=
  s.modTh t fun x => { x with act := f x.act, entry := x.entry.map f }
def State.block (s : State) (b : Nat) : Block := Map.get {} s.blocks b
def State.setBlock (s : State) (b : Nat) (x : Block) : State := { s with blocks := Map.put s.blocks b x }
def State.modBlock (s : State) (b : Nat) (f : Block → Block) : State := s.setBlock b (f (s.block b))
def State.cluster (s : State) (c : Nat) : Cluster := Map.get {} s.clusters c
def State.setCluster (s : State) (c : Nat) (x : Cluster) : State := { s with clusters := Map.put s.clusters c x }
def State.modCluster (s : State) (c : Nat) (f : Cluster → Cluster) : State := s.setCluster c (f (s.cluster c))
def State.owner (s : State) (o : Nat) : Owner := Map.get {} s.owners o
def State.modOwner (s : State) (o : Nat) (f : Owner → Owner) : State :=
  { s with owners := Map.put s.owners o (f (s.owner o)) }
def State.die (s : State) (d : Nat) : Die := Map.get {} s.dies d
def State.modDie (s : State) (d : Nat) (f : Die → Die) : State :=
  { s with dies := Map.put s.dies d (f (s.die d)) }
def Block.chan (b : Block) (c : CIdx) : Channel := Map.get {} b.chans c.toNat
def Block.modChan (b : Block) (c : CIdx) (f : Channel → Channel) : Block :=
  { b with chans := Map.put b.chans c.toNat (f (b.chan c)) }
/-- Applies f to every block the state lists. -/
def State.eachBlock (s : State) (f : Block → Block) : State :=
  { s with blocks := List.map (fun e : Nat × Block => (e.1, f e.2)) s.blocks }
/-- Applies f to every channel of a block. -/
def Block.eachChan (b : Block) (f : Channel → Channel) : Block :=
  { b with chans := List.map (fun e : Nat × Channel => (e.1, f e.2)) b.chans }
/-- The running thread. -/
def State.me (s : State) : Thread := s.th s.cur
def State.modMe (s : State) (f : Thread → Thread) : State := s.modTh s.cur f
def State.modMyAct (s : State) (f : Act → Act) : State := s.modAct s.cur f

/-! ## Registers (R44, R71, R390) -/

/-- Reads a g register: g0 is 0, and the bank is that of the mode. In a pair the second member reads
what stood before it (R38). -/
def Thread.g (x : Thread) (r : GReg) : Word :=
  if r = 0 then 0 else
  match x.view with
  | some w => Map.get 0 (if x.mode = .monitor then w.mg else w.g) r.toNat
  | none => Map.get 0 (if x.mode = .monitor then x.mg else x.act.g) r.toNat

/-- Writes a g register and clears its error mark (R178). Writes to g0 are discarded. -/
def Thread.setG (x : Thread) (r : GReg) (w : Word) : Thread :=
  if r = 0 then x
  else if x.mode = .monitor then
    { x with mg := Map.set 0 x.mg r.toNat w, mgErr := x.mgErr &&& ~~~(1#32 <<< r.toNat), mgBad := x.mgBad &&& ~~~(1#32 <<< r.toNat) }
  else { x with act := { x.act with
    g := Map.set 0 x.act.g r.toNat w, gErr := x.act.gErr &&& ~~~(1#32 <<< r.toNat), gBad := x.act.gBad &&& ~~~(1#32 <<< r.toNat) } }

def Thread.v (x : Thread) (r : VIdx) : VReg :=
  match x.view with
  | some w => Map.get {} w.v r.toNat
  | none => Map.get {} x.act.v r.toNat

/-- Writes a v register and clears its error mark. -/
def Thread.setV (x : Thread) (r : VIdx) (w : VReg) : Thread :=
  { x with act := { x.act with
    v := Map.set {} x.act.v r.toNat w, vErr := x.act.vErr &&& ~~~(1#16 <<< r.toNat), vBad := x.act.vBad &&& ~~~(1#16 <<< r.toNat) } }

def State.g (s : State) (r : GReg) : Word := s.me.g r
def State.setG (s : State) (r : GReg) (w : Word) : State := s.modMe fun x => x.setG r w
def State.v (s : State) (r : VIdx) : VReg := s.me.v r
def State.setV (s : State) (r : VIdx) (w : VReg) : State := s.modMe fun x => x.setV r w

/-- The dynamic rounding mode and flags as an instruction reads them (R88, R89). -/
def Thread.drm (x : Thread) : BitVec 3 := match x.view with | some w => w.drm | none => x.act.drm
def Thread.flagsRead (x : Thread) : BitVec 5 := match x.view with | some w => w.flags | none => x.act.flags

/-- ORs flags into FSTAT; the service thread discards them (R88). -/
def State.orFlags (s : State) (f : BitVec 5) : State :=
  if isAct s.cur then s.modMyAct fun a => { a with flags := a.flags ||| f } else s

/-! ## Memory words (R2, R184; the layout is log 4) -/

def tierBase (tier : Nat) : Nat := tier * 2 ^ 40
/-- Typed buffer k of a block: 0 S, 1 A, 2 W, 3 C. -/
def bufBase (blk k : Nat) : Nat := 2 ^ 42 + blk * 2 ^ 22 + k * 2 ^ 20
def yBase : Nat := 2 ^ 50

def Mem.byte (m : Mem) (a : Nat) : Byte := Map.get 0 m.bytes a
def Mem.setByte (m : Mem) (a : Nat) (b : Byte) : Mem := { m with bytes := Map.set 0 m.bytes a b }

/-- The number in n bytes from a, little-endian. -/
def Mem.read (m : Mem) (a : Nat) : Nat → Nat
  | 0 => 0
  | n + 1 => (m.byte a).toNat + 256 * m.read (a + 1) n

/-- Writes n bytes of x from a, little-endian. -/
def Mem.write (m : Mem) (a : Nat) : Nat → Nat → Mem
  | 0, _ => m
  | n + 1, x => (m.setByte a (BitVec.ofNat 8 x)).write (a + 1) n (x / 256)

def Mem.word (m : Mem) (w : Nat) : Word := BitVec.ofNat 64 (m.read (8 * w) 8)
def Mem.setWord (m : Mem) (w : Nat) (x : Word) : Mem := m.write (8 * w) 8 x.toNat
def Mem.tag (m : Mem) (w : Nat) : Bool := Map.get false m.full w
def Mem.setTag (m : Mem) (w : Nat) (b : Bool) : Mem := { m with full := Map.set false m.full w b }
def Mem.bad (m : Mem) (w : Nat) : Bool := Map.get false m.poison w
def Mem.setBad (m : Mem) (w : Nat) (b : Bool) : Mem := { m with poison := Map.set false m.poison w b }
def Mem.stamp (m : Mem) (w : Nat) : Nat := Map.get 0 m.keys w
def Mem.setStamp (m : Mem) (w : Nat) (k : Nat) : Mem := { m with keys := Map.set 0 m.keys w k }

/-- The bytes are in canonical form. -/
abbrev Mem.wf (m : Mem) : Prop := Map.wf 0 m.bytes = true

def State.modMem (s : State) (f : Mem → Mem) : State := { s with mem := f s.mem }

/-- n bytes from a, as a list. -/
def Mem.bytesAt (m : Mem) (a n : Nat) : List Byte := (List.range n).map fun i => m.byte (a + i)
/-- Writes a list of bytes from a. -/
def Mem.putBytes (m : Mem) (a : Nat) : List Byte → Mem
  | [] => m
  | b :: bs => (m.setByte a b).putBytes (a + 1) bs

/-- Pads or cuts a list of bytes to n. -/
def padTo (n : Nat) (bs : List Byte) : List Byte := (bs ++ List.replicate n 0).take n

/-- The number in a list of bytes, little-endian. -/
def leNat : List Byte → Nat
  | [] => 0
  | b :: bs => b.toNat + 256 * leNat bs
/-- n bytes of x, little-endian. -/
def leBytes : Nat → Nat → List Byte
  | 0, _ => []
  | n + 1, x => BitVec.ofNat 8 x :: leBytes n (x / 256)
def field (bs : List Byte) (off n : Nat) : Nat := leNat ((bs.drop off).take n)
/-- The words of a list of bytes. -/
def wordsOfBytes (bs : List Byte) : List Word := (List.range (bs.length / 8)).map fun i => BitVec.ofNat 64 (field bs (8 * i) 8)

/-! ## Free values (log 8) -/

/-- The next free value, and the state that has taken it. -/
def State.takeFree (s : State) : Word × State := (Config.freeValue s.free, { s with free := s.free + 1 })

/-- The plaintext of a word read under a key: unrelated bits under another key than the writer's (R181). -/
def State.readWord (s : State) (key w : Nat) : Word × State :=
  if s.mem.stamp w = 0 ∨ s.mem.stamp w = key then (s.mem.word w, s) else s.takeFree

/-- Reads the words from w on, n of them, the first in the low bits. -/
def State.readWords (s : State) (key w : Nat) : Nat → Nat × State
  | 0 => (0, s)
  | n + 1 =>
    let (x, s1) := s.readWord key w
    let (y, s2) := s1.readWords key (w + 1) n
    (x.toNat + 2 ^ 64 * y, s2)

/-- Reads an access of n bytes at a, which lies in one word or is whole words. -/
def State.readAt (s : State) (key a n : Nat) : Nat × State :=
  if n < 8 then
    let (x, s1) := s.readWord key (a / 8)
    (x.toNat / 2 ^ (8 * (a % 8)) % 2 ^ (8 * n), s1)
  else s.readWords key (a / 8) (n / 8)

def State.writeWords (s : State) (key w : Nat) : Nat → Nat → State
  | 0, _ => s
  | n + 1, x =>
    (s.modMem fun m => (m.setWord w (BitVec.ofNat 64 x)).setStamp w key).writeWords key (w + 1) n (x / 2 ^ 64)

/-- Writes an access of n bytes at a. A narrower write keeps the word's other bytes as read under key. -/
def State.writeAt (s : State) (key a n x : Nat) : State :=
  if n < 8 then
    let (old, s1) := s.readWord key (a / 8)
    let sh := 8 * (a % 8)
    let mask := (2 ^ (8 * n) - 1) * 2 ^ sh
    let new := (old.toNat &&& (2 ^ 64 - 1 - mask)) ||| (x % 2 ^ (8 * n) * 2 ^ sh)
    s1.writeWords key (a / 8) 1 new
  else s.writeWords key (a / 8) (n / 8) x

/-- The words of an access of n bytes at a. -/
def wordsOf (a n : Nat) : List Nat := (List.range (if n < 8 then 1 else n / 8)).map (a / 8 + ·)

/-! ## The chip log (R402) -/

/-- Appends a record; the last 1,024 are kept. -/
def State.logRec (s : State) (src : Word) (cause sub : Byte) (val : Word) : State :=
  { s with sys := { s.sys with
      logcnt := s.sys.logcnt + 1
      log := ({ cycle := s.cycle, src, cause, sub, mtval := val } :: s.sys.log).take 1024 } }

/-! ## Code addresses and instances (R36, R107) -/

def handleOf (pc : Word) : BitVec 32 := pc.extractLsb' 32 32
def lineOf (pc : Word) : Nat := pc.toNat % 2 ^ 32 / 64
def slotOf (pc : Word) : Nat := pc.toNat % 8
def linearOf (pc : Word) : Nat := 5 * lineOf pc + slotOf pc
def codeAddr (h : BitVec 32) (lin : Nat) : Word := BitVec.ofNat 64 (h.toNat * 2 ^ 32 + lin / 5 * 64 + lin % 5)

/-- The call sites of a function's code in slot order (R105). -/
def callSites (lines : List Line) : List (Nat × BitVec 32) :=
  ((lines.flatMap Line.slots).zipIdx).filterMap fun p =>
    let op := p.1.extractLsb' 86 10
    if op = 0x08A then some (p.2, p.1.extractLsb' 0 32)
    else if op = 0x08B then some (p.2, 0xFFFFFFFF) else none

/-- The monitor's function with a handle, in every cluster from module reset on (R390). -/
def monitorEntry (v : Option Digest) (h : BitVec 32) : Option DirEntry :=
  let lines : List Line := (Config.monitorCode v h).map fun l => { slots := l.1, lw := l.2 }
  if lines = [] then none else
  some { pid := 0, digest := Config.monitorName v h, handle := h
         inst := some { lines, digs := Config.monitorDigests v h, calls := callSites lines } }

/-- The directory entry of a handle in a cluster: handles 1 to 0xFF are the monitor's (R107, R390). -/
def Cluster.entry (c : Cluster) (h : BitVec 32) : Option DirEntry :=
  match c.dir.find? fun e => e.handle == h with
  | some e => some e
  | none => if 1 ≤ h.toNat ∧ h.toNat < 256 then monitorEntry c.monitor h else none
def Cluster.modEntry (c : Cluster) (h : BitVec 32) (f : DirEntry → DirEntry) : Cluster :=
  { c with dir := c.dir.map fun e => if e.handle == h then f e else e }
def Cluster.inst (c : Cluster) (h : BitVec 32) : Option Inst := (c.entry h).bind (·.inst)

/-- A service routine runs from the instance its operation names; any other thread from the kiln, but for a
transfer that has waited on a code miss. -/
def State.instOf (s : State) (t : Nat) (h : BitVec 32) : Option Inst :=
  if isAct t then
    match (s.th t).transfer with
    | some f => if f.handle = h then some f.inst else (s.cluster (clusterOf t)).inst h
    | none => (s.cluster (clusterOf t)).inst h
  else match (s.th t).serve with
    | some v => (s.sys.routines.find? fun r => r.1 == v.pid && r.2.1.toNat == h.toNat % 64).map (·.2.2)
    | none => none

/-- The instance the running thread executes. -/
def State.myInst (s : State) : Option Inst := s.instOf s.cur (handleOf s.me.act.pc)
/-- Slots of an instance. -/
def Inst.slots (i : Inst) : Nat := 5 * i.lines.length
def Inst.line (i : Inst) (n : Nat) : Option Line := i.lines[n]?
/-- The TGT bit of a linear slot; false beyond the instance (R37). -/
def Inst.tgt (i : Inst) (lin : Nat) : Bool :=
  match i.line (lin / 5) with | some l => l.lw.getLsbD (lin % 5) | none => false

/-! ## Message addresses (R129) -/

def maKind (w : Word) : Nat := (w.extractLsb' 61 3).toNat
def maLocal (w : Word) : Bool := w.getLsbD 60
def maRank (w : Word) : BitVec 22 := w.extractLsb' 38 22
def maDie (w : Word) : Nat := (w.extractLsb' 36 2).toNat
def maCluster (w : Word) : Nat := maDie w * 32 + (w.extractLsb' 31 5).toNat
def maBlock (w : Word) : Nat := maCluster w * 8 + (w.extractLsb' 28 3).toNat
def maQueue (w : Word) : QIdx := w.extractLsb' 24 4
def maChan (w : Word) : CIdx := w.extractLsb' 23 5
def maJoin (w : Word) : JIdx := w.extractLsb' 22 6
/-- The block's channel that stands for a context's channel number (R135). -/
def State.chanNo (s : State) (blk : Nat) (pid : BitVec 16) (c : CIdx) : CIdx :=
  Map.get c (s.block blk).chanMap (32 * pid.toNat + c.toNat)
/-- The channel of its block that a KIND 2 address of a context names. -/
def State.chanOf (s : State) (pid : BitVec 16) (w : Word) : CIdx := s.chanNo (maBlock w) pid (maChan w)
/-- The monitor maps a context's channel number to a channel, when neither what stood for it nor what will is in use;
the spec gives the map no registers (log 17). -/
def State.mapChannel (s : State) (blk : Nat) (pid : BitVec 16) (c d : CIdx) : State :=
  let unused : CIdx → Bool := fun k =>
    let h := (s.block blk).chan k
    h.bind.isNone && h.slots.isEmpty && h.reserved == 0 && h.running == 0
  if unused (s.chanNo blk pid c) && unused d then
    s.modBlock blk fun b => { b with chanMap := Map.put b.chanMap (32 * pid.toNat + c.toNat) d }
  else s
/-- The KIND 4 address names a word of device memory. -/
def maDevice (w : Word) : Bool := w.getLsbD 59

/-- The address breaks the table of R129. KIND 5 addresses are formed by hardware alone (R376). -/
def malformed (w : Word) : Bool :=
  let rankOk := !maLocal w || maRank w == 0
  match maKind w with
  | 0 => w != 0
  | 1 => !(maLocal w && rankOk && w.extractLsb' 0 24 == 0)
  | 2 => !(rankOk && w.extractLsb' 0 23 == 0)
  | 3 => !(maLocal w && rankOk && w.extractLsb' 0 22 == 0 && w.extractLsb' 28 3 == 0)
  | 4 => !(maLocal w && w.extractLsb' 0 3 == 0 &&
      (if maDevice w then w.extractLsb' 40 19 == 0 else w.extractLsb' 38 21 == 0 && w.extractLsb' 18 10 == 0))
  | 5 => maLocal w
  | 6 => !(rankOk && w.extractLsb' 0 31 == 0)
  | _ => true

/-! ## Launches, teams and reports -/

def State.launch? (s : State) (id : Word) : Option Launch := s.sys.launches.find? fun l => l.id == id
def State.modLaunch (s : State) (id : Word) (f : Launch → Launch) : State :=
  { s with sys := { s.sys with launches := s.sys.launches.map fun l => if l.id == id then f l else l } }

def State.push (s : State) (m : Msg) : State := { s with flight := s.flight ++ [m] }

/-- Sends a report to an address, from a launch inbox (R145); one that no message can reach gets none. -/
def State.report (s : State) (cl : Nat) (pid : BitVec 16) (reply : Word) (words : List Word) (origin : Origin) : State :=
  if reply = 0 ∨ malformed reply ∨ 4 < maKind reply then s else
  s.push { dest := reply, payload := words, src := inboxSource cl, wid := 0, pid, origin, die := cl / 32 }
/-- Sends a report of a live launch. -/
def State.reportTo (s : State) (l : Launch) (words : List Word) (final : Bool) : State :=
  s.report l.inbox l.pid l.reply words (.report l.id final 0)

/-- Field widths of a work identifier (R79, R80). -/
def widthOf (spec : BitVec 36) (k : Nat) : Nat := spec.toNat / 2 ^ (6 * k) % 64
/-- The low bit of field n (R80). -/
def fieldLow (spec : BitVec 36) (n : Nat) : Nat :=
  ((List.range 6).map (widthOf spec)).sum - ((List.range (n + 1)).map (widthOf spec)).sum
/-- The team key at level n: the bits below field n cleared (R80). -/
def teamKey (spec : BitVec 36) (n : Nat) (w : Word) : Word :=
  (w >>> fieldLow spec n) <<< fieldLow spec n

/-- The team an activation belongs to: its launch and key, when the launch has a journal (R163). -/
def State.teamOf (s : State) (a : Act) : Option (Word × Word) :=
  match s.launch? a.launch with
  | some l => if l.chk = 0xFF then none else some (l.id, teamKey l.widspec l.chk.toNat a.wid)
  | none => none

/-- The open epoch of a team in a block. -/
def Block.epoch (b : Block) (team : Word × Word) : Option Epoch :=
  b.epochs.find? fun e => e.launch == team.1 && e.team == team.2
def Block.modEpoch (b : Block) (team : Word × Word) (f : Epoch → Epoch) : Block :=
  { b with epochs := b.epochs.map fun e => if e.launch == team.1 && e.team == team.2 then f e else e }

/-- Activation threads of the chip that run or stall, with their numbers. -/
def State.actives (s : State) : List (Nat × Thread) :=
  List.filter (fun e : Nat × Thread => isAct e.1 && e.2.status != .idle) s.threads

/-- The team can be replayed: it has epochs, none of them dead and none used up (R164, R165). -/
def State.replayable (s : State) (a : Act) : Bool :=
  match s.teamOf a with
  | none => false
  | some team =>
    let es := List.filterMap (fun e : Nat × Block => e.2.epoch team) s.blocks
    !es.isEmpty && es.all fun e => !e.dead && decide (e.replays < 4)

/-- A team becomes non-replayable until its next epoch (R164). -/
def State.killEpoch (s : State) (a : Act) : State :=
  match s.teamOf a with
  | none => s
  | some team => s.eachBlock fun b => b.modEpoch team fun p => { p with dead := true }

/-- n more entries do not fit the block's journal of 8,192: its live epochs share it (R18, R164). -/
def Block.journalFull (b : Block) (n : Nat) : Bool :=
  decide (8192 < ((b.epochs.filter fun p => !p.dead).map (·.used)).sum + n)

/-- The first number that thread t sends to a destination in the epoch, for an activation, is journalled (R164). -/
def State.journalSendOf (s : State) (a : Act) (t : Nat) (dest : Word) (n : BitVec 24) : State :=
  match s.teamOf a with
  | none => s
  | some team => s.modBlock (blockOf t) fun b => b.modEpoch team fun p =>
      if p.dead ∨ p.sends.any (fun e => e.1 == t && e.2.1 == dest) then p
      else if b.journalFull 1 then { p with dead := true }
      else { p with sends := p.sends ++ [(t, dest, n)], used := p.used + 1 }
def State.journalSend (s : State) (t : Nat) (dest : Word) (n : BitVec 24) : State := s.journalSendOf (s.th t).act t dest n

/-! ## The end of an activation (R122, R166, R397) -/

/-- The counts that follow an activation: its channel's, its launch's (R135, R147, R149). -/
def State.uncount (s : State) (blk : Nat) (a : Act) : State :=
  let s1 := if a.recruit then s else s.modBlock blk fun b =>
    b.modChan a.home fun c => { c with running := c.running - 1 }
  s1.modLaunch a.launch fun l =>
    { l with running := l.running - 1
             released := if a.enumNo.isSome && !a.triggered then l.released + 1 else l.released }

/-- The failure of a message whose activation has ended goes nowhere. -/
def State.disown (s : State) (t : Nat) : State :=
  { s with
    flight := s.flight.map fun m => if m.origin = .thread t then { m with origin := .gone } else m
    fab := { s.fab with unacked := s.fab.unacked.map fun u => if u.thread = t ∧ u.msg.isSome then { u with thread := 65535 } else u } }

/-- The event is one that thread t sent and still waits for. -/
def BarEvent.of (t : Nat) : BarEvent → Bool
  | .init u _ | .arrive u _ | .drop u _ => u == t
  | .ofEnded _ _ => false
/-- What barrier cell b knows of thread t as a party. -/
def State.partyOf (s : State) (t b : Nat) : Party :=
  let a := (s.th t).act
  { pid := a.pid, launch := a.launch, team := s.teamOf a, record := Map.get .none a.arrivals b }
/-- Thread t no longer waits for barrier cells: their answers to it go nowhere, and an event that it has sent arrives
without it. -/
def State.leaveBars (s : State) (t : Nat) : State :=
  s.modCluster (clusterOf t) fun c => { c with bars := List.map (fun e : Nat × BarCell =>
    (e.1, { e.2 with answers := e.2.answers.filter fun a => a.1 != t
                     events := e.2.events.map fun v => if v.of t then .ofEnded v (s.partyOf t e.1) else v })) c.bars }

/-- The vector unit's grant to thread t ends unused, and so does the thread's place in the unit's line (R263). -/
def State.dropGrant (s : State) (t : Nat) : State :=
  let b := s.block (blockOf t)
  if b.vgrant = some t ∨ b.vwait.contains t then s.modBlock (blockOf t) fun b =>
    { b with vgrant := if b.vgrant = some t then none else b.vgrant, vwait := b.vwait.filter (· != t) }
  else s

/-- Discards the registers and loop stack of thread t's activation and frees its core (R122). Answers
of its outstanding accesses go nowhere. -/
def State.freeThread (s : State) (t : Nat) : State :=
  let a := (s.th t).act
  ((((s.disown t).leaveBars t).dropGrant t).uncount (blockOf t) a).modTh t fun x =>
    { x with act := { pid := a.pid, encl := a.encl, vi := a.vi }, status := .idle, mode := .context, entry := none, mloops := [], view := none, paired := false, mcall := false,
             eqops := [], sendWait := 0, sendDst := none, sendAns := none, bound := none, transfer := none,
             outst := x.outst.map fun r => { r with orphan := true, dst := .none } }

/-- Failures still recorded when a fault ends the activation go to the chip log (R122). -/
def State.logRecorded (s : State) (t : Nat) (a : Act) : State :=
  let src := sourceOf t
  let s1 := if a.rfault.extractLsb' 60 4 = 0 then s
    else s.logRec src (if a.rfault.extractLsb' 60 4 = 6 then 0x0B else 0x0A) 0 a.rfaultAddr
  let s2 := if a.mstat.extractLsb' 56 8 = 0 then s1
    else s1.logRec src (a.mstat.extractLsb' 56 8) 0 ((a.mstat.extractLsb' 52 4).setWidth 64)
  if a.jstat.extractLsb' 56 8 = 0 then s2
  else s2.logRec src (a.jstat.extractLsb' 56 8) 0 ((a.jstat.extractLsb' 0 32).setWidth 64)

/-- Discards the displaced activations that p holds of: they have ended. -/
def State.dropDisplaced (s : State) (p : Act → Bool) : State :=
  let all : List (Nat × Act) := List.flatMap (fun e : Nat × Block => (e.2.displaced.filter fun d => p d.act).map fun d => (e.1, d.act)) s.blocks
  (all.foldl (fun s e => s.uncount e.1 e.2) s).eachBlock fun b => { b with displaced := b.displaced.filter fun d => !p d.act }

/-- Continuations that join cells owe are dropped: each had been counted among its launch's activations (R156). -/
def State.dropOwed (s : State) (p : Owed → Bool) : State :=
  let all : List Owed := List.flatMap (fun e : Nat × Cluster => List.flatMap (fun j : Nat × JoinCell => j.2.owed.filter p) e.2.joins) s.clusters
  let s1 : State := { s with clusters := List.map (fun e : Nat × Cluster =>
    (e.1, { e.2 with joins := List.map (fun j : Nat × JoinCell => (j.1, { j.2 with owed := j.2.owed.filter fun o => !p o })) e.2.joins })) s.clusters }
  all.foldl (fun s o => s.modLaunch o.launch fun l => { l with running := l.running - 1 }) s1

/-- Stops a launch at once: its waiting messages are discarded, its activations stopped (R147). -/
def State.stopLaunch (s : State) (id : Word) : State :=
  let mine : Msg → Bool := fun m =>
    (match m.origin with | .report _ _ _ => false | _ => true) && maKind m.dest == 2 &&
    match ((s.block (maBlock m.dest)).chan (s.chanOf m.pid m.dest)).bind with | some n => n.launch == id | none => false
  let s0 := (s.flight.filter mine).foldl (fun s m => s.modBlock (maBlock m.dest) fun b =>
    b.modChan (s.chanOf m.pid m.dest) fun c => { c with reserved := c.reserved - 1 }) s
  let s1 := { s0 with flight := s0.flight.filter fun m => !mine m }
  let s2 := s1.eachBlock fun b =>
    b.eachChan fun c => match c.bind with
      | some n => if n.launch == id then { c with slots := [] } else c
      | none => c
  let s2 := (s2.dropDisplaced fun a => a.launch == id).dropOwed fun o => o.launch == id
  let ts := (s2.actives.filter fun e => e.2.act.launch == id).map (·.1)
  (ts.foldl State.freeThread s2).modLaunch id fun l => { l with stopped := true, running := 0 }

/-- Discards messages that wait in a channel; one that is head only now ages from now on (R138). -/
def Channel.discard (now : Word) (p : Msg → Bool) (c : Channel) : Channel :=
  let slots := c.slots.filter fun m => !p m
  { c with slots, since := if slots.head? = c.slots.head? then c.since else now }

/-- The message starts an activation of a team of its launch. -/
def State.startsMember (s : State) (team : Word × Word) (m : Msg) : Bool :=
  maKind m.dest == 2 && (match m.origin with | .report _ _ _ => false | _ => true) &&
  (match ((s.block (maBlock m.dest)).chan (s.chanOf m.pid m.dest)).bind with | some n => n.launch == team.1 | none => false) &&
  s.teamOf { launch := team.1, wid := m.wid } == some team

/-- Discards a team's pending messages, those on their way and those in a channel's slots; what enumerates later of
it never starts (R166). -/
def State.dropMessages (s : State) (team : Word × Word) : State :=
  let p := s.startsMember team
  let onWay := s.flight.filter p
  let inSlots : List Msg := List.flatMap (fun e : Nat × Block => List.flatMap (fun c : Nat × Channel => c.2.slots.filter p) e.2.chans) s.blocks
  let gone := ((onWay ++ inSlots).filter (·.enumNo.isSome)).length
  let s1 := onWay.foldl (fun s m => s.modBlock (maBlock m.dest) fun b =>
    b.modChan (s.chanOf m.pid m.dest) fun c => { c with reserved := c.reserved - 1 }) s
  let s2 := ({ s1 with flight := s1.flight.filter fun m => !p m }).eachBlock fun b =>
    b.eachChan (Channel.discard s1.cycle p)
  s2.modLaunch team.1 fun l => { l with
    dispatched := l.dispatched + gone, released := l.released + gone, deadTeams := team.2 :: l.deadTeams }

/-- Sends the ERROR report of R145 for thread t and applies ERRSTOP (R147). -/
def State.errorReport (s : State) (t : Nat) (a : Act) (cause : Byte) (epc val : Word) : State :=
  match s.launch? a.launch with
  | none => s
  | some l =>
    let extra : Word := if cause = 0x04 ∨ cause = 0x05 ∨ cause = 0x10 then a.codeflt
      else if cause = 0x0A then a.taken else 0
    let s1 := s.reportTo l [4, l.id, (cause.setWidth 64), epc, val, a.wid, BitVec.ofNat 64 t, extra] false
    s1.modLaunch l.id fun l => { l with
      errors := if l.errors = BitVec.allOnes 64 then l.errors else l.errors + 1
      stopped := l.stopped || l.errStop }

/-- With ERRSTOP the first ERROR report ends its launch (R147). -/
def State.stopOnError (s : State) (launch : Word) : State :=
  match s.launch? launch with
  | some l => if l.errStop then s.stopLaunch l.id else s
  | none => s

/-- Ends the activation of thread t, or its whole team when the launch has a journal, with one ERROR
report (R166, R397). With ERRSTOP the first report ends the launch (R147). -/
def State.endFaulted (s : State) (t : Nat) (cause : Byte) (epc val : Word) : State :=
  let a := (s.th t).act
  let s1 := (s.logRecorded t a).errorReport t a cause epc val
  let s2 := match s.teamOf a with
    | none => s1.freeThread t
    | some team =>
      let same : Act → Bool := fun b => s1.teamOf b == some team
      let ts : List Nat := (List.filter (fun e : Nat × Thread => same e.2.act) s1.actives).map Prod.fst
      let owing : Owed → Bool := fun o => s1.teamOf { launch := o.launch, wid := o.wid } == some team
      ((((ts.foldl State.freeThread s1).dropDisplaced same).dropOwed owing).dropMessages team).eachBlock fun b =>
        { b with epochs := b.epochs.filter fun p => !(p.launch == team.1 && p.team == team.2) }
  s2.stopOnError a.launch

/-! ## Exceptions -/

/-- The code address of the faulting instruction: the first member's in a pair (R38). -/
def Thread.faultPc (x : Thread) : Word := match x.view with | some w => w.pc | none => x.act.pc

/-- A double fault (R392): the activation ends with the second fault's cause and address, the chip log
gets a record with sub-reason 0xFF, and the core is withdrawn from dispatch. -/
def State.doubleFault (s : State) (t : Nat) (cause : Byte) (val : Word) : State :=
  let pc := (s.th t).faultPc
  let s1 := (s.logRec (sourceOf t) cause 0xFF val).modTh t fun x => { x with mode := .context }
  (s1.endFaulted t cause pc val).modOwner (coreOf t) fun o => { o with withdrawn := true }

/-- The vector slot's TGT bit is clear in the monitor's vector function, where that is resident (R392). -/
def State.badVector (s : State) (t : Nat) (code : Byte) : Bool :=
  match (s.cluster (clusterOf t)).inst 1 with
  | some i => !i.tgt (5 * code.toNat)
  | none => false

/-- Monitor entry (R391). -/
def State.monitorEntry (s : State) (t : Nat) (tr : Trap) : State :=
  let x := s.th t
  let pc := x.act.pc
  let epc := tr.epc.getD (if tr.nextSlot then codeAddr (handleOf pc) (linearOf pc + 1) else x.faultPc)
  let mg := if tr.code = 0 then (List.range 8).foldl (fun m i => Map.set 0 m (i + 1) (Map.get 0 x.act.g (i + 1))) x.mg
    else x.mg
  let s1 := (s.dropGrant t).setTh t { x with
    mepc := epc, mcause := tr.code, mtval := tr.val, mg := mg, mode := .monitor, status := .running, entry := some x.act
    view := none, paired := false, bound := none, norpl := !s.replayable x.act, mretire := 0, mcall := tr.code == 0, served := false, mloops := []
    act := { x.act with pc := codeAddr 1 (5 * tr.code.toNat) } }
  if s.badVector t tr.code then s1.doubleFault t tr.code tr.val else s1

/-- Writes a g register of the context, whatever mode thread t is in by now. -/
def Act.setG (a : Act) (d : GReg) (w : Word) : Act :=
  if d = 0 then a else
  { a with g := Map.set 0 a.g d.toNat w, gErr := a.gErr &&& ~~~(1#32 <<< d.toNat), gBad := a.gBad &&& ~~~(1#32 <<< d.toNat) }

/-- The activation as it stands when monitor mode is left (R396): an MCALL's status is in its g1, and its pc is MEPC. -/
def Thread.returned (x : Thread) : Act :=
  let a := if x.mcall then x.act.setG 1 (Map.get 0 x.mg 1) else x.act
  { a with pc := x.mepc }
/-- The return from an exception (R396): context mode, at MEPC, with the context's own loop stack. -/
def Thread.leaveMonitor (x : Thread) : Thread :=
  { x with act := x.returned, mode := .context, entry := none, mcall := false, served := false, mloops := [] }

/-- The core's activation thread is to issue before its next service operation begins (R201). -/
def State.turnOf (s : State) (o : Nat) : State := if o < 16384 then s.modOwner o fun w => { w with turn := true } else s

/-- The code that answers for an abandoned routine (R213): 0x08 for an access that it may not make, 0x01 for an
instruction that it may not use; a fault of an instruction that it may use keeps its own (log 87). -/
def routineCode (c : Byte) : Byte :=
  if c = 0x07 ∨ c = 0x09 then 0x08 else if c = 0x0E ∨ c = 0x0F ∨ c = 0x12 ∨ c = 0x15 then 0x01 else c

/-- The service thread is free again, and nothing of what it ran is left. -/
def Thread.doneServing (x : Thread) : Thread :=
  { x with serve := none, status := .idle, act := {}, view := none, paired := false }

/-- Ends the service operation of thread t: its routine is abandoned (R213). The answer is
0xFFFF_FFFF_FFFF_FF00 | code, and the chip log gets a record. -/
def State.abandon (s : State) (t : Nat) (code : Byte) : State :=
  match (s.th t).serve with
  | none => s
  | some v =>
    let ans : Word := 0xFFFFFFFFFFFFFF00 ||| (routineCode code).setWidth 64
    let s1 := ((s.turnOf (ownerOf t)).logRec (sourceOf t) code 0 v.addr).modTh t Thread.doneServing
    s1.modTh v.thread fun x => { x with outst := x.outst.map fun r =>
      if r.seq = v.seq then { r with phase := .done, elems := r.elems.map fun e => { e with done := true, res := ans.setWidth 1024 } }
      else r }

/-- Thread t stops, with a record in the chip log, until its team is replayed (R165, R391). -/
def State.awaitReplay (s : State) (t : Nat) (code : Byte) (val : Word) : State :=
  ((s.dropGrant t).logRec (sourceOf t) code 0 val).modTh t fun x =>
    { x with status := .stalled .replay, mode := .context, mcause := code, mtval := val, paired := false }

/-- Takes an exception: the ONE operation by which an instruction raises a fault (R391, R392, R213). In
context mode the monitor is entered, or the team waits for its replay (R165); in monitor mode it is a
double fault; in a service thread the routine is abandoned. trap records what was raised (log 11). -/
def State.takeFault (s : State) (tr : Trap) : State :=
  let t := s.cur
  let x := s.th t
  let s := { s with trap := some tr }
  if !isAct t then s.abandon t tr.code
  else if x.mode = .monitor then s.doubleFault t tr.code tr.val
  else if (tr.code = 0x16 ∨ tr.code = 0x0A) ∧ s.replayable x.act then s.awaitReplay t tr.code tr.val
  else s.monitorEntry t tr

/-- The running instruction raises a fault. -/
def raise (code : Byte) (val : Word) (s : State) : Out State := .next (s.takeFault { code, val })

/-- The running instruction raises a fault whose MTVAL the spec does not state: a free value (log 8). -/
def raiseOpen (code : Byte) (s : State) : Out State := let r := s.takeFree; raise code r.1 r.2

/-- The instruction's entry raises 0x01 for what an operand's value names: one of its own faults (R42). -/
def raiseOwn (val : Word) (s : State) : Out State := .next (s.takeFault { code := 0x01, val, own := true })

/-- The illegal-instruction fault, with MTVAL the instruction's bits [95:32] (R42). -/
def illegal (i : Instr) (s : State) : Out State := raise 0x01 ((encode i).extractLsb' 32 64) s

/-- The errors that a thread has received and not yet taken, oldest first, each with its full address. -/
def Act.errors (a : Act) : List (Word × Word) :=
  if a.rfault.extractLsb' 60 4 = 0 then [] else (a.rfault &&& 0xFC00FFFFFFFFFFFF, a.rfaultAddr) :: a.later
/-- RFAULT for a list of errors: the first, and in MORE the number of the others (R177). -/
def Act.setErrors (a : Act) : List (Word × Word) → Act
  | [] => { a with rfault := 0, rfaultAddr := 0, later := [] }
  | (w, addr) :: more =>
    { a with rfault := w ||| BitVec.ofNat 64 (min 1023 more.length * 2 ^ 48), rfaultAddr := addr, later := more }

/-- Records an access error against an activation (R177, R178, R422). -/
def Act.addError (a : Act) (cause : Byte) (op sp : Nat) (addr : Word) : Act :=
  if cause = 0x17 then { a with hazard := a.hazard.orElse fun _ => some addr }
  else a.setErrors (a.errors ++
    [(BitVec.ofNat 64 (cause.toNat % 16 * 2 ^ 60 + op * 2 ^ 58 + sp * 2 ^ 44 + addr.toNat % 2 ^ 40), addr)])
/-- Records an access error against thread t. -/
def State.recordError (s : State) (t : Nat) (cause : Byte) (op sp : Nat) (addr : Word) : State :=
  s.modCtx t fun a => a.addError cause op sp addr

/-- The group of a multicast address. -/
def groupOf (ea : Word) : BitVec 22 := ea.extractLsb' 40 22
/-- A track whose held error is taken frees (R376). -/
def Act.freeTracks (a : Act) : Act :=
  { a with tracks := List.filterMap (fun e : Nat × Option Track =>
      match e.2 with
      | some k => if !k.failed then some e
        else if k.waiting = [] then none else some (e.1, some { group := k.group, waiting := k.waiting })
      | none => none) a.tracks }

/-- Takes the first recorded access error, if there is one (R178). -/
def Act.deferred (a : Act) : Option Trap :=
  if a.rfault.extractLsb' 60 4 = 0 then a.hazard.map fun w => { code := 0x17, val := w }
  else some { code := if a.rfault.extractLsb' 60 4 = 6 then 0x0B else 0x0A, val := a.rfaultAddr }

/-- Raises the recorded access error. RFAULT becomes zero as it is taken; the ERROR report gives what it
held (R145, R177). -/
def State.takeDeferred (s : State) (tr : Trap) : State :=
  (s.modMyAct fun b =>
    if tr.code = 0x17 then { b with hazard := none } else { (b.setErrors []).freeTracks with taken := b.rfault }).takeFault tr

/-- The matrix failure recorded in MSTAT, as the fault it is taken as (R317). -/
def Act.matrixFail (a : Act) : Option Trap :=
  let c := a.mstat.extractLsb' 56 8
  if c = 0 then none
  else
    let more : Word := (a.mstat.extractLsb' 32 8).setWidth 64 <<< 32
    let tile : Word := (a.mstat.extractLsb' 52 4).setWidth 64
    some { code := c, val := if c = 0x06
      then more ||| 0x1000000 ||| (tile <<< 16) ||| ((a.mstat.extractLsb' 26 5).setWidth 64 <<< 8) ||| (a.mstat.extractLsb' 21 5).setWidth 64
      else more ||| tile }
/-- MSTAT with its failure taken: PEND and the flags stay (R316, R317). -/
def mstatTaken (w : Word) : Word := w &&& 0x0000FF000000001F

/-- The card-job failure recorded in JSTAT (R330, R334). -/
def Act.cardFail (a : Act) : Option Trap :=
  let c := a.jstat.extractLsb' 56 8
  if c = 0 then none
  else some { code := c, val := ((a.jstat.extractLsb' 48 8).setWidth 64 <<< 32) ||| (a.jstat.extractLsb' 0 32).setWidth 64 }
/-- JSTAT with its failure taken: PEND stays. -/
def jstatTaken (w : Word) : Word := w &&& 0x0000FFFF00000000

/-! ## Loops and retirement (R102, R120) -/

/-- The loop stack of the mode (log 15). -/
def Thread.loops (x : Thread) : List Loop := if x.mode = .monitor then x.mloops else x.act.loops
def Thread.setLoops (x : Thread) (ls : List Loop) : Thread :=
  if x.mode = .monitor then { x with mloops := ls } else { x with act := { x.act with loops := ls } }

/-- Ends iterations at a fall-through from linear slot lin: the new stack, and where control returns to. -/
def loopFall (h : BitVec 32) (lin : Nat) : List Loop → List Loop × Option Nat
  | [] => ([], none)
  | l :: ls =>
    if l.calls = 0 ∧ l.handle = h ∧ l.last = lin then
      if 1 < l.count.toNat then ({ l with count := l.count - 1 } :: ls, some l.first) else loopFall h lin ls
    else (l :: ls, none)

/-- Pops the entries of the current frame whose bodies do not contain the target (R102). -/
def popTo (h : BitVec 32) (tgt : Nat) : List Loop → List Loop
  | [] => []
  | l :: ls =>
    if l.calls ≠ 0 ∨ (l.handle = h ∧ l.first ≤ tgt ∧ tgt ≤ l.last) then l :: ls else popTo h tgt ls

/-- The entries of the current frame (R100). -/
def frameOf : List Loop → List Loop
  | [] => []
  | l :: ls => if l.calls = 0 then l :: frameOf ls else []
/-- The entries below the current frame. -/
def belowFrame : List Loop → List Loop
  | [] => []
  | l :: ls => if l.calls = 0 then belowFrame ls else l :: ls

/-- Counts one retirement (R120, R392, R213). -/
def Thread.count (t : Nat) (x : Thread) : Thread :=
  if !isAct t then { x with serve := x.serve.map fun v => { v with retired := v.retired + 1 } }
  else if x.mode = .monitor then { x with mretire := x.mretire + 1 }
  else { x with act := { x.act with retire := x.act.retire + 1 } }

/-- Sets the pc. -/
def Thread.setPc (x : Thread) (pc : Word) : Thread := { x with act := { x.act with pc } }

/-- The running instruction retires and control falls through (R36, R102, R120). -/
def State.retire (s : State) : State :=
  s.modMe fun x =>
    let h := handleOf x.act.pc
    let lin := linearOf x.act.pc
    let r := loopFall h lin x.loops
    (((x.setLoops r.1).setPc (codeAddr h (r.2.getD (lin + 1)))).count s.cur)

/-- An instruction that writes one g register and retires. -/
def State.writeRetire (s : State) (d : GReg) (w : Word) : State := (s.setG d w).retire

/-- The target check of R37 for linear slot lin of the running function. -/
def State.targetOk (s : State) (lin : Int) : Bool :=
  match s.myInst with
  | some i => decide (0 ≤ lin) && i.tgt lin.toNat
  | none => false

/-- A taken transfer within the function, checked before (R102). -/
def State.jumpTo (s : State) (lin : Nat) : State :=
  s.modMe fun x =>
    let h := handleOf x.act.pc
    ((x.setLoops (popTo h lin x.loops)).setPc (codeAddr h lin)).count s.cur

/-- The slot that an offset names (R36). -/
def State.slotAt (s : State) (off : BitVec 48) : Int := (linearOf s.me.act.pc : Int) + off.toInt

/-- The code address of a slot that may lie outside the function, for MTVAL. -/
def targetAddr (h : BitVec 32) (lin : Int) : Word :=
  BitVec.ofInt 64 ((h.toNat : Int) * 2 ^ 32 + lin / 5 * 64 + lin % 5)

/-! ## The age of the instruction at the pc (R22) -/

/-- What tells one issue of a thread from the next. The members of a pair issue as one, from its first slot (R38, R40). -/
def Thread.issueKey (x : Thread) : Word × Nat × Nat × Nat := (x.faultPc, x.act.retire, x.mretire, x.act.id)
/-- CYCLE at which the instruction at the pc became the next to issue. -/
def Thread.headSince (x : Thread) (now : Word) : Word := if x.headOf = x.issueKey then x.head else now
/-- Notes it. -/
def Thread.atHead (x : Thread) (now : Word) : Thread :=
  if x.headOf = x.issueKey then x else { x with head := now, headOf := x.issueKey }

/-! ## Stalls and mode checks -/

/-- The running instruction stalls at its slot and is issued again later. -/
def State.stall (s : State) (w : Wait) : State := s.modMe fun x => { x with status := .stalled w }
/-- The running thread stalls on a send, whose time it counts (R141, R152). -/
def State.stallSend (s : State) (w : SendWait) : State :=
  s.modMe fun x => { x with status := .stalled .send, sendDst := some w, sendWait := if x.sendDst = some w then x.sendWait else 0 }
def State.unstall (s : State) (t : Nat) : State := s.modTh t fun x => { x with status := .running, paired := false }

/-- Runs f unless the running thread is a service thread, where the instruction is illegal. -/
def noService (i : Instr) (s : State) (f : State → Out State) : Out State :=
  if isAct s.cur then f s else illegal i s

/-- The faults of a monitor instruction outside monitor mode (R51, R394). -/
def monitorOnly (i : Instr) (s : State) (f : State → Out State) : Out State :=
  if !isAct s.cur then illegal i s
  else if s.me.mode = .monitor then f s
  else raiseOpen 0x15 s

end Sys2Proof.Machine
end

