-- ==== Sys2Proof/Machine/Scalar.lean ====
section
/-! DEFINITION. The integer instructions of classes 0 and 1 (R71–R86): each reads g registers, writes
gD and retires. -/

namespace Sys2Proof.Machine

/-! ## Shared shapes and bit functions -/

/-- Writes f of gA and gB to gD (R74). -/
def op3 (f : Word → Word → Word) (d a b : GReg) (s : State) : Out State :=
  .next (s.writeRetire d (f (s.g a) (s.g b)))

/-- Writes f of gA to gD. -/
def op2 (f : Word → Word) (d a : GReg) (s : State) : Out State := .next (s.writeRetire d (f (s.g a)))

/-- 1 for true and 0 for false (R71). -/
def boolWord (b : Bool) : Word := if b then 1 else 0

/-- A number from its bits: bit i of the result is f i, for i below n. -/
def bitsOf (f : Nat → Bool) : Nat → Nat
  | 0 => 0
  | n + 1 => bitsOf f n + (if f n then 2 ^ n else 0)

/-- A word from its bits. -/
def wordOf (f : Nat → Bool) : Word := BitVec.ofNat 64 (bitsOf f 64)

def countShift (b : Word) : Nat := b.toNat % 64
def rol (a : Word) (c : Nat) : Word := if c = 0 then a else (a <<< c) ||| (a >>> (64 - c))
def ror (a : Word) (c : Nat) : Word := if c = 0 then a else (a >>> c) ||| (a <<< (64 - c))

/-- Quotient of DIV, truncating towards zero, with its two corners (R76). -/
def divS (a b : Word) : Word :=
  if b = 0 then BitVec.allOnes 64
  else if a.toInt = -(2 ^ 63) ∧ b.toInt = -1 then BitVec.ofInt 64 (-(2 ^ 63))
  else BitVec.ofInt 64 (Int.tdiv a.toInt b.toInt)
def remS (a b : Word) : Word :=
  if b = 0 then a
  else if a.toInt = -(2 ^ 63) ∧ b.toInt = -1 then 0
  else BitVec.ofInt 64 (a.toInt - b.toInt * Int.tdiv a.toInt b.toInt)
def divU (a b : Word) : Word := if b = 0 then BitVec.allOnes 64 else BitVec.ofNat 64 (a.toNat / b.toNat)
def remU (a b : Word) : Word := if b = 0 then a else BitVec.ofNat 64 (a.toNat - b.toNat * (a.toNat / b.toNat))

/-- Zero bits below the lowest set bit, counting from bit i for n bits more. -/
def ctzFrom (a : Word) (i : Nat) : Nat → Nat
  | 0 => 0
  | n + 1 => if a.getLsbD i then 0 else 1 + ctzFrom a (i + 1) n
/-- Zero bits above the highest set bit among bits n−1 to 0. -/
def clzFrom (a : Word) : Nat → Nat
  | 0 => 0
  | n + 1 => if a.getLsbD n then 0 else 1 + clzFrom a n
def popcFrom (a : Word) : Nat → Nat
  | 0 => 0
  | n + 1 => popcFrom a n + (if a.getLsbD n then 1 else 0)

def bswap (a : Word) : Word :=
  BitVec.ofNat 64 (((List.range 8).map fun i => (a.toNat / 2 ^ (8 * i) % 256) * 2 ^ (8 * (7 - i))).sum)

/-- sext(x, n) and zext(x, n) of R8. -/
def sextW (x : Word) (n : Nat) : Word :=
  let y := x.toNat % 2 ^ n
  if 2 ^ (n - 1) ≤ y then BitVec.ofNat 64 (y + 2 ^ 64 - 2 ^ n) else BitVec.ofNat 64 y
def zextW (x : Word) (n : Nat) : Word := BitVec.ofNat 64 (x.toNat % 2 ^ n)

/-- The product of 8 × 8 bit matrices (R83): element (i, k) of the first operand is bit (ix i k) of a,
and the sum over k is XOR, or OR for the boolean product. -/
def bmm8 (ix : Nat → Nat → Nat) (xor : Bool) (a b : Word) : Word :=
  wordOf fun n =>
    let i := n / 8
    let j := n % 8
    (List.range 8).foldl (fun acc k =>
      let p := a.getLsbD (ix i k) && b.getLsbD (8 * k + j)
      if xor then Bool.xor acc p else acc || p) false

/-- PDEP (R84): k is the next bit of a to place, at position i and above. -/
def pdepFrom (a b : Word) (i k : Nat) : Nat → Nat
  | 0 => 0
  | n + 1 =>
    if b.getLsbD i then (if a.getLsbD k then 2 ^ i else 0) + pdepFrom a b (i + 1) (k + 1) n
    else pdepFrom a b (i + 1) k n
/-- PEXT (R84): k is the next bit of the result. -/
def pextFrom (a b : Word) (i k : Nat) : Nat → Nat
  | 0 => 0
  | n + 1 =>
    if b.getLsbD i then (if a.getLsbD i then 2 ^ k else 0) + pextFrom a b (i + 1) (k + 1) n
    else pextFrom a b (i + 1) k n
def pdep (a b : Word) : Word := BitVec.ofNat 64 (pdepFrom a b 0 0 64)
def pext (a b : Word) : Word := BitVec.ofNat 64 (pextFrom a b 0 0 64)

/-- BPERM (R85): byte i of the control selects bit i of the result; bit 6 of a control byte is ignored. -/
def bperm (ctl : BitVec 2048) (a : Word) : Word :=
  wordOf fun i =>
    let c := ctl.toNat / 2 ^ (8 * i) % 256
    if 128 ≤ c then false else a.getLsbD (c % 64)

def bfx (a : Word) (pos len : Nat) : Word := zextW (a >>> pos) len
def bfi (a b : Word) (pos len : Nat) : Word :=
  let mask : Word := BitVec.ofNat 64 ((2 ^ len - 1) * 2 ^ pos)
  (a &&& ~~~mask) ||| ((b <<< pos) &&& mask)
def brev (a : Word) : Word := wordOf fun i => a.getLsbD (63 - i)

/-- WIDSPEC as an instruction reads it: zero in the service thread (R79). -/
def State.widspec (s : State) : BitVec 36 := if isAct s.cur then s.me.act.widspec else 0

/-! ## Class 0 (R74–R82) -/

def execAdd (d a b : GReg) (s : State) : Out State := op3 (fun x y => x + y) d a b s
def execSub (d a b : GReg) (s : State) : Out State := op3 (fun x y => x - y) d a b s
def execAnd (d a b : GReg) (s : State) : Out State := op3 (fun x y => x &&& y) d a b s
def execOr (d a b : GReg) (s : State) : Out State := op3 (fun x y => x ||| y) d a b s
def execXor (d a b : GReg) (s : State) : Out State := op3 (fun x y => x ^^^ y) d a b s
def execAndn (d a b : GReg) (s : State) : Out State := op3 (fun x y => x &&& ~~~y) d a b s
def execShl (d a b : GReg) (s : State) : Out State := op3 (fun x y => x <<< countShift y) d a b s
def execShr (d a b : GReg) (s : State) : Out State := op3 (fun x y => x >>> countShift y) d a b s
def execSra (d a b : GReg) (s : State) : Out State := op3 (fun x y => x.sshiftRight (countShift y)) d a b s
def execRol (d a b : GReg) (s : State) : Out State := op3 (fun x y => rol x (countShift y)) d a b s
def execRor (d a b : GReg) (s : State) : Out State := op3 (fun x y => ror x (countShift y)) d a b s
def execMin (d a b : GReg) (s : State) : Out State := op3 (fun x y => if x.toInt ≤ y.toInt then x else y) d a b s
def execMax (d a b : GReg) (s : State) : Out State := op3 (fun x y => if y.toInt ≤ x.toInt then x else y) d a b s
def execMinu (d a b : GReg) (s : State) : Out State := op3 (fun x y => if x.toNat ≤ y.toNat then x else y) d a b s
def execMaxu (d a b : GReg) (s : State) : Out State := op3 (fun x y => if y.toNat ≤ x.toNat then x else y) d a b s
def execSeq (d a b : GReg) (s : State) : Out State := op3 (fun x y => boolWord (x == y)) d a b s
def execSne (d a b : GReg) (s : State) : Out State := op3 (fun x y => boolWord (x != y)) d a b s
def execSlt (d a b : GReg) (s : State) : Out State := op3 (fun x y => boolWord (decide (x.toInt < y.toInt))) d a b s
def execSltu (d a b : GReg) (s : State) : Out State := op3 (fun x y => boolWord (decide (x.toNat < y.toNat))) d a b s

def execAddi (d a : GReg) (imm : BitVec 48) (s : State) : Out State := op2 (fun x => x + imm.signExtend 64) d a s
def execAndi (d a : GReg) (imm : BitVec 48) (s : State) : Out State := op2 (fun x => x &&& imm.signExtend 64) d a s
def execOri (d a : GReg) (imm : BitVec 48) (s : State) : Out State := op2 (fun x => x ||| imm.signExtend 64) d a s
def execXori (d a : GReg) (imm : BitVec 48) (s : State) : Out State := op2 (fun x => x ^^^ imm.signExtend 64) d a s
def execSlti (d a : GReg) (imm : BitVec 48) (s : State) : Out State :=
  op2 (fun x => boolWord (decide (x.toInt < imm.toInt))) d a s
def execShli (d a : GReg) (n : BitVec 6) (s : State) : Out State := op2 (fun x => x <<< n.toNat) d a s
def execShri (d a : GReg) (n : BitVec 6) (s : State) : Out State := op2 (fun x => x >>> n.toNat) d a s
def execSrai (d a : GReg) (n : BitVec 6) (s : State) : Out State := op2 (fun x => x.sshiftRight n.toNat) d a s

def execMul (d a b : GReg) (s : State) : Out State := op3 (fun x y => x * y) d a b s
def execMulh (d a b : GReg) (s : State) : Out State :=
  op3 (fun x y => BitVec.ofInt 64 (x.toInt * y.toInt / 2 ^ 64)) d a b s
def execMulhu (d a b : GReg) (s : State) : Out State :=
  op3 (fun x y => BitVec.ofNat 64 (x.toNat * y.toNat / 2 ^ 64)) d a b s
def execDiv (d a b : GReg) (s : State) : Out State := op3 divS d a b s
def execDivu (d a b : GReg) (s : State) : Out State := op3 divU d a b s
def execRem (d a b : GReg) (s : State) : Out State := op3 remS d a b s
def execRemu (d a b : GReg) (s : State) : Out State := op3 remU d a b s

/-- SEL (R77). -/
def execSel (d a b c : GReg) (s : State) : Out State :=
  .next (s.writeRetire d (if s.g a = 0 then s.g c else s.g b))
/-- LEA (R78). -/
def execLea (d a b : GReg) (e : BitVec 3) (imm : BitVec 48) (s : State) : Out State :=
  op3 (fun x y => x + (y <<< e.toNat) + imm.signExtend 64) d a b s
/-- WIDX (R80): field n of a work identifier under WIDSPEC. -/
def execWidx (d a : GReg) (n : BitVec 3) (s : State) : Out State :=
  op2 (fun x => zextW (x >>> fieldLow s.widspec n.toNat) (widthOf s.widspec n.toNat)) d a s
/-- WIDC (R80): the team key at level n. -/
def execWidc (d a : GReg) (n : BitVec 3) (s : State) : Out State := op2 (teamKey s.widspec n.toNat) d a s
def execClz (d a : GReg) (s : State) : Out State := op2 (fun x => BitVec.ofNat 64 (clzFrom x 64)) d a s
def execCtz (d a : GReg) (s : State) : Out State := op2 (fun x => BitVec.ofNat 64 (ctzFrom x 0 64)) d a s
def execPopc (d a : GReg) (s : State) : Out State := op2 (fun x => BitVec.ofNat 64 (popcFrom x 64)) d a s
def execBswap (d a : GReg) (s : State) : Out State := op2 bswap d a s
def execSext (d a : GReg) (n : BitVec 7) (s : State) : Out State := op2 (fun x => sextW x n.toNat) d a s
def execZext (d a : GReg) (n : BitVec 7) (s : State) : Out State := op2 (fun x => zextW x n.toNat) d a s
def execLi (d : GReg) (imm : Word) (s : State) : Out State := .next (s.writeRetire d imm)

/-! ## Class 1, bit manipulation (R83–R86) -/

def execBmm8 (d a b : GReg) (s : State) : Out State := op3 (bmm8 (fun i k => 8 * i + k) true) d a b s
def execBmm8x (d a b : GReg) (s : State) : Out State := op3 (bmm8 (fun i k => 8 * i + k) false) d a b s
def execBmm8t (d a b : GReg) (s : State) : Out State := op3 (bmm8 (fun i k => 8 * k + i) true) d a b s
def execPdep (d a b : GReg) (s : State) : Out State := op3 pdep d a b s
def execPext (d a b : GReg) (s : State) : Out State := op3 pext d a b s
/-- BPERM (R85): illegal in a service thread, which has no v registers. -/
def execBperm (d a : GReg) (c : VIdx) (s : State) : Out State :=
  noService (.bperm d a c) s fun s => op2 (bperm (s.v c).bits) d a s
def execBfx (d a : GReg) (pos : BitVec 6) (len : BitVec 7) (s : State) : Out State :=
  op2 (fun x => bfx x pos.toNat len.toNat) d a s
def execBfi (d a b : GReg) (pos : BitVec 6) (len : BitVec 7) (s : State) : Out State :=
  op3 (fun x y => bfi x y pos.toNat len.toNat) d a b s
def execBrev (d a : GReg) (s : State) : Out State := op2 brev d a s

end Sys2Proof.Machine
end

