-- ==== Sys2Proof/Machine/Flags.lean ====
section
/-! DEFINITION. Number formats, rounding and the flags NV, DZ, OF, UF, NX (R242–R258, R88). Arithmetic is
exact, on numbers m · 2^e, and rounds once. -/

namespace Sys2Proof.Machine

/-! ## Flags (R88) -/

abbrev FFlags := BitVec 5
def flNV : FFlags := 16
def flDZ : FFlags := 8
def flOF : FFlags := 4
def flUF : FFlags := 2
def flNX : FFlags := 1
def flIf (b : Bool) (f : FFlags) : FFlags := if b then f else 0

/-! ## Formats (R242–R245) -/

/-- Bits of an element. -/
def fmtBits (f : BitVec 5) : Nat :=
  match f.toNat with
  | 1 | 2 | 11 | 12 => 8 | 3 | 4 | 9 | 10 => 16 | 5 | 6 | 8 => 32 | 7 => 64 | 13 | 14 => 6 | 15 => 4 | _ => 8
/-- Bits that an element takes in a register or in memory (R246). -/
def fmtSlot (f : BitVec 5) : Nat := if f = 13 ∨ f = 14 then 8 else fmtBits f
def fmtSigned (f : BitVec 5) : Bool := f == 1 || f == 3 || f == 5 || f == 7

/-- Mantissa bits of a floating-point format. -/
def fmtFrac (f : BitVec 5) : Nat :=
  match f.toNat with | 8 => 23 | 9 => 7 | 10 => 10 | 11 => 3 | 12 => 2 | 13 => 2 | 14 => 3 | _ => 1
def fmtBias (f : BitVec 5) : Nat :=
  match f.toNat with | 8 | 9 => 127 | 10 | 12 => 15 | 11 => 7 | 13 => 3 | _ => 1
/-- The largest finite value as m · 2^e. -/
def fmtMax (f : BitVec 5) : Nat × Int :=
  match f.toNat with
  | 8 => (2 ^ 24 - 1, 104) | 9 => (255, 120) | 10 => (2047, 5) | 11 => (14, 5) | 12 => (7, 13)
  | 13 => (7, 2) | 14 => (15, -1) | _ => (3, 1)
/-- Formats with infinities (R244). -/
def fmtHasInf (f : BitVec 5) : Bool := f == 8 || f == 9 || f == 10 || f == 12
/-- Exponent field of all ones, in place. -/
def fmtExpMask (f : BitVec 5) : Nat := (2 ^ (fmtBits f - 1) - 1) / 2 ^ fmtFrac f * 2 ^ fmtFrac f
def fmtSign (f : BitVec 5) (neg : Bool) : Nat := if neg then 2 ^ (fmtBits f - 1) else 0

/-- The canonical NaN (R245). -/
def fmtNan (f : BitVec 5) : Nat :=
  match f.toNat with | 8 => 0x7FC00000 | 9 => 0x7FC0 | 10 => 0x7E00 | 12 => 0x7E | 11 => 0x7F | _ => 0
def fmtInf (f : BitVec 5) (neg : Bool) : Nat := fmtSign f neg + fmtExpMask f
/-- The code of the largest finite value. -/
def fmtMaxCode (f : BitVec 5) (neg : Bool) : Nat :=
  fmtSign f neg + (match f.toNat with
    | 8 => 0x7F7FFFFF | 9 => 0x7F7F | 10 => 0x7BFF | 11 => 0x7E | 12 => 0x7B | 13 => 0x1F | 14 => 0x1F | _ => 7)

/-! ## Values -/

/-- A floating-point datum: a NaN, an infinity, or (−1)^neg · m · 2^e. -/
inductive Fp where
  | nan (neg signalling : Bool)
  | inf (neg : Bool)
  | fin (neg : Bool) (m : Nat) (e : Int)
  deriving DecidableEq, Repr

/-- Reads a code of a floating-point format (R243–R246). -/
def fpDecode (f : BitVec 5) (x : Nat) : Fp :=
  let n := fmtFrac f
  let x := x % 2 ^ fmtBits f
  let neg := decide (2 ^ (fmtBits f - 1) ≤ x)
  let mag := x % 2 ^ (fmtBits f - 1)
  let ex := mag / 2 ^ n
  let fr := mag % 2 ^ n
  if fmtHasInf f ∧ ex * 2 ^ n = fmtExpMask f then
    if fr = 0 then .inf neg else .nan neg (decide (fr < 2 ^ (n - 1)))
  else if f = 11 ∧ mag = 0x7F then .nan neg false
  else if ex = 0 then .fin neg fr (1 - (fmtBias f : Int) - n)
  else .fin neg (2 ^ n + fr) ((ex : Int) - fmtBias f - n)

/-- An integer datum of an integer format. -/
def intDecode (f : BitVec 5) (x : Nat) : Int :=
  let y := x % 2 ^ fmtBits f
  if fmtSigned f ∧ 2 ^ (fmtBits f - 1) ≤ y then (y : Int) - 2 ^ fmtBits f else y
def intMin (f : BitVec 5) : Int := if fmtSigned f then -(2 ^ (fmtBits f - 1)) else 0
def intMax (f : BitVec 5) : Int := if fmtSigned f then 2 ^ (fmtBits f - 1) - 1 else 2 ^ fmtBits f - 1
/-- The low bits of an integer in a format's width. -/
def intCode (f : BitVec 5) (v : Int) : Nat := (v % 2 ^ fmtBits f).toNat

/-- The exact result of an operation before rounding. sticky: the value lies strictly between m and
m + 1 in units of 2^e. -/
inductive Exact where
  | nan
  | inf (neg : Bool)
  | num (neg : Bool) (m : Nat) (e : Int) (sticky : Bool)
  deriving DecidableEq, Repr

/-- Bits of a number. -/
def bitLen (m : Nat) : Nat := if m = 0 then 0 else Nat.log2 m + 1

/-- Whether a magnitude with quotient q, remainder position half (−1 below, 0 at, 1 above the middle, with
exact for no remainder) rounds up in magnitude (R253). -/
def roundUp (rm : Rm) (neg : Bool) (q : Nat) (exact : Bool) (half : Ordering) : Bool :=
  if exact then false else
  match rm with
  | .rtz => false
  | .rdn => neg
  | .rup => !neg
  | .rna => half != .lt
  | .rne | .dyn => half == .gt || (half == .eq && q % 2 == 1)

/-- m · 2^−sh, and a little more when sticky, rounded to an integer: the result, and whether it is inexact. -/
def roundShift (rm : Rm) (neg : Bool) (m : Nat) (sh : Int) (sticky : Bool) : Nat × Bool :=
  if sh ≤ 0 then
    let q := m * 2 ^ (-sh).toNat
    (if roundUp rm neg q (!sticky) .lt then q + 1 else q, sticky)
  else
    let d := 2 ^ sh.toNat
    let q := m / d
    let r := m % d
    let exact := r == 0 && !sticky
    let half := if 2 * r < d then .lt else if 2 * r == d && !sticky then .eq else .gt
    (if roundUp rm neg q exact half then q + 1 else q, !exact)

/-- The overflow results of R255. -/
def fpOverflow (f : BitVec 5) (rm : Rm) (ovf neg : Bool) : Nat :=
  let toInf := !ovf && (match rm with
    | .rtz => false | .rdn => neg | .rup => !neg | _ => true)
  if toInf then
    if fmtHasInf f then fmtInf f neg else if f = 11 then fmtSign f neg + 0x7F else fmtMaxCode f neg
  else fmtMaxCode f neg

/-- a · 2^x ≤ b · 2^y. -/
def leScaled (a : Nat) (x : Int) (b : Nat) (y : Int) : Bool :=
  if x ≤ y then decide (a ≤ b * 2 ^ (y - x).toNat) else decide (a * 2 ^ (x - y).toNat ≤ b)

/-- round(x, fmt, rm) of R254 for a nonzero magnitude: the code and the flags. -/
def fpRoundNum (f : BitVec 5) (rm : Rm) (ovf neg : Bool) (m : Nat) (e : Int) (sticky : Bool) : Nat × FFlags :=
  let n := fmtFrac f
  let emin : Int := 1 - (fmtBias f : Int)
  let sh1 : Int := (bitLen m : Int) - (n + 1)
  let y := roundShift rm neg m sh1 sticky
  let mx := fmtMax f
  if !leScaled y.1 (e + sh1) mx.1 mx.2 then (fpOverflow f rm ovf neg, flOF ||| flNX)
  else
    let sh := max sh1 (emin - n - e)
    let z := roundShift rm neg m sh sticky
    let lsb := e + sh
    let tiny := !leScaled 1 emin y.1 (e + sh1)
    let fl := flIf z.2 flNX ||| flIf (z.2 && tiny) flUF
    let code := if z.1 < 2 ^ n then z.1
      else if z.1 = 2 ^ (n + 1) then (lsb + 1 + n + fmtBias f).toNat * 2 ^ n
      else (lsb + n + fmtBias f).toNat * 2 ^ n + (z.1 - 2 ^ n)
    (fmtSign f neg + code, fl)

/-- Rounds an exact result into a floating-point format. -/
def fpRound (f : BitVec 5) (rm : Rm) (ovf : Bool) : Exact → Nat × FFlags
  | .nan => (fmtNan f, 0)
  | .inf neg => (if fmtHasInf f then fmtInf f neg else fmtMaxCode f neg, 0)
  | .num neg m e st => if m = 0 then (fmtSign f neg, 0) else fpRoundNum f rm ovf neg m e st

/-! ## Sums, products and comparisons (R90, R258) -/

def Fp.isNan : Fp → Bool | .nan _ _ => true | _ => false
def Fp.isSig : Fp → Bool | .nan _ s => s | _ => false
def Fp.isZero : Fp → Bool | .fin _ m _ => m == 0 | _ => false
def Fp.isInf : Fp → Bool | .inf _ => true | _ => false
def Fp.neg : Fp → Bool | .nan n _ => n | .inf n => n | .fin n _ _ => n
def Fp.negate : Fp → Fp | .nan n s => .nan n s | .inf n => .inf !n | .fin n m e => .fin (!n) m e

/-- The exact sum of two finite numbers, with the sign rule of R258 for a zero sum. -/
def sumFin (rm : Rm) (n1 : Bool) (m1 : Nat) (e1 : Int) (n2 : Bool) (m2 : Nat) (e2 : Int) : Exact :=
  let e := min e1 e2
  let a : Int := (if n1 then -1 else 1) * (m1 * 2 ^ (e1 - e).toNat : Nat)
  let b : Int := (if n2 then -1 else 1) * (m2 * 2 ^ (e2 - e).toNat : Nat)
  let c := a + b
  if c = 0 then .num (if m1 = 0 ∧ m2 = 0 ∧ n1 = n2 then n1 else rm == .rdn) 0 0 false
  else .num (decide (c < 0)) c.natAbs e false

def nanOf (xs : List Fp) (invalid : Bool) : Exact × FFlags := (.nan, flIf (invalid || xs.any Fp.isSig) flNV)

/-- fa + fb. -/
def fpAdd (rm : Rm) (x y : Fp) : Exact × FFlags :=
  match x, y with
  | .fin n1 m1 e1, .fin n2 m2 e2 => (sumFin rm n1 m1 e1 n2 m2 e2, 0)
  | .inf n, .fin _ _ _ | .fin _ _ _, .inf n => (.inf n, 0)
  | .inf n1, .inf n2 => if n1 = n2 then (.inf n1, 0) else nanOf [] true
  | x, y => nanOf [x, y] false

/-- fa − fb. -/
def fpSub (rm : Rm) (x y : Fp) : Exact × FFlags := fpAdd rm x y.negate

/-- fa × fb. -/
def fpMul (x y : Fp) : Exact × FFlags :=
  match x, y with
  | .fin n1 m1 e1, .fin n2 m2 e2 => (.num (n1 != n2) (m1 * m2) (e1 + e2) false, 0)
  | .inf n1, .fin n2 m _ | .fin n2 m _, .inf n1 => if m = 0 then nanOf [] true else (.inf (n1 != n2), 0)
  | .inf n1, .inf n2 => (.inf (n1 != n2), 0)
  | x, y => nanOf [x, y] false

/-- fa × fb + fc with one rounding. 0 × ∞ is invalid even when fc is a quiet NaN. -/
def fpFma (rm : Rm) (x y z : Fp) : Exact × FFlags :=
  let zeroInf := (x.isZero && y.isInf) || (x.isInf && y.isZero)
  if zeroInf then nanOf [] true
  else if x.isNan || y.isNan || z.isNan then nanOf [x, y, z] false
  else match fpMul x y with
    | (.num n m e _, _) => fpAdd rm (.fin n m e) z
    | (.inf n, _) => fpAdd rm (.inf n) z
    | (.nan, fl) => (.nan, fl)

/-- The order of two data that are no NaNs, as a value: −0 equals +0. -/
def Fp.cmp (x y : Fp) : Ordering :=
  match x, y with
  | .inf a, .inf b => if a = b then .eq else if a then .lt else .gt
  | .inf a, _ => if a then .lt else .gt
  | _, .inf b => if b then .gt else .lt
  | .fin n1 m1 e1, .fin n2 m2 e2 =>
    match sumFin .rne n1 m1 e1 (!n2) m2 e2 with
    | .num n m _ _ => if m = 0 then .eq else if n then .lt else .gt
    | _ => .eq
  | _, _ => .eq

/-- The order that takes −0 as less than +0 (R91). -/
def Fp.lessZ (x y : Fp) : Bool := x.cmp y == .lt || (x.cmp y == .eq && x.neg && !y.neg)

/-- FMIN and FMAX of two codes (R91): one of the operands bit for bit, or the canonical NaN. -/
def fpMinMax (f : BitVec 5) (isMax : Bool) (a b : Nat) : Nat × FFlags :=
  let x := fpDecode f a
  let y := fpDecode f b
  let fl := flIf (x.isSig || y.isSig) flNV
  if x.isNan ∧ y.isNan then (fmtNan f, fl)
  else if x.isNan then (b, fl) else if y.isNan then (a, fl)
  else (if (if isMax then y.lessZ x else x.lessZ y) then a else b, fl)

/-- FEQ, FLT and FLE (R92): op 0, 1, 2. -/
def fpCompare (op : Nat) (x y : Fp) : Bool × FFlags :=
  if x.isNan || y.isNan then (false, flIf (op != 0 || x.isSig || y.isSig) flNV)
  else
    let c := x.cmp y
    (match op with | 0 => c == .eq | 1 => c == .lt | _ => c != .gt, 0)

/-! ## Conversions (R93, R94, R256, R257) -/

def exactOfInt (v : Int) : Exact := .num (decide (v < 0)) v.natAbs 0 false

/-- Rounds a finite number to an integer. -/
def roundInt (rm : Rm) (neg : Bool) (m : Nat) (e : Int) : Int × Bool :=
  let r := roundShift rm neg m (-e) false
  (if neg then -(r.1 : Int) else r.1, r.2)

/-- The result of a conversion to an integer format that is out of range (R94). -/
def intOutOfRange (f : BitVec 5) (ovf neg isNan : Bool) : Int :=
  if ovf then (if isNan then 0 else if neg then intMin f else intMax f)
  else if fmtSigned f then intMin f else intMax f

/-- A floating-point datum to an integer format (R94). -/
def fpToInt (f : BitVec 5) (rm : Rm) (ovf : Bool) (x : Fp) : Int × FFlags :=
  match x with
  | .nan n _ => (intOutOfRange f ovf n true, flNV)
  | .inf n => (intOutOfRange f ovf n false, flNV)
  | .fin n m e =>
    let r := roundInt rm n m e
    if intMin f ≤ r.1 ∧ r.1 ≤ intMax f then (r.1, flIf r.2 flNX) else (intOutOfRange f ovf n false, flNV)

/-- An integer to an integer format (R257). -/
def intToInt (f : BitVec 5) (ovf : Bool) (v : Int) : Int × FFlags :=
  if intMin f ≤ v ∧ v ≤ intMax f then (v, 0)
  else if ovf then (if v < 0 then intMin f else intMax f, flNV)
  else (intDecode f (intCode f v), 0)

/-- A floating-point datum to a floating-point format (R256). -/
def fpToFp (f : BitVec 5) (rm : Rm) (ovf : Bool) (x : Fp) : Nat × FFlags :=
  match x with
  | .nan n sig =>
    if fmtHasInf f then (fmtNan f, flIf sig flNV)
    else if f = 11 then (fmtSign f n + 0x7F, flIf sig flNV)
    else (0, flNV)
  | .inf n =>
    if fmtHasInf f then (fmtInf f n, 0)
    else if f = 11 then ((if ovf then fmtMaxCode f n else fmtSign f n + 0x7F), flOF)
    else (fmtMaxCode f n, flOF)
  | .fin n m e => fpRound f rm ovf (.num n m e false)

/-- A code of format src as a code of format dst (R256, R257). -/
def convert (dst src : BitVec 5) (rm : Rm) (ovf : Bool) (x : Nat) : Nat × FFlags :=
  if Num.isI src then
    let v := intDecode src x
    if Num.isI dst then let r := intToInt dst ovf v; (intCode dst r.1, r.2)
    else fpRound dst rm ovf (exactOfInt v)
  else
    let v := fpDecode src x
    if Num.isI dst then let r := fpToInt dst rm ovf v; (intCode dst r.1, r.2)
    else fpToFp dst rm ovf v

/-! ## Rounding modes (R49, R88, R253) -/

/-- The mode that RM selects; none where DYN finds a value that names no mode. The service thread reads
DYN as RNE. -/
def State.rounding (s : State) (rm : Rm) : Option Rm :=
  match rm with
  | .dyn =>
    if !isAct s.cur then some .rne else
    match s.me.drm.toNat with
    | 1 => some .rne | 2 => some .rtz | 3 => some .rdn | 4 => some .rup | 5 => some .rna | _ => none
  | r => some r

/-- The format fault for a reserved code (R252). -/
def reservedFmt (c : BitVec 5) (s : State) : Out State := raise 0x06 (BitVec.ofNat 64 (c.toNat * 256)) s

/-- Adds an operation's own flags to those of its rounding. -/
def roundWith (f : BitVec 5) (rm : Rm) (ovf : Bool) (x : Exact × FFlags) : Nat × FFlags :=
  let r := fpRound f rm ovf x.1
  (r.1, r.2 ||| x.2)

end Sys2Proof.Machine
end

