-- ==== Sys2Proof/Machine/Hash.lean ====
section
/-! DEFINITION. SHA-256 (R104, FIPS 180-4) and HMAC-SHA-256 (R381, RFC 2104), by their standards. -/

namespace Sys2Proof.Machine

abbrev W32 := BitVec 32

/-- The first 64 primes. -/
def primes64 : List Nat := (List.range' 2 310).filter fun n => (List.range' 2 16).all fun q => n ≤ q || n % q != 0

/-- The largest x below 2^n with x^k ≤ m, bit by bit from the top, over the bits of acc already found. -/
def rootBits (k m : Nat) : Nat → Nat → Nat
  | 0, acc => acc
  | n + 1, acc => rootBits k m n (if (acc + 2 ^ n) ^ k ≤ m then acc + 2 ^ n else acc)

/-- The first 32 bits of the fraction of the k-th root of p: how FIPS 180-4 forms its constants. -/
def rootFraction (k p : Nat) : W32 := BitVec.ofNat 32 (rootBits k (p * 2 ^ (32 * k)) 40 0)

/-- The round constants come from the cube roots of the first 64 primes. -/
def roundConstants : List W32 := primes64.map (rootFraction 3)

def rotr (x : W32) (n : Nat) : W32 := (x >>> n) ||| (x <<< (32 - n))

/-- Three rotations, the last a shift when sh holds, added bit by bit. -/
def mix (sh : Bool) (i j k : Nat) (x : W32) : W32 := rotr x i ^^^ rotr x j ^^^ (if sh then x >>> k else rotr x k)

/-- n more words of the message schedule, newest first. -/
def schedule : Nat → List W32 → List W32
  | 0, ws => ws
  | n + 1, ws =>
    let ago : Nat → W32 := fun i => ws.getD (i - 1) 0
    schedule n ((mix true 17 19 10 (ago 2) + ago 7 + mix true 7 18 3 (ago 15) + ago 16) :: ws)

/-- One round on the eight working variables a to h, held as a list, with a constant and a schedule word. -/
def shaRound (v : List W32) (kw : W32 × W32) : List W32 :=
  match v with
  | [a, b, c, d, e, f, g, h] =>
    let choice := (e &&& f) ||| (~~~e &&& g)
    let major := (a &&& b) ||| (c &&& (a ||| b))
    let x := mix false 6 11 25 e + choice + h + kw.1 + kw.2
    [mix false 2 13 22 a + major + x, a, b, c, d + x, e, f, g]
  | _ => v

/-- A big-endian number. -/
def beNat (bs : List Byte) : Nat := bs.foldl (fun acc b => acc * 256 + b.toNat) 0

/-- n groups of k bytes. -/
def chunks (k : Nat) : Nat → List Byte → List (List Byte)
  | 0, _ => []
  | n + 1, bs => bs.take k :: chunks k n (bs.drop k)

/-- One 64-byte block. -/
def shaBlock (v : List W32) (blk : List Byte) : List W32 :=
  let ws := ((chunks 4 16 blk).map fun q => BitVec.ofNat 32 (beNat q)).reverse
  List.zipWith (· + ·) v ((roundConstants.zip (schedule 48 ws).reverse).foldl shaRound v)

/-- The first hash value comes from the square roots of the first eight primes. -/
def shaInit : List W32 := (primes64.take 8).map (rootFraction 2)

/-- n bytes of x, big-endian. -/
def beBytes (n x : Nat) : List Byte := (leBytes n x).reverse

def shaPad (bs : List Byte) : List Byte :=
  let z := (119 - bs.length % 64) % 64
  bs ++ 0x80 :: List.replicate z 0 ++ beBytes 8 (8 * bs.length)

/-- SHA-256 of bytes; the first output byte is the most significant. -/
def sha256 (bs : List Byte) : Digest :=
  let p := shaPad bs
  ((chunks 64 (p.length / 64) p).foldl shaBlock shaInit).foldl (fun acc w => acc <<< 32 ||| w.setWidth 256) 0

/-- The 32 bytes of a digest in order (R4). -/
def digestBytes (d : Digest) : List Byte := beBytes 32 d.toNat
def digestOf (bs : List Byte) : Digest := BitVec.ofNat 256 (beNat (bs.take 32))

/-- X := SHA-256(X ‖ bytes), as measurements and SCRUBDIG are extended (R406, R411). -/
def extend (x : Digest) (bs : List Byte) : Digest := sha256 (digestBytes x ++ bs)

/-- HMAC-SHA-256 with a 32-byte key. -/
def hmac (key : Digest) (bs : List Byte) : Digest :=
  let k := digestBytes key ++ List.replicate 32 0
  sha256 ((k.map (· ^^^ 0x5c)) ++ digestBytes (sha256 ((k.map (· ^^^ 0x36)) ++ bs)))

end Sys2Proof.Machine
end

