-- ==== Sys2Proof/Machine/Kiln.lean ====
section
/-! DEFINITION. The kiln: images, directory, installs, evictions and the resolution of code misses
(R104–R118, R402, R408). -/

namespace Sys2Proof.Machine

/-! ## The context table (R402) -/

def ctxAddr (x : Nat) : Nat := yBase + 0x110000000 + 0x2000 * x
def State.ctxWord (s : State) (x off : Nat) : Word := BitVec.ofNat 64 (s.mem.read (ctxAddr x + off) 8)

/-- The valid context table entry of a PID. -/
def State.ctx? (s : State) (pid : BitVec 16) : Option Nat :=
  (List.range 256).find? fun x =>
    let w := s.ctxWord x 0
    w.getLsbD 63 && w.extractLsb' 0 16 == pid

def State.ctxField (s : State) (pid : BitVec 16) (off : Nat) : Word :=
  match s.ctx? pid with | some x => s.ctxWord x off | none => 0

/-- The VI of a context (R402). -/
def State.viOf (s : State) (pid : BitVec 16) : BitVec 6 := (s.ctxField pid 0).extractLsb' 48 6
/-- Frozen or quarantined (R403, R407). -/
def State.refuses (s : State) (pid : BitVec 16) : Bool :=
  s.sys.quarantined.contains pid || ((s.ctx? pid).isSome && s.sys.frozen.contains (s.viOf pid))

/-- The key record of translator key slot n: modulus and exponent. -/
def State.transKey (s : State) (pid : BitVec 16) (n : Nat) : List Byte :=
  match s.ctx? pid with | some x => s.mem.bytesAt (ctxAddr x + 0x100 + 0x200 * n) 388 | none => []
def State.hasTransKey (s : State) (pid : BitVec 16) (n : Nat) : Bool :=
  (s.transKey pid n).any fun b => b != 0

/-- The initial TTLMASK, with the bits of empty key slots cleared (R115). -/
def State.initMask (s : State) (pid : BitVec 16) : Byte :=
  let m := (s.ctxField pid 0x10).setWidth 8
  BitVec.ofNat 8 (bitsOfNat (fun n => m.getLsbD n && s.hasTransKey pid n) 8)
where
  /-- Bits below n as a number. -/
  bitsOfNat (f : Nat → Bool) : Nat → Nat
    | 0 => 0
    | n + 1 => bitsOfNat f n + (if f n then 2 ^ n else 0)

/-- The context's code-peer list, in order (R113, R402). -/
def State.peers (s : State) (pid : BitVec 16) : List (BitVec 22) :=
  ((List.range 8).map fun i => s.ctxField pid (0x20 + 8 * i)).filterMap fun w =>
    if w.getLsbD 63 then some (w.extractLsb' 0 22) else none

/-! ## Images (R104–R106) -/

def parseLine (bs : List Byte) : Line :=
  { slots := (List.range 5).map fun i => BitVec.ofNat 96 (field bs (12 * i) 12), lw := BitVec.ofNat 32 (field bs 60 4) }
def parseLines : Nat → List Byte → List Line
  | 0, _ => []
  | n + 1, bs => parseLine (bs.take 64) :: parseLines n (bs.drop 64)
def parseDigs : Nat → List Byte → List Digest
  | 0, _ => []
  | n + 1, bs => digestOf bs :: parseDigs n (bs.drop 32)
def parseCalls : Nat → List Byte → List (Nat × BitVec 32)
  | 0, _ => []
  | n + 1, bs => (field bs 0 4, BitVec.ofNat 32 (field bs 4 4)) :: parseCalls n (bs.drop 8)

def zeroBytes (bs : List Byte) : Bool := bs.all (· == 0)

/-- Reads the sections that follow a header; none when sizes or the call-site table are not as R104 and
R105 require. -/
def parseSections (bs : List Byte) (off nline ndig ncall nchan ndata tail : Nat) (trans : Bool) : Option Inst :=
  let size := off + 64 * nline + 32 * ndig + 8 * ncall + 16 * nchan + ndata + tail
  if bs.length = size ∧ 1 ≤ nline ∧ nline ≤ 1024 ∧ ndig ≤ 4096 ∧ ncall ≤ 4096 ∧ nchan ≤ 32 ∧ ndata ≤ 65536 then
    let b1 := bs.drop off
    let b2 := b1.drop (64 * nline)
    let b3 := b2.drop (32 * ndig)
    let lines := parseLines nline b1
    let calls := parseCalls ncall b3
    if calls = callSites lines then
      some { lines, digs := parseDigs ndig b2, calls, trans, sum := if trans then sha256 bs else 0, image := bs }
    else none
  else none

/-- A portable image checked against a digest; otherwise the reason of R116. Too many lines (0x13) come before the other
defects of its form (log 91). A PAIR bit, which no portable image sets (R40, R104), is installed as it stands (log 92). -/
def checkPortable (dig : Digest) (bs : List Byte) : Except Byte Inst :=
  if sha256 bs ≠ dig then .error 0x10
  else if field bs 8 4 > 1024 then .error 0x13
  else if field bs 0 4 ≠ 0x46524D4C ∨ field bs 4 4 ≠ 1 ∨ !zeroBytes ((bs.drop 0x1C).take 36) then .error 0x05
  else match parseSections bs 0x40 (field bs 8 4) (field bs 0xC 4) (field bs 0x10 4) (field bs 0x14 4) (field bs 0x18 4) 0 false with
    | some i => .ok i
    | none => .error 0x05

/-- A translation checked by R114 for a context and a mask. More than 1,024 lines (0x13, R116) stand behind the magic and
before the rest of check 1: R114's order does not name them (log 91). -/
def State.checkTranslation (s : State) (pid : BitVec 16) (mask : Byte) (dig : Digest) (bs : List Byte) : Except Byte Inst :=
  if field bs 0 4 = 0x52545853 ∧ field bs 0xC 4 > 1024 then .error 0x13
  else if field bs 0 4 ≠ 0x52545853 ∨ field bs 4 4 ≠ 1 ∨ !zeroBytes ((bs.drop 0x60).take 32) then .error 0x05
  else match parseSections bs 0x80 (field bs 0xC 4) (field bs 0x50 4) (field bs 0x54 4) (field bs 0x58 4) (field bs 0x5C 4) 384 true with
    | none => .error 0x05
    | some i =>
      if field bs 8 4 ≠ 0x00030001 then .error 0x01
      else if digestOf (bs.drop 0x10) ≠ dig then .error 0x02
      else
        let kd := digestOf (bs.drop 0x30)
        match (List.range 8).find? fun n => mask.getLsbD n && s.hasTransKey pid n && sha256 (s.transKey pid n) == kd with
        | none => .error 0x03
        | some n =>
          if Config.pssVerify (s.transKey pid n) (bs.take (bs.length - 384)) (bs.drop (bs.length - 384)) then .ok i
          else .error 0x04

/-! ## The directory (R107–R110) -/

def State.entry? (s : State) (cl : Nat) (pid : BitVec 16) (mon : Bool) (h : BitVec 32) : Option DirEntry :=
  match (s.cluster cl).entry h with
  | some e => if (if mon then decide (h.toNat < 256) else decide (256 ≤ h.toNat) && e.pid == pid) then some e else none
  | none => none

/-- Finds the entry of a digest for a context. -/
def State.lookup (s : State) (cl : Nat) (pid : BitVec 16) (mon : Bool) (dig : Digest) : Option DirEntry :=
  if mon then ((List.range' 1 255).filterMap fun n => (s.cluster cl).entry (BitVec.ofNat 32 n)).find? fun e => e.digest == dig
  else (s.cluster cl).dir.find? fun e => e.digest == dig && decide (256 ≤ e.handle.toNat) && e.pid == pid

/-- The first handle, counting on from h, that is the monitor's no more than 0 is (R390), and that no entry of the directory
has: an entry lives as long as its context, so no context meets a handle again (R107). -/
def freshHandle (dir : List DirEntry) : Nat → BitVec 32 → BitVec 32
  | 0, h => h
  | n + 1, h => if h.toNat < 256 || dir.any (fun e => e.handle == h) then freshHandle dir n (if h.toNat < 256 then 256 else h + 1) else h

/-- directory_lookup_or_create (R111): the handle, or none when the directory is full. Monitor mode
resolves only among the monitor's own handles (R390). -/
def State.lookupOrCreate (s : State) (cl : Nat) (pid : BitVec 16) (mon : Bool) (dig : Digest) : Option (BitVec 32) × State :=
  match s.lookup cl pid mon dig with
  | some e => (some e.handle, s)
  | none =>
    if mon ∨ 4096 ≤ (s.cluster cl).dir.length then (none, s)
    else
      let h := freshHandle (s.cluster cl).dir 8194 (s.cluster cl).nextHandle
      (some h, s.modCluster cl fun c => { c with
        dir := c.dir ++ [{ pid, digest := dig, handle := h, inst := none }], nextHandle := h + 1 })

/-- The handle whose function thread t of the cluster executes, or waits for (R109). -/
def execHandle (x : Thread) : BitVec 32 :=
  match x.status, x.transfer with
  | .stalled (.codeMiss h _), _ => h
  | _, some f => f.target
  | _, none => handleOf x.act.pc

/-- A core of the cluster executes the instance (R109). -/
def State.executing (s : State) (cl : Nat) (h : BitVec 32) : Bool :=
  s.actives.any fun e => clusterOf e.1 == cl && execHandle e.2 == h

def DirEntry.lines (e : DirEntry) : Nat := match e.inst with | some i => i.lines.length | none => 0

/-- The victim among the resident entries that p holds of and no core executes: the one issued from
least recently (R109). The monitor's functions are never evicted (R390). -/
def State.victim (s : State) (cl : Nat) (p : DirEntry → Bool) : Option (BitVec 32) :=
  let es := (s.cluster cl).dir.filter fun e =>
    e.inst.isSome && decide (256 ≤ e.handle.toNat) && p e && !s.executing cl e.handle
  match es with
  | [] => none
  | e :: rest => some (rest.foldl (fun b x => if x.last < b.last then x else b) e).handle

def State.evict (s : State) (cl : Nat) (h : BitVec 32) : State :=
  s.modCluster cl fun c => c.modEntry h fun e => { e with inst := none, refetched := none }

/-- Instances of a context resident in a cluster, and its quota there (R108). -/
def State.resident (s : State) (cl : Nat) (pid : BitVec 16) : Nat :=
  ((s.cluster cl).dir.filter fun e => e.pid == pid && e.inst.isSome && decide (256 ≤ e.handle.toNat)).length
/-- QUOTA: 0 where no launch of the context is placed in the cluster, the largest of none (R108, log 90). -/
def State.quota (s : State) (cl : Nat) (pid : BitVec 16) : Nat :=
  let dflt := ((s.ctxField pid 0).extractLsb' 40 8).toNat
  (s.sys.launches.filter fun l => l.pid == pid && l.blocks.any fun b => b / 8 == cl).foldl
    (fun q l => max q (if l.cquota = 0 then dflt else l.cquota.toNat)) 0

/-- Frees room for n lines by evicting the least recently issued instances; false when every resident instance is
being executed and there is still no room (R109). -/
def State.makeRoom (s : State) (cl n : Nat) : Nat → State × Bool
  | 0 => (s, false)
  | fuel + 1 =>
    let used := ((s.cluster cl).dir.map DirEntry.lines).sum
    if used + n ≤ 16384 then (s, true) else
    match s.victim cl fun _ => true with
    | some h => (s.evict cl h).makeRoom cl n fuel
    | none => (s, false)

/-- An install waits for room in the cluster: it and those that began to wait after it are served in order (R109, R110). -/
def State.installWaits (s : State) (cl : Nat) : Bool := (s.cluster cl).fetches.any fun f => f.waiting.isSome

/-- Writes an instance under its handle, and its measurement (R106, R411). Until a core issues from it its install counts as
its last issue, and among equal ones the older directory entry is the victim (R109; log 95). -/
def State.placeInst (s : State) (cl : Nat) (pid : BitVec 16) (h : BitVec 32) (i : Inst) : State :=
  let meas := (pid, (((s.cluster cl).entry h).map (·.digest)).getD 0, i.sum)
  let s1 := s.modCluster cl fun c => c.modEntry h fun e => { e with inst := some i, last := c.issues }
  { s1 with sys := { s1.sys with
      measured := if s1.sys.measured.contains meas then s1.sys.measured else s1.sys.measured ++ [meas] } }

/-- Installs an instance under its handle, evicting by quota and by capacity first (R109). false: the kiln is full of
executing instances; the evictions made so far stand. -/
def State.install (s : State) (cl : Nat) (pid : BitVec 16) (h : BitVec 32) (i : Inst) : State × Bool :=
  let s1 := if s.quota cl pid ≤ s.resident cl pid then
      match s.victim cl fun e => e.pid == pid with | some v => s.evict cl v | none => s
    else s
  match s1.makeRoom cl i.lines.length 4097 with
  | (s2, true) => (s2.placeInst cl pid h i, true)
  | (s2, false) => (s2, false)

/-- The context of a PID is torn down: the directory entries and instances of every cluster go, with what was measured
and fetched for it (R107). -/
def State.tearDown (s : State) (pid : BitVec 16) : State :=
  let drop : Cluster → Cluster := fun c => { c with
    dir := c.dir.filter fun e => e.pid != pid || decide (e.handle.toNat < 256)
    fetches := c.fetches.filter fun f => f.pid != pid }
  { s with
    clusters := List.map (fun e : Nat × Cluster => (e.1, drop e.2)) s.clusters
    sys := { s.sys with
      measured := s.sys.measured.filter fun m => m.1 != pid
      routines := s.sys.routines.filter fun r => r.1 != pid } }

/-! ## Misses (R113–R117) -/

/-- The value of CODEFLT (R116). -/
def codefltWord (reason : Byte) (src trig inst rjsrc : BitVec 4) (nrej : Byte) (h : BitVec 32) : Word :=
  reason ++ src ++ trig ++ inst ++ rjsrc ++ nrej ++ h

/-- The directory was full: CODEFLT, then the code-unavailable fault (R111, R116). -/
def State.dirFull (s : State) (trig : BitVec 4) : State :=
  let r := (s.modMyAct fun a => { a with codeflt := codefltWord 0x12 0 trig 3 0 0 0 }).takeFree
  r.2.takeFault { code := 0x10, val := r.1 }

/-- Thread t waits for handle h (R117). CODE_MISS begins or joins the resolution. A CALLD, RET or JOIN that waits
keeps what it needs to complete. -/
def State.miss (s : State) (t : Nat) (h : BitVec 32) (trig : BitVec 4) : State :=
  let from' := handleOf (s.th t).act.pc
  let keep : Option Transfer :=
    if h = from' then none else (s.instOf t from').map fun i => { handle := from', inst := i, target := h }
  s.modTh t fun x => { x with status := .stalled (.codeMiss h trig), transfer := keep }

/-- The handle under which the fetch of a service routine is kept; no directory entry has it. -/
def routineHandle (pid : BitVec 16) (k : BitVec 6) : BitVec 32 := BitVec.ofNat 32 (2 ^ 31 + 64 * pid.toNat + k.toNat)
/-- The routine's instance leaves the routine stores (R41). -/
def State.evictRoutine (s : State) (pid : BitVec 16) (k : BitVec 6) : State :=
  { s with sys := { s.sys with routines := s.sys.routines.filter fun r => !(r.1 == pid && r.2.1 == k) } }
/-- A service thread waits for its routine. -/
def State.missRoutine (s : State) (t : Nat) (pid : BitVec 16) (k : BitVec 6) (trig : BitVec 4) : State :=
  s.modTh t fun x => { x with status := .stalled (.codeMiss (routineHandle pid k) trig) }

/-- Takes a fault for thread t, whoever runs now. -/
def State.faultAt (s : State) (t : Nat) (tr : Trap) : State :=
  let r := ({ s with cur := t }).takeFault tr
  { r with cur := s.cur }

/-- Ends a resolution for its waiters: with an instance they go on, else the code-unavailable fault.
CODEFLT is written when an offer was rejected, for TRIG 3, or when nothing was installed (R116, R117). -/
def State.endFetch (s : State) (cl : Nat) (f : Fetch) (reason : Byte) (inst : BitVec 4) : State :=
  let s1 := s.modCluster cl fun c => { c with fetches := c.fetches.filter fun g => g.handle != f.handle }
  f.waiters.foldl (fun s w =>
    let waits : Bool := match (s.th w.1).status with | .stalled (.codeMiss h _) => h == f.handle | _ => false
    if !waits then s else
    let write := f.nrej != 0 || w.2 == 3 || inst == 3
    let why : Byte := if inst = 3 then reason else f.reason
    let s2 := if write then s.modAct w.1 fun a =>
        { a with codeflt := codefltWord why (if inst = 3 then 0 else f.source) w.2 inst f.rjsrc f.nrej f.handle }
      else s
    if inst = 3 then let r := (s2.unstall w.1).takeFree; r.2.faultAt w.1 { code := 0x10, val := r.1 }
    else s2.unstall w.1) s1

end Sys2Proof.Machine
end

