-- ==== Sys2Proof/Machine/Net.lean ====
section
/-! DEFINITION. The fabric interface's shared operations: coordinates, ranks, routes and the sending of
packets (R360–R371, R382). -/

namespace Sys2Proof.Machine

/-! ## Coordinates (R360, R382) -/

def coA (x : BitVec 22) : Nat := x.toNat % 4
def coB (x : BitVec 22) : Nat := x.toNat / 4 % 4
def coC (x : BitVec 22) : Nat := x.toNat / 16 % 512
def coD (x : BitVec 22) : Nat := x.toNat / 8192

/-- The chip's coordinates: the package is one fabric endpoint (R13, R382). -/
def State.coord (s : State) : BitVec 22 := s.fab.fgeom.extractLsb' 0 22
def State.lenA (s : State) : Nat := (s.fab.fgeom.extractLsb' 36 2).toNat + 1
def State.lenB (s : State) : Nat := (s.fab.fgeom.extractLsb' 38 2).toNat + 1
def State.lenC (s : State) : Nat := (s.fab.fgeom.extractLsb' 40 9).toNat + 1
def State.lenD (s : State) : Nat := (s.fab.fgeom.extractLsb' 49 9).toNat + 1

def absDiff (a b : Nat) : Nat := if a ≤ b then b - a else a - b
def ringDist (len a b : Nat) : Nat := min (absDiff a b) (len - absDiff a b)
/-- The minimal hop count between two chips. -/
def State.hopCount (s : State) (x y : BitVec 22) : Nat :=
  absDiff (coA x) (coA y) + absDiff (coB x) (coB y) + ringDist s.lenC (coC x) (coC y) + ringDist s.lenD (coD x) (coD y)

/-- Minimal directions on a ring from a to b: minus, plus. -/
def ringDirs (len a b : Nat) : Bool × Bool :=
  let up := (b + len - a) % len
  let down := (a + len - b) % len
  (decide (down ≤ up), decide (up ≤ down))

/-- The minimal ports of the next dimension step from x towards y (R369). -/
def State.minPorts (s : State) (x y : BitVec 22) : List Nat :=
  if coD x ≠ coD y then
    let r := ringDirs s.lenD (coD x) (coD y); (if r.1 then [8, 9] else []) ++ (if r.2 then [10, 11] else [])
  else if coC x ≠ coC y then
    let r := ringDirs s.lenC (coC x) (coC y); (if r.1 then [4, 5] else []) ++ (if r.2 then [6, 7] else [])
  else if coB x ≠ coB y then (if coB x > coB y then [2] else [3])
  else if coA x ≠ coA y then (if coA x > coA y then [0] else [1])
  else []

/-- The chip with given coordinates. -/
def coAt (a b c d : Nat) : BitVec 22 := BitVec.ofNat 22 (a + 4 * b + 16 * c + 8192 * d)
/-- The chip at the other end of a port's link. -/
def State.across (s : State) (p : Nat) : Option (BitVec 22) :=
  let x := s.coord
  let up := fun (len i : Nat) => if i + 1 < len then some (i + 1) else none
  let down := fun (i : Nat) => if 0 < i then some (i - 1) else none
  match p with
  | 0 => (down (coA x)).map fun i => coAt i (coB x) (coC x) (coD x)
  | 1 => (up s.lenA (coA x)).map fun i => coAt i (coB x) (coC x) (coD x)
  | 2 => (down (coB x)).map fun i => coAt (coA x) i (coC x) (coD x)
  | 3 => (up s.lenB (coB x)).map fun i => coAt (coA x) i (coC x) (coD x)
  | 4 | 5 => some (coAt (coA x) (coB x) ((coC x + s.lenC - 1) % s.lenC) (coD x))
  | 6 | 7 => some (coAt (coA x) (coB x) ((coC x + 1) % s.lenC) (coD x))
  | 8 | 9 => some (coAt (coA x) (coB x) (coC x) ((coD x + s.lenD - 1) % s.lenD))
  | 10 | 11 => some (coAt (coA x) (coB x) (coC x) ((coD x + 1) % s.lenD))
  | _ => none

/-! ## Ports and their queues (R364, R369, R382) -/

def State.port (s : State) (p : Nat) : Port := Map.get {} s.fab.ports p
def State.modPort (s : State) (p : Nat) (f : Port → Port) : State :=
  { s with fab := { s.fab with ports := Map.put s.fab.ports p (f (s.port p)) } }
/-- STATE of a port is up, or up on the spare lane (R382). -/
def State.portUp (s : State) (p : Nat) : Bool := decide (2 ≤ ((s.port p).reg.extractLsb' 62 2).toNat)
/-- A port that is not down: a link that trains loses nothing, and packets wait at its port (R364). -/
def State.portOpen (s : State) (p : Nat) : Bool := decide (1 ≤ ((s.port p).reg.extractLsb' 62 2).toNat)
/-- Packets may leave that way: the port is not down, and leads to no chip that is (R370). -/
def State.takes (s : State) (p : Nat) : Bool :=
  s.portOpen p && match s.across p with | some c => !s.fab.downChips.contains c | none => true

/-- The flits of a packet (R362). -/
def flitsIn (k : Packet) : Nat := 1 + k.ndata.toNat
/-- The flits of a class that wait at a port (R369). -/
def State.queued (s : State) (vcl : BitVec 2) (p : Nat) : Nat :=
  ((s.fab.out.filter fun e => e.1 == p && e.2.vcl == vcl).map fun e => flitsIn e.2).sum +
  match (s.port p).leaving with | some (k, n) => if k.vcl = vcl then flitsIn k - n else 0 | none => 0
/-- The best port of a set: the fewest queued flits of the class, the first on a tie (R369). -/
def State.bestPort (s : State) (vcl : BitVec 2) (ps : List Nat) : Option Nat :=
  ps.foldl (fun b p => match b with
    | none => some p
    | some q => if s.queued vcl p < s.queued vcl q then some p else some q) none
/-- PORTp as it is read: QUEUE counts the request class's flits, up to what its bits hold (R382). -/
def State.portReg (s : State) (p : Nat) : Word :=
  ((s.port p).reg &&& 0xFFFFFFFF0000FFFF) ||| BitVec.ofNat 64 (min 65535 (s.queued 0 p) * 2 ^ 16)

/-- The intermediate target of a packet: MID in the first Valiant phase (R369). -/
def towards (k : Packet) : BitVec 22 := if k.val && !k.ph then k.mid else k.dst

/-- The port a packet leaves on, and whether that is a detour (R369, R370): the best of the next dimension step's, or the
one among them that its flowlet keeps; else one step in a, or in b when a has length 1. The last switch before a chip that
is down finds none. -/
def State.egress (s : State) (k : Packet) (keep : List Nat) : Option (Nat × Bool) :=
  let ps := s.minPorts s.coord (towards k)
  let ok := ps.filter s.takes
  if s.fab.downChips.contains k.dst && towards k == k.dst && s.hopCount s.coord k.dst == 1 then none
  else match (ok.find? keep.contains).orElse fun _ => s.bestPort k.vcl ok with
  | some p => some (p, false)
  | none =>
    if ps = [] then none
    else
      let side := if s.lenA = 1
        then (if coB s.coord + 1 < s.lenB then [3] else if 0 < coB s.coord then [2] else [])
        else (if coA s.coord + 1 < s.lenA then [1] else if 0 < coA s.coord then [0] else [])
      (side.find? s.takes).map fun p => (p, true)

/-- The packet crosses the wrap link of its ring on this port (R370). -/
def State.wraps (s : State) (p : Nat) : Bool :=
  let x := s.coord
  if p = 4 ∨ p = 5 then coC x == 0 else if p = 6 ∨ p = 7 then coC x + 1 == s.lenC
  else if p = 8 ∨ p = 9 then coD x == 0 else if p = 10 ∨ p = 11 then coD x + 1 == s.lenD else false

def State.outPkt (s : State) (p : Nat) (k : Packet) : State :=
  { s with fab := { s.fab with out := s.fab.out ++ [(p, k)] } }

/-- Sends or forwards a packet on its next port; false when no port can take it (R370). -/
def State.forward (s : State) (k : Packet) (keep : List Nat := []) : Bool × State :=
  let k := if k.val && !k.ph && k.mid == s.coord then { k with ph := true } else k
  match s.egress k keep with
  | some (p, det) => (true, s.outPkt p { k with det := k.det || det, dl := k.dl || s.wraps p })
  | none => (false, s)

/-- The route that a source decides for a packet: VAL and MID (R369). The chip drawn is a free value, and matters only where
flits wait. -/
def State.chooseRoute (s : State) (dst : BitVec 22) (vcl : BitVec 2) : (Bool × BitVec 22) × State :=
  let cost : BitVec 22 → Nat → Option Nat := fun c hops =>
    (s.bestPort vcl ((s.minPorts s.coord c).filter s.takes)).map fun p => s.queued vcl p * hops
  match cost dst (s.hopCount s.coord dst) with
  | none | some 0 => ((false, 0), s)
  | some m =>
    let (w, s1) := s.takeFree
    let n := w.toNat
    let mid := coAt (n % s.lenA) (n / 2 ^ 8 % s.lenB) (n / 2 ^ 16 % s.lenC) (n / 2 ^ 32 % s.lenD)
    match cost mid (s.hopCount s.coord mid + s.hopCount mid dst) with
    | some v => if v < m then ((true, mid), s1) else ((false, 0), s1)
    | none => ((false, 0), s1)

/-! ## Flits (R362, R364, R365) -/

/-- The header flit (R362). -/
def headerFlit (k : Packet) : List Byte :=
  let b := fun (x : Bool) (n : Nat) => if x then 2 ^ n else 0
  leBytes 64 (k.pkind.toNat + k.ndata.toNat * 2 ^ 8 + b k.ord 11 + b k.val 12 + b k.ph 13 + b k.det 14 + b k.dl 15 + k.vcl.toNat * 2 ^ 16 +
    k.hops.toNat * 2 ^ 18 + k.pkey.toNat * 2 ^ 26 +
    k.dst.toNat * 2 ^ 42 + k.src.toNat * 2 ^ 64 + k.mid.toNat * 2 ^ 86 + k.fseq.toNat * 2 ^ 108 + k.seq.toNat * 2 ^ 132 +
    k.pid.toNat * 2 ^ 156 + k.encl.toNat * 2 ^ 172 + k.addr.toNat * 2 ^ 192 + k.aux.toNat * 2 ^ 256 + k.srcv.toNat * 2 ^ 320 +
    k.lo.toNat * 2 ^ 384 + k.hi.toNat * 2 ^ 448)
/-- Flit i of a packet, and its FTYPE: the last one of a packet without data is its header (log 18). -/
def flitAt (k : Packet) (i : Nat) : List Byte := if i = 0 then headerFlit k else padTo 64 (k.data.drop (64 * (i - 1)))
def flitType (k : Packet) (i : Nat) : Nat := if i + 1 = flitsIn k then 2 else if i = 0 then 0 else 1
/-- A flit's trailer (R362). -/
def trailerOf (ftype : Nat) (lseq : Byte) (crc : BitVec 32 → BitVec 32) : Word :=
  let hi : BitVec 32 := BitVec.ofNat 32 (ftype * 256 + lseq.toNat)
  hi ++ crc hi

/-- Flit i of a packet leaves on a port, and arrives. -/
def State.sendFlit (s : State) (port : Nat) (k : Packet) (i : Nat) : State :=
  s.modPort port fun p =>
    let tr := trailerOf (flitType k i) p.lseq (Config.crc (flitAt k i))
    { p with refusals := 0, lseq := p.lseq + 1, trailer := tr, retx := ((flitAt k i, tr) :: p.retx).take 256
             leaving := if i + 1 < flitsIn k then some (k, i + 1) else none }
/-- The next flit at a port: of the packet that leaves, else the header of the oldest that waits. -/
def State.departFlit (s : State) (port : Nat) : State :=
  match (s.port port).leaving with
  | some (k, i) => s.sendFlit port k i
  | none =>
    match s.fab.out.find? fun e => e.1 == port with
    | some (_, k) => { s with fab := { s.fab with out := s.fab.out.eraseP fun e => e.1 == port } }.sendFlit port k 0
    | none => s
/-- n flits leave on a port whose link is up. -/
def State.depart (s : State) (port : Nat) : Nat → State
  | 0 => s
  | n + 1 => if s.portUp port then (s.departFlit port).depart port n else s

/-- One more in bits 31 to 0 of a counter. -/
def bumpLow (w : Word) : Word := (w &&& 0xFFFFFFFF00000000) ||| ((w + 1) &&& 0xFFFFFFFF)
/-- CNTLINK counts the stomp tails that the chip sends, and those that reach it (R382, log 72). -/
def State.countStomp (s : State) : State := { s with fab := { s.fab with cntLink := bumpLow s.fab.cntLink } }
/-- The packet that leaves on a port ends with a stomp tail: the flit's bytes are open, so its CRC is a free value (R365). -/
def State.stomp (s : State) (port : Nat) : State :=
  if (s.port port).leaving.isNone then s else
  let (w, s1) := s.takeFree
  (s1.modPort port fun p => { p with
    leaving := none, lseq := p.lseq + 1, trailer := trailerOf 3 p.lseq fun _ => w.setWidth 32 }).countStomp

/-! ## Partitions and ranks (R361, R368) -/

/-- The partition slot of a context (R402). -/
def State.slotOf (s : State) (pid : BitVec 16) : Nat := ((s.ctxField pid 0).extractLsb' 32 6).toNat
def State.pka (s : State) (n : Nat) : Word := Map.get 0 s.fab.pka n
def State.pkb (s : State) (n : Nat) : Word := Map.get 0 s.fab.pkb n
def State.jobSize (s : State) (pid : BitVec 16) : Nat := ((s.pka (s.slotOf pid)).extractLsb' 32 23).toNat
def State.ownRank (s : State) (pid : BitVec 16) : BitVec 22 := (s.pkb (s.slotOf pid)).extractLsb' 40 22
def State.pkeyOf (s : State) (pid : BitVec 16) : BitVec 16 := (s.pka (s.slotOf pid)).extractLsb' 0 16
/-- Where entry r of slot n, bank k stands in the rank maps. -/
def rankKey (n k r : Nat) : Nat := (2 * n + k) * 2 ^ 22 + r
/-- The rank-map entry of a rank in the live bank (R361). -/
def State.rankEntry (s : State) (pid : BitVec 16) (r : BitVec 22) : Word :=
  let n := s.slotOf pid
  Map.get 0 s.fab.ranks (rankKey n (if (s.pkb n).getLsbD 63 then 1 else 0) r.toNat)
/-- The coordinates of a rank, if its entry is valid. -/
def State.coordOf (s : State) (pid : BitVec 16) (r : BitVec 22) : Option (BitVec 22) :=
  let e := s.rankEntry pid r
  if e.getLsbD 31 ∧ r.toNat < s.jobSize pid then some (e.extractLsb' 0 22) else none
/-- A valid slot holds the key and the PID (R368). -/
def State.keyOk (s : State) (k : Packet) : Bool :=
  (List.range 64).any fun n =>
    let w := s.pka n
    w.getLsbD 63 && w.extractLsb' 0 16 == k.pkey && w.extractLsb' 16 16 == k.pid

/-! ## Sequence numbers and flowlets (R128, R366, R371) -/

/-- The next number of a thread for a destination. -/
def State.nextSeqTo (s : State) (t : Nat) (dest : Word) : BitVec 24 × State :=
  let x := s.th t
  let n := (x.seqs.find? fun p => p.1 == dest).elim 0 (·.2)
  (n, s.setTh t { x with seqs := (dest, n + 1) :: x.seqs.filter fun p => p.1 != dest })

def State.nextFseq (s : State) (dst : BitVec 22) : BitVec 24 × State :=
  let n := Map.get 0 s.fab.fseq dst.toNat
  (n, { s with fab := { s.fab with fseq := Map.put s.fab.fseq dst.toNat (n + 1) } })

/-- Every packet of a flowlet has been acknowledged (R371). -/
def State.flowQuiet (s : State) (f : Flowlet) : Bool :=
  !s.fab.unacked.any fun u => u.pkt.ord && u.pkt.dst == f.dst && coreOf u.thread == f.core
/-- A flowlet that goes on: it is open, or closed with packets that are not all acknowledged. -/
def State.flowLive (s : State) (f : Flowlet) : Bool := !(f.closed && s.flowQuiet f)
/-- The flowlet of a core to a chip. -/
def State.flowTo (s : State) (core : Nat) (dst : BitVec 22) : Option Flowlet :=
  s.fab.flowlets.find? fun f => f.core == core && f.dst == dst && s.flowLive f
/-- The flowlet that an ORD packet of a core to a context's rank, now at chip dst, goes on in: the one that serves that rank
(R383), or the one to that chip (R371). -/
def State.flowlet? (s : State) (core : Nat) (pid : BitVec 16) (rank dst : BitVec 22) : Option Flowlet :=
  (s.fab.flowlets.find? fun f => f.core == core && f.names.contains (pid, rank) && s.flowLive f).orElse fun _ => s.flowTo core dst
/-- The chip an ORD packet goes to: the flowlet keeps its old destination (R383). -/
def State.flowDst (s : State) (core : Nat) (pid : BitVec 16) (rank dst : BitVec 22) : BitVec 22 :=
  match s.flowlet? core pid rank dst with
  | some f => f.dst
  | none => dst
/-- Changes the flowlet of a core to a chip. -/
def State.modFlow (s : State) (core : Nat) (dst : BitVec 22) (g : Flowlet → Flowlet) : State :=
  { s with fab := { s.fab with flowlets := s.fab.flowlets.map fun f => if f.core = core ∧ f.dst = dst then g f else f } }
/-- An ORD packet's flowlet: it goes on, or a new one begins with its route (R371). -/
def State.openFlow (s : State) (core : Nat) (pid : BitVec 16) (rank dst : BitVec 22) : State :=
  match s.flowlet? core pid rank dst with
  | some f => s.modFlow core f.dst fun f => { f with names := if f.names.contains (pid, rank) then f.names else (pid, rank) :: f.names }
  | none =>
    let (v, s1) := s.chooseRoute dst 0
    { s1 with fab := { s1.fab with
      flowlets := { core, dst, names := [(pid, rank)], val := v.1, mid := v.2 } ::
        s1.fab.flowlets.filter fun f => !(f.core == core && (f.dst == dst || f.names.contains (pid, rank))) } }

/-- The direction of a port (R360). -/
def directionOf (p : Nat) : Nat := if p < 4 then p else 4 + p / 2
/-- A source sends a packet of a core on its way; an ORD packet keeps to its flowlet's port of each direction (R371). -/
def State.sendOut (s : State) (core : Nat) (k : Packet) : Bool × State :=
  match (if k.ord then s.flowTo core k.dst else none) with
  | none => s.forward k
  | some f =>
    let (ok, s1) := s.forward k f.ports
    match (if ok then s1.fab.out.getLast? else none) with
    | some (p, _) => (ok, s1.modFlow core k.dst fun f => { f with
        ports := if f.ports.any fun q => directionOf q == directionOf p then f.ports else p :: f.ports })
    | none => (ok, s1)

def pkRD : Byte := 0x01
def pkWR : Byte := 0x02
def pkATM : Byte := 0x03
def pkMSG : Byte := 0x04
def pkMCW : Byte := 0x05
def pkRDA : Byte := 0x08
def pkACK : Byte := 0x09
def pkTNAK : Byte := 0x0A
def pkNAK : Byte := 0x0B
def pkCALL : Byte := 0x0C
def pkMSGA : Byte := 0x0D
def pkMCACK : Byte := 0x0E
def pkSEQNAK : Byte := 0x0F
def pkCFREQ : Byte := 0x10
def pkCFDAT : Byte := 0x11
def pkCFNONE : Byte := 0x12
def pkMGA : Byte := 0x1A
def pkNOTICE : Byte := 0x1B

/-- Data flits of n bytes. -/
def flitsOf (n : Nat) : BitVec 3 := BitVec.ofNat 3 ((n + 63) / 64)

/-- Keeps a request until it is answered, and sends it on the route that its source decides once; with no port it fails at
once (R366, R369, R370). -/
def State.request (s : State) (k : Packet) (t seq ix : Nat) (m : Option Msg) (ixs : List Nat := []) : Bool × State :=
  let (n, s1) := s.nextFseq k.dst
  let (v, s2) := if k.ord then
      (match s1.flowTo (coreOf t) k.dst with | some f => ((f.val, f.mid), s1) | none => ((false, 0), s1))
    else s1.chooseRoute k.dst k.vcl
  let k := { k with fseq := n, src := s.coord, val := v.1, mid := v.2 }
  match s2.sendOut (coreOf t) k with
  | (true, s3) => (true, { s3 with fab := { s3.fab with unacked := s3.fab.unacked ++ [{ pkt := k, thread := t, seq, ix, ixs, msg := m }] } })
  | (false, _) => (false, s1)
/-- A source sends an unanswered request again (R366). -/
def State.resend (s : State) (u : Unacked) : Bool × State := s.sendOut (coreOf u.thread) u.pkt

/-- The answer packet of a request. -/
def answerPacket (rq : Packet) (kind : Byte) (status : Byte) (ticket : BitVec 32) (data : List Byte) : Packet :=
  { pkind := kind, ndata := flitsOf data.length, ord := rq.ord, vcl := 1, pkey := rq.pkey
    dst := rq.src, src := rq.dst, fseq := rq.fseq, seq := rq.seq, pid := rq.pid, encl := rq.encl, addr := rq.addr
    aux := BitVec.ofNat 64 (status.toNat + ticket.toNat * 256), srcv := rq.srcv, lo := rq.lo, data }

/-- The request changed memory, or took a slot, so its answer is kept (R168): a VAMO's message has changed it although one of
its lanes fails (R210). -/
def changes (rq : Packet) (kind status : Byte) : Bool :=
  (kind == pkACK) || (kind == pkTNAK && 1 < rq.lanes.length) || (kind == pkRDA && rq.lo.extractLsb' 3 3 == 2) || (kind == pkMSGA && status == 0)

/-- The classes of requests whose numbers are counted apart: accesses, messages, multicast copies. -/
def classOf (kind : Byte) : Nat := if kind = pkMSG then 1 else if kind = pkMCW then 2 else 0
/-- Two requests are of one unit, and of one row of numbers: an access's run by chip, a message's by address, and a copy's by
group and track, whatever link it comes on (R168, R362). -/
def sameRow (a b : Packet) : Bool :=
  classOf a.pkind == classOf b.pkind && a.srcv == b.srcv && a.pid == b.pid &&
  match classOf a.pkind with
  | 2 => a.aux == b.aux && a.lo.extractLsb' 14 12 == b.lo.extractLsb' 14 12
  | 1 => a.src == b.src && a.addr == b.addr
  | _ => a.src == b.src
/-- A request repeats another one's number: whatever it holds, the first stands (R165, R168). -/
def repeats (a b : Packet) : Bool := sameRow a b && a.seq == b.seq

/-- Keeps an answer. Those of the same row whose number lies half the range behind are forgotten: its
numbers have gone round by then (R168). -/
def State.keepAnswer (s : State) (rq : Packet) (k : Packet) : State :=
  { s with fab := { s.fab with answers := (rq, k) :: s.fab.answers.filter fun e =>
      !(sameRow e.1 rq && decide (2 ^ 23 ≤ (rq.seq - e.1.seq).toNat)) } }

/-- The kept answer of a request that repeats an accepted number, for the FSEQ that it came with now (R168). -/
def State.keptAnswer (s : State) (rq : Packet) : Option Packet :=
  (s.fab.answers.find? fun e => repeats e.1 rq).map fun e => { e.2 with fseq := rq.fseq }

/-- Sends the answer of a request, and keeps it where a repeat must get it again. -/
def State.answerWith (s : State) (rq : Packet) (k : Packet) (status : Byte) : State :=
  ((if changes rq k.pkind status then s.keepAnswer rq k else s).forward k).2
/-- Answers a request packet. -/
def State.reply (s : State) (rq : Packet) (kind : Byte) (status : Byte) (ticket : BitVec 32) (data : List Byte) : State :=
  s.answerWith rq (answerPacket rq kind status ticket data) status

/-- The request that an answer packet answers. -/
def State.answered? (s : State) (k : Packet) : Option Unacked :=
  s.fab.unacked.find? fun u => u.pkt.dst == k.src && u.pkt.fseq == k.fseq
def State.dropUnacked (s : State) (u : Unacked) : State :=
  { s with fab := { s.fab with unacked := s.fab.unacked.filter fun v =>
      !(v.pkt.dst == u.pkt.dst && v.pkt.fseq == u.pkt.fseq) } }

/-- Changes the record of an unanswered request. -/
def State.modUnacked (s : State) (u : Unacked) (f : Unacked → Unacked) : State :=
  { s with fab := { s.fab with unacked := s.fab.unacked.map fun v =>
      if v.pkt.dst = u.pkt.dst ∧ v.pkt.fseq = u.pkt.fseq then f v else v } }

/-- Counts a dropped packet: key drops in [63:32], others in [31:0] (R382). -/
def State.countDrop (s : State) (key : Bool) : State :=
  { s with fab := { s.fab with cntDrop := if key then s.fab.cntDrop + 0x100000000 else bumpLow s.fab.cntDrop } }

/-- Sends a copy of a NOTICE on every up port but one (R384). -/
def State.flood (s : State) (k : Packet) (but : Option Nat) : State :=
  (List.range 12).foldl (fun s p => if s.portUp p && some p != but then s.outPkt p k else s) s

/-- The notice endpoints that are registered. -/
def State.managers (s : State) : List (BitVec 22) :=
  ((List.range 4).map fun i => Map.get 0 s.fab.fmep i).filterMap fun e => if e.getLsbD 63 then some (e.extractLsb' 0 22) else none

/-- Sends a unicast copy of a NOTICE to each endpoint; PH tells it from a flooded copy (log 18). -/
def State.toManagers (s : State) (k : Packet) : State :=
  s.managers.foldl (fun s c => (s.forward { k with dst := c, ph := true }).2) s

/-- The next NOTICE of this chip. -/
def State.newNotice (s : State) (port : Nat) (status : Byte) : Packet × State :=
  let n := s.fab.noticeSeq
  ({ pkind := pkNOTICE, ndata := 0, vcl := 3, pkey := 0, dst := 0, src := s.coord
     addr := BitVec.ofNat 64 (s.coord.toNat + port % 16 * 2 ^ 24)
     aux := BitVec.ofNat 64 (status.toNat + n.toNat * 256), srcv := s.cycle },
   { s with fab := { s.fab with noticeSeq := n + 1, notices := (s.coord, n) :: s.fab.notices } })

/-- The notice of a port that goes down. -/
def State.portNotice (s : State) (port : Nat) (status : Byte) : State :=
  let (k, s1) := s.newNotice port status
  (s1.flood k none).toManagers k

/-- A packet dropped for its key or its authentication is counted and reported to the endpoints (R368, R381);
the spec names no port for this report. -/
def State.dropReported (s : State) (key : Bool) : State :=
  let (f, s1) := (s.countDrop key).takeFree
  let (k, s2) := s1.newNotice f.toNat 5
  s2.toManagers k

/-! ## FSEQ seen from a source (R366, R367) -/

/-- A comes before b among numbers modulo 2^24. -/
def before24 (a b : BitVec 24) : Bool := a != b && decide ((b - a).toNat < 2 ^ 23)
def State.seenOf (s : State) (src : BitVec 22) : Seen := Map.get {} s.fab.seen src.toNat
def Seen.has (x : Seen) (n : BitVec 24) : Bool := before24 n x.next || x.past.contains n
/-- Moves the lowest number not seen past those that have been seen. -/
def Seen.settle (x : Seen) : Nat → Seen
  | 0 => x
  | fuel + 1 => if x.past.contains x.next then { x with next := x.next + 1, past := x.past.filter (· != x.next) }.settle fuel else x
def Seen.add (x : Seen) (n : BitVec 24) : Seen :=
  if x.has n then x else { x with past := n :: x.past }.settle (x.past.length + 1)
/-- A numbered packet has arrived; ok: it has passed the check of its key. -/
def State.sawFseq (s : State) (k : Packet) (ok : Bool) : State :=
  let x := (s.seenOf k.src).add k.fseq
  { s with fab := { s.fab with seen := Map.put s.fab.seen k.src.toNat (if ok then { x with pkey := k.pkey, pid := k.pid } else x) } }
/-- Every packet that the source sent here before number n has been seen. -/
def State.allSeenBefore (s : State) (src : BitVec 22) (n : BitVec 24) : Bool := before24 n (s.seenOf src).next || n == (s.seenOf src).next

end Sys2Proof.Machine
end

