-- ==== Sys2Proof/Machine/Mcast.lean ====
section
/-! DEFINITION. Multicast groups: group entries, copies on their way down the tree, and the answers that come
back up to the tracks of the issuing thread (R372–R376, R388, R389). -/

namespace Sys2Proof.Machine

/-! ## Group entries (R372) -/

def grpAddr (g : Nat) : Nat := yBase + 0x100000000 + 64 * g

/-- A group entry, as its 64 bytes. -/
def State.grp (s : State) (g : Nat) : List Byte := s.mem.bytesAt (grpAddr g) 64
def grpValid (e : List Byte) : Bool := field e 0 1 % 2 == 1
def grpRoot (e : List Byte) : Bool := field e 0 1 / 2 % 2 == 1
def grpLocal (e : List Byte) : Bool := field e 0 1 / 4 % 2 == 1
def grpParent (e : List Byte) : Nat := field e 1 1
/-- The ports of FWD. -/
def grpPorts (e : List Byte) : List Nat := (List.range 12).filter fun p => field e 2 2 / 2 ^ p % 2 == 1
def grpKey (e : List Byte) : BitVec 16 := BitVec.ofNat 16 (field e 4 2)
def grpMember (e : List Byte) : BitVec 9 := BitVec.ofNat 9 (field e 6 2)
def grpCount (e : List Byte) : Nat := field e 8 2
def grpMeas (e : List Byte) : Digest := digestOf (e.drop 0x20)

/-- The chip's current measurement digest. -/
def State.measurement (s : State) : Digest := Config.measurement s.sys.mboot s.sys.mmon s.sys.mstn s.sys.msvc

/-- The group that an MCW names. -/
def mcGroup (k : Packet) : Nat := k.lo.toNat / 2 ^ 14 % 2 ^ 12

/-! ## Tracks (R376, R378) -/

/-- The KIND 5 address of a track of thread t under a rank. -/
def trackAddr (rank : BitVec 22) (t k : Nat) : Word :=
  BitVec.ofNat 64 (5 * 2 ^ 61 + rank.toNat * 2 ^ 38 + (sourceOf t).toNat % 2 ^ 38 / 2 ^ 24 * 2 ^ 24 + k * 2 ^ 21)
/-- The thread and the track that a KIND 5 address names. -/
def trackThread (w : Word) : Nat :=
  (w.extractLsb' 36 2).toNat * 4096 + (w.extractLsb' 31 5).toNat * 128 + (w.extractLsb' 28 3).toNat * 16 + (w.extractLsb' 24 4).toNat
def trackIndex (w : Word) : Nat := (w.extractLsb' 21 2).toNat

/-- A track that has freed: its stores are acknowledged without a failure, and no MCWAIT that waits keeps it (R376, R378). -/
def Track.freed (q : Track) (a : Act) : Bool := q.waiting == [] && !q.failed && q.awaited != some (a.pc, a.retire)
/-- The track k of an activation, if it is in use. -/
def Act.track (a : Act) (k : Nat) : Option Track := (Map.get none a.tracks k).filter fun q => !q.freed a
/-- The track that holds a group, or a free one. -/
def Act.trackFor (a : Act) (g : BitVec 22) : Option Nat :=
  match (List.range 4).find? fun k => (a.track k).any fun x => x.group == g with
  | some k => some k
  | none => (List.range 4).find? fun k => (a.track k).isNone

/-- The members 0 to n − 1 that a bitmap lacks. -/
def missing (n : Nat) (b : BitVec 512) : List Nat := (List.range n).filter fun i => !b.getLsbD i
/-- The report with the lowest index. -/
def lowest (a b : Option (BitVec 9 × BitVec 4)) : Option (BitVec 9 × BitVec 4) :=
  match a, b with
  | some x, some y => some (if y.1.toNat < x.1.toNat then y else x)
  | none, y => y
  | x, none => x

/-- Delivers the result of a multicast store to the track of its thread: the answer of the thread's access
seq, with NMEM (R376). A track that an MCWAIT waits for is left to it (R378). -/
def State.mcResult (s : State) (t seq k : Nat) (bitmap : BitVec 512) (nmem : Nat) (report : Option (BitVec 9 × BitVec 4)) (none' : Bool) : State :=
  let x := s.th t
  match x.outst.find? fun r => r.seq == seq with
  | none => s
  | some r =>
    let ea := match r.elems with | e :: _ => e.ea | [] => 0
    let bad := none' || missing nmem bitmap != []
    let s1 := s.modTh t fun x => { x with
      outst := x.outst.filter fun q => q.seq != seq
      status := if x.status = .stalled .access then .running else x.status }
    if r.orphan then s1 else
    let s2 := s1.modCtx t fun a =>
      match Map.get none a.tracks k with
      | none => a
      | some q =>
        let q1 := { q with
          waiting := q.waiting.filter (· != seq), bitmap := q.bitmap &&& bitmap, nmem := nmem
          reports := q.reports ++ report.toList, failed := q.failed || bad, lva := ea &&& 0xFFFFFFFFFF }
        { a with tracks := Map.set none a.tracks k (if q1.waiting = [] ∧ !q1.failed ∧ q1.awaited = none then none else some q1) }
    if bad then s2.recordError t 7 1 7 ea else s2

/-! ## Copies (R373, R374, R388, R389) -/

/-- The wait is that of a copy's store: the same row of numbers, and the same number (R362). -/
def McWait.isFor (w : McWait) (k : Packet) : Bool := repeats w.pkt k

def State.mcWait? (s : State) (k : Packet) : Option McWait := s.fab.mcwaits.find? fun w => w.isFor k
def State.modMcWait (s : State) (k : Packet) (f : McWait → McWait) : State :=
  { s with fab := { s.fab with mcwaits := s.fab.mcwaits.map fun w => if w.isFor k then f w else w } }

/-- The MCACK of a copy (R374). -/
def State.mcackPacket (s : State) (w : McWait) : Packet :=
  let rep := match w.report with | some r => r.2.toNat + r.1.toNat * 2 ^ 40 + 2 ^ 49 | none => 0
  { w.pkt with
    pkind := pkMCACK, ndata := 1, ord := false, val := false, vcl := 1, hops := 0, dst := w.pkt.src, src := s.coord
    aux := BitVec.ofNat 64 rep, lo := 0, hi := 0, data := leBytes 64 w.bitmap.toNat }

/-- The copies of a store that its children have not answered are given up. -/
def State.dropCopies (s : State) (k : Packet) : State :=
  { s with fab := { s.fab with unacked := s.fab.unacked.filter fun u => !(u.pkt.pkind == pkMCW && repeats u.pkt k) } }

/-- Ends the wait of a copy whose answers are in: the root delivers its result, another chip answers its
parent on that port. When the port is down the answer is discarded for good (R389), and what is kept, since a member has
stored the copy, says only that a repeat is not performed (R168). -/
def State.mcFinish (s : State) (w : McWait) : State :=
  let s1 := ({ s with fab := { s.fab with mcwaits := s.fab.mcwaits.filter fun v => !v.isFor w.pkt } } : State).dropCopies w.pkt
  let a := s1.mcackPacket w
  let keep : Packet → State := fun a => if w.bitmap = 0 then s1 else s1.keepAnswer w.pkt a
  match w.parent with
  | some p => if s1.portOpen p then (keep a).outPkt p a else keep { a with pkind := 0 }
  | none =>
    (keep a).mcResult (trackThread w.pkt.aux) w.acc (trackIndex w.pkt.aux) w.bitmap
      (grpCount (s.grp (mcGroup w.pkt))) w.report false

/-- Finishes a copy that waits for nothing more. -/
def State.mcSettle (s : State) (k : Packet) : State :=
  match s.mcWait? k with
  | some w => if w.children = [] ∧ !w.here then s.mcFinish w else s
  | none => s

/-- The local member's own result: 0 for success, or a cause. -/
def State.mcLocalDone (s : State) (k : Packet) (cause : Byte) : State :=
  let ix := grpMember (s.grp (mcGroup k))
  (s.modMcWait k fun w => { w with
    here := false
    bitmap := if cause = 0 then w.bitmap ||| (1#512 <<< ix.toNat) else w.bitmap
    report := if cause = 0 then w.report else lowest w.report (some (ix, cause.setWidth 4)) }).mcSettle k

/-- The failure report of an MCACK. -/
def mcReport (k : Packet) : Option (BitVec 9 × BitVec 4) :=
  if k.aux.getLsbD 49 then some (k.aux.extractLsb' 40 9, k.aux.extractLsb' 0 4) else none
def mcBitmap (k : Packet) : BitVec 512 := BitVec.ofNat 512 (leNat (k.data.take 64))

/-- The child on a port has answered the copy c, or counts as one that has: its members that stored the copy, and its
report. -/
def State.mcAnswer (s : State) (c : Packet) (port : Nat) (bitmap : BitVec 512) (report : Option (BitVec 9 × BitVec 4)) : State :=
  (s.modMcWait c fun w =>
    if w.children.contains port then { w with
      children := w.children.filter (· != port)
      bitmap := w.bitmap ||| bitmap
      report := lowest w.report report }
    else w).mcSettle c

/-- Puts a copy on its port; one whose port is down is lost, and its resends may still go (R366, R370). -/
def State.outCopy (s : State) (p : Nat) (k : Packet) : State := if s.takes p then s.outPkt p k else s
/-- Sends a copy on a FWD port, and keeps it until its MCACK (R366). Its SRC and DST are the chips at the two ends of the
link (log 18). -/
def State.mcCopy (s : State) (k : Packet) (p : Nat) : State :=
  let dst := (s.across p).getD 0
  let (n, s1) := s.nextFseq dst
  let c := { k with dst, src := s.coord, fseq := n }
  let s2 := s1.outCopy p c
  { s2 with fab := { s2.fab with unacked := s2.fab.unacked ++ [{ pkt := c, thread := 65535, ix := p }] } }

/-- Sends the copies of a store or of a copy that has arrived, and begins the wait for their answers. here:
a local copy is performed too. acc: at the root, the number of the access. -/
def State.mcForward (s : State) (k : Packet) (e : List Byte) (parent : Option Nat) (acc : Nat) (here : Bool) (report : Option (BitVec 9 × BitVec 4)) : State :=
  let down := { k with hops := match parent with | some _ => if k.hops = 255 then 255 else k.hops + 1 | none => 0 }
  let ps := grpPorts e
  let s1 := ps.foldl (fun s p => s.mcCopy down p) s
  { s1 with fab := { s1.fab with mcwaits := s1.fab.mcwaits ++ [{ pkt := k, parent, children := ps, acc, here, report }] } }

end Sys2Proof.Machine
end

