-- ==== Sys2Proof/Machine/Access.lean ====
section
/-! DEFINITION. How an access is checked, translated and performed at its word's home, and answered:
protection (R170, R189), page tables (R173–R176), tags and sync modes (R184–R186), poison (R183), atomics
at their owner (R199–R210), retry lists and tickets (R215, R216) and errors (R177, R178). -/

namespace Sys2Proof.Machine

/-! ## Local spaces (R169, R170) -/

def spaceNo : Space → Nat
  | .s => 0 | .a => 1 | .w => 2 | .c => 3 | .xs => 4 | .xa => 5 | .xw => 6 | .d => 7 | .y => 15
/-- The typed buffer a space reaches: 0 S, 1 A, 2 W, 3 C. -/
def bufOf : Space → Nat
  | .s | .xs => 0 | .a | .xa => 1 | .w | .xw => 2 | _ => 3
def bufSize (k : Nat) : Nat := if k = 0 ∨ k = 3 then 0x40000 else 0x80000
def isCross : Space → Bool | .xs | .xa | .xw => true | _ => false
def isLocal : Space → Bool | .s | .a | .w | .xs | .xa | .xw => true | _ => false
def isTagged : Space → Bool | .s | .xs | .d => true | _ => false

/-- The flat address of a local or cross-block address of thread t; none outside the valid range. -/
def flatAddr (t : Nat) (sp : Space) (ea : Word) (n : Nat) : Option Nat :=
  let k := bufOf sp
  let a := ea.toNat
  if isCross sp then
    if a < 2 ^ 22 ∧ a % 2 ^ 19 + n ≤ bufSize k then
      some (bufBase (clusterOf t * 8 + a / 2 ^ 19) k + a % 2 ^ 19)
    else none
  else if a + n ≤ bufSize k then some (bufBase (blockOf t) k + a) else none

/-- The lowest-numbered protection entry that matches (R170). -/
def State.pentFor (s : State) (t : Nat) (sp : Space) (ea : Word) (n : Nat) : Option Pent :=
  let ps := (s.owner (coreOf t)).pents
  ((List.range 16).map fun i => Map.get none ps i).findSome? fun p =>
    match p with
    | some e => if e.v ∧ e.sp.toNat = spaceNo sp ∧ e.base.toNat ≤ ea.toNat ∧ ea.toNat + n ≤ e.limit.toNat + 1
      then some e else none
    | none => none

/-- The stamp of words written under a key in an enclave (R181). The cipher takes bytes 0 to 15 of the key record (R399),
which are the upper half of the number that digestOf reads. -/
def stampOf (key : Digest) (encl : Byte) : Nat := key.toNat / 2 ^ 128 * 256 + encl.toNat + 1
/-- The stamp under the block key slot of an enclave: the lowest valid slot that holds it (R399). -/
def Block.stampFor (b : Block) (encl : Byte) : Option Nat :=
  ((List.range 8).map fun i => Map.get none b.keys i).findSome? fun k =>
    match k with
    | some e => if e.1 = encl then some (stampOf e.2 encl) else none
    | none => none

/-- Checks 2 to 4 of R189 for one element of n bytes in a local space, aligned to al: the flat address
and the stamp, or the fault. -/
def State.checkLocal (s : State) (t : Nat) (sp : Space) (write : Bool) (ea : Word) (n al : Nat) : Except Trap (Nat × Nat) :=
  if ea.toNat % al ≠ 0 then .error { code := 0x09, val := ea }
  else match flatAddr t sp ea n with
    | none => .error { code := 0x08, val := ea }
    | some pa =>
      match s.pentFor t sp ea n with
      | none => .error { code := 0x07, val := ea }
      | some e =>
        if (if write then e.w else e.r) then
          match (s.block (blockOf t)).stampFor e.encl with
          | some k => .ok (pa, k)
          | none => .error { code := 0x07, val := ea }
        else .error { code := 0x07, val := ea }

/-- Reads a structure of n bytes from S at issue, after its checks; poison raises 0x0B (R430). -/
def State.readS (s : State) (ea : Word) (n al : Nat) : Except Trap (List Byte × State) :=
  match s.checkLocal s.cur .s false ea n al with
  | .error e => .error e
  | .ok (pa, k) =>
    let ws := (List.range ((pa % 8 + n + 7) / 8)).map (pa / 8 + ·)
    match ws.find? s.mem.bad with
    | some w => .error { code := 0x0B, val := ea + BitVec.ofNat 64 (8 * w - pa / 8 * 8) }
    | none =>
      let r := s.readWords k (pa / 8) ws.length
      .ok (((leBytes (8 * ws.length) r.1).drop (pa % 8)).take n, r.2)

/-! ## Owners (R179, R199) -/

def isBank (pa : Nat) : Bool := decide (2 ^ 42 ≤ pa)
def bankBlock (pa : Nat) : Nat := (pa - 2 ^ 42) / 2 ^ 22
/-- The owner of the word at a flat address: a core of a compute die, or a service core of an edge die (R13, R199). -/
def ownerAt (pa : Nat) : Nat :=
  if isBank pa then bankBlock pa * 16 + pa % 2 ^ 20 / 64 % 16
  else
    let o := pa % 2 ^ 40 / 128 % 64
    32768 + o % 2 * 32 + o / 2
def granule (pa : Nat) : Nat := if isBank pa then 64 else 128

/-- The granule is held by a routine of its owner (R200). -/
def State.held (s : State) (pa : Nat) : Bool :=
  match (s.th (serviceOf (ownerAt pa))).serve with
  | some v => decide (v.base ≤ pa ∧ pa < v.base + v.size)
  | none => false

/-- A routine holds a granule of a region (R200). -/
def State.heldIn (s : State) (pa n : Nat) : Bool :=
  List.any s.threads fun e => match e.2.serve with
    | some v => decide (v.base < pa + n ∧ pa < v.base + v.size)
    | none => false
/-- A routine holds a granule that n bytes from pa lie in: two of them, for a line of a bank (R200). -/
def State.heldSpan (s : State) (pa n : Nat) : Bool := s.held pa || (decide (64 < n) && s.held (pa + 64))
/-- An owner serves one operation at a time: its service thread runs a routine, or the core's activation thread, which is
ready, is to issue first (R21, R200, R201). -/
def State.occupied (s : State) (o : Nat) : Bool :=
  (s.th (serviceOf o)).serve.isSome || ((s.owner o).turn && (s.th o).status == .running)

/-! ## Translation (R172–R176) -/

def dKind (ea : Word) : Nat := ea.toNat / 2 ^ 62
def dChip (ea : Word) : BitVec 22 := ea.extractLsb' 40 22
def dLva (ea : Word) : Nat := ea.toNat % 2 ^ 40

/-- The address lives on this chip (R172). -/
def State.onChip (s : State) (pid : BitVec 16) (ea : Word) : Bool :=
  dKind ea == 0 || (dKind ea == 1 && dChip ea == s.ownRank pid)

def tierBytes (tier : Nat) : Nat := if tier = 0 then 84 * 2 ^ 30 else 768 * 2 ^ 30
def pageBits (level : Nat) : Nat := match level with | 1 => 30 | 2 => 21 | _ => 16

/-- A page-table entry that is malformed (R174). -/
def pteBad (level : Nat) (w : Word) : Bool :=
  let leaf := w.getLsbD 62
  let frame := w.toNat % 2 ^ 40
  w.extractLsb' 40 14 != 0 || w.extractLsb' 0 12 != 0 ||
  (if leaf then frame % 2 ^ pageBits level != 0 ||
      decide (tierBytes (if w.getLsbD 57 then 1 else 0) < frame + 2 ^ pageBits level)
   else level == 3 || w.extractLsb' 54 8 != 0)

/-- A device line that SCRUB has not written since reset fails its MAC at its first read (R423). -/
def Mem.unproved (m : Mem) (pa : Nat) : Bool := !isBank pa && !Map.get false m.macOk (pa / 128)

/-- Where the entry of an address lies in a table of a level. -/
def entryAt (table lva level : Nat) : Nat :=
  tierBase 0 + table + 8 * (match level with | 1 => lva / 2 ^ 30 | 2 => lva / 2 ^ 21 % 512 | _ => lva / 2 ^ 16 % 32)
/-- One page-table walk from a table on: the leaf and its level; or none, with whether an entry was malformed. A poisoned entry
is none (log 101). -/
def State.walkFrom (s : State) (table lva : Nat) : List Nat → Option (Word × Nat) × Bool
  | [] => (none, false)
  | l :: ls =>
    let a := entryAt table lva l
    let w : Word := BitVec.ofNat 64 (s.mem.read a 8)
    if s.mem.unproved a || s.mem.bad (a / 8) || !w.getLsbD 63 then (none, false)
    else if pteBad l w then (none, true)
    else if w.getLsbD 62 then (some (w, l), false)
    else s.walkFrom (w.toNat % 2 ^ 40) lva ls

/-- The page-table walk of a context (R173). -/
def State.walk (s : State) (pid : BitVec 16) (lva : Nat) : Option (Word × Nat) × Bool :=
  let root := s.ctxField pid 8
  if !root.getLsbD 63 then (none, false)
  else s.walkFrom (root.toNat % 2 ^ 40 / 4096 * 4096) lva [1, 2, 3]

/-- A device line that SCRUB has not written since reset fails its MAC at its first read: every word of it is
poisoned, and the log has it (R182, R423). -/
def State.touchLine (s : State) (pa : Nat) : State :=
  let l := pa / 128
  if !s.mem.unproved pa then s
  else (s.modMem fun m => (List.range 16).foldl (fun m i => m.setBad (16 * l + i) true)
      { m with macOk := Map.set false m.macOk l true }).logRec 0 0x0B 0 (BitVec.ofNat 64 (128 * l))
/-- The walk from a table on reads the lines of its entries. -/
def State.touchWalk (s : State) (table lva : Nat) : List Nat → State
  | [] => s
  | l :: ls =>
    let s1 := s.touchLine (entryAt table lva l)
    let w : Word := BitVec.ofNat 64 (s.mem.read (entryAt table lva l) 8)
    if s1.mem.bad (entryAt table lva l / 8) || !w.getLsbD 63 || pteBad l w || w.getLsbD 62 then s1 else s1.touchWalk (w.toNat % 2 ^ 40) lva ls

/-- The cached entry of a station that covers an address. -/
def findXlate (es : List Xlate) (pid : BitVec 16) (lva : Nat) : Option (Word × Nat) :=
  (es.find? fun e => e.pid == pid && e.lva.toNat == lva / 2 ^ pageBits e.level).map fun e => (e.pte, e.level)

/-- Thread numbers that stand for the engines of a block, whose accesses they hold: 42,000 + 8 · block + engine; 4 stands for
the equivalence engine's writes for an EQINIT. -/
def engineThread (blk e : Nat) : Nat := 42000 + 8 * blk + e
def engineNo : Engine → Nat | .vector => 0 | .matrix => 1 | .copy => 2 | .equiv => 3
/-- A number for an access that no thread or engine makes. -/
def nobody : Nat := 40000
def isEngine (t : Nat) : Bool := decide (42000 ≤ t ∧ t < 50192)

/-- The station that serves a request of thread t (R175). -/
def stationOf (t lva : Nat) : Nat :=
  (if isCore t then dieOf t * 4 else if isEngine t then (t - 42000) / 2048 * 4 else 0) + lva / 2 ^ 16 % 4

/-- Translates an LVA for a PID through a station, which keeps the entry (R175); none when unmapped. -/
def State.translate (s : State) (t : Nat) (pid : BitVec 16) (lva : Nat) : Option (Word × Nat) × State :=
  let st := stationOf t lva
  let es := Map.get [] s.sys.stations st
  match findXlate es pid lva with
  | some r => (some r, s)
  | none =>
    let s := s.touchWalk ((s.ctxField pid 8).toNat % 2 ^ 40 / 4096 * 4096) lva (if (s.ctxField pid 8).getLsbD 63 then [1, 2, 3] else [])
    match s.walk pid lva with
    | (some r, _) =>
      let e : Xlate := { pid, lva := BitVec.ofNat 64 (lva / 2 ^ pageBits r.2), level := r.2, pte := r.1 }
      (some r, { s with sys := { s.sys with stations := Map.put s.sys.stations st ((e :: es).take 4096) } })
    | (none, bad) => (none, if bad then s.logRec (sourceOf t) 0x0A 1 (BitVec.ofNat 64 lva) else s)

/-- The leaf an address has now, without keeping it. -/
def State.leaf? (s : State) (t : Nat) (pid : BitVec 16) (lva : Nat) : Option (Word × Nat) :=
  match findXlate (Map.get [] s.sys.stations (stationOf t lva)) pid lva with
  | some r => some r
  | none => (s.walk pid lva).1

/-- Flat address under a leaf (R173, R174). -/
def leafAddr (r : Word × Nat) (lva : Nat) : Nat :=
  tierBase (if r.1.getLsbD 57 then 1 else 0) + r.1.toNat % 2 ^ 40 / 4096 * 4096 + lva % 2 ^ pageBits r.2
/-- The stamp of a page's memory key slot (R181, R399). -/
def State.memStamp (s : State) (pid : BitVec 16) (slot : BitVec 3) : Nat :=
  match s.sys.memKeys.find? fun k => k.1 == pid && k.2.1 == slot with
  | some k => stampOf k.2.2 0
  | none => stampOf 0 0

def Access.isLoad : Access → Bool | .load | .tagRead => true | _ => false
def Access.isStore : Access → Bool | .store | .tagWrite => true | _ => false
def Access.isAtom : Access → Bool | .amo _ | .amof _ | .cas | .ams _ => true | _ => false
def Access.isTag : Access → Bool | .tagRead | .tagWrite => true | _ => false

/-- The TNAK cause of an access to a leaf; 0 when it is allowed (R176, R204). -/
def tnakCause (w : Word) (what : Access) (sync : Sync) : Byte :=
  if !what.isLoad && !w.getLsbD 60 then 2
  else if !what.isStore && !w.getLsbD 61 then 3
  else if (sync != .plain || what.isTag) && !w.getLsbD 58 then 4
  else 0

/-! ## Performing at the word's home (R183–R185, R204, R207–R209) -/

def setTags (b : Bool) (ws : List Nat) (m : Mem) : Mem := ws.foldl (fun m w => m.setTag w b) m
def clearPoison (ws : List Nat) (m : Mem) : Mem := ws.foldl (fun m w => m.setBad w false) m

/-- The value an integer atomic writes, on w-bit values (R207). -/
def amoNew (opn w old c : Nat) : Nat :=
  let sg := fun x : Nat => if 2 ^ (w - 1) ≤ x then (x : Int) - 2 ^ w else x
  match opn with
  | 0 => c
  | 1 => (old + c) % 2 ^ w
  | 2 => old &&& c
  | 3 => old ||| c
  | 4 => old ^^^ c
  | 5 => if sg old ≤ sg c then old else c
  | 6 => if sg c ≤ sg old then old else c
  | 7 => min old c
  | 8 => max old c
  | _ => if c ≤ old then 0 else old + 1

/-- The value and flags of an FP32 atomic (R208). -/
def amofNew (opn old c : Nat) : Nat × FFlags :=
  match opn with
  | 0 => roundWith 8 .rne false (fpAdd .rne (fpDecode 8 old) (fpDecode 8 c))
  | 1 => fpMinMax 8 false old c
  | _ => fpMinMax 8 true old c

/-- The tag that an atomic leaves after a write (R204). -/
def atomTag : Sync → Option Bool
  | .plain => none | .wf | .wef | .sf => some true | .wfe | .se => some false

/-- What trying an element gives. -/
inductive Try where
  | done (res : Nat) (fl : FFlags) (s : State)
  | err (cause : Byte) (s : State)
  | wait (s : State)
  | blocked
  deriving DecidableEq, Repr

/-- A member's first write in the epoch to a word of S or A is journalled (R164); a job's write to C or W
ends the epoch's use. -/
def State.journal (s : State) (a : Act) (pa : Nat) : State :=
  match s.teamOf a with
  | none => s
  | some team =>
    if !isBank pa then s else
    let k := pa % 2 ^ 22 / 2 ^ 20
    if 2 ≤ k then s.killEpoch a else
    let w := pa / 8
    s.modBlock (bankBlock pa) fun b => b.modEpoch team fun p =>
      if p.dead ∨ p.olds.any fun o => o.1 == w then p
      else if b.journalFull 1 then { p with dead := true }
      else { p with olds := (w, s.mem.word w, s.mem.tag w) :: p.olds, used := p.used + 1 }

/-- Journals some words: a change of a word's data, or of its tag (R164, R168). -/
def State.journalWords (s : State) (a : Act) (ws : List Nat) : State := ws.foldl (fun s w => s.journal a (8 * w)) s
/-- The write of a store or atomic: the journal first. -/
def State.storeAt (s : State) (a : Act) (key pa n x : Nat) : State := (s.journalWords a (wordsOf pa n)).writeAt key pa n x

/-- A word of the access has a request waiting in its owner's retry list (R422). -/
def State.waitedOn (s : State) (ws : List Nat) : Bool :=
  (s.owner (ownerAt (8 * ws.headD 0))).retry.any fun e => ws.contains e.word

/-- The bytes that a store writes: its data, with the bits that its mask leaves as they are in the word (R234, R327). -/
def Elem.merged (e : Elem) (s : State) (key pa : Nat) : Nat × State :=
  match e.mask with
  | none => (e.data.toNat, s)
  | some m =>
    let x := s.readAt key pa e.size
    ((x.1 &&& (2 ^ (8 * e.size) - 1 - m)) ||| (e.data.toNat &&& m), x.2)

/-- Performs an element at its home, when its sync mode lets it (R183–R185, R204). One of no bytes changes
nothing (R191). -/
def State.performNow (s0 : State) (t : Nat) (r : Req) (e : Elem) (pa key : Nat) : Try :=
  let ws := wordsOf pa e.size
  let whole := r.what = .store ∧ r.sync = .plain ∧ 128 ≤ e.size
  let s := if whole then s0 else s0.touchLine pa
  let full := ws.all s.mem.tag
  let empty := ws.all fun w => !s.mem.tag w
  let bad := ws.any s.mem.bad
  let needFull := r.sync = .wf ∨ r.sync = .wfe
  let act := (s.th t).act
  if e.size = 0 then .done 0 0 s0 else if s.heldSpan pa e.size || (r.what.isAtom && s.occupied (ownerAt pa)) then .blocked else
  match r.what with
  | .load =>
    if needFull ∧ !full then .wait s
    else if bad then .err 6 s
    else
      let x := s.readAt key pa e.size
      .done x.1 0 (if r.sync = .wfe then (x.2.journalWords act ws).modMem (setTags false ws) else x.2)
  | .store =>
    if bad ∧ !(r.sync = .plain ∧ 8 ≤ e.size ∧ e.mask.isNone) then .err 6 s
    else if r.sync = .wef ∧ !empty then .wait s
    else if (s.th t).trcfg.getLsbD 0 ∧ (r.sync = .plain ∨ r.sync = .se) ∧ s.waitedOn ws then .err 0x17 s
    else
      let x := e.merged s key pa
      let s1 := x.2.storeAt act key pa e.size x.1
      .done 0 0 (s1.modMem fun m =>
        match r.sync with
        | .wef | .sf => setTags true ws m
        | .se => setTags false ws m
        | _ => clearPoison ws m)
  | .tagRead => .done ((List.range ws.length).map fun i => if s.mem.tag (ws.headD 0 + i) then 2 ^ i else 0).sum 0 s
  | .tagWrite =>
    if (s.th t).trcfg.getLsbD 0 ∧ s.waitedOn ws then .err 0x17 s
    else .done 0 0 ((s.journalWords act ws).modMem fun m =>
      (List.range ws.length).foldl (fun m i => m.setTag (ws.headD 0 + i) (e.data.getLsbD i)) m)
  | .amo opn =>
    if (needFull ∧ !full) ∨ (r.sync = .wef ∧ !empty) then .wait s
    else if bad then .err 6 s
    else
      let x := s.readAt key pa e.size
      let new := amoNew opn.toNat (8 * e.size) x.1 (e.data.toNat % 2 ^ (8 * e.size))
      let s1 := x.2.storeAt act key pa e.size new
      .done x.1 0 (match atomTag r.sync with | some b => s1.modMem (setTags b ws) | none => s1)
  | .amof opn =>
    if (needFull ∧ !full) ∨ (r.sync = .wef ∧ !empty) then .wait s
    else if bad then .err 6 s
    else
      let x := s.readAt key pa 4
      let new := amofNew opn.toNat x.1 (e.data.toNat % 2 ^ 32)
      let s1 := x.2.storeAt act key pa 4 new.1
      .done x.1 new.2 (match atomTag r.sync with | some b => s1.modMem (setTags b ws) | none => s1)
  | .cas =>
    if (needFull ∧ !full) ∨ (r.sync = .wef ∧ !empty) then .wait s
    else if bad then .err 6 s
    else
      let x := s.readAt key pa e.size
      if x.1 = e.data2.toNat % 2 ^ (8 * e.size) then
        let s1 := x.2.storeAt act key pa e.size e.data.toNat
        .done x.1 0 (match atomTag r.sync with | some b => s1.modMem (setTags b ws) | none => s1)
      else .done x.1 0 x.2
  | .ams _ => .blocked

/-- The thread that an access counts as its own: for an engine's, the thread whose job makes it (R335). -/
def State.keeper (s : State) (t : Nat) : Nat := if isEngine t then (s.th t).issuer.getD t else t
/-- The epoch of the team that thread t's activation or engine job belongs to, in the block of its thread. -/
def State.epochOf (s : State) (t : Nat) : Option ((Word × Word) × Epoch) :=
  if !isAct (s.keeper t) then none else
  match s.teamOf (s.th t).act with
  | some team => ((s.block (blockOf (s.keeper t))).epoch team).map fun p => (team, p)
  | none => none

/-- The answer that a request of the epoch had, and its flags, if it was kept (R168). -/
def Epoch.answer? (p : Epoch) (m : List Nat) (n : Nat) (ea : Word) : Option (Nat × FFlags) :=
  (p.acc.find? fun a => a.1 == m && a.2.1 == n && a.2.2.1 == ea).map fun a => a.2.2.2
/-- Keeps the answer of a request. -/
def Epoch.keep (p : Epoch) (m : List Nat) (n : Nat) (ea : Word) (x : Nat) (fl : FFlags) : Epoch :=
  { p with acc := (m, n, ea, x, fl) :: p.acc }
/-- What tells an element of a member's requests from the others at its address: the request, the place in its register,
and the bits of its word that an engine writes. -/
def Req.elemNo (r : Req) (e : Elem) : Nat := 256 * r.num + e.off + 2 ^ 64 * e.mask.getD 0

/-- The word's writes by the team are journalled: a replay undoes them (R164). -/
def State.journals (s : State) (team : Word × Word) (pa : Nat) : Bool :=
  isBank pa && decide (pa % 2 ^ 22 / 2 ^ 20 < 2) && ((s.block (bankBlock pa)).epoch team).isSome
/-- The request changes memory that no journal of the team undoes (R168, R335). -/
def State.keepsAnswer (s : State) (team : Word × Word) (r : Req) (pa : Nat) : Bool :=
  (match r.what with | .load => r.sync == .wfe | .tagRead => false | _ => true) && !s.journals team pa

/-- Performs an element at its home. One that a replayed thread repeats is answered as the first time (R168). -/
def State.perform (s : State) (t : Nat) (r : Req) (e : Elem) (pa key : Nat) : Try :=
  match s.epochOf t with
  | none => s.performNow t r e pa key
  | some (team, p) =>
    match p.answer? r.member (r.elemNo e) e.ea with
    | some a => .done a.1 a.2 s
    | none =>
      match s.performNow t r e pa key with
      | .done x fl s1 =>
        .done x fl (if s.keepsAnswer team r pa then
          s1.modBlock (blockOf (s.keeper t)) fun b => b.modEpoch team fun p => p.keep r.member (r.elemNo e) e.ea x fl
        else s1)
      | o => o

/-- Where an element lies: its flat address, stamp and leaf; none when its page is not mapped. A request that has been
translated keeps its translation (R175). -/
def State.locate (s : State) (t : Nat) (r : Req) (e : Elem) : Option (Nat × Nat × Word) × State :=
  if r.sp = .d then
    if e.loc.isSome then (e.loc, s) else
    match s.translate t r.pid (dLva e.ea) with
    | (some l, s1) => (some (leafAddr l (dLva e.ea), s1.memStamp r.pid (l.1.extractLsb' 54 3), l.1), s1)
    | (none, s1) => (none, s1)
  else (some (e.pa, e.key, BitVec.allOnes 64), s)

/-- An element whose translation has been taken keeps it (R175). -/
def State.located (s : State) (t : Nat) (r : Req) (e : Elem) (l : Nat × Nat × Word) : Elem :=
  { e with loc := some l, level := if e.loc.isSome then e.level else match s.leaf? t r.pid (dLva e.ea) with | some x => x.2 | none => 3 }

/-! ## Retry lists and tickets (R215, R216) -/

def retryCap (o : Nat) : Nat := if o < 16384 then 32 else 1024

/-- An entry frees: it is reserved for the ticket to serve, if one waits (R216). -/
def State.entryFreed (s : State) (o : Nat) : State :=
  s.modOwner o fun w =>
    if w.serve = w.next then w else { w with reserved := w.reserved ++ [w.serve], serve := w.serve + 1 }

/-- A request whose test fails joins the retry list, or is refused with a ticket. -/
def State.joinRetry (s : State) (o t seq ix word : Nat) (h : Hold) : Hold × State :=
  let w := s.owner o
  let e : Retry := { thread := t, seq, ix, word }
  if w.retry.any fun x => x.thread == t && x.seq == seq && x.ix == ix then (.waiting, s)
  else
    match h with
    | .called o' tk =>
      if o' = o ∧ w.reserved.contains tk then
        (.waiting, s.modOwner o fun w => { w with retry := w.retry ++ [e], reserved := w.reserved.filter (· != tk) })
      else refuse w e s
    | _ => refuse w e s
where
  refuse (w : Owner) (e : Retry) (s : State) : Hold × State :=
    if w.serve = w.next ∧ w.retry.length + w.reserved.length < retryCap o then
      (.waiting, s.modOwner o fun w => { w with retry := w.retry ++ [e] })
    else
      (.refused o w.next false, s.modOwner o fun w =>
        { w with tickets := w.tickets ++ [(w.next, t, seq)], next := w.next + 1 })

/-- Takes an element's entry out of its owner's retry list, if it has one. -/
def State.leaveRetry (s : State) (o t seq ix : Nat) : State :=
  let w := s.owner o
  if w.retry.any fun x => x.thread == t && x.seq == seq && x.ix == ix then
    (s.modOwner o fun w => { w with retry := w.retry.filter fun x => !(x.thread == t && x.seq == seq && x.ix == ix) }).entryFreed o
  else s

/-- An element that is done leaves what it held at its owner: its entry, or the one reserved for its called ticket (R216). -/
def State.leaveOwner (s : State) (o t seq ix : Nat) (h : Hold) : State :=
  match h with
  | .called o' tk =>
    if o' = o ∧ (s.owner o).reserved.contains tk then
      (s.modOwner o fun w => { w with reserved := w.reserved.filter (· != tk) }).entryFreed o
    else s.leaveRetry o t seq ix
  | _ => s.leaveRetry o t seq ix

/-- The progress of a request over its elements. -/
structure Run where
  elems : List Elem := []
  stop : Bool := false
  blockedAt : List Nat := []
  phase : Phase := .done
  err : Byte := 0
  errAddr : Word := 0
  flags : FFlags := 0
  /-- Owners whose words' tags may have changed. -/
  changed : List Nat := []

/-! ## Elements on other chips (R172, R361–R363) -/

def sizeOfBytes (n : Nat) : Nat := match n with | 1 => 0 | 2 => 1 | 4 => 2 | 8 => 3 | _ => 5
def syncNo : Sync → Nat | .plain => 0 | .wf => 1 | .wfe => 2 | .wef => 3 | .sf => 4 | .se => 5
def Access.opkind : Access → BitVec 3
  | .load | .store => 0 | .tagRead | .tagWrite => 1 | .amo _ => 2 | .amof _ => 3 | .cas => 4 | .ams _ => 5
def Access.opByte (r : Req) : Nat :=
  match r.what with
  | .amo o | .amof o | .ams o => o.toNat + (if r.acq then 64 else 0) + (if r.rel then 128 else 0)
  | _ => 0

/-- The request packet of an element with number n; or of several lanes for one owner (R210). -/
def State.elemPacket (s : State) (t : Nat) (r : Req) (e : Elem) (lanes : List Elem) (dst : BitVec 22) (n : BitVec 24) : Packet :=
  let flit := fun n : Nat => if n ≤ 64 then 64 else 128
  let data : List Byte :=
    if r.what.isLoad then []
    else if r.what.isStore then padTo (flit e.size) (leBytes e.size e.data.toNat)
    else padTo 64 (leBytes 8 e.data.toNat ++ leBytes 8 e.data2.toNat)
  { pkind := if r.what.isLoad then pkRD else if r.what.isStore then pkWR else pkATM
    ndata := flitsOf data.length, ord := r.ord, pkey := s.pkeyOf r.pid, dst, src := s.coord
    seq := n, pid := r.pid, encl := (s.th t).act.encl, addr := e.ea
    aux := if r.what = .cas then e.data2 else 0, srcv := r.src
    lo := BitVec.ofNat 64 (sizeOfBytes e.size + 8 * syncNo r.sync + 64 * Access.opByte r)
    hi := if r.what.isStore then BitVec.ofNat 64 (2 ^ ((e.size + 7) / 8) - 1) else 0
    lanes := if 1 < lanes.length then lanes.map fun l => (l.ea, l.data.setWidth 64) else []
    opkind := r.what.opkind, part := e.mask, data }

/-- The owner in TICKET of a word of another chip's device memory: pages are 64 KiB at least, so the LVA's
low bits are the frame's (R173, R179). -/
def remoteOwner (ea : Word) : Nat := let o := ea.toNat / 128 % 64; o % 2 * 32 + o / 2
/-- What stands for another chip in the sequence numbers of a unit: a thread, or an engine that runs its job (R168, R362). -/
def chipKey (t : Nat) (dst : BitVec 22) : Word :=
  BitVec.ofNat 64 (dst.toNat + 1 + 2 ^ 32 * (if isEngine t then t - 41999 else 0))
/-- What stands for a multicast group. -/
def groupKey (g : BitVec 22) : Word := BitVec.ofNat 64 (2 ^ 60 + g.toNat)
/-- The lanes that reach their owner with lane ix as one message: those of its owner from it on (R210). -/
def Req.mates (r : Req) (ix : Nat) (e : Elem) : List (Elem × Nat) :=
  if r.perOwner then r.elems.zipIdx.filter fun p => decide (ix ≤ p.2) && !p.1.done && dKind p.1.ea == dKind e.ea && dChip p.1.ea == dChip e.ea && remoteOwner p.1.ea == remoteOwner e.ea
  else [(e, ix)]

/-- Sends an element to its rank; none where no packet can leave: error cause 5 (R361, R370). -/
def State.sendElem (s : State) (t : Nat) (r : Req) (ix : Nat) (e : Elem) : Option State :=
  let rank := dChip e.ea
  match s.coordOf r.pid rank with
  | none => none
  | some c =>
    let core := coreOf t
    let dst := if r.ord then s.flowDst core r.pid rank c else c
    let s1 := if r.ord then s.openFlow core r.pid rank c else s
    let u := s.keeper t
    let (n, s2) := s1.nextSeqTo u (chipKey t dst)
    let s3 := s2.journalSendOf (s.th t).act u (chipKey t dst) n
    let ms := r.mates ix e
    match s3.request (s3.elemPacket t r e (ms.map Prod.fst) dst n) t r.seq ix none (ms.map Prod.snd) with
    | (true, s4) => some s4
    | (false, _) => none
/-- An element is on its way to another chip. -/
def State.isAway (s : State) (t seq ix : Nat) : Bool :=
  s.fab.unacked.any fun u => u.thread == t && u.msg.isNone && u.seq == seq && u.ixs.contains ix

/-- Of the places where the elements of a request stand, what the request's phase is. -/
def Phase.and (a b : Phase) : Phase :=
  if a = .waiting ∨ b = .waiting then .waiting else if a = .sent ∨ b = .sent then .sent else if a = .remote ∨ b = .remote then .remote else b

/-- The tag test of an access that takes part in a word's order holds (R185, R204). -/
def State.tagPasses (s : State) (r : Req) (ws : List Nat) : Bool :=
  !((r.sync == .wf || r.sync == .wfe) && !ws.all s.mem.tag) && !(r.sync == .wef && ws.any s.mem.tag)
/-- An earlier entry of the owner's retry list has passed its test and waits for the owner alone: a request that reaches
the same word comes after it, and so does another operation of the owner (R186, R200). -/
def State.owedFirst (s : State) (o t : Nat) (r : Req) (ix : Nat) (ws : List Nat) : Bool :=
  let ahead := (s.owner o).retry.takeWhile fun x => !(x.thread == t && x.seq == r.seq && x.ix == ix)
  ahead.any fun x =>
    match (s.th x.thread).outst.find? fun q => q.seq == x.seq with
    | some q =>
      match q.elems[x.ix]? with
      | some e =>
        let vs := wordsOf (8 * x.word) e.size
        !e.done && (vs.any ws.contains || (q.what.isAtom && r.what.isAtom)) && s.tagPasses q vs
      | none => false
    | none => false

/-- Tries one element. -/
def State.runElem (s : State) (t : Nat) (r : Req) (u : Run) (ix : Nat) (e : Elem) : Run × State :=
  if e.done ∨ u.stop then ({ u with elems := u.elems ++ [e] }, s)
  else if isEngine t ∧ u.err ≠ 0 then ({ u with elems := u.elems ++ [{ e with done := true }] }, s)
  else if r.sp = .d ∧ t < 65536 ∧ !s.onChip r.pid e.ea then
    let many := r.perOwner || r.perWord
    let place := 2 ^ 64 + e.ea.toNat / 8
    let away : Run := { u with elems := u.elems ++ [e], stop := !many, phase := u.phase.and .remote
                               blockedAt := if r.perWord then place :: u.blockedAt else u.blockedAt }
    if s.isAway t r.seq ix then (away, s)
    else if r.perWord ∧ u.blockedAt.contains place then ({ u with elems := u.elems ++ [e] }, s)
    else match s.sendElem t r ix e with
    | some s1 => (away, s1)
    | none => ({ u with elems := u.elems ++ [{ e with done := true }]
                        err := if u.err = 0 then 5 else u.err
                        errAddr := if u.err = 0 then e.ea else u.errAddr }, s)
  else
    match s.locate t r e with
    | (none, s1) => ({ u with elems := u.elems ++ [e], stop := true, phase := .parked }, s1)
    | (some (pa, key, pte), s1) =>
      let e := if r.sp ≠ .d then { e with loc := none } else s1.located t r e (pa, key, pte)
      let o := ownerAt pa
      let many := r.perOwner || r.perWord
      let place := if r.perWord then pa / 8 else o
      let held := match e.hold with | .refused _ _ _ => true | _ => false
      if many ∧ u.blockedAt.contains place then ({ u with elems := u.elems ++ [e] }, s1)
      else if held then ({ u with elems := u.elems ++ [e], stop := !many, phase := .waiting }, s1)
      else
        let c := tnakCause pte r.what r.sync
        let out := if c ≠ 0 then .err c s1
          else if s1.owedFirst o t r ix (wordsOf pa e.size) then .blocked else s1.perform t r e pa key
        match out with
        | .done x fl s2 =>
          ({ u with elems := u.elems ++ [{ e with done := true, hold := .free, res := BitVec.ofNat 1024 x }], flags := u.flags ||| fl
                    changed := if u.changed.contains o then u.changed else u.changed ++ [o] },
           s2.leaveOwner o t r.seq ix e.hold)
        | .err c s2 =>
          ({ u with elems := u.elems ++ [{ e with done := true, hold := .free }]
                    err := if u.err = 0 then c else u.err
                    errAddr := if u.err = 0 then e.ea else u.errAddr }, s2.leaveOwner o t r.seq ix e.hold)
        | .wait s2 =>
          let j := s2.joinRetry o t r.seq ix (pa / 8) e.hold
          ({ u with elems := u.elems ++ [{ e with hold := j.1 }], stop := !many, phase := .waiting }, j.2)
        | .blocked =>
          ({ u with elems := u.elems ++ [e], stop := !many, blockedAt := place :: u.blockedAt
                    phase := u.phase.and .sent }, s1)

def State.runElems (s : State) (t : Nat) (r : Req) (u : Run) : Nat → List Elem → Run × State
  | _, [] => (u, s)
  | ix, e :: es => let (u1, s1) := s.runElem t r u ix e; s1.runElems t r u1 (ix + 1) es

/-- Changes the element of a request that was refused with a ticket, or called. -/
def Req.setHold (r : Req) (o : Nat) (tk : BitVec 32) (h : Hold) : Req :=
  { r with elems := r.elems.map fun e => match e.hold with
      | .refused o' k _ => if o' = o ∧ k = tk then { e with hold := h } else e
      | _ => e }
/-- The first element that was refused: its owner and ticket, among those told or those not. -/
def Req.refusal (r : Req) (told : Bool) : Option (Nat × BitVec 32) :=
  r.elems.findSome? fun e => match e.hold with
    | .refused o k d => if d = told then some (o, k) else none
    | _ => none

/-- Replaces an outstanding access of a thread. -/
def State.setReq (s : State) (t : Nat) (r : Req) : State :=
  s.modTh t fun x => { x with outst := x.outst.map fun q => if q.seq = r.seq then r else q }
def State.req? (s : State) (t seq : Nat) : Option Req := (s.th t).outst.find? fun r => r.seq == seq

/-- The pages of a multicast copy are translated, each walk as for any other access (R174, R175). -/
def State.translateAll (s : State) (t : Nat) (r : Req) : State := r.elems.foldl (fun s e => (s.translate t r.pid (dLva e.ea)).2) s
/-- Why a multicast copy stores nothing now: its page is not mapped (0), or its TNAK cause, or a poisoned word. -/
def State.wholeFails (s : State) (t : Nat) (r : Req) : Option Byte :=
  r.elems.findSome? fun e =>
    match s.leaf? t r.pid (dLva e.ea) with
    | none => some 0
    | some l =>
      let c := tnakCause l.1 r.what r.sync
      let s := s.touchLine (leafAddr l (dLva e.ea))
      if c ≠ 0 then some c
      else if (wordsOf (leafAddr l (dLva e.ea)) e.size).any s.mem.bad && !(r.sync == .plain && decide (8 ≤ e.size)) then some 6
      else none

/-- The core's activation thread is to issue after each of the operations that its owner has just served (R201). -/
def State.servedAt (s : State) (t : Nat) (r : Req) (after : List Elem) : State :=
  if !r.what.isAtom then s else
  (((r.elems.zip after).filter fun p => !p.1.done && p.2.done).filterMap fun p =>
    (s.locate t r p.1).1.map fun l => ownerAt l.1).foldl State.turnOf s
/-- Tries the elements of a request that are not done. -/
def State.runReq (s : State) (t : Nat) (r : Req) : List Nat × State :=
  let first := r.whole && r.elems.all fun e => !e.done
  let s := if first then s.translateAll t r else s
  match (if first then s.wholeFails t r else none) with
  | some 0 => ([], s.setReq t { r with phase := .parked })
  | some c => ([], s.setReq t { r with phase := .done, err := c, elems := r.elems.map fun e => { e with done := true } })
  | none =>
  let (u, s1) := s.runElems t r { err := r.err, errAddr := r.errAddr, flags := r.flags } 0 r.elems
  (u.changed, (s1.setReq t { r with elems := u.elems, phase := u.phase, err := u.err, errAddr := u.errAddr, flags := u.flags }).servedAt t r u.elems)

def Req.performed (r : Req) : Bool := r.phase == .done

/-- A release access of thread t on this chip has completed: it takes the error received by then (R178). -/
def State.relDone (s : State) (t seq : Nat) : State :=
  match s.req? t seq with
  | some r =>
    if r.rel && r.performed && isAct t && !r.orphan && !r.mon && (s.th t).act.deferred.isSome &&
        (r.sp != .d || r.elems.all fun e => s.onChip r.pid e.ea) then s.modCtx t fun a => { a with due := some r.pc }
    else s
  | none => s

/-- The first entry of a retry list whose request goes on when tried now, and the state after it. -/
def State.tryRetries (s : State) : List Retry → Option (List Nat × State)
  | [] => none
  | e :: es =>
    match s.req? e.thread e.seq with
    | none => s.tryRetries es
    | some r =>
      let n := (r.elems.filter (·.done)).length
      let (ch, s1) := s.runReq e.thread r
      let m := match s1.req? e.thread e.seq with | some q => (q.elems.filter (·.done)).length | none => n
      if n < m then some (ch, s1.relDone e.thread e.seq) else s.tryRetries es

/-- A change of tags at an owner re-tests the waiting requests in arrival order (R186). -/
def State.retest (s : State) (os : List Nat) : Nat → State
  | 0 => s
  | fuel + 1 =>
    match os with
    | [] => s
    | o :: rest =>
      match s.tryRetries (s.owner o).retry with
      | some (ch, s1) => s1.retest (os ++ ch.filter fun c => !os.contains c) fuel
      | none => s.retest rest fuel

/-- Re-tests the lists of some owners until nothing more goes on. -/
def State.retestAll (s : State) (os : List Nat) : State :=
  s.retest os (1000 * (1 + (os.map fun o => (s.owner o).retry.length).sum))
/-- Runs a request and re-tests what its tag changes may let go on. -/
def State.runAndRetest (s : State) (t : Nat) (r : Req) : State := let (ch, s1) := s.runReq t r; s1.retestAll ch

/-! ## Order (R187, R190, R203, R226–R237, R239) -/

/-- Bytes an access names, for R190. -/
def overlaps (a b : Req) : Bool :=
  a.sp == b.sp && a.elems.any fun x => b.elems.any fun y =>
    decide (x.ea.toNat < y.ea.toNat + y.size ∧ y.ea.toNat < x.ea.toNat + x.size)

/-- The access is to a TSO page of this chip (R236). -/
def State.isTso (s : State) (t : Nat) (r : Req) : Bool :=
  r.sp == .d && r.elems.any fun e => s.onChip r.pid e.ea &&
    match s.leaf? t r.pid (dLva e.ea) with | some l => l.1.getLsbD 59 | none => false

/-- Comparison of 16-bit counts modulo 2^16 (R237): a is at or past b. -/
def atOrPast (a b : BitVec 16) : Bool := decide ((a - b).toNat < 2 ^ 15)
/-- A stamped release may be applied at a die (R237). -/
def State.stampOk (s : State) (home : Nat) (v : List (BitVec 16)) : Bool :=
  v == [] || (List.range 4).all fun k => atOrPast ((s.die home).a.getD k 0) (v.getD k 0)

/-- The edge die a device request's first element goes to: E0 is 4, E1 is 5 (R13, R199). -/
def State.homeDie (s : State) (t : Nat) (r : Req) : Nat :=
  match r.elems with
  | e :: _ => match s.leaf? t r.pid (dLva e.ea) with
    | some l => 4 + leafAddr l (dLva e.ea) % 2 ^ 40 / 128 % 2
    | none => 4
  | [] => 4

/-- A write on its way to another die of this chip: stamped and handed over, it counts as performed for a release at DIE
or CHIP scope (R226, R237). One to another chip counts only when it is acknowledged. -/
def State.handed (s : State) (r : Req) : Bool :=
  r.sp == .d && r.what.isStore && r.phase != .remote && r.elems.all fun e => s.onChip r.pid e.ea
/-- A release that is stamped itself, and so leaves what is handed over to the dies (R226, R237). -/
def State.stampedRelease (s : State) (r : Req) : Bool :=
  r.sp == .d && r.sc != .job && r.elems.all fun e => s.onChip r.pid e.ea
/-- A message that thread t sent before an access has not been delivered: a release waits for it (R226). -/
def State.sentBefore (s : State) (t : Nat) (r : Req) : Bool :=
  s.flight.any fun m => m.origin == .thread t && decide (m.after ≤ r.seq) && !(s.stampedRelease r && m.stamp != [])

/-- The ordering rules let the request be performed now. -/
def State.canPerform (s : State) (t : Nat) (r : Req) : Bool :=
  let earlier := (s.th t).outst.filter fun q => decide (q.seq < r.seq) && !q.performed
  let tso := s.isTso t r
  !(r.rel && s.sentBefore t r) &&
  earlier.all (fun q =>
    !q.acq && !(overlaps q r) &&
    !(r.rel && !(s.stampedRelease r && s.handed q)) &&
    !(r.ord && q.ord) &&
    !(tso && s.isTso t q && (!q.what.isStore || !r.what.isLoad))) &&
  (!(r.rel && r.sp == .d) || s.stampOk (s.homeDie t r) r.stamp)

/-! ## Answers (R168, R177, R178, R205, R208) -/

def accessOp : Access → Nat | .load => 0 | .store => 1 | .tagRead | .tagWrite => 2 | _ => 3

/-- The value an answer gives a g register. -/
def Req.scalar (r : Req) : Word :=
  match r.elems with
  | e :: _ => if r.sx then sextTo e.res e.size else (e.res.extractLsb' 0 64)
  | [] => 0
where
  sextTo (x : BitVec 1024) (n : Nat) : Word :=
    let y := x.toNat % 2 ^ (8 * n)
    if 2 ^ (8 * n - 1) ≤ y then BitVec.ofNat 64 (y + 2 ^ 64 - 2 ^ (8 * n)) else BitVec.ofNat 64 y

/-- Puts the answered lanes into the bits of a vector register. -/
def mergeLanes (old : BitVec 2048) (es : List Elem) : BitVec 2048 :=
  BitVec.ofNat 2048 (es.foldl (fun x e =>
    let sh := 8 * e.off
    let m := (2 ^ (8 * e.size) - 1) * 2 ^ sh
    (x &&& (2 ^ 2048 - 1 - m)) ||| (e.res.toNat % 2 ^ (8 * e.size) * 2 ^ sh)) old.toNat)

/-- Answers a request of another chip, kept under thread number t ≥ 65,536 (R363, R176): an error by TNAK
with its cause, a read by RDA, an atomic by ACK with the old value and, in STATUS, its flags (log 18). -/
def State.deliverPacket (s : State) (t : Nat) (r : Req) : State :=
  let n := t - 65536
  match s.fab.inbound.find? fun e => e.1 == n with
  | none => s
  | some (_, rq) =>
    let s1 := { s with
      threads := Map.drop (fun k => k == t) s.threads
      fab := { s.fab with inbound := s.fab.inbound.filter fun e => e.1 != n } }
    let bytes := r.elems.flatMap fun e => leBytes e.size e.res.toNat
    let ack : Packet := { answerPacket rq pkACK (r.flags.setWidth 8) 0 (bytes.take 8) with
      lanes := if rq.lanes = [] then [] else r.elems.map fun e => (e.ea, e.res.setWidth 64) }
    let nak : Packet := { answerPacket rq pkTNAK r.err 0 [] with lanes := if rq.lanes = [] then [] else [(r.errAddr, 0)] }
    if rq.pkind = pkMCW then s1.mcLocalDone rq r.err
    else if r.err ≠ 0 then s1.answerWith rq nak r.err
    else if rq.pkind = pkRD then s1.reply rq pkRDA 0 0 bytes
    else if rq.pkind = pkATM then s1.answerWith rq ack (r.flags.setWidth 8)
    else s1.reply rq pkACK 0 0 []

/-- The answer of an access in the registers of the context that issued it (R178, R197). -/
def Req.answered (r : Req) (a : Act) : Act :=
  match r.dst with
  | .none => a
  | .g d => if d = 0 ∨ r.mon then a else if r.err = 0 then a.setG d r.scalar else { a with gErr := a.gErr ||| (1#32 <<< d.toNat) }
  | .v d =>
    let old := Map.get ({} : VReg) a.v d.toNat
    let new : VReg := { old with bits := mergeLanes old.bits r.elems }
    { a with v := Map.set {} a.v d.toNat new
             vErr := if r.err = 0 then a.vErr &&& ~~~(1#16 <<< d.toNat) else a.vErr ||| (1#16 <<< d.toNat) }
/-- The answer of an access of the monitor in its bank. -/
def Req.answeredMon (r : Req) (x : Thread) : Thread :=
  match r.dst with
  | .g d =>
    if d = 0 ∨ !r.mon then x
    else if r.err = 0 then { x with mg := Map.set 0 x.mg d.toNat r.scalar, mgErr := x.mgErr &&& ~~~(1#32 <<< d.toNat)
                                    mgBad := x.mgBad &&& ~~~(1#32 <<< d.toNat) }
    else { x with mgErr := x.mgErr ||| (1#32 <<< d.toNat) }
  | _ => x

/-- Delivers the answer of a performed access to its thread. -/
def State.deliver (s : State) (t : Nat) (r : Req) : State :=
  if isEngine t then s else
  if 65536 ≤ t then s.deliverPacket t r else
  let s1 := s.modTh t fun x => { x with outst := x.outst.filter fun q => q.seq != r.seq }
  if r.orphan then s1
  else
    let s2 := if r.err = 0 then s1 else s1.recordError t r.err (accessOp r.what) (spaceNo r.sp) r.errAddr
    let put : Act → Act := fun a => let b := r.answered a; { b with flags := b.flags ||| r.flags }
    s2.modTh t fun x =>
      let y := r.answeredMon x
      { y with
        act := put y.act, entry := if r.mon then y.entry else y.entry.map put
        status := if y.status = .stalled .access then .running else y.status }

/-- Registers an outstanding access still writes (R68). -/
def Req.pendsG (r : Req) (d : GReg) : Bool := r.dst == .g d && d != 0
def Req.pendsV (r : Req) (d : VIdx) : Bool := r.dst == .v d

/-- Adds an access of the running thread to its outstanding ones. -/
def State.addReq (s : State) (r : Req) : Req × State :=
  let x := s.me
  let r := { r with seq := x.nextSeq, member := x.act.member, num := x.act.count, src := sourceOf s.cur, mon := x.mode == .monitor, pc := x.faultPc }
  (r, s.modMe fun x => { x with outst := x.outst ++ [r], nextSeq := x.nextSeq + 1, act := { x.act with count := x.act.count + 1 } })

/-- Every earlier access is performed at its home. -/
def Thread.allPerformed (x : Thread) : Bool := x.outst.all fun r => r.performed || r.orphan

/-- All accesses of a thread are performed and answered (R178, R218). -/
def Thread.quiet (x : Thread) : Bool := x.outst.all fun r => r.orphan

end Sys2Proof.Machine
end

