-- ==== Sys2Proof/Machine/TraceOps.lean ====
section
/-! DEFINITION. The trace unit: blocks, records and entries, and their way into the ring (R413–R419). -/

namespace Sys2Proof.Machine

/-- Stamp of the words written under the monitor's own memory key (R400, R413). -/
def monitorStamp : Nat := 2 ^ 300

def traceTen (x : Thread) : Bool := x.trcfg.getLsbD 1
def ringSize (cfg : Word) : Nat := 4096 * 2 ^ min 10 (cfg.toNat / 256 % 16)
def ringBase (cfg : Word) : Nat :=
  let b := (cfg.extractLsb' 12 28).toNat * 4096
  b - b % ringSize cfg

/-- The 256 bytes of a block (R414), sealed when confidential (R418); none when its PID has no trace key. -/
def State.traceBytes (s : State) (t type : Nat) (b : TraceBlock) : Option (List Byte) :=
  let head := [BitVec.ofNat 8 type, if b.conf then 1 else 0] ++ leBytes 2 b.pid.toNat ++ leBytes 2 (coreOf t) ++
    leBytes 2 b.count ++ leBytes 8 b.cycle.toNat
  let body := padTo 224 b.data
  if b.conf then
    match s.sys.traceKeys.find? fun k => k.1 == b.pid with
    | none => none
    | some k =>
      let nonce := leBytes 2 (coreOf t) ++ leBytes 8 b.cycle.toNat ++ [0, 0]
      some (head ++ (List.range 240).map fun i => Config.gcmByte k.2 nonce head body i)
  else some (head ++ body ++ List.replicate 16 0)

/-- Writes bytes into tier 1 under the monitor's key; it clears their words' poison. -/
def State.monitorWrite (s : State) (a : Nat) (bs : List Byte) : State :=
  let ws := wordsOf (a / 8 * 8) (max 8 ((bs.length + 7) / 8 * 8))
  s.modMem fun m => ws.foldl (fun m w => (m.setStamp w monitorStamp).setBad w false) (m.putBytes a bs)

/-- Writes a block out to the ring and advances (R413). -/
def State.ringPut (s : State) (t type : Nat) (b : TraceBlock) : State :=
  if b.count = 0 then s else
  match s.traceBytes t type b with
  | none => s
  | some bs =>
    let x := s.th t
    let off := x.trace.head % ringSize x.trcfg
    (s.monitorWrite (ringBase x.trcfg + off) bs).modTh t fun x =>
      { x with trace := { x.trace with head := (off + 256) % ringSize x.trcfg } }

/-- Writes both open blocks out (R413, R419). -/
def State.traceFlush (s : State) (t : Nat) : State :=
  let u := (s.th t).trace
  let s1 := (s.ringPut t 0 u.states).ringPut t 1 u.entries
  s1.modTh t fun x => { x with trace := { x.trace with states := {}, entries := {} } }

/-- Notes for the trace unit whether the launch of thread t's activation is confidential (R418): its idle record, which follows
its end, is too. -/
def State.noteConf (s : State) (t : Nat) : State :=
  let conf := match s.launch? (s.th t).act.launch with | some l => l.conf | none => false
  s.modTh t fun x => { x with trace := { x.trace with conf } }

/-- The block of a type ready for a record of this PID: one of another PID is written out first. -/
def State.openBlock (s : State) (t type : Nat) (b : TraceBlock) : TraceBlock × State :=
  let pid := (s.th t).act.pid
  let conf := (s.th t).trace.conf
  if b.count = 0 then ({ pid, conf, cycle := s.cycle }, s)
  else if b.pid = pid ∧ b.conf = conf then (b, s)
  else ({ pid, conf, cycle := s.cycle }, s.ringPut t type b)

/-- Appends a state record (R415). -/
def State.traceState (s : State) (t : Nat) (st : BitVec 2) : State :=
  let u := (s.th t).trace
  let (b, s1) := s.openBlock t 0 u.states
  let delta := (s.cycle - (if b.count = 0 then b.cycle else u.lastTime)).toNat
  let rec4 := st.toNat * 2 ^ 30 + delta % 2 ^ 14 * 2 ^ 16 + u.current.toNat
  let b1 := { b with count := b.count + 1, data := b.data ++ leBytes 4 rec4 }
  let full := b1.count == 56
  let s2 := if full then s1.ringPut t 0 b1 else s1
  s2.modTh t fun x => { x with trace := { x.trace with
    states := if full then {} else b1, last := st, lastTime := s.cycle } }

/-- Appends an entry of 32 bytes (R416, R417). -/
def State.traceEntry (s : State) (t : Nat) (e : List Byte) : State :=
  let (b, s1) := s.openBlock t 1 (s.th t).trace.entries
  let b1 := { b with count := b.count + 1, data := b.data ++ padTo 32 e }
  let full := b1.count == 7
  let s2 := if full then s1.ringPut t 1 b1 else s1
  s2.modTh t fun x => { x with trace := { x.trace with entries := if full then {} else b1 } }

/-- The activation record of a dispatch (R416). -/
def State.traceDispatch (s : State) (t : Nat) (resumed : Bool) : State :=
  let s := s.noteConf t
  let x := s.th t
  let a := x.act
  if traceTen x then
      (s.traceEntry t ([1, (if resumed then 1 else 0) + (if a.recruit then 2 else 0)] ++ leBytes 2 x.trace.index.toNat ++
        leBytes 4 (a.chan.toNat + 32 * a.prio.toNat + 256 * a.stage.toNat) ++ leBytes 8 a.wid.toNat ++
        leBytes 8 a.src.toNat ++ leBytes 8 a.pc.toNat)).modTh t fun x =>
          { x with trace := { x.trace with current := x.trace.index, index := x.trace.index + 1 } }
    else s

/-- The trace state of a thread (R415). -/
def traceStatus : Status → BitVec 2
  | .idle => 0
  | .running | .stalled (.codeMiss _ _) | .stalled .vector | .stalled .replay => 1
  | .stalled .send | .stalled (.queue _ true) | .stalled (.stream _) | .stalled (.join _) | .stalled (.barrier _)
  | .stalled .engine | .stalled .inbox => 2
  | .stalled (.queue _ false) | .stalled .access | .stalled .eqResult => 3

/-- After a move: every traced thread whose state changed gets its record (R415), but for one whose activation has paused them
(R419). -/
def State.traceChanges (s : State) : State :=
  s.threads.foldl (fun s (e : Nat × Thread) =>
    let st := traceStatus e.2.status
    if isAct e.1 && traceTen e.2 && st != e.2.trace.last && !e.2.act.paused then s.traceState e.1 st else s) s

/-- Activation a leaves thread t and has not ended: a pause goes with it, and the thread's state is idle without a record (R419). -/
def State.traceLeft (s : State) (t : Nat) (a : Act) : State :=
  if a.paused then s.modTh t fun x => { x with trace := { x.trace with last := 0 } } else s

/-- The cycles that may pass before a trace unit's record of an unchanged state is due (R415); none when none will be. -/
def Thread.traceRoom (now : Word) (x : Thread) : Option Nat :=
  if traceTen x && !x.act.paused then some (16383 - (now - x.trace.lastTime).toNat) else none

end Sys2Proof.Machine
end

