-- ==== Sys2Proof/Machine/Save.lean ====
section
/-! DEFINITION. The save area of a block (R400): where its records lie, their bytes, and the writing of one. -/

namespace Sys2Proof.Machine

/-- The flat address of record n of a block's save area. -/
def State.recordAt (s : State) (blk n : Nat) : Nat := tierBase 0 + (s.block blk).savebase.toNat + 0x1300 * n

/-- A loop entry in a record. -/
def loopBytes (l : Option Loop) : List Byte :=
  match l with
  | some l => leBytes 4 l.handle.toNat ++ leBytes 2 l.first ++ leBytes 2 l.last ++ leBytes 4 l.count.toNat ++ leBytes 4 l.calls.toNat
  | none => List.replicate 16 0
/-- An arrival record in a record. -/
def arrivalWord (r : Arrival) : Nat :=
  match r with
  | .none => 0
  | .arrived p => 2 ^ 32 + p.toNat
  | .dropped => 2 ^ 33

/-- FSTAT (R88). -/
def fstatWord (drm : BitVec 3) (fl : BitVec 5) : Word := (drm.setWidth 64 <<< 8) ||| fl.setWidth 64

/-- The bytes of a record up to those that name its context. The spec gives a stream binding and a multicast track
8 bytes each and no layout: those of a bound stream and of a track in use are taken from free (log 29). -/
def Act.stateBytes (a : Act) (free : List Word) : List Byte :=
  (List.range 32).flatMap (fun k => leBytes 8 (if k = 0 then 0 else (Map.get 0 a.g k).toNat)) ++
  (List.range 16).flatMap (fun k => leBytes 256 (Map.get {} a.v k).bits.toNat) ++
  (List.range 16).map (fun k => (Map.get {} a.v k).tag.setWidth 8) ++
  leBytes 8 a.pc.toNat ++ leBytes 8 a.reply.toNat ++
  (List.range 4).flatMap (fun k => loopBytes a.loops.reverse[k]?) ++
  [a.wid, a.widspec.setWidth 64, fstatWord a.drm a.flags, a.codeflt, a.mstat, a.jstat, a.mcack, a.ticket, a.rfault,
    a.eqlast.setWidth 64].flatMap (fun w => leBytes 8 w.toNat) ++
  leBytes 8 (a.dline.toNat + 2 ^ 32 * a.retire + 2 ^ 48 * a.chan.toNat + 2 ^ 53 * a.prio.toNat + 2 ^ 56 * a.stage.toNat) ++
  leBytes 8 (a.gErr.toNat + 2 ^ 32 * a.vErr.toNat) ++
  (List.range 4).flatMap (fun k => leBytes 8 (match Map.get none a.streams k with | some _ => (free.getD k 0).toNat | none => 0)) ++
  (List.range 16).flatMap (fun k => leBytes 8 (arrivalWord (Map.get .none a.arrivals k))) ++
  (List.range 4).flatMap (fun k => leBytes 8 (match Map.get none a.tracks k with | some _ => (free.getD (4 + k) 0).toNat | none => 0))

/-- The context's bytes of a record, its seal, and the rest of it. -/
def Act.recordTail (a : Act) (locked : Bool) (tag : List Byte) : List Byte :=
  leBytes 8 (a.pid.toNat + 2 ^ 16 * a.encl.toNat + 2 ^ 24 * a.vi.toNat + 2 ^ 63) ++ leBytes 8 (if locked then 1 else 0) ++ padTo 16 tag ++
  padTo 0x60 [a.ttlmask]

/-- The free values that an activation's record needs: none where no stream is bound and no track is in use. -/
def State.takeSaved (s : State) (a : Act) : List Word × State :=
  if a.streams = [] ∧ a.tracks = [] then ([], s)
  else ((List.range 8).map fun i => Config.freeValue (s.free + i), { s with free := s.free + 8 })

def JobOp.isMatrix : JobOp → Bool
  | .mma _ _ _ _ _ | .mzero _ | .mload _ _ _ | .mdrain _ _ _ => true
  | _ => false
/-- The pending jobs of an activation in a cluster: the matrix slices', or the others (R316, R330). -/
def State.pendingJobs (s : State) (cl id : Nat) (matrix : Bool) : Nat :=
  (((List.range 8).map (cl * 8 + ·)).map fun b =>
    ((s.block b).jobs.filter fun j => j.issuer == id && j.op.isMatrix == matrix).length).sum
/-- JSTAT and MSTAT as read, with PEND. -/
def State.jstatOf (s : State) (cl : Nat) (a : Act) : Word :=
  (a.jstat &&& 0xFFFF0000FFFFFFFF) ||| BitVec.ofNat 64 (min 512 (s.pendingJobs cl a.id false) * 2 ^ 32)
def State.mstatOf (s : State) (cl : Nat) (a : Act) : Word :=
  (a.mstat &&& 0xFFFF00FFFFFFFFFF) ||| BitVec.ofNat 64 (min 64 (s.pendingJobs cl a.id true) * 2 ^ 40)

/-- Writes an activation's state into record n of a block. -/
def State.saveRecord (s : State) (blk n : Nat) (a : Act) : State :=
  let f := s.takeSaved a
  let shown : Act := { a with mstat := s.mstatOf (blk / 8) a, jstat := s.jstatOf (blk / 8) a }
  f.2.monitorWrite (s.recordAt blk n) (shown.stateBytes f.1 ++ a.recordTail false [])

/-- Seals record n of a block in place under a sealing key (R407). The nonce's fields stand one after the other in its 96
bits, and the sealed bytes are those before the context's; neither is stated (log 29). -/
def State.sealRecord (s : State) (blk n : Nat) (a : Act) (key : Digest) : State :=
  let pa := s.recordAt blk n
  let nonce := leBytes 12 (a.pid.toNat + 2 ^ 16 * blk + 2 ^ 37 * n + 2 ^ 58 * (s.cycle.toNat % 2 ^ 38))
  let byte := Config.gcmByte key nonce [] (s.mem.bytesAt pa 0x1280)
  s.monitorWrite pa ((List.range 0x1280).map byte ++ a.recordTail true ((List.range 16).map fun i => byte (0x1280 + i)))

/-- Every word of record n is as the monitor's key wrote it: none is poisoned, and no MAC fails (R401). -/
def State.recordIntact (s : State) (blk n : Nat) : Bool :=
  (wordsOf (s.recordAt blk n) 0x1300).all fun w => s.mem.stamp w == monitorStamp && !s.mem.bad w

/-- Record n is one that was saved and not loaded since; or it is sealed (R400). -/
def State.recordValid (s : State) (blk n : Nat) : Bool :=
  s.recordIntact blk n && decide (s.mem.read (s.recordAt blk n + 0x1280) 8 / 2 ^ 63 % 2 = 1)
def State.recordSealed (s : State) (blk n : Nat) : Bool :=
  s.recordIntact blk n && decide (s.mem.read (s.recordAt blk n + 0x1288) 8 % 2 = 1)

/-- A loop entry of a record. -/
def loopOf (bs : List Byte) : Option Loop :=
  if field bs 0 4 = 0 then none else
  some { handle := BitVec.ofNat 32 (field bs 0 4), first := field bs 4 2, last := field bs 6 2, count := BitVec.ofNat 32 (field bs 8 4)
         calls := BitVec.ofNat 32 (field bs 12 4) }
/-- An arrival record of a record. -/
def arrivalOf (w : Nat) : Arrival :=
  match w / 2 ^ 32 % 4 with
  | 1 => .arrived (BitVec.ofNat 32 w)
  | 2 => .dropped
  | _ => .none

/-- The activation that a record's bytes describe (R400). What the layout has no place for, and the bindings of streams and
the tracks, whose 8 bytes it gives no layout, are those of a: the activation that was saved there (log 29). -/
def Act.ofRecord (a : Act) (bs : List Byte) : Act :=
  let w : Nat → Word := fun off => BitVec.ofNat 64 (field bs off 8)
  { a with
    g := (List.range 32).foldl (fun m k => if k = 0 then m else Map.set 0 m k (w (8 * k))) []
    v := (List.range 16).foldl (fun m k => Map.set {} m k
      { bits := BitVec.ofNat 2048 (field bs (0x100 + 256 * k) 256), tag := BitVec.ofNat 5 (field bs (0x1100 + k) 1) }) []
    pc := w 0x1110, reply := w 0x1118
    loops := ((List.range 4).filterMap fun k => loopOf ((bs.drop (0x1120 + 16 * k)).take 16)).reverse
    wid := w 0x1160, widspec := (w 0x1168).setWidth 36
    drm := (w 0x1170).extractLsb' 8 3, flags := (w 0x1170).extractLsb' 0 5
    codeflt := w 0x1178, mstat := w 0x1180 &&& 0xFFFF00FFFFFFFFFF, jstat := w 0x1188 &&& 0xFFFF0000FFFFFFFF
    mcack := w 0x1190, ticket := w 0x1198, rfault := w 0x11A0, eqlast := (w 0x11A8).setWidth 25
    dline := (w 0x11B0).setWidth 32, retire := (w 0x11B0).toNat / 2 ^ 32 % 2 ^ 13
    chan := (w 0x11B0).extractLsb' 48 5, prio := (w 0x11B0).extractLsb' 53 3, stage := (w 0x11B0).extractLsb' 56 8
    gErr := (w 0x11B8).setWidth 32, vErr := (w 0x11B8).extractLsb' 32 16
    arrivals := (List.range 16).foldl (fun m k => Map.set .none m k (arrivalOf (field bs (0x11E0 + 8 * k) 8))) []
    pid := (w 0x1280).setWidth 16, encl := (w 0x1280).extractLsb' 16 8, vi := (w 0x1280).extractLsb' 24 6
    ttlmask := BitVec.ofNat 8 (field bs 0x12A0 1) }

/-- The record that takes a state that must be saved: one of those for CTXSV that holds nothing, else a displacement's, else
the one of thread t's core (R400, R403, R407; log 29). -/
def State.freeRecord (s : State) (blk t : Nat) : Nat :=
  let b := s.block blk
  let taken : Nat → Bool := fun n => (b.records.any fun r => r.1 == n) || b.displaced.any fun d => d.place == some n
  ((((List.range 223).map (208 + ·)).find? fun n => !taken n && !s.recordValid blk n && !s.recordSealed blk n).orElse fun _ =>
    (List.range 192).find? fun n => !taken n).getD (192 + t % 16)

/-- Clears VALID of record n. -/
def State.clearValid (s : State) (blk n : Nat) (a : Act) : State :=
  s.monitorWrite (s.recordAt blk n + 0x1280) (leBytes 8 (a.pid.toNat + 2 ^ 16 * a.encl.toNat + 2 ^ 24 * a.vi.toNat))

end Sys2Proof.Machine
end

