-- ==== Sys2Proof/Machine/Sched.lean ====
section
/-! DEFINITION. Message addresses (R129), what a destination answers (R141), the dispatcher (R138, R139,
R150), the stamps of releases between dies (R237) and displaced activations (R152, R162). -/

namespace Sys2Proof.Machine

/-! ## Places that messages reach (R129) -/

/-- A reply address that a job or a sweep may name (R331, R283). -/
def replyOk (w : Word) : Bool := !malformed w && (w == 0 || decide (1 ≤ maKind w ∧ maKind w ≤ 4))

/-- The destination is on this chip. -/
def State.maHere (s : State) (pid : BitVec 16) (w : Word) : Bool := maLocal w || maRank w == s.ownRank pid

/-- The die of a destination on this chip: a compute die, or 4 or 5 for device memory. -/
def State.maHome (s : State) (t : Nat) (pid : BitVec 16) (w : Word) : Nat :=
  if maKind w = 4 ∧ maDevice w then
    let lva := (w.extractLsb' 0 40).toNat
    match s.leaf? t pid lva with | some l => 4 + leafAddr l lva % 2 ^ 40 / 128 % 2 | none => 4
  else maDie w

/-- All accesses of a thread are performed and answered, its FE words among them (R132, R178). -/
def State.quietAt (s : State) (t : Nat) : Bool :=
  (s.th t).quiet && s.flight.all fun m => !(m.origin == .thread t && maKind m.dest == 4)

/-- Every message that thread t has sent is delivered: a delivery is a write of its sender (R226). -/
def State.delivered (s : State) (t : Nat) : Bool := s.flight.all fun m => m.origin != .thread t
/-- Nothing that thread t did is outstanding: its accesses are answered, and its messages delivered. -/
def State.allDone (s : State) (t : Nat) : Bool := s.quietAt t && s.delivered t
/-- Delivered, but for messages that are stamped and handed to the links between the dies (R226, R237). -/
def State.deliveredHere (s : State) (t : Nat) : Bool := s.flight.all fun m => m.origin != .thread t || m.stamp != []
/-- Every write of a thread is performed: what a release waits for (R226). -/
def State.settled (s : State) (t : Nat) : Bool := (s.th t).allPerformed && s.delivered t

/-! ## What a destination answers (R133, R141) -/

/-- The answer to a send. -/
inductive Answer where
  | grant | full | unbound | refused | unreachable
  deriving DecidableEq, Repr

def Answer.status : Answer → Word
  | .grant => 0 | .full => 1 | .unbound => 2 | .refused => 3 | .unreachable => 4

def Channel.full (c : Channel) : Bool := decide (16 ≤ c.slots.length + c.reserved)
def Queue.room (q : Queue) : Nat := 8 - q.items.length - q.reserved
def Block.queue (b : Block) (q : QIdx) : Queue := Map.get {} b.queues q.toNat
def Block.modQueue (b : Block) (q : QIdx) (f : Queue → Queue) : Block :=
  { b with queues := Map.put b.queues q.toNat (f (b.queue q)) }

/-- A channel belongs to the context it is bound under; an unbound one to any (log 17). -/
def Channel.ownedBy (c : Channel) (pid : BitVec 16) : Bool :=
  match c.bind with | some n => n.pid == pid | none => true

/-- The answer of a destination on this chip to a message of a context with n payload words. -/
def State.answerHere (s : State) (pid : BitVec 16) (w : Word) (n : Nat) : Answer :=
  if s.refuses pid then .refused else
  match maKind w with
  | 1 => if max 1 n ≤ ((s.block (maBlock w)).queue (maQueue w)).room then .grant else .full
  | 2 =>
    let c := (s.block (maBlock w)).chan (s.chanOf pid w)
    match c.bind with
    | none => .unbound
    | some b => if b.pid ≠ pid then .refused else if c.full then .full else .grant
  | 3 | 4 => .grant
  | _ => .refused

/-- Reserves what a grant grants. -/
def State.reserveHere (s : State) (pid : BitVec 16) (w : Word) (n : Nat) : State :=
  match maKind w with
  | 1 => s.modBlock (maBlock w) fun b => b.modQueue (maQueue w) fun q => { q with reserved := q.reserved + max 1 n }
  | 2 => s.modBlock (maBlock w) fun b => b.modChan (s.chanOf pid w) fun c => { c with reserved := c.reserved + 1 }
  | _ => s

/-! ## Stamps of releases between dies (R237) -/

def Die.kOf (d : Die) (k : Nat) : BitVec 16 := d.k.getD k 0
def Die.aOf (d : Die) (k : Nat) : BitVec 16 := d.a.getD k 0
/-- K with its own entry as given. -/
def withEntry (v : List (BitVec 16)) (i : Nat) (x : BitVec 16) : List (BitVec 16) :=
  (List.range 4).map fun k => if k = i then x else v.getD k 0

/-- A release of a die would run 2^15 or more ahead of its A: it stalls. -/
def State.releaseStalls (s : State) (d : Nat) : Bool :=
  decide (2 ^ 15 ≤ ((s.die d).own + 1 - (s.die d).aOf d).toNat)

/-- A cross-die release of die d: the stamp it carries. -/
def State.releaseStamp (s : State) (d : Nat) : List (BitVec 16) × State :=
  let n := (s.die d).own + 1
  let k := withEntry (s.die d).k d n
  (k, s.modDie d fun x => { x with own := n, k })

/-- The stamp of any other cross-die write of die d. -/
def State.writeStamp (s : State) (d : Nat) : List (BitVec 16) := withEntry (s.die d).k d (s.die d).own

def max16 (a b : BitVec 16) : BitVec 16 := if atOrPast a b then a else b

/-- An acquire on die d of something stamped. -/
def State.acquireStamp (s : State) (d : Nat) (v : List (BitVec 16)) : State :=
  if v = [] then s else
  s.modDie d fun x => { x with k := (List.range 4).map fun k => if k = d then x.kOf k else max16 (x.kOf k) (v.getD k 0) }

/-! ## The dispatcher (R138, R139, R150, R152) -/

/-- The effective priority of what has waited since a cycle (R138). -/
def State.aged (s : State) (prio : BitVec 3) (since : Word) : Nat :=
  min 7 (prio.toNat + (s.cycle - since).toNat / 64000)

/-- The trigger condition of a launch that another waits on (R149). -/
def State.depMet (s : State) (l : Launch) : Bool :=
  match s.launch? l.dep with
  | some d => decide (d.total ≤ d.released) || d.finished
  | none => true

/-- A stage's displaced sender keeps messages of its stage and below from dispatch, as R152 says and its argument for
progress needs; R150's last condition, read alone, would keep back those of its stage and above (log 83). -/
def Block.stageHeld (b : Block) (launch : Word) (stage : Byte) : Bool :=
  b.displaced.any fun d => d.atSend.isSome && d.act.launch == launch && d.act.stage != 0xFF &&
    decide (stage.toNat ≤ d.act.stage.toNat)

/-- The downstream channel of a stage is full (R150). -/
def Block.downstreamFull (b : Block) (launch : Word) (stage : Byte) : Bool :=
  List.any b.chans fun e : Nat × Channel =>
    match e.2.bind with
    | some n => n.launch == launch && n.stage != 0xFF && n.stage.toNat == stage.toNat + 1 && e.2.full
    | none => false

/-- The head message of a channel may be dispatched (R138, R149, R150). -/
def State.dispatchable (s : State) (blk : Nat) (c : Channel) : Bool :=
  match c.bind, c.slots with
  | some n, _ :: _ =>
    let b := s.block blk
    (match s.launch? n.launch with | some l => s.depMet l && !l.stopped | none => false) && !s.refuses n.pid &&
    (n.stage == 0xFF || (!b.downstreamFull n.launch n.stage && !b.stageHeld n.launch n.stage))
  | _, _ => false

/-- A core whose activation thread may take an activation. -/
def State.coreFree (s : State) (t : Nat) : Bool :=
  let cl := s.cluster (clusterOf t)
  (s.th t).status == .idle && !(s.owner (coreOf t)).withdrawn && !(s.block (blockOf t)).stopped &&
  cl.draining == none && !cl.missing

/-- What the dispatcher may start: a displaced activation by its place in the list, or a channel. -/
inductive Cand where
  | displaced (ix : Nat)
  | chan (c : CIdx)
  deriving DecidableEq, Repr

/-- A displaced activation can resume: a sender needs room at its target (R152); a replayed member waits for its thread and
for the members that started there before it (R165). -/
def State.ready (s : State) (d : Displaced) : Bool :=
  !d.stopped && !s.refuses d.act.pid &&
  (match d.again with
    | some t => s.coreFree t && ((s.block (blockOf t)).displaced.find? fun e => e.again == some t) == some d
    | none => true) &&
  match d.atSend with
  | some w => s.answerHere d.act.pid w 1 != .full
  | none => true

/-- The candidates of a block with their effective priorities, in the order in which equals are taken:
displaced activations, then channels from the one after the last dispatched from (R138). -/
def State.candidates (s : State) (blk : Nat) : List (Cand × Nat) :=
  let b := s.block blk
  (((List.range b.displaced.length).zip b.displaced).filterMap fun e =>
      if s.ready e.2 then some (Cand.displaced e.1, s.aged e.2.act.prio e.2.since) else none) ++
  ((List.range 32).filterMap fun i =>
    let c : CIdx := b.lastChan + 1 + BitVec.ofNat 5 i
    let h := b.chan c
    match h.bind with
    | some n => if s.dispatchable blk h then some (Cand.chan c, s.aged n.prio h.since) else none
    | none => none)

/-- The first candidate of the highest effective priority. -/
def bestOf : List (Cand × Nat) → Option (Cand × Nat)
  | [] => none
  | c :: cs => match bestOf cs with
    | some d => if c.2 < d.2 then some d else some c
    | none => some c

/-- The lowest free core of a block. -/
def State.freeCore (s : State) (blk : Nat) : Option Nat :=
  ((List.range 16).map (16 * blk + ·)).find? s.coreFree

/-- The registers of a message at dispatch (R139). -/
def dispatchRegs (m : Msg) : Map Word :=
  let g := (m.payload.take 8).zipIdx.foldl (fun g p => Map.set 0 g (p.2 + 1) p.1) ([] : Map Word)
  Map.set 0 (Map.set 0 (Map.set 0 g 9 m.reply) 10 m.wid) 11 m.src

/-- What dispatch gives a new activation of a launch on thread t, whatever starts it (R139, R155). -/
def State.freshAct (s : State) (t : Nat) (pid : BitVec 16) (launch : Word) (deadline : BitVec 16) : Act :=
  { id := s.nextAct, member := [s.nextAct], pid, encl := (s.th t).act.encl, vi := s.viOf pid, launch, deadline, dline := deadline.setWidth 32 * 256
    ttlmask := s.initMask pid, widspec := match s.launch? launch with | some l => l.widspec | none => 0 }

/-- Starts an activation on thread t in context mode. -/
def State.startAct (s : State) (t : Nat) (a : Act) : State :=
  { s with nextAct := max s.nextAct (a.id + 1) }.modTh t fun x =>
    { x with act := a, mode := .context, status := .running, mloops := [], mcall := false, served := false
             view := none, eqops := [], sendWait := 0, sendDst := none, bound := none, transfer := none
             head := s.cycle, headOf := (a.pc, a.retire, x.mretire, a.id) }

/-- Opens a team's first epoch in a block, and records the message that starts a member in the journal (R163, R164). -/
def State.journalMsg (s : State) (blk t : Nat) (a : Act) (m : Option Msg) : State :=
  match s.teamOf a with
  | none => s
  | some team =>
    let s1 := if ((s.block blk).epoch team).isSome then s
      else s.modBlock blk fun b => { b with epochs := b.epochs ++ [{ launch := team.1, team := team.2 }] }
    match m with
    | none => s1
    | some m =>
      let cost := if m.vec.isSome then 17 else 1 + (m.payload.length + 1) / 2
      s1.modBlock blk fun b => b.modEpoch team fun p =>
        if p.dead then p else if b.journalFull cost then { p with dead := true }
        else { p with used := p.used + cost, msgs := p.msgs ++ [(t, m, a.member)] }

/-- Starts the head message of a channel on a core (R139). -/
def State.dispatchMsg (s : State) (blk t : Nat) (c : CIdx) : State :=
  let ch := (s.block blk).chan c
  match ch.bind, ch.slots with
  | some n, m :: rest =>
    let a : Act := { s.freshAct t n.pid n.launch n.deadline with
      g := dispatchRegs m
      v := match m.vec with | some x => Map.set {} [] 0 x | none => []
      pc := codeAddr n.handle 0
      enter := 4
      reply := m.reply
      wid := m.wid
      prio := BitVec.ofNat 3 (s.aged n.prio ch.since)
      chan := maChan m.dest
      home := c
      stage := n.stage
      enumNo := m.enumNo
      src := m.src }
    let s1 := s.modBlock blk fun b => { b.modChan c (fun h => { h with slots := rest, running := h.running + 1, since := s.cycle }) with lastChan := c }
    let s2 := s1.modLaunch n.launch fun l => { l with
      running := l.running + 1, dispatched := l.dispatched + (if m.enumNo.isSome then 1 else 0) }
    let s3 := (s2.acquireStamp (dieOf t) m.stamp).startAct t a
    (s3.journalMsg blk t a (some m)).traceDispatch t false
  | _, _ => s

/-- Resumes a displaced activation on a core (R152, R162). -/
def State.resumeAct (s : State) (blk t ix : Nat) : State :=
  match (s.block blk).displaced[ix]? with
  | some d =>
    let s1 := s.modBlock blk fun b => { b with displaced := b.displaced.eraseIdx ix }
    (s1.startAct t d.act).traceDispatch t true
  | none => s

/-- One dispatch of a block: the best candidate on the lowest free core (R138), or on its own, for a replayed member. -/
def State.dispatchOne (s : State) (blk : Nat) : State :=
  match s.freeCore blk, bestOf (s.candidates blk) with
  | some t, some (.chan c, _) => s.dispatchMsg blk t c
  | some t, some (.displaced ix, _) => s.resumeAct blk (((s.block blk).displaced[ix]?.bind (·.again)).getD t) ix
  | _, _ => s

/-- The lowest of n records from lo on that no displaced activation is in. -/
def Block.recordFrom (b : Block) (lo n : Nat) : Option Nat :=
  ((List.range n).map (lo + ·)).find? fun k => !(b.displaced.any fun d => d.place == some k) && !b.records.any fun r => r.1 == k
/-- Saves a displaced activation in record n of a block. -/
def State.saveAt (s : State) (blk : Nat) (n : Option Nat) (a : Act) : State :=
  match n with
  | some n => s.saveRecord blk n a
  | none => s

/-- Displaces the activation of thread t into a record of its block (R152, R162): 64 records from 0 on for YIELD, and
128 from 64 on for senders. The channel that it came from still counts it as running (R135, log 17). -/
def State.displace (s : State) (t : Nat) (a : Act) (atSend : Option Word) : State :=
  let k := (s.block (blockOf t)).recordFrom (if atSend.isSome then 64 else 0) (if atSend.isSome then 128 else 64)
  ((((s.leaveBars t).saveAt (blockOf t) k a).modBlock (blockOf t) fun b =>
    { b with displaced := b.displaced ++ [{ act := a, atSend, since := s.cycle, place := k }] }).traceLeft t a).modTh t
    fun x => { x with act := { pid := a.pid, encl := a.encl, vi := a.vi }, status := .idle, sendWait := 0, sendDst := none
                      outst := x.outst.map fun r => { r with orphan := true, dst := .none } }

/-- Records of the two kinds in use (R400). -/
def Block.yieldRecords (b : Block) : Nat := (b.displaced.filter fun d => d.atSend.isNone).length
def Block.sendRecords (b : Block) : Nat := (b.displaced.filter fun d => d.atSend.isSome).length

/-- The placed blocks of a launch in a cluster. -/
def State.blocksIn (s : State) (cl : Nat) (launch : Word) : List Nat :=
  match s.launch? launch with
  | none => []
  | some l => l.blocks.filter fun b => b / 8 == cl
/-- Idle activation threads of some blocks (R155, R156). -/
def State.idleOf (s : State) (blocks : List Nat) : List Nat :=
  (blocks.flatMap fun b => (List.range 16).map (16 * b + ·)).filter s.coreFree

end Sys2Proof.Machine
end

