-- ==== Sys2Proof/Machine/Service.lean ====
section
/-! DEFINITION. Registered service routines: their loads and buffered stores, and their end (R211–R214). -/

namespace Sys2Proof.Machine

/-- The routine has changed memory. -/
def Service.changed (v : Service) : Bool := v.stores != [] || v.tags != []

/-- Answers the access a service thread serves, and frees the service thread. The answer of a routine that changed memory
is kept, where no journal undoes what it changed (R168). -/
def State.endService (s : State) (t : Nat) (err : Byte) (ans : Word) : State :=
  match (s.th t).serve with
  | none => s
  | some v =>
    let s0 := match s.epochOf v.thread, s.req? v.thread v.seq with
      | some (team, _), some r => if err = 0 ∧ v.changed ∧ !s.journals team v.base then
          s.modBlock (blockOf v.thread) fun b => b.modEpoch team fun p => p.keep r.member (256 * r.num) v.addr ans.toNat 0
        else s
      | _, _ => s
    let s1 := (s0.turnOf (ownerOf t)).modTh t Thread.doneServing
    s1.modTh v.thread fun x => { x with outst := x.outst.map fun r =>
      if r.seq = v.seq then { r with
          phase := .done
          err := if r.err = 0 then err else r.err
          errAddr := if r.err = 0 ∧ err ≠ 0 then v.addr else r.errAddr
          elems := r.elems.map fun e => { e with done := true, res := ans.setWidth 1024 } }
      else r }

/-- The flat address that an access of the routine names, when it lies inside the request's granule (R213). -/
def Service.inside (v : Service) (sp : Space) (ea : Word) (n : Nat) : Option Nat :=
  let g := v.addr.toNat / v.size * v.size
  if sp = v.sp ∧ ea.toNat % n = 0 ∧ g ≤ ea.toNat ∧ ea.toNat + n ≤ g + v.size then some (v.base + (ea.toNat - g)) else none

/-- The byte at a flat address as the routine sees it: its own buffered stores first. -/
def Service.byteOr (v : Service) (a : Nat) (old : Nat) : Nat :=
  match v.stores.find? fun e => e.1 == a with | some e => e.2.toNat | none => old

/-- A load of the routine (R213, R214): the value, or none where a word is poisoned. -/
def State.serviceLoad (s : State) (v : Service) (pa n : Nat) : Option (Nat × State) :=
  if (wordsOf pa n).any s.mem.bad && !((List.range n).all fun i => v.stores.any fun e => e.1 == pa + i) then none
  else
    let (x, s1) := s.readAt v.key pa n
    some (((List.range n).map fun i => v.byteOr (pa + i) (x / 2 ^ (8 * i) % 256) * 2 ^ (8 * i)).sum, s1)

/-- A store of the routine: buffered, with the tag it sets. -/
def Service.buffer (v : Service) (pa n x : Nat) (tag : Option Bool) : Service :=
  let new := (List.range n).map fun i => (pa + i, BitVec.ofNat 8 (x / 2 ^ (8 * i)))
  { v with
    stores := new.reverse ++ v.stores
    tags := match tag with | some b => (pa / 8, b) :: v.tags | none => v.tags }

/-- A word's tag as the routine sees it: what it has set itself first. -/
def State.serviceTag (s : State) (v : Service) (w : Nat) : Bool :=
  match v.tags.find? fun e => e.1 == w with | some e => e.2 | none => s.mem.tag w
/-- A tag write of the routine: buffered as its stores are. -/
def Service.bufferTags (v : Service) (pa n x : Nat) : Service :=
  { v with tags := ((wordsOf pa n).zipIdx.map fun e => (e.1, x.testBit e.2)).reverse ++ v.tags }

/-- Buffered stores reach memory together, oldest first. -/
def State.commitStores (s : State) (a : Act) (key : Nat) : List (Nat × Byte) → State
  | [] => s
  | (pa, b) :: rest => (s.commitStores a key rest).storeAt a key pa 1 b.toNat

/-- END of a routine: its stores and tags take effect in one step, and the requester is answered with g1. -/
def State.finishRoutine (s : State) (t : Nat) : State :=
  match (s.th t).serve with
  | none => s
  | some v =>
    let s1 := (s.journalWords (s.th v.thread).act (v.tags.map (·.1))).commitStores (s.th v.thread).act v.key v.stores
    let s2 := s1.modMem fun m => clearPoison (v.stores.map fun e => e.1 / 8) ((v.tags.reverse).foldl (fun m e => m.setTag e.1 e.2) m)
    let s3 := s2.endService t 0 (Map.get 0 (s.th t).act.g 1)
    if v.tags = [] then s3 else s3.retestAll [ownerOf t]

end Sys2Proof.Machine
end

