-- ==== Sys2Proof/Machine/Control.lean ====
section
/-! DEFINITION. Class 2: branches, jumps, hardware loops, calls by digest, YIELD, END, TRAP and NOP
(R97–R125), and the watchdog events of the issuing thread (R36, R41, R120, R121, R392). -/

namespace Sys2Proof.Machine

/-! ## Branches and jumps (R97–R99) -/

/-- Transfers to the slot an offset names, with the checks of R37. -/
def State.branch (s : State) (off : BitVec 48) : Out State :=
  let t := s.slotAt off
  if s.targetOk t then .next (s.jumpTo t.toNat) else raise 0x03 (targetAddr (handleOf s.me.act.pc) t) s

/-- A conditional branch (R97): not taken, it falls through and checks nothing. -/
def branchIf (c : Word → Word → Bool) (a b : GReg) (off : BitVec 48) (s : State) : Out State :=
  if c (s.g a) (s.g b) then s.branch off else .next s.retire

def execBeq (a b : GReg) (off : BitVec 48) (s : State) : Out State := branchIf (fun x y => x == y) a b off s
def execBne (a b : GReg) (off : BitVec 48) (s : State) : Out State := branchIf (fun x y => x != y) a b off s
def execBlt (a b : GReg) (off : BitVec 48) (s : State) : Out State :=
  branchIf (fun x y => decide (x.toInt < y.toInt)) a b off s
def execBge (a b : GReg) (off : BitVec 48) (s : State) : Out State :=
  branchIf (fun x y => decide (y.toInt ≤ x.toInt)) a b off s
def execBltu (a b : GReg) (off : BitVec 48) (s : State) : Out State :=
  branchIf (fun x y => decide (x.toNat < y.toNat)) a b off s
def execBgeu (a b : GReg) (off : BitVec 48) (s : State) : Out State :=
  branchIf (fun x y => decide (y.toNat ≤ x.toNat)) a b off s

def execJmp (off : BitVec 48) (s : State) : Out State := s.branch off

/-- A code address used as a target is well formed (R37). -/
def addrOk (w : Word) : Bool := w.extractLsb' 3 3 == 0 && decide (slotOf w ≤ 4)

/-- JMPR (R98): only within the function being executed. -/
def execJmpr (a : GReg) (s : State) : Out State :=
  let w := s.g a
  if handleOf w = handleOf s.me.act.pc ∧ addrOk w ∧ s.targetOk (linearOf w) then .next (s.jumpTo (linearOf w))
  else raise 0x03 w s

/-- LEAC (R99): the address of a slot, which need be no branch target. -/
def execLeac (d : GReg) (off : BitVec 48) (s : State) : Out State :=
  let t := s.slotAt off
  let n := match s.myInst with | some i => i.slots | none => 0
  if 0 ≤ t ∧ t < n then .next (s.writeRetire d (codeAddr (handleOf s.me.act.pc) t.toNat))
  else raise 0x03 (off.signExtend 64) s

/-! ## Hardware loops (R101) -/

/-- LOOP and LOOPI after the trip count is known, with checks 1, 3 and 4. -/
def State.enterLoop (s : State) (len : Nat) (bad2 : Bool) (n : BitVec 32) : Out State :=
  let x := s.me
  let h := handleOf x.act.pc
  let first := linearOf x.act.pc + 1
  let last := linearOf x.act.pc + len
  let slots := match s.myInst with | some i => i.slots | none => 0
  if 4 ≤ x.loops.length then raise 0x0D 2 s
  else if bad2 then raise 0x0D 1 s
  else if slots ≤ last then raise 0x0D 5 s
  else if (match frameOf x.loops with | e :: _ => decide (e.last < last) | [] => false) then raise 0x0D 3 s
  else if n = 0 then
    match frameOf x.loops with
    | e :: _ =>
      if e.last = last then
        let r := loopFall h last x.loops
        .next (s.modMe fun x => (((x.setLoops r.1).setPc (codeAddr h (r.2.getD (last + 1)))).count s.cur))
      else .next (s.jumpTo (last + 1))
    | [] => .next (s.jumpTo (last + 1))
  else
    .next (s.modMe fun x =>
      ((x.setLoops ({ handle := h, first, last, count := n } :: x.loops)).setPc (codeAddr h first)).count s.cur)

def execLoop (a : GReg) (len : BitVec 16) (s : State) : Out State :=
  let w := s.g a
  s.enterLoop len.toNat (w.extractLsb' 32 32 != 0) (w.setWidth 32)
def execLoopi (len : BitVec 16) (count : BitVec 32) (s : State) : Out State := s.enterLoop len.toNat false count

/-! ## Calls and returns (R111, R112) -/

/-- The call-site index of the running slot (R105). -/
def State.callSite (s : State) : Nat :=
  match s.myInst with
  | some i => i.calls.findIdx fun c => c.1 == linearOf s.me.act.pc
  | none => 0

/-- Raises the CALLS of the top entry by 1 (R102). -/
def callTop : List Loop → List Loop
  | [] => []
  | l :: ls => { l with calls := l.calls + 1 } :: ls

/-- CALLD and CALLDR with digest-table index k. -/
def State.call (s : State) (k : Nat) : Out State :=
  let x := s.me
  let mon := x.mode == .monitor
  let cl := clusterOf s.cur
  let digs := match s.myInst with | some i => i.digs | none => []
  match digs[k]? with
  | none => raise 0x03 (BitVec.ofNat 64 k) s
  | some dig =>
    match s.lookupOrCreate cl x.act.pid mon dig with
    | (none, s1) => .next (s1.dirFull 1)
    | (some h, s1) =>
      match (s1.cluster cl).inst h with
      | none => .next (s1.miss s.cur h 1)
      | some callee =>
        if (match x.loops with | l :: _ => l.calls == BitVec.allOnes 32 | [] => false) then raise 0x0D 6 s1
        else if !callee.tgt 0 then raise 0x03 (codeAddr h 0) s1
        else
          let link : Word := BitVec.ofNat 64 ((handleOf x.act.pc).toNat * 2 ^ 32 + s.callSite)
          let s2 := s1.setG 31 link
          .next (s2.modMe fun x => ((x.setLoops (callTop x.loops)).setPc (codeAddr h 0)).count s.cur)

def execCalld (k : BitVec 32) (s : State) : Out State :=
  noService (.calld k) s fun s => s.call k.toNat
def execCalldr (a : GReg) (s : State) : Out State :=
  noService (.calldr a) s fun s =>
    let w := s.g a
    if w.extractLsb' 32 32 ≠ 0 then raise 0x03 w s else s.call (w.toNat % 2 ^ 32)

/-! ## The end of an activation (R122) -/

/-- END. It waits for the answers of all accesses and for its messages' delivery, which its release covers (R178, R227,
R235), takes the recorded failures one at a time, and then frees the core. In the service thread it ends the routine. -/
def State.endNow (s : State) : Out State :=
  let t := s.cur
  let x := s.me
  if !isAct t then .next (s.finishRoutine t)
  else if !s.allDone t ∨ x.eqops ≠ [] then .next (s.stall .access)
  else
    match x.act.deferred, x.act.matrixFail, x.act.cardFail with
    | some tr, _, _ => .next (s.takeDeferred tr)
    | none, some tr, _ => .next ((s.modMyAct fun a => { a with mstat := mstatTaken a.mstat }).takeFault tr)
    | none, none, some tr => .next ((s.modMyAct fun a => { a with jstat := jstatTaken a.jstat }).takeFault tr)
    | none, none, none => .next (s.freeThread t)

def execEndAct (s : State) : Out State := s.endNow

/-- The loop stack after a RET (R102, R112). -/
def returnLoops (ls : List Loop) : List Loop :=
  match belowFrame ls with
  | [] => []
  | l :: rest => { l with calls := if l.calls = 0 then 0 else l.calls - 1 } :: rest

/-- RET (R112). -/
def execRet (s : State) : Out State :=
  noService .ret s fun s =>
    let x := s.me
    let link := s.g 31
    let h := handleOf link
    let cl := clusterOf s.cur
    if link = 0 then s.endNow
    else match s.entry? cl x.act.pid (x.mode == .monitor) h with
      | none => raise 0x03 link s
      | some e =>
        match e.inst with
        | none => .next (s.miss s.cur h 2)
        | some i =>
          match i.calls[(link.toNat % 2 ^ 32)]? with
          | none => raise 0x03 link s
          | some c => .next (s.modMe fun x =>
              ((x.setLoops (returnLoops x.loops)).setPc (codeAddr h (c.1 + 1))).count s.cur)

/-! ## YIELD (R119, R162) -/

/-- The registers that YIELD keeps, in the bank of the mode; the rest read as zero. -/
def Thread.keep (x : Thread) (vmask : BitVec 16) (gmask : BitVec 32) : Thread :=
  let gs : Map Word → Map Word := Map.drop fun k => !gmask.getLsbD k
  let x1 : Thread := if x.mode = .monitor then { x with mg := gs x.mg, mgErr := x.mgErr &&& gmask, mgBad := x.mgBad &&& gmask }
    else { x with act := { x.act with g := gs x.act.g, gErr := x.act.gErr &&& gmask, gBad := x.act.gBad &&& gmask } }
  { x1 with act := { x1.act with
      v := Map.drop (fun k => !vmask.getLsbD k) x1.act.v, vErr := x1.act.vErr &&& vmask, vBad := x1.act.vBad &&& vmask } }

/-- The pre-emption point (R162): a candidate of strictly higher priority, no free core, a free record. -/
def State.preempts (s : State) : Bool :=
  let blk := blockOf s.cur
  (s.freeCore blk).isNone && decide ((s.block blk).yieldRecords < 64) &&
  match bestOf (s.candidates blk) with
  | some c => decide (s.me.act.prio.toNat < c.2)
  | none => false

/-- The cluster drains, and a record is free: an activation is displaced at its next YIELD (R425). -/
def State.drains (s : State) : Bool :=
  (s.cluster (clusterOf s.cur)).draining.isSome && decide ((s.block (blockOf s.cur)).yieldRecords < 64)

def execYield (vmask : BitVec 16) (deadline : BitVec 16) (gmask : BitVec 32) (s : State) : Out State :=
  noService (.yield vmask deadline gmask) s fun s =>
    if !s.quietAt s.cur ∨ s.me.eqops ≠ [] then .next (s.stall .access)
    else match s.me.act.deferred with
      | some tr => .next (s.takeDeferred tr)
      | none =>
        let s1 := s.retire
        let s2 := s1.modMe fun x =>
          let x1 := x.keep vmask gmask
          { x1 with act := { x1.act with
              retire := 0, dline := (if deadline = 0 then x1.act.deadline else deadline).setWidth 32 * 256 } }
        if s2.me.mode = .context ∧ (s2.preempts ∨ s2.drains) then .next (s2.displace s.cur s2.me.act none) else .next s2

/-! ## TRAP, NOP and words of unassigned opcodes (R123, R124, R50) -/

/-- TRAP (R123). As the second member of a pair it undoes the first member as every fault does (R38), and MEPC is the slot after
TRAP, as R123 says (log 11). -/
def execTrap (code : BitVec 48) (s : State) : Out State :=
  .next (s.takeFault { code := 0x13, val := code.setWidth 64, nextSlot := true })
def execNop (s : State) : Out State := .next s.retire
def execUnassignedOpcode (w : InstrWord) (s : State) : Out State := raise 0x01 (w.extractLsb' 32 64) s

/-! ## Events of the issuing thread -/

/-- R36: execution would fall through past the instance; MEPC and MTVAL are the address of the first line
beyond it. -/
def execFallThroughPastInstance (s : State) : Out State := raise 0x03 s.me.act.pc s
/-- R121. -/
def execDeadlineOverrun (s : State) : Out State := raise 0x0C 1 s
/-- R120. -/
def execRetireLimit (s : State) : Out State := raise 0x0C 0 s
/-- R392. -/
def execDoubleFault (code : Byte) (tval : Word) (s : State) : Out State :=
  .next ({ s with trap := some { code, val := tval } }.doubleFault s.cur code tval)

/-- R41: the line's parity fails on both reads. The instance is evicted, to be fetched again as for a code miss, and the
core raises the code-integrity fault. When the same line of the instance that came then fails again, the code is
unavailable. The monitor's functions are never evicted (R390), and in monitor mode the fault is a double fault (R392).
A routine of a service thread is fetched again under its digest. -/
def execCodeIntegrityFault (s : State) : Out State :=
  let t := s.cur
  let pc := s.me.act.pc
  let h := handleOf pc
  let line := lineOf pc
  let val := codeAddr h (line * 5)
  if !isAct t then
    match s.me.serve with
    | none => .next s
    | some v =>
      let s1 := s.evictRoutine v.pid (h.setWidth 6)
      if v.refetched = some line then raise 0x10 val s1
      else .next ((s1.modMe fun x => { x with serve := some { v with refetched := some line } }).missRoutine t v.pid (h.setWidth 6) 3)
  else if s.me.mode = .monitor then raise 0x04 val s
  else
    let again := ((s.cluster (clusterOf t)).entry h).any fun e => e.refetched == some line
    let s1 := s.modCluster (clusterOf t) fun c => c.modEntry h fun e => { e with inst := none, refetched := if again then none else some line }
    if again then
      let r := (s1.modMyAct fun a => { a with codeflt := codefltWord 0x16 0 3 3 0 0 h }).takeFree
      raise 0x10 r.1 r.2
    else raise 0x04 val (s1.modMyAct fun a => { a with refetch := true })

end Sys2Proof.Machine
end

