-- ==== Sys2Proof/Machine/Operands.lean ====
section
/-! DEFINITION. The register operands of every instruction: which g and v registers its entry reads and
writes. The interlock (R68) and the taking of error marks (R178) go by them. -/

namespace Sys2Proof.Machine

/-- The registers an instruction reads and writes. -/
structure RegUse where
  gr : List GReg := []
  gw : List GReg := []
  vr : List VIdx := []
  vw : List VIdx := []
  deriving DecidableEq, Repr

/-- The n payload registers from b on (R141). -/
def payload (b : GReg) (n : BitVec 4) : List GReg := (List.range n.toNat).map fun i => b + BitVec.ofNat 5 i
/-- g1 to gn. -/
def upTo (n : Nat) : List GReg := (List.range n).map fun i => BitVec.ofNat 5 (i + 1)

/-- The registers that the entry of an instruction reads and writes. -/
def usesOf : Instr → RegUse
  | .add d a b | .sub d a b | .and d a b | .or d a b | .xor d a b | .andn d a b | .shl d a b | .shr d a b
   | .sra d a b | .rol d a b | .ror d a b | .min d a b | .max d a b | .minu d a b | .maxu d a b | .seq d a b
   | .sne d a b | .slt d a b | .sltu d a b | .mul d a b | .mulh d a b | .mulhu d a b | .div d a b | .divu d a b
   | .rem d a b | .remu d a b | .lea d a b _ _ | .bmm8 d a b | .bmm8x d a b | .bmm8t d a b | .pdep d a b
   | .pext d a b | .bfi d a b _ _ | .fadd d a b _ | .fsub d a b _ | .fmul d a b _ | .fmin d a b _
   | .fmax d a b _ | .feq d a b | .flt d a b | .fle d a b | .ld d a b _ _ | .ldx d a b _ _ | .tagrd d a b _ _
   | .equnite d a b | .eqsame d a b | .codeinst d a b => { gr := [a, b], gw := [d] }
  | .addi d a _ | .andi d a _ | .ori d a _ | .xori d a _ | .slti d a _ | .shli d a _ | .shri d a _ | .srai d a _
   | .widx d a _ | .widc d a _ | .clz d a | .ctz d a | .popc d a | .bswap d a | .sext d a _ | .zext d a _
   | .bfx d a _ _ | .brev d a | .fcvtif d a _ | .fcvtfi d a _ | .jpoll d a | .jcancel d a | .eqfind d a
   | .eqsize d a | .mcwait d a | .rankc d a | .pentr d a => { gr := [a], gw := [d] }
  | .sel d a b c | .fma d a b c _ | .amo d a b c _ _ | .amof d a b c _ _ | .cas d a b c _ _ | .ams d a b c _ _ => { gr := [a, b, c], gw := [d] }
  | .li d _ | .leac d _ | .chinfo d _ | .qpop d _ | .qpeek d _ | .spop d _ | .getc d _ | .mstat d | .eqsnap d
   | .equndo d | .eqcommit d => { gw := [d] }
  | .bperm d a c => { gr := [a], gw := [d], vr := [c] }
  | .beq a b _ | .bne a b _ | .blt a b _ | .bge a b _ | .bltu a b _ | .bgeu a b _ | .launch a b
   | .chbind _ a b _ | .swmap a b _ | .swred a b _ | .swcvt a b _ | .mma _ a b _ | .mmab _ a b _ | .cpy a b
   | .eqrelabel a b _ _ | .pent a b | .keyslot a b | .scrub a b | .stinv a b | .atreqAttestation a b
   | .atreqAllocation a b => { gr := [a, b] }
  | .jmp _ | .loopi _ _ | .yield _ _ _ | .endAct | .trap _ | .nop | .join _ | .trigger
   | .fence _ | .barr _ _ _ | .bsync _ _ _ | .bwait _ | .bdrop _ | .mzero _ | .mwait _ | .mret | .bkpt _
   | .unassignedOpcode _ | .sendGrant _ | .queueWaiterServed _ _ | .accessAnswer _ _ | .serviceOperation _ _
   | .routineAbandon _ | .barrierBatch _ _ | .nak _ _ _ | .call _ _ | .ticketLapse _ | .vectorGrant _
   | .sweepStart _ _ | .sweepComplete _ _ | .matrixJobStart _ | .matrixOperandsConsumed _ _
   | .matrixJobComplete _ _ | .gangBarrierFire _ | .gangBreak _ | .drainRow _ _ | .copyJobStart _ _
   | .copyJobComplete _ _ | .cardOperandsConsumed _ _ | .streamElement _ _ | .completionDelivery _ _
   | .eqEntryWrites _ | .eqHop _ | .eqLink _ | .relabelJobStart _ _ | .relabelJobComplete _ _ | .doubleFault _ _
   | .channelDelivery _ | .queueDelivery _ | .joinCellDelivery _ | .joinContinuationRecruit _ _
   | .feWordDelivery _ | .dispatch _ | .sendDisplacement _ | .launchHeader _ | .launchEnumeration _
   | .launchComplete _ | .launchReportResend _ | .teamReplay _ | .codeMiss _ | .codeSourceTimeout _ _
   | .codeInstall _ _ _ | .kilnInstallRetry _ | .kilnInstallTimeout _ | .translationParkTimeout _ _
   | .releaseCountAdvance _ | .stampedWriteApply _ | .rd _ | .wr _ | .atm _ | .msg _ | .mcw _ | .rda _ | .ack _
   | .tnak _ | .msga _ | .mcack _ _ | .mcackTimeout _ | .seqnak _ | .seqnakTimer _ _ | .requestResendTimer _ _
   | .flowletTimeout _ _ | .flitReplay _ | .linkRetrain _ _ | .portDown _ _ | .notice _ _ | .cfreq _ | .cfdat _
   | .cfnone _ | .mgw _ | .mgr _ | .keynextWrite _ | .rankMapBankFlip _ _ | .portEnWrite _ _ | .fgeomWrite _
   | .pkaWrite _ _ | .thermalTrip _ _ | .thermalThrottle _ _ | .powerWindow _ | .inputVoltageFault _
   | .memoryTraining _ | .clusterDrain _ _ | .partFailure _ | .housekeepingRead _ | .pwrlimWrite _ | .viThaw _
   | .portHold _ | .portRelease _ | .debugToken _ | .debugStop _ | .debugResume _ | .traceIdleRecord _
   | .serviceOperationTimeout _ _ | .linkTrained _ | .serviceCoreFirmwareUpdate _ _ | .stationFirmwareUpdate _ _
   | .mcallInstallRoutine | .mcallFormGroup | .mcallSetCodePeers | .codeIntegrityFault | .deadlineOverrun
   | .retireLimit | .moduleReset | .resetCommand | .debugChallenge | .fallThroughPastInstance => {}
  | .calld _ => { gw := [31] }
  | .calldr a => { gr := [a], gw := [31] }
  | .ret => { gr := [31] }
  | .jmpr a | .loop a _ | .jinit a _ _ | .qpush _ a | .setc a _ | .binit _ a | .mload _ a _
   | .cpys _ a | .jwait a | .eqinit a _ _ | .flowend a | .mext a | .ctxsv a | .ctxld a | .codeevict a | .quar a
   | .vifrz a | .trmark a _ | .trctlFlush a | .trctlPause a | .trctlResume a => { gr := [a] }
  | .send a b c n _ => { gr := a :: c :: payload b n }
  | .sendnb d a b c n _ => { gr := a :: c :: payload b n, gw := [d] }
  | .sendv a b c _ => { gr := [a, c], vr := [b] }
  | .reply b n _ => { gr := payload b n }
  | .fork a b _ _ => { gr := a :: b :: upTo 11, gw := upTo 31, vw := [0, 1, 2, 3, 4, 5, 6, 7, 8, 9, 10, 11, 12, 13, 14, 15] }
  | .qtry d _ b | .stry d _ b => { gw := [d, b] }
  | .st a b c _ _ | .stx a b c _ _ | .tagwr a b c _ _ => { gr := [a, b, c] }
  | .vld d a b _ _ => { gr := [a, b], vw := [d] }
  | .vst a b c _ _ => { gr := [a, b], vr := [c] }
  | .vldx d a b _ _ => { gr := [a], vr := [b], vw := [d] }
  | .vstx a b c _ _ => { gr := [a], vr := [b, c] }
  | .vamo d a b c _ _ => { gr := [a], vr := [b, c], vw := [d] }
  | .vadd d a b _ | .vsub d a b _ | .vmul d a b _ | .vmin d a b _ | .vmax d a b _ | .vcmp d a b _
   | .vand d a b _ | .vor d a b _ | .vxor d a b _ | .vshl d a b _ | .vshr d a b _ | .vsra d a b _
   | .vdiv d a b _ | .vperm d a b _ | .vbmm8 d a b _ | .vpdep d a b _ | .vpext d a b _ | .vbperm d a b _ => { vr := [a, b], vw := [d] }
  | .vfma d a b c _ | .vsel d a b c _ => { vr := [a, b, c], vw := [d] }
  | .vabs d a _ | .vneg d a _ | .vmov d a _ | .vexp2 d a _ | .vlog2 d a _ | .vrcp d a _
   | .vrsq d a _ | .vsqrt d a _ => { vr := [a], vw := [d] }
  -- where FMT has the more lanes, vD is read as raw bits too (R274)
  | .vcvt d a n => { vr := if Num.lanes n.fmt2 < Num.lanes n.fmt then [a, d] else [a], vw := [d] }
  | .vtag d _ | .viota d _ => { vw := [d] }
  | .vscl d a b _ => { gr := [b], vr := [a], vw := [d] }
  | .vred d a _ => { gw := [d], vr := [a] }
  | .vbcast d a _ => { gr := [a], vw := [d] }
  | .vext d a b _ => { gr := [b], gw := [d], vr := [a] }
  | .vins d a b _ => { gr := [a, b], vr := [d], vw := [d] }
  | .mdrain _ b _ => { gr := [b] }
  | .mcall _ => { gr := upTo 8 }

/-- A g register awaits the answer of an earlier access issued in the same mode (R68). -/
def Thread.pendsG (x : Thread) (r : GReg) : Bool :=
  r != 0 && x.outst.any fun q => q.dst == .g r && q.mon == (x.mode == .monitor)
def Thread.pendsV (x : Thread) (r : VIdx) : Bool := x.outst.any fun q => q.dst == .v r
/-- A g register awaits a forest operation's answer (R345). -/
def Thread.eqPends (x : Thread) (r : GReg) : Bool :=
  r != 0 && x.eqops.any fun q => q.dst == r && q.mon == (x.mode == .monitor)

/-- The interlock of R68: the instruction does not issue yet. -/
def Thread.interlocked (x : Thread) (i : Instr) : Bool :=
  let u := usesOf i
  (u.gr ++ u.gw).any (fun r => x.pendsG r || x.eqPends r) || (u.vr ++ u.vw).any x.pendsV

/-- The instruction reads a register marked with an error (R178). -/
def Thread.readsMarked (x : Thread) (i : Instr) : Bool :=
  let u := usesOf i
  (u.gr.any fun r => if x.mode = .monitor then x.mgErr.getLsbD r.toNat else x.act.gErr.getLsbD r.toNat) ||
  u.vr.any fun r => x.act.vErr.getLsbD r.toNat

/-- The instruction reads a register, or goes through a scalar latch, whose parity is wrong (R70, R263). -/
def Thread.readsBad (x : Thread) (i : Instr) : Bool :=
  let u := usesOf i
  (x.latchBad && u.gr != []) ||
  (u.gr.any fun r => r != 0 && if x.mode = .monitor then x.mgBad.getLsbD r.toNat else x.act.gBad.getLsbD r.toNat) ||
  u.vr.any fun r => x.act.vBad.getLsbD r.toNat

/-! ## The running code (R34, R37) -/

def State.lineAt (s : State) (t : Nat) : Option Line :=
  let pc := (s.th t).act.pc
  (s.instOf t (handleOf pc)).bind fun i => i.line (linearOf pc / 5)
/-- The instruction at thread t's pc, when its word decodes. -/
def State.instrAt (s : State) (t : Nat) : Option Instr :=
  match s.lineAt t with
  | some l => match decode (l.slots.getD (linearOf (s.th t).act.pc % 5) 0) with | .ok i => some i | .error _ => none
  | none => none

/-- The hazard detector is on for the running thread (R422). -/
def State.haz (s : State) : Bool := s.me.trcfg.getLsbD 0

end Sys2Proof.Machine
end

