-- ==== Sys2Proof/Machine/YSpace.lean ====
section
/-! DEFINITION. The Y space: the chip's system registers as the monitor reads and writes them (R171, R382,
R402, R428). -/

namespace Sys2Proof.Machine

/-! ## Fabric management registers (R382) -/

/-- The word at a management offset; none where nothing is mapped. KEYNEXT reads zero. -/
def State.mgmtRead (s : State) (a : Nat) : Option Word :=
  let f := s.fab
  if a = 0 then some f.fgeom
  else if a = 8 then some f.mnonce
  else if 0x10 ≤ a ∧ a < 0x30 then some (Map.get 0 f.fmep ((a - 0x10) / 8))
  else if 0x30 ≤ a ∧ a < 0x50 then some 0
  else if 0x80 ≤ a ∧ a < 0xE0 then some (s.portReg ((a - 0x80) / 8))
  else if a = 0x100 then some f.cntDrop
  else if a = 0x108 then some f.cntLink
  else if 0x1000 ≤ a ∧ a < 0x1400 then
    some (if a % 16 = 0 then s.pka ((a - 0x1000) / 16) else s.pkb ((a - 0x1000) / 16))
  else if 0x40000000 ≤ a ∧ a < 0xC0000000 then
    let i := (a - 0x40000000) / 4
    some ((Map.get (0 : Word) f.ranks (i + 1) <<< 32) ||| (Map.get (0 : Word) f.ranks i &&& 0xFFFFFFFF))
  else none

/-! ## Housekeeping registers (R428) -/

def State.hkRead (s : State) (a : Nat) : Option Word :=
  let y := s.sys
  match a with
  | 0 => some (BitVec.ofNat 64 (y.cause.toNat * 2 ^ 56 + y.stage))
  | 0x08 => some (y.pwrlim.setWidth 64)
  | 0x10 => some (y.pwrnow.setWidth 64)
  | 0x18 => some (BitVec.ofNat 64 ((List.range 6).map fun d => (Map.get 0 y.temps d).toNat * 2 ^ (8 * d)).sum)
  | 0x20 => some y.eccCount
  | 0x28 => some (BitVec.ofNat 64 (y.spares.toNat % 256 + min y.retiredFrames.length (2 ^ 24 - 1) * 2 ^ 40))
  | _ => none

/-! ## The layout of R402 -/

/-- The word of a digest at a byte offset. -/
def digestWord (d : Digest) (off : Nat) : Word := BitVec.ofNat 64 (field (digestBytes d) off 8)

/-- The word of chip-log slot k at an offset: the newest record whose number is k modulo 1,024. -/
def State.logWord (s : State) (k off : Nat) : Word :=
  let n := s.sys.logcnt.toNat
  match s.sys.log[(n + 1023 - k) % 1024]? with
  | none => 0
  | some r => match off with
    | 0 => r.cycle | 8 => r.src
    | 16 => (r.cause.setWidth 64) ||| (r.sub.setWidth 64 <<< 8)
    | _ => r.mtval

/-- Words 0 of a context table entry show FROZEN and QUAR (R402, R403, R407). -/
def State.ctxHead (s : State) (w : Word) : Word :=
  let frozen := s.sys.frozen.contains (w.extractLsb' 48 6)
  let quar := s.sys.quarantined.contains (w.extractLsb' 0 16)
  (w &&& 0x9FFFFFFFFFFFFFFF) ||| (if frozen then 0x4000000000000000 else 0) ||| (if quar then 0x2000000000000000 else 0)

/-- An LD in Y; none where nothing is mapped. -/
def State.yRead (s : State) (ea : Word) : Option Word :=
  let a := ea.toNat
  if a < 0xC0000000 then s.mgmtRead a
  else if 0x100000000 ≤ a ∧ a < 0x100000000 + 64 * 4096 then some (BitVec.ofNat 64 (s.mem.read (yBase + a) 8))
  else if 0x110000000 ≤ a ∧ a < 0x110000000 + 0x2000 * 256 then
    let w : Word := BitVec.ofNat 64 (s.mem.read (yBase + a) 8)
    some (if a % 0x2000 = 0 then s.ctxHead w else w)
  else if a = 0x120000000 then some s.sys.logcnt
  else if 0x120000100 ≤ a ∧ a < 0x120000100 + 32 * 1024 then
    let k := a - 0x120000100
    some (s.logWord (k / 32) (k % 32))
  else if 0x130000000 ≤ a ∧ a < 0x1300000A0 then
    let k := a - 0x130000000
    let d := match k / 32 with
      | 0 => s.sys.mboot | 1 => s.sys.mmon | 2 => s.sys.mstn | 3 => s.sys.msvc | _ => s.sys.scrubdig
    some (digestWord d (k % 32))
  else if a = 0x1300000A0 then some (s.sys.nscrub.setWidth 64)
  else if 0x200000000 ≤ a then s.hkRead (a - 0x200000000)
  else none

/-- The bits of the word at an offset of a context table entry that hold something; the others are reserved and read as
zero (R6, R402). -/
def ctxMask (off : Nat) : Word :=
  if off = 0 then 0x803FFF3F0000FFFF
  else if off = 8 then 0x800000FFFFFFF000
  else if off = 0x10 then 0xFF
  else if 0x20 ≤ off ∧ off < 0x60 then 0x80000000003FFFFF
  else if 0x100 ≤ off ∧ off < 0x1100 then
    if (off - 0x100) % 0x200 < 0x180 then BitVec.allOnes 64 else if (off - 0x100) % 0x200 = 0x180 then 0xFFFFFFFF else 0
  else if 0x1100 ≤ off ∧ off < 0x1900 then BitVec.allOnes 64
  else 0
/-- The same for a group entry (R372). -/
def grpMask (off : Nat) : Word :=
  if off = 0 then 0x01FFFFFF0FFFFF07 else if off = 8 then 0x3FF else if off < 0x20 then 0 else BitVec.allOnes 64

/-- An ST in Y; none where nothing is mapped or the area is read-only. A store to word 0 of an entry of the context table that
clears its V or changes its PID tears the context down (R107; log 94). -/
def State.yWrite (s : State) (ea x : Word) : Option State :=
  let a := ea.toNat
  if 0x100000000 ≤ a ∧ a < 0x100000000 + 64 * 4096 then some (s.modMem fun m => m.write (yBase + a) 8 (x &&& grpMask (a % 64)).toNat)
  else if 0x110000000 ≤ a ∧ a < 0x110000000 + 0x2000 * 256 then
    let w := x &&& ctxMask (a % 0x2000)
    let old : Word := BitVec.ofNat 64 (s.mem.read (yBase + a) 8)
    let s1 := if a % 0x2000 = 0 ∧ old.getLsbD 63 = true ∧ (w.getLsbD 63 = false ∨ w.extractLsb' 0 16 ≠ old.extractLsb' 0 16)
      then s.tearDown (old.extractLsb' 0 16) else s
    some (s1.modMem fun m => m.write (yBase + a) 8 w.toNat)
  else none

end Sys2Proof.Machine
end

