-- ==== Sys2Proof/Machine/MemAccess.lean ====
section
/-! DEFINITION. Classes 4 and 5, accesses to memory: loads, stores, gathers, scatters, tag accesses (R188–R198)
and atomics (R202–R212), as they issue. -/

namespace Sys2Proof.Machine

/-! ## The checks of R189 -/

def sizeBytes : Size → Nat | .b => 1 | .h => 2 | .w => 4 | .d => 8 | .l => 128
def sizeNo : Size → Nat | .b => 0 | .h => 1 | .w => 2 | .d => 3 | .l => 5

/-- The spaces of R169 for an access, Y apart; S, XS and D alone have tags and atomics (R198, R199). -/
def spaceAllows (sp : Space) (what : Access) : Bool :=
  match what with
  | .load => sp != .c && sp != .y
  | .store => sp == .s || sp == .a || sp == .xs || sp == .xa || sp == .d
  | _ => sp == .s || sp == .xs || sp == .d

def isMcast (sp : Space) (ea : Word) : Bool := sp == .d && dKind ea == 2

/-- Check 1 for one element: its space and its kind (R169, R172, R373). mc: the instruction may store to a group. -/
def State.kindFault (s : State) (r : Req) (mc : Bool) (e : Elem) : Option Trap :=
  let bad := !spaceAllows r.sp r.what ||
    (r.sp == .d &&
      match dKind e.ea with
      | 0 => dChip e.ea != 0
      | 1 => decide (s.jobSize r.pid ≤ (dChip e.ea).toNat)
      | 2 => !mc || decide (4096 ≤ (groupOf e.ea).toNat) || r.sync == .wef
      | _ => true)
  if bad then some { code := 0x08, val := e.ea } else none

/-- Checks 2 to 4 for one element. -/
def alignFault (e : Elem) : Option Trap := if e.ea.toNat % e.size = 0 then none else some { code := 0x09, val := e.ea }
def rangeFault (t : Nat) (sp : Space) (e : Elem) : Option Trap :=
  if sp = .d ∨ (flatAddr t sp e.ea e.size).isSome then none else some { code := 0x08, val := e.ea }
def State.protFault (s : State) (t : Nat) (r : Req) (e : Elem) : Option Trap :=
  if r.sp = .d then none else
  match s.pentFor t r.sp e.ea e.size with
  | none => some { code := 0x07, val := e.ea }
  | some p =>
    if (r.what.isStore || p.r) && (r.what.isLoad || p.w) && ((s.block (blockOf t)).stampFor p.encl).isSome then none
    else some { code := 0x07, val := e.ea }

/-- The first of R189's checks that fails; every element is checked at each step before the next step. -/
def State.accessFault (s : State) (r : Req) (mc : Bool) : Option Trap :=
  (r.elems.findSome? (s.kindFault r mc)).orElse fun _ =>
  (r.elems.findSome? alignFault).orElse fun _ =>
  (r.elems.findSome? (rangeFault s.cur r.sp)).orElse fun _ =>
  r.elems.findSome? (s.protFault s.cur r)

/-- An element with its flat address and stamp, once checked. -/
def State.resolve (s : State) (r : Req) (e : Elem) : Elem :=
  if r.sp = .d then e else
  { e with
    pa := (flatAddr s.cur r.sp e.ea e.size).getD 0
    key := match s.pentFor s.cur r.sp e.ea e.size with
      | some p => ((s.block (blockOf s.cur)).stampFor p.encl).getD 0
      | none => 0 }

/-- Regions of device memory lie beyond every flat address: they are compared by virtual address. -/
def devBase : Nat := 2 ^ 64

/-- A device page that a region covers has the element's bytes in the part that the region declares. -/
def State.sameFrame (s : State) (t : Nat) (pid : BitVec 16) (r : Region) (pa n : Nat) : Bool :=
  let lo := r.base - devBase
  let hi := lo + r.len
  (List.range (hi / 2 ^ 16 + 1 - lo / 2 ^ 16)).any fun i =>
    let a := max lo ((lo / 2 ^ 16 + i) * 2 ^ 16)
    let b := min hi ((lo / 2 ^ 16 + i + 1) * 2 ^ 16)
    match s.leaf? t pid (a % 2 ^ 40) with
    | some l => let p := leafAddr l (a % 2 ^ 40); decide (pa < p + (b - a) ∧ p < pa + n)
    | none => false

/-- The element touches a region that a pending job of the block declared (R422): in device memory the addresses are compared,
and the frames too where the two name a page by different ones. -/
def State.inFootprint (s : State) (r : Req) (e : Elem) : Bool :=
  let hit : Nat → Region → Bool := fun a g => decide (a < g.base + g.len ∧ g.base < a + e.size)
  let pa := if r.sp = .d && s.onChip r.pid e.ea then (s.leaf? s.cur r.pid (dLva e.ea)).map fun l => leafAddr l (dLva e.ea) else none
  (s.block (blockOf s.cur)).jobs.any fun j => (j.reads ++ j.writes).any fun g =>
    if r.sp ≠ .d then hit e.pa g
    else decide (devBase ≤ g.base) && ((j.pid == r.pid && hit (devBase + e.ea.toNat) g) ||
      pa.any fun a => s.sameFrame s.cur j.pid g a e.size)

/-! ## Multicast stores (R373, R376) -/

/-- Keeps a request of another party as the one access of a thread number of its own. -/
def State.addInbound (s : State) (k : Packet) (r : Req) : State :=
  let n := s.fab.nextIn
  { s with
    threads := Map.put s.threads (65536 + n) { outst := [r] }
    fab := { s.fab with inbound := s.fab.inbound ++ [(n, k)], nextIn := n + 1 } }

/-- The elements of a copy's store: one word, or the 256 bytes of a vector register (R196). -/
def copyElems (k : Packet) : List Elem :=
  let sz := k.lo.toNat % 8
  let n := if sz = 5 then 128 else 2 ^ sz
  let cnt := if 1 < k.hi.toNat then 256 / n else 1
  (List.range cnt).map fun i =>
    { ea := k.addr + BitVec.ofNat 64 (n * i), size := n, off := n * i, data := BitVec.ofNat 1024 (field k.data (n * i) n) }

def syncOfNo (n : Nat) : Sync := match n with | 1 => .wf | 2 => .wfe | 3 => .wef | 4 => .sf | 5 => .se | _ => .plain

/-- A copy begins to be applied here. -/
def State.mcLocal (s : State) (k : Packet) : State :=
  s.addInbound k { seq := 0, what := .store, sp := .d, sync := syncOfNo (k.lo.toNat / 8 % 8), ord := k.ord, pid := k.pid, src := k.srcv
                   whole := true, elems := copyElems k }

/-- A copy meets the group entry of this chip: it is forwarded, and applied where a member is here whose
measurement is as expected (R373, R388). -/
def State.mcArrive (s : State) (k : Packet) (parent : Option Nat) (acc : Nat) : State :=
  -- at the root the store itself takes a number, so that ordered ones are applied here in their order (R367)
  let (k, s) := if parent.isNone && k.ord then
      let (n, s1) := s.nextFseq s.coord
      let k := { k with fseq := n, src := s.coord }
      (k, s1.sawFseq k true)
    else (k, s)
  let e := s.grp (mcGroup k)
  let match' := grpMeas e == s.measurement
  let s1 := s.mcForward k e parent acc (grpLocal e && match') (if grpLocal e && !match' then some (grpMember e, 7) else none)
  let s2 := if grpLocal e && match' then s1.mcLocal k else s1
  s2.mcSettle k

/-- One multicast store of the running thread, on the track of its group: the source looks up the group and
sends the copies, or the store fails at once. A replayed store gets the answer it had, or waits for it (R168). -/
def State.mcastStore (s : State) (r : Req) (sz : Nat) (ea : Word) (bytes : List Byte) : State :=
  let t := s.cur
  let g := groupOf ea
  match s.me.act.trackFor g with
  | none => s
  | some k =>
    let (q, s1) := s.addReq { r with elems := [{ ea, size := bytes.length }], phase := .remote, dst := .none }
    let s2 := s1.modMyAct fun a =>
      let old : Track := (a.track k).getD { group := g }
      { a with tracks := Map.set none a.tracks k (some { old with waiting := old.waiting ++ [q.seq], lva := ea &&& 0xFFFFFFFFFF }) }
    let e := s2.grp g.toNat
    if grpValid e && grpRoot e && grpKey e == s2.pkeyOf r.pid then
      let (n, s3) := s2.nextSeqTo t (groupKey g)
      let s4 := s3.journalSend t (groupKey g) n
      let words := (bytes.length + 7) / 8
      let p : Packet := {
        pkind := pkMCW, ndata := flitsOf bytes.length, ord := r.ord, pkey := s4.pkeyOf r.pid, dst := 0, src := s4.coord
        seq := n, pid := r.pid, encl := s4.me.act.encl, addr := ea &&& 0xFFFFFFFFFF
        aux := trackAddr (s4.ownRank r.pid) t k, srcv := sourceOf t
        lo := BitVec.ofNat 64 (sz + 8 * syncNo r.sync + 2 ^ 14 * g.toNat), hi := BitVec.ofNat 64 (2 ^ words - 1)
        data := padTo (if bytes.length ≤ 64 then 64 else bytes.length) bytes }
      match s4.keptAnswer p with
      | some a => s4.mcResult t q.seq k (mcBitmap a) (grpCount e) (mcReport a) false
      | none =>
        if (s4.mcWait? p).isSome then s4.modMcWait p fun w => { w with acc := q.seq }
        else s4.mcArrive p none q.seq
    else s2.mcResult t q.seq k 0 0 none true

/-- The multicast stores of an instruction from the n-th on, each a store of its own: up to the first whose group gets no
track (R373, R376). The number issued by then. -/
def State.mcastStores (s : State) (r : Req) (sz n : Nat) : List (Word × List Byte) → Nat × State
  | [] => (n, s)
  | x :: xs =>
    if (s.me.act.trackFor (groupOf x.1)).isNone then (n, s)
    else (s.mcastStore r sz x.1 x.2).mcastStores r sz (n + 1) xs
/-- How far the running thread's instruction has come with its multicast lanes: 0 before any of it is issued, else one more
than their number. -/
def Act.lanesIssued (a : Act) : Nat := if a.lanesOut.1 = a.pc ∧ a.lanesOut.2.1 = a.retire then a.lanesOut.2.2 else 0

/-! ## Issuing an access -/

/-- Puts a checked access among the outstanding ones, stamped when it writes device memory (R237). An access to
the own block's banks is performed and answered at once when its order allows (R168); atomics wait for their owner. -/
def State.issueReq (s : State) (r : Req) : State :=
  let d := dieOf s.cur
  let st := if r.sp = .d && !r.what.isLoad then
      (if r.rel then s.releaseStamp d else (s.writeStamp d, s)) else ([], s)
  let (q, s1) := st.2.addReq { r with stamp := st.1 }
  if (r.sp = .s ∨ r.sp = .a ∨ r.sp = .w) ∧ !r.what.isAtom ∧ !s1.me.late ∧ s1.canPerform s1.cur q then
    let s2 := (s1.runAndRetest s1.cur q).relDone s1.cur q.seq
    match s2.req? s2.cur q.seq with
    | some q => if q.performed then s2.deliver s2.cur q else s2
    | none => s2
  else s1

/-- An access that has passed its checks. vec: the 256 bytes of a VST. -/
def State.startAccess (s : State) (r : Req) (sz : Nat) (vec : Option (BitVec 2048)) : Out State :=
  let r := { r with elems := r.elems.map (s.resolve r) }
  let mcs := r.elems.filter fun e => isMcast r.sp e.ea
  let rest := r.elems.filter fun e => !isMcast r.sp e.ea
  let away := r.sp == .d && r.elems.any fun e => isMcast r.sp e.ea || !s.onChip r.pid e.ea
  let out := if mcs = [] then 0 else s.me.act.lanesIssued
  if out = 0 && s.haz && r.elems.any (s.inFootprint r) then raiseOpen 0x17 s
  else if out = 0 && r.rel && away && !s.allDone s.cur then .next (s.stall .access)
  else match (if out = 0 && r.rel then s.me.act.deferred else none) with
  | some tr => .next (s.takeDeferred tr)
  | none =>
    if out = 0 && r.rel && r.sp == .d && rest != [] && s.releaseStalls (dieOf s.cur) then .next (s.stall .access)
    else if out = 0 && mcs != [] && s.me.outst.any (fun q => !q.performed && overlaps q r) then .next (s.stall .access)
    else
      let s1 := if rest = [] || out ≠ 0 then s else s.issueReq { r with elems := rest }
      let stores : List (Word × List Byte) := match vec, mcs with
        | some v, e :: _ => [(e.ea, leBytes 256 v.toNat)]
        | _, _ => mcs.map fun e => (e.ea, leBytes e.size e.data.toNat)
      let (n, s2) := s1.mcastStores r sz (out - 1) (stores.drop (out - 1))
      if mcs = [] then .next s1.retire
      else if n = stores.length then .next (s2.modMyAct fun a => { a with lanesOut := (0, 0, 0) }).retire
      else .next ((s2.modMyAct fun a => { a with lanesOut := (a.pc, a.retire, n + 1) }).stall .access)

/-- An access in Y (R171): only LD and ST of 8 bytes with PLAIN, in monitor mode. -/
def State.yAccess (s : State) (r : Req) (ls : Bool) : Out State :=
  match r.elems with
  | [] => .next s.retire
  | e :: _ =>
    if s.me.mode ≠ .monitor then raiseOpen 0x15 s
    else if !ls ∨ r.sync ≠ .plain ∨ e.size ≠ 8 then raise 0x08 e.ea s
    else if e.ea.toNat % 8 ≠ 0 then raise 0x09 e.ea s
    else match r.what with
      | .load =>
        match s.yRead e.ea, r.dst with
        | some w, .g d => .next (s.writeRetire d w)
        | some _, _ => .next s.retire
        | none, _ => raise 0x08 e.ea s
      | _ =>
        match s.yWrite e.ea (e.data.setWidth 64) with
        | some s1 => .next s1.retire
        | none => raise 0x08 e.ea s

/-- Sign- or zero-extends n bytes. -/
def extend64 (sx : Bool) (n x : Nat) : Word :=
  if sx ∧ 2 ^ (8 * n - 1) ≤ x % 2 ^ (8 * n) then BitVec.ofNat 64 (x % 2 ^ (8 * n) + 2 ^ 64 - 2 ^ (8 * n))
  else BitVec.ofNat 64 (x % 2 ^ (8 * n))

/-- An access of a service routine (R192, R213): PLAIN, SF or SE, inside the granule. R192 lets the service thread use
TAGRD and TAGWR, which R213's list leaves out: they act, a tag write being buffered as a store is (log 87). -/
def State.serviceAccess (s : State) (i : Instr) (r : Req) : Out State :=
  let t := s.cur
  match s.me.serve, r.elems with
  | some v, e :: _ =>
    if r.sync = .wf ∨ r.sync = .wfe ∨ r.sync = .wef then illegal i s
    else match v.inside r.sp e.ea e.size with
      | none => raise 0x08 e.ea s
      | some pa =>
        let write : Word → State → State := fun w s => match r.dst with | .g d => s.writeRetire d w | _ => s.retire
        let keep : Service → State := fun v => (s.modMe fun x => { x with serve := some v }).retire
        match r.what with
        | .load =>
          match s.serviceLoad v pa e.size with
          | none => .next (s.endService t 6 0)
          | some (x, s1) => .next (write (extend64 r.sx e.size x) s1)
        | .tagRead =>
          .next (write (BitVec.ofNat 64 ((wordsOf pa e.size).zipIdx.map fun w => if s.serviceTag v w.1 then 2 ^ w.2 else 0).sum) s)
        | .tagWrite => .next (keep (v.bufferTags pa e.size e.data.toNat))
        | _ =>
          let whole := r.sync = .plain ∧ e.size = 8
          if !whole ∧ s.mem.bad (pa / 8) ∧ !((List.range 8).all fun i => v.stores.any fun p => p.1 == pa / 8 * 8 + i) then
            .next (s.endService t 6 0)
          else
            .next (keep (v.buffer pa e.size e.data.toNat (match r.sync with | .sf => some true | .se => some false | _ => none)))
  | _, _ => illegal i s

/-- A class 4 access. ls: it is LD or ST, the two that Y allows; mc: it may store to a multicast group. -/
def State.access (s : State) (i : Instr) (r : Req) (sz : Nat) (ls mc : Bool) (vec : Option (BitVec 2048)) : Out State :=
  if !isAct s.cur then s.serviceAccess i r
  else if r.sp = .y then s.yAccess r ls
  else match s.accessFault r mc with
    | some tr => .next (s.takeFault tr)
    | none => s.startAccess r sz vec

/-! ## Class 4 (R194–R198) -/

/-- What an instruction's MOD says of its access (R46, R187). -/
def State.reqOf (s : State) (what : Access) (m : MemF) (dst : Dest) (elems : List Elem) : Req :=
  { seq := 0, what, sp := m.sp, sync := m.sy, ord := m.ord, sx := m.sx, sc := m.sc, dst, pid := s.me.act.pid, elems
    acq := m.sy == .wf || m.sy == .wfe, rel := m.sy == .wef || m.sy == .sf }

/-- gA + gB + imm, and the form that scales gB by the size (R194). -/
def State.addrOf (s : State) (a b : GReg) (imm : BitVec 48) : Word := s.g a + s.g b + imm.signExtend 64
def State.addrScaled (s : State) (a b : GReg) (sz : Size) (imm : BitVec 48) : Word :=
  s.g a + (s.g b <<< sizeNo sz) + imm.signExtend 64

def State.loadAt (s : State) (i : Instr) (ls : Bool) (d : GReg) (m : MemF) (ea : Word) : Out State :=
  s.access i (s.reqOf .load m (.g d) [{ ea, size := sizeBytes m.sz }]) (sizeNo m.sz) ls false none
def execLd (d a b : GReg) (m : MemF) (imm : BitVec 48) (s : State) : Out State :=
  s.loadAt (.ld d a b m imm) true d m (s.addrOf a b imm)
def execLdx (d a b : GReg) (m : MemF) (imm : BitVec 48) (s : State) : Out State :=
  s.loadAt (.ldx d a b m imm) false d m (s.addrScaled a b m.sz imm)

def State.storeReg (s : State) (i : Instr) (ls : Bool) (c : GReg) (m : MemF) (ea : Word) : Out State :=
  s.access i (s.reqOf .store m .none [{ ea, size := sizeBytes m.sz, data := (s.g c).setWidth 1024 }]) (sizeNo m.sz) ls true none
def execSt (a b c : GReg) (m : MemF) (imm : BitVec 48) (s : State) : Out State :=
  s.storeReg (.st a b c m imm) true c m (s.addrOf a b imm)
def execStx (a b c : GReg) (m : MemF) (imm : BitVec 48) (s : State) : Out State :=
  s.storeReg (.stx a b c m imm) false c m (s.addrScaled a b m.sz imm)

/-- n bytes of a vector register from byte off. -/
def bytesOf (v : BitVec 2048) (off n : Nat) : Nat := v.toNat / 2 ^ (8 * off) % 2 ^ (8 * n)

/-- The accesses of a VLD or VST: 32 doubles, or two lines (R196). -/
def vecElems (ea : Word) (sz : Size) (v : BitVec 2048) : List Elem :=
  let n := sizeBytes sz
  (List.range (256 / n)).map fun i =>
    { ea := ea + BitVec.ofNat 64 (n * i), size := n, off := n * i, data := BitVec.ofNat 1024 (bytesOf v (n * i) n) }

def execVld (d : VIdx) (a b : GReg) (m : MemF) (imm : BitVec 48) (s : State) : Out State :=
  noService (.vld d a b m imm) s fun s =>
    s.access (.vld d a b m imm) (s.reqOf .load m (.v d) (vecElems (s.addrOf a b imm) m.sz 0)) (sizeNo m.sz) false false none
def execVst (a b : GReg) (c : VIdx) (m : MemF) (imm : BitVec 48) (s : State) : Out State :=
  noService (.vst a b c m imm) s fun s =>
    s.access (.vst a b c m imm) (s.reqOf .store m .none (vecElems (s.addrOf a b imm) m.sz (s.v c).bits)) (sizeNo m.sz) false true
      (some (s.v c).bits)

/-- The lanes of a gather, scatter or VAMO: base plus the index lane times the size (R197). -/
def laneElems (base : Word) (sz : Size) (idx data : BitVec 2048) : List Elem :=
  let n := sizeBytes sz
  (List.range (256 / n)).map fun i =>
    { ea := base + BitVec.ofNat 64 (bytesOf idx (n * i) n * n), size := n, off := n * i
      data := BitVec.ofNat 1024 (bytesOf data (n * i) n) }

def execVldx (d : VIdx) (a : GReg) (b : VIdx) (m : MemF) (imm : BitVec 48) (s : State) : Out State :=
  noService (.vldx d a b m imm) s fun s =>
    s.access (.vldx d a b m imm) { s.reqOf .load m (.v d) (laneElems (s.addrOf a 0 imm) m.sz (s.v b).bits 0) with perWord := true } (sizeNo m.sz) false false none
def execVstx (a : GReg) (b c : VIdx) (m : MemF) (imm : BitVec 48) (s : State) : Out State :=
  noService (.vstx a b c m imm) s fun s =>
    s.access (.vstx a b c m imm) { s.reqOf .store m .none (laneElems (s.addrOf a 0 imm) m.sz (s.v b).bits (s.v c).bits) with perWord := true } (sizeNo m.sz) false true none

def execTagrd (d a b : GReg) (m : MemF) (imm : BitVec 48) (s : State) : Out State :=
  s.access (.tagrd d a b m imm) (s.reqOf .tagRead m (.g d) [{ ea := s.addrOf a b imm, size := sizeBytes m.sz }]) (sizeNo m.sz) false false none
def execTagwr (a b c : GReg) (m : MemF) (imm : BitVec 48) (s : State) : Out State :=
  s.access (.tagwr a b c m imm) (s.reqOf .tagWrite m .none [{ ea := s.addrOf a b imm, size := sizeBytes m.sz, data := (s.g c).setWidth 1024 }])
    (sizeNo m.sz) false false none

/-! ## Atomics (R202–R212) -/

/-- What an atomic's MOD and operation byte say of it (R202, R203). -/
def State.atomOf (s : State) (what : Access) (m : MemF) (order : BitVec 2) (dst : Dest) (elems : List Elem) : Req :=
  let r := s.reqOf what m dst elems
  { r with acq := r.acq || order.getLsbD 0, rel := r.rel || order.getLsbD 1 }

def opnOf (op : BitVec 8) : BitVec 6 := op.extractLsb' 0 6
def orderOf (op : BitVec 8) : BitVec 2 := op.extractLsb' 6 2

/-- An AMOF answers the old word without sign; the operand is the low 4 bytes of gC. -/
def execAmo (d a b c : GReg) (m : MemF) (op : BitVec 8) (s : State) : Out State :=
  noService (.amo d a b c m op) s fun s =>
    s.access (.amo d a b c m op)
      (s.atomOf (.amo (opnOf op)) m (orderOf op) (.g d) [{ ea := s.g a + s.g b, size := sizeBytes m.sz, data := (s.g c).setWidth 1024 }])
      (sizeNo m.sz) false false none
def execAmof (d a b c : GReg) (m : MemF) (op : BitVec 8) (s : State) : Out State :=
  noService (.amof d a b c m op) s fun s =>
    s.access (.amof d a b c m op)
      (s.atomOf (.amof (opnOf op)) m (orderOf op) (.g d) [{ ea := s.g a + s.g b, size := 4, data := (s.g c).setWidth 1024 }])
      2 false false none
def execCas (d a b c : GReg) (m : MemF) (imm : BitVec 48) (s : State) : Out State :=
  noService (.cas d a b c m imm) s fun s =>
    s.access (.cas d a b c m imm)
      (s.atomOf .cas m 3 (.g d) [{ ea := s.addrOf a 0 imm, size := sizeBytes m.sz, data := (s.g c).setWidth 1024, data2 := s.g b }])
      (sizeNo m.sz) false false none
/-- VAMO: an OPN from 0x10 on is an FP32 operation (R210). -/
def execVamo (d : VIdx) (a : GReg) (b c : VIdx) (m : MemF) (op : BitVec 8) (s : State) : Out State :=
  noService (.vamo d a b c m op) s fun s =>
    let o := opnOf op
    let what : Access := if o.toNat < 16 then .amo o else .amof (o - 16)
    s.access (.vamo d a b c m op)
      { s.atomOf what m (orderOf op) (.v d) (laneElems (s.g a) m.sz (s.v b).bits (s.v c).bits) with perOwner := true }
      (sizeNo m.sz) false false none
/-- AMS (R211, R212): the routine must be installed for the context. -/
def execAms (d a b c : GReg) (m : MemF) (op : BitVec 8) (s : State) : Out State :=
  noService (.ams d a b c m op) s fun s =>
    let k := opnOf op
    if !(s.sys.routines.any fun r => r.1 == s.me.act.pid && r.2.1 == k) then illegal (.ams d a b c m op) s
    else
      s.access (.ams d a b c m op)
        (s.atomOf (.ams k) m (orderOf op) (.g d) [{ ea := s.g a, size := 8, data := (s.g b).setWidth 1024, data2 := s.g c }])
        3 false false none

end Sys2Proof.Machine
end

