-- ==== Sys2Proof/Machine/Finish.lean ====
section
/-! DEFINITION. The schedulers' jobs by number, and what becomes of a job when its completion is delivered or discarded
(R133, R330). -/

namespace Sys2Proof.Machine

def jobKey (blk id : Nat) : Nat := blk * 2 ^ 32 + id
def State.job? (s : State) (blk id : Nat) : Option Job := (s.block blk).jobs.find? fun j => j.id == id
def State.modJob (s : State) (blk id : Nat) (f : Job → Job) : State :=
  s.modBlock blk fun b => { b with jobs := b.jobs.map fun j => if j.id = id then f j else j }
def State.dropJob (s : State) (blk id : Nat) : State :=
  s.modBlock blk fun b => { b with jobs := b.jobs.filter fun j => j.id != id }

/-- The job's issuer as far as its team goes. -/
def Job.team (j : Job) : Act := { pid := j.pid, launch := j.launch, wid := j.wid }

/-- The record of CTXSV that holds activation id, which a CTXLD has replaced on its thread. -/
def Block.swappedOut (b : Block) (id : Nat) : Option (Nat × Act × Bool) :=
  if b.swapped.contains id then b.records.find? fun r => r.2.1.id == id else none
/-- The activations of a block that have not ended. -/
def State.alive (s : State) (blk : Nat) : List Act :=
  ((List.range 16).map fun i => (s.th (16 * blk + i)).act) ++ (s.block blk).displaced.map (·.act) ++
    (s.block blk).swapped.filterMap fun id => ((s.block blk).swappedOut id).map (·.2.1)
/-- The activation that record n of CTXSV holds changes, and with it the words of the record that say so (R330; log 29). -/
def State.modSaved (s : State) (blk n : Nat) (a a' : Act) (shut : Bool) : State :=
  let s1 := s.modBlock blk fun b => { b with records := b.records.map fun r => if r.1 = n then (n, a', r.2.2) else r }
  let shown : Act → List Word := fun x =>
    wordsOfBytes (Act.stateBytes { x with mstat := s.mstatOf (blk / 8) x, jstat := s.jstatOf (blk / 8) x } [])
  if shut then s1 else
  (((shown a).zip (shown a')).zipIdx).foldl (fun s e =>
    if e.1.1 = e.1.2 then s else s.monitorWrite (s.recordAt blk n + 8 * e.2) (leBytes 8 e.1.2.toNat)) s1

/-- Changes the activation that issued a job, where it is; none when it has ended. -/
def State.modIssuer (s : State) (j : Job) (f : Act → Act) : Option State :=
  let blk := blockOf j.thread
  match ((List.range 16).map (16 * blk + ·)).find? fun t => (s.th t).act.id == j.issuer && j.issuer != 0 with
  | some t => some (s.modCtx t f)
  | none =>
    if (s.block blk).displaced.any fun d => d.act.id == j.issuer then
      some (s.modBlock blk fun b => { b with displaced := b.displaced.map fun d => if d.act.id = j.issuer then { d with act := f d.act } else d })
    else match (s.block blk).swappedOut j.issuer with
      | some (n, a, shut) => some (s.modSaved blk n a (f a) shut)
      | none => none

/-- The ERROR report of a job whose issuer has ended: MEPC is 0, and MTVAL is not stated (log 8). -/
def State.jobReport (s : State) (j : Job) (cause : Byte) : State :=
  let r := s.takeFree
  (r.2.errorReport j.thread { pid := j.pid, launch := j.launch, wid := j.wid } cause 0 r.1).stopOnError j.launch

/-- Records a card job's failure in its issuer's JSTAT (R330). -/
def State.cardFailed (s : State) (j : Job) (cause : Byte) : State :=
  let rec1 : Act → Act := fun a =>
    if a.jstat.extractLsb' 56 8 = 0 then
      { a with jstat := (a.jstat &&& 0x00FFFFFF00000000) ||| (cause.setWidth 64 <<< 56) ||| j.tag.setWidth 64 }
    else
      let more := min 255 ((a.jstat.extractLsb' 48 8).toNat + 1)
      { a with jstat := (a.jstat &&& 0xFF00FFFFFFFFFFFF) ||| BitVec.ofNat 64 (more * 2 ^ 48) }
  let taken := (s.alive (blockOf j.thread)).any fun a => a.id == j.issuer && a.jstat.extractLsb' 56 8 != 0
  match s.modIssuer j rec1 with
  | some s1 => if taken then s1.logRec (sourceOf j.thread) cause 0 (j.tag.setWidth 64) else s1
  | none => s.jobReport j cause

/-- The completion of job id of block blk is delivered, or discarded as failed (R133). -/
def State.completed (s : State) (blk id : Nat) (cause : Byte) : State :=
  match s.job? blk id with
  | none => s
  | some j =>
    let s1 := s.dropJob blk id
    if cause = 0 ∨ j.cancelled then s1 else s1.cardFailed j cause

/-- A completion message of an engine that was granted its place has been delivered, or has failed with a cause (R133). -/
def State.jobDone (s : State) (m : Msg) (cause : Byte) : State :=
  match m.origin with
  | .job blk id => s.completed blk id cause
  | _ => s

end Sys2Proof.Machine
end

