-- ==== Sys2Proof/Machine/Messages.lean ====
section
/-! DEFINITION. Class 3, messages: SEND to REPLY, LAUNCH, TRIGGER, channels, queue and stream registers,
join cells and FORK (R128–R158), and the events that grant, deliver and serve them. -/

namespace Sys2Proof.Machine

/-! ## Release and errors before a send (R142, R178, R226, R237) -/

/-- Where a message of the running thread goes: its own die, another die, or another chip. -/
inductive Reach where
  | die | chip | away
  deriving DecidableEq, Repr

def State.reach (s : State) (dst : Word) : Reach :=
  let pid := s.me.act.pid
  if !s.maHere pid dst then .away
  else if s.maHome s.cur pid dst = dieOf s.cur then .die else .chip

/-- The release of a send may complete. -/
def State.releaseReady (s : State) (r : Reach) : Bool :=
  match r with
  | .die => s.settled s.cur
  | .chip => (s.me.outst.all fun q => q.performed || q.orphan || s.handed q) && s.deliveredHere s.cur && !s.releaseStalls (dieOf s.cur)
  | .away => s.allDone s.cur

/-- An acquire that the running thread issued earlier is not performed yet: what follows it waits (R228). -/
def State.acqWaits (s : State) : Bool := s.me.outst.any fun q => q.acq && !q.performed && !q.orphan
/-- A structure that the running thread reads from S at issue waits for its earlier acquires, and for its own accesses to
those bytes (R190, R228). -/
def State.readWaits (s : State) (ea : Word) (n : Nat) : Bool :=
  s.acqWaits || s.me.outst.any fun q => !q.performed && !q.orphan && q.sp == .s &&
    q.elems.any fun e => decide (e.ea.toNat < ea.toNat + n ∧ ea.toNat < e.ea.toNat + e.size)

/-! ## Lines of a queue register (R157) -/

/-- A message whose sender was granted no room yet: a launch report. -/
def Msg.ungranted (m : Msg) : Bool := match m.origin with | .report _ _ _ => true | _ => false

/-- Party p waits to push into a queue register: a thread that pushes or sends, an engine with a completion for it, or a
launch inbox with a report. -/
def State.pushing (s : State) (blk : Nat) (q : QIdx) (p : Nat) : Bool :=
  let here : Word → Bool := fun w => maKind w == 1 && maBlock w == blk && maQueue w == q
  if isAct p then
    let x := s.th p
    x.status == .stalled (.queue q false) || (x.status == .stalled .send && x.sendDst.any fun w => here w.dst)
  else if isEngine p then
    (s.block ((p - 42000) / 8)).jobs.any fun j => j.phase == .held && engineThread ((p - 42000) / 8) (engineNo j.eng) == p &&
      j.msg.any fun m => here m.dest
  else s.flight.any fun m => m.ungranted && inboxSender (maCluster m.src) == p && here m.dest
/-- The parties that wait on one side of a queue register, oldest first. -/
def State.queueLine (s : State) (blk : Nat) (q : QIdx) (pop : Bool) : List Nat :=
  ((s.block blk).queue q).waiters.filter fun t => if pop then (s.th t).status == .stalled (.queue q true) else s.pushing blk q t
/-- It is party p's turn on its side: nobody older waits there. -/
def State.turn (s : State) (blk : Nat) (q : QIdx) (pop : Bool) (p : Nat) : Bool :=
  match ((s.block blk).queue q).waiters.filter fun t =>
    t == p || (if pop then (s.th t).status == .stalled (.queue q true) else s.pushing blk q t) with
  | [] => true
  | t :: _ => t == p
def State.myTurn (s : State) (q : QIdx) (pop : Bool) : Bool := s.turn (blockOf s.cur) q pop s.cur
/-- A party joins a queue register's line, at its end; and leaves it. -/
def State.lineUp (s : State) (blk : Nat) (q : QIdx) (p : Nat) : State :=
  s.modBlock blk fun b => b.modQueue q fun r => { r with waiters := if r.waiters.contains p then r.waiters else r.waiters ++ [p] }
def State.leaveLine (s : State) (blk : Nat) (q : QIdx) (p : Nat) : State :=
  s.modBlock blk fun b => b.modQueue q fun r => { r with waiters := r.waiters.filter (· != p) }
/-- The answer to party p: a queue register takes its pushers in the order of their age (R157). -/
def State.answerTo (s : State) (p : Nat) (pid : BitVec 16) (w : Word) (n : Nat) : Answer :=
  match s.answerHere pid w n with
  | .grant => if maKind w = 1 ∧ !s.turn (maBlock w) (maQueue w) false p then .full else .grant
  | a => a
/-- A party that must wait for a full target stands in its line, if that is a queue register's. -/
def State.waitAt (s : State) (p : Nat) (w : Word) : State := if maKind w = 1 then s.lineUp (maBlock w) (maQueue w) p else s
def State.doneAt (s : State) (p : Nat) (w : Word) : State := if maKind w = 1 then s.leaveLine (maBlock w) (maQueue w) p else s

/-- Runs f as thread t, whoever runs now. -/
def State.asThread (s : State) (t : Nat) (f : State → Out State) : Out State :=
  match f { s with cur := t } with
  | .next s1 => .next { (s1.modTh t fun x => x.atHead s.cycle) with cur := s.cur }
  | o => o

/-! ## Composing and sending (R128, R141) -/

/-- The message the running thread composes; words beyond eight are not sent. -/
def State.compose (s : State) (dst reply : Word) (payload : List Word) (vec : Option VReg) : Msg :=
  let a := s.me.act
  { dest := dst, reply, payload, vec, src := sourceOf s.cur, wid := a.wid, launch := a.launch, pid := a.pid
    origin := .thread s.cur, die := dieOf s.cur, after := s.me.nextSeq }

/-- The thread sent the message with number n to a destination before its team's replay: the copy is dropped. -/
def Thread.sentBefore (x : Thread) (dest : Word) (n : BitVec 24) : Bool :=
  x.resent.any fun e => e.1 == dest && n != e.2 && decide ((e.2 - n).toNat < 2 ^ 23)

/-- Puts a message of the running thread in flight on the chip, stamped when it leaves the die. -/
def State.sendHere (s : State) (m : Msg) (r : Reach) : State :=
  let (n, s1) := s.nextSeqTo s.cur m.dest
  let s2 := s1.journalSend s.cur m.dest n
  if s.me.sentBefore m.dest n then s2 else
  let s3 := (s2.reserveHere m.pid m.dest m.payload.length).doneAt s.cur m.dest
  if r = .chip then
    let (v, s4) := s3.releaseStamp (dieOf s.cur)
    s4.push { m with seq := n, stamp := v, applied := false }
  else s3.push { m with seq := n }

/-- The bytes of a message's payload in data flits: none, 64 or 256 (R363). -/
def msgBytes (m : Msg) : List Byte :=
  match m.vec with
  | some v => leBytes 256 v.bits.toNat
  | none =>
    let bs := m.payload.flatMap fun w => leBytes 8 w.toNat
    if bs.length = 0 then [] else padTo (if bs.length ≤ 64 then 64 else 256) bs

/-- Sends a message to another rank (R363); false when no packet can leave for it. nb: it is a SENDNB's. -/
def State.sendAway (s : State) (m : Msg) (ord : Bool) (nb : Bool := false) : Bool × State :=
  let rank := maRank m.dest
  match s.coordOf m.pid rank with
  | none => (false, s)
  | some c =>
    let core := coreOf s.cur
    let dst := if ord then s.flowDst core m.pid rank c else c
    let s0 := if ord then s.openFlow core m.pid rank c else s
    let (n, s1) := s0.nextSeqTo s.cur m.dest
    let s2 := s1.journalSend s.cur m.dest n
    let bs := msgBytes m
    let k : Packet := {
      pkind := pkMSG, ndata := flitsOf bs.length, ord, pkey := s.pkeyOf m.pid, dst, src := s.coord, seq := n
      pid := m.pid, encl := s.me.act.encl, addr := m.dest, aux := m.reply, srcv := m.src, lo := m.wid, hi := m.launch
      vtag := match m.vec with | some v => v.tag | none => 0, nb, data := bs }
    s2.request k s.cur 0 0 (some { m with seq := n })

/-- A blocking send to a stage at or below the sender's own (R151). -/
def State.wrongStage (s : State) (dst : Word) : Bool :=
  maKind dst == 2 && s.maHere s.me.act.pid dst && s.me.act.stage != 0xFF &&
  match ((s.block (maBlock dst)).chan (s.chanOf s.me.act.pid dst)).bind with
  | some n => n.launch == s.me.act.launch && n.stage != 0xFF && decide (n.stage.toNat ≤ s.me.act.stage.toNat)
  | none => false

/-- The running thread's send has its answer. -/
def Thread.sendOver (x : Thread) : Thread := { x with sendAns := none, sendDst := none, sendWait := 0 }

/-- SEND, SENDNB, SENDV and REPLY (R141): nb is the status register of SENDNB. SENDV to a well-formed address of KIND 1, 3
or 4 is refused as the other kinds that it cannot name (log 17). -/
def State.sendTo (s : State) (dst reply : Word) (payload : List Word) (vec : Option VReg) (nb : Option GReg) (ord : Bool) : Out State :=
  let k := maKind dst
  if malformed dst ∨ k = 0 ∨ k = 5 ∨ k = 6 ∨ k = 7 ∨ (vec.isSome ∧ k ≠ 2) then raise 0x0F dst s
  else if s.haz ∧ nb = none ∧ s.wrongStage dst then raiseOpen 0x17 s
  else
    let finish : Word → State → Out State := fun st s =>
      let s := s.modMe Thread.sendOver
      match nb with
      | some d => .next (s.writeRetire d st)
      | none => if st = 0 then .next s.retire else raise 0x0F dst s
    match s.me.sendAns with
    | some st => finish st s
    | none =>
      let r := s.reach dst
      if !s.releaseReady r then .next (s.stall .access)
      else match s.me.act.deferred with
        | some tr => .next (s.takeDeferred tr)
        | none =>
          let m := s.compose dst reply payload vec
          if r = .away then
            match s.sendAway m ord nb.isSome with
            | (true, s1) => .next (s1.stallSend { dst, words := payload.length, nb := nb.isSome })
            | (false, _) => finish 4 s
          else
            match s.answerTo s.cur m.pid dst payload.length with
            | .grant => finish 0 (s.sendHere m r)
            | .full => if nb = none then .next ((s.waitAt s.cur dst).stallSend { dst, words := payload.length }) else finish 1 s
            | a => finish a.status s

/-- The payload words of a send. -/
def State.words (s : State) (b : GReg) (n : BitVec 4) : List Word := (payload b n).map s.g

def execSend (a b c : GReg) (n : BitVec 4) (ord : Bool) (s : State) : Out State :=
  noService (.send a b c n ord) s fun s => s.sendTo (s.g a) (s.g c) (s.words b n) none none ord
def execSendnb (d a b c : GReg) (n : BitVec 4) (ord : Bool) (s : State) : Out State :=
  noService (.sendnb d a b c n ord) s fun s => s.sendTo (s.g a) (s.g c) (s.words b n) none (some d) ord
def execSendv (a : GReg) (b : VIdx) (c : GReg) (ord : Bool) (s : State) : Out State :=
  noService (.sendv a b c ord) s fun s => s.sendTo (s.g a) (s.g c) [] (some (s.v b)) none ord
/-- REPLY: a latched reply address of 0 wants no reply, and the instruction has no effect. -/
def execReply (b : GReg) (n : BitVec 4) (ord : Bool) (s : State) : Out State :=
  noService (.reply b n ord) s fun s =>
    if s.me.act.reply = 0 then .next s.retire else s.sendTo s.me.act.reply 0 (s.words b n) none none ord

/-! ## LAUNCH and TRIGGER (R148, R149) -/

/-- LAUNCH (R148). The header's checks come first, then gB's. -/
def execLaunch (a b : GReg) (s : State) : Out State :=
  noService (.launch a b) s fun s =>
    let dst := s.g b
    if s.readWaits (s.g a) 128 then .next (s.stall .access) else
    match s.readS (s.g a) 128 64 with
    | .error e => .next (s.takeFault e)
    | .ok (bs, s1) =>
      if malformed dst ∨ maKind dst ≠ 6 then raiseOpen 0x0F s
      else
        match s.me.sendAns with
        | some st =>
          let s2 := s.modMe Thread.sendOver
          if st = 0 then .next s2.retire else raiseOpen 0x0F s2
        | none =>
          let r := s1.reach dst
          if !s1.releaseReady r then .next (s.stall .access)
          else match s1.me.act.deferred with
            | some tr => .next (s1.takeDeferred tr)
            | none =>
              let s2 := s1.killEpoch s1.me.act
              if r = .away then
                match s2.sendAway (s2.compose dst 0 (wordsOfBytes bs) none) false with
                | (true, s3) => .next (s3.stallSend { dst, words := 0 })
                | (false, _) => raiseOpen 0x0F s
              else
                let x := s2.me
                let (n, s3) := s2.nextSeqTo s2.cur dst
                let (v, s4) := if r = .chip then s3.releaseStamp (dieOf s3.cur) else ([], s3)
                let h : Header := { bytes := bs, src := sourceOf s2.cur, seq := n, pid := x.act.pid, vi := x.act.vi, wid := x.act.wid, stamp := v }
                .next (s4.modCluster (maCluster dst) fun c => { c with inbox := c.inbox ++ [h] }).retire

/-- TRIGGER (R149). -/
def execTrigger (s : State) : Out State :=
  noService .trigger s fun s =>
    let a := s.me.act
    if !s.settled s.cur then .next (s.stall .access)
    else
      let s1 := s.killEpoch a
      if a.triggered ∨ a.recruit ∨ (a.stage ≠ 0xFF ∧ 1 ≤ a.stage.toNat) then .next s1.retire
      else
        let s2 := s1.modMyAct fun a => { a with triggered := true }
        .next (if a.enumNo.isSome then s2.modLaunch a.launch fun l => { l with released := l.released + 1 } else s2).retire

/-! ## Channels (R135–R137) -/

/-- CHBIND (R136). A channel that is bound stays with its launch, with KEEP as the rule says, and without it too (log 84). A slot
that a grant reserves counts as occupied (log 97). -/
def execChbind (c : CIdx) (a b : GReg) (keep : Bool) (s : State) : Out State :=
  noService (.chbind c a b keep) s fun s =>
    let k := s.g b
    if s.readWaits (s.g a) 16 then .next (s.stall .access) else
    let digs := match s.myInst with | some i => i.digs | none => []
    match (if k.extractLsb' 32 32 = 0 then digs[k.toNat]? else none) with
    | none => raise 0x03 k s
    | some dig =>
      match s.readS (s.g a) 16 16 with
      | .error e => .next (s.takeFault e)
      | .ok (bs, s1) =>
        let prio := field bs 1 1
        let stage := field bs 2 1
        if 7 < prio ∨ (7 < stage ∧ stage ≠ 0xFF) ∨ field bs 3 1 ≠ 0 ∨ field bs 6 2 ≠ 0 ∨ field bs 12 4 ≠ 0 then
          raise 0x0E (s.g a) s1
        else
          let blk := blockOf s.cur
          let x := s1.me
          let c := s1.chanNo blk x.act.pid c
          let ch := (s1.block blk).chan c
          if !ch.ownedBy x.act.pid then raiseOpen 0x07 s1
          else if (0 < ch.slots.length + ch.reserved ∨ 0 < ch.running) ∧ !keep then raiseOpen 0x0E s1
          else
            match s1.lookupOrCreate (clusterOf s.cur) x.act.pid (x.mode == .monitor) dig with
            | (none, s2) => .next (s2.dirFull 6)
            | (some h, s2) =>
              let dl := field bs 4 2
              let n : Binding := {
                handle := h, prio := BitVec.ofNat 3 prio, stage := BitVec.ofNat 8 stage
                deadline := if dl = 0 then 0xFFFF else BitVec.ofNat 16 dl
                launch := match ch.bind with | some o => o.launch | none => x.act.launch
                pid := x.act.pid }
              .next (s2.modBlock blk fun b => b.modChan c fun h => { h with bind := some n }).retire

/-- CHINFO (R137). An unbound channel has no binding whose fields could be read (log 17). -/
def execChinfo (d : GReg) (c : CIdx) (s : State) : Out State :=
  noService (.chinfo d c) s fun s =>
    let ch := (s.block (blockOf s.cur)).chan (s.chanNo (blockOf s.cur) s.me.act.pid c)
    let w : Word :=
      if !ch.ownedBy s.me.act.pid then 0 else
      let counts : Word := BitVec.ofNat 64 (min 16 ch.slots.length * 2 ^ 15 + min 16 ch.running * 2 ^ 10)
      match ch.bind with
      | none => counts
      | some n => counts ||| BitVec.ofNat 64 (n.handle.toNat * 2 ^ 32 + 2 ^ 31 + n.prio.toNat * 2 ^ 28 + n.stage.toNat * 2 ^ 20)
    .next (s.writeRetire d w)

/-! ## Queue registers (R157) -/

def State.leaveQueue (s : State) (q : QIdx) : State := s.leaveLine (blockOf s.cur) q s.cur
/-- The running thread stalls on a queue register, at the end of its line. -/
def State.joinQueue (s : State) (q : QIdx) (pop : Bool) : State := (s.lineUp (blockOf s.cur) q s.cur).stall (.queue q pop)

/-- The queue and stream registers are no use of the service thread (R157). Their use follows the thread's earlier
acquires (R228). -/
def queueUser (s : State) (f : State → Out State) : Out State :=
  if !isAct s.cur then raiseOpen 0x0E s
  else if s.acqWaits then .next (s.stall .access) else f s

def State.myQueue (s : State) (q : QIdx) : Queue := (s.block (blockOf s.cur)).queue q

def execQpush (q : QIdx) (a : GReg) (s : State) : Out State :=
  queueUser s fun s =>
    if !s.settled s.cur then .next (s.stall .access)
    else if 1 ≤ (s.myQueue q).room ∧ s.myTurn q false then
      let x := s.g a
      .next ((s.leaveQueue q).modBlock (blockOf s.cur) fun b => b.modQueue q fun r => { r with items := r.items ++ [x] }).retire
    else .next (s.joinQueue q false)

def execQpop (d : GReg) (q : QIdx) (s : State) : Out State :=
  queueUser s fun s =>
    match (s.myQueue q).items with
    | w :: rest =>
      if s.myTurn q true then
        .next (((s.leaveQueue q).modBlock (blockOf s.cur) fun b => b.modQueue q fun r => { r with items := rest }).writeRetire d w)
      else .next (s.joinQueue q true)
    | [] => .next (s.joinQueue q true)

def execQpeek (d : GReg) (q : QIdx) (s : State) : Out State :=
  queueUser s fun s =>
    match (s.myQueue q).items with
    | w :: _ => .next ((s.leaveQueue q).writeRetire d w)
    | [] => .next (s.joinQueue q true)

def execQtry (d : GReg) (q : QIdx) (b : GReg) (s : State) : Out State :=
  queueUser s fun s =>
    match (s.myQueue q).items with
    | w :: rest =>
      let s1 := s.modBlock (blockOf s.cur) fun x => x.modQueue q fun r => { r with items := rest }
      .next ((s1.setG d w).writeRetire b 1)
    | [] => .next (s.writeRetire b 0)

/-- The oldest waiter that can go on is served (R157); a member of a pair issues its pair again. -/
def execQueueWaiterServed (blk : Nat) (q : QIdx) (s : State) : Out State :=
  let r := (s.block blk).queue q
  let pushes := (s.queueLine blk q false).head?.filter fun t => (s.th t).status == .stalled (.queue q false)
  let go : Nat → Out State := fun t =>
    if (s.th t).paired then .next (s.unstall t) else
    (s.unstall t).asThread t fun s =>
      match s.instrAt t with
      | some (.qpop d q) => execQpop d q s
      | some (.qpeek d q) => execQpeek d q s
      | some (.qpush q a) => execQpush q a s
      | _ => .next s
  match s.queueLine blk q true, pushes with
  | t :: _, us => if r.items ≠ [] then go t else match us with | some u => if 1 ≤ r.room then go u else .next s | none => .next s
  | [], some u => if 1 ≤ r.room then go u else .next s
  | [], none => .next s

/-! ## Stream registers (R158, R328) -/

def Act.stream (a : Act) (x : SIdx) : Option Stream := Map.get none a.streams x.toNat
def State.setStream (s : State) (t : Nat) (x : SIdx) (v : Option Stream) : State :=
  s.modAct t fun a => { a with streams := Map.set none a.streams x.toNat v }

/-- Takes the next element; the binding ends with the last one. -/
def State.takeElement (s : State) (x : SIdx) (st : Stream) (rest : List Word) : State :=
  s.setStream s.cur x (if rest = [] ∧ st.ended then none else some { st with buf := rest })

def execSpop (d : GReg) (x : SIdx) (s : State) : Out State :=
  queueUser s fun s =>
    match s.me.act.stream x with
    | none => raiseOpen 0x0E s
    | some st =>
      match st.buf with
      | w :: rest => .next ((s.takeElement x st rest).writeRetire d w)
      | [] => if st.ended then raiseOpen 0x0E (s.setStream s.cur x none) else .next (s.stall (.stream x))

def execStry (d : GReg) (x : SIdx) (b : GReg) (s : State) : Out State :=
  queueUser s fun s =>
    match s.me.act.stream x with
    | none => .next (s.writeRetire b 2)
    | some st =>
      match st.buf with
      | w :: rest => .next (((s.takeElement x st rest).setG d w).writeRetire b 1)
      | [] => if st.ended then .next ((s.setStream s.cur x none).writeRetire b 2) else .next (s.writeRetire b 0)

/-! ## Join cells (R153–R156) -/

def Cluster.join (c : Cluster) (j : JIdx) : JoinCell := Map.get {} c.joins j.toNat
def Cluster.modJoin (c : Cluster) (j : JIdx) (f : JoinCell → JoinCell) : Cluster :=
  { c with joins := Map.put c.joins j.toNat (f (c.join j)) }
def State.myCell (s : State) (j : JIdx) : JoinCell := (s.cluster (clusterOf s.cur)).join j
def State.modMyCell (s : State) (j : JIdx) (f : JoinCell → JoinCell) : State :=
  s.modCluster (clusterOf s.cur) fun c => c.modJoin j f
/-- The cell belongs to another context. -/
def JoinCell.foreign (c : JoinCell) (pid : BitVec 16) : Bool := c.mode.isSome && c.pid != pid

/-- JINIT (R154). A continuation that the cell still owes stays owed (log 100). -/
def execJinit (a : GReg) (j : JIdx) (count : Bool) (s : State) : Out State :=
  noService (.jinit a j count) s fun s =>
    let w := s.g a
    let pid := s.me.act.pid
    if (s.myCell j).foreign pid then raiseOpen 0x07 s
    else if (s.myCell j).count ≠ 0 ∨ (count ∧ w.extractLsb' 32 32 ≠ 0) then raiseOpen 0x12 s
    else
      let owed := (s.myCell j).owed
      let c : JoinCell := if count then { mode := some true, count := w.setWidth 32, pid, owed } else { mode := some false, cont := w, pid, owed }
      .next (s.modMyCell j fun _ => c).retire

/-- The bounds of participant i of P for C chunks of G items of T (R155). -/
def chunkLo (c p g i : Nat) : Nat := i * c / p * g
def chunkHi (c p g t i : Nat) : Nat := min t ((i + 1) * c / p * g)

/-- The g registers a participant starts with. -/
def forkRegs (regs : List Word) (lo hi i : Nat) : Map Word :=
  let g := regs.zipIdx.foldl (fun g e => Map.set 0 g (e.2 + 1) e.1) ([] : Map Word)
  Map.set 0 (Map.set 0 (Map.set 0 g 12 (BitVec.ofNat 64 lo)) 13 (BitVec.ofNat 64 hi)) 14 (BitVec.ofNat 64 i)

/-- Starts participant i of the running thread's fork on thread u. The forker's deadline that it takes is the channel's
default, as at dispatch, in full (log 85). -/
def State.recruit (s : State) (u i : Nat) (g : Map Word) (pc : Word) : State :=
  let a := s.me.act
  let n : Act := { s.freshAct u a.pid a.launch a.deadline with
    member := i :: a.count :: a.member, g, pc, reply := a.reply, wid := a.wid, prio := a.prio, chan := a.chan, home := a.home, stage := a.stage, recruit := true, src := a.src }
  ((s.modLaunch a.launch fun l => { l with running := l.running + 1 }).startAct u n |>.journalMsg (blockOf u) u n none).traceDispatch u false

/-- FORK (R155). Of the idle threads it recruits those of the lowest numbers (log 100). -/
def execFork (a b : GReg) (j : JIdx) (off : BitVec 48) (s : State) : Out State :=
  noService (.fork a b j off) s fun s =>
    let t := (s.g a).toNat
    let g := (s.g b).toNat
    let x := s.me
    let cell := s.myCell j
    let body := s.slotAt off
    if cell.foreign x.act.pid then raiseOpen 0x07 s
    else if g = 0 ∨ cell.mode ≠ some false ∨ cell.count ≠ 0 then raiseOpen 0x12 s
    else if !s.targetOk body then raise 0x03 (targetAddr (handleOf x.act.pc) body) s
    else
      let c := (t + g - 1) / g
      let idle := (s.idleOf (s.blocksIn (clusterOf s.cur) x.act.launch)).take c
      let p := max idle.length 1
      let regs := (upTo 11).map s.g
      let s1 := s.modMyCell j fun k => { k with
        count := BitVec.ofNat 32 p, wid := x.act.wid, prio := x.act.prio, deadline := x.act.deadline
        chan := x.act.chan, stage := x.act.stage, launch := x.act.launch
        blocks := s.blocksIn (clusterOf s.cur) x.act.launch, member := x.act.count :: x.act.member }
      if idle = [] then
        let s2 := s1.modMe fun x =>
          let gs := forkRegs regs (chunkLo c p g 0) (chunkHi c p g t 0) 0
          let x1 : Thread := if x.mode = .monitor then { x with mg := gs, mgErr := 0, mgBad := 0 } else { x with act := { x.act with g := gs, gErr := 0, gBad := 0 } }
          { x1 with act := { x1.act with v := [], vErr := 0, vBad := 0 } }
        .next (s2.jumpTo body.toNat)
      else
        let pc := codeAddr (handleOf x.act.pc) body.toNat
        let s2 := idle.zipIdx.foldl (fun s e => s.recruit e.1 e.2 (forkRegs regs (chunkLo c p g e.2) (chunkHi c p g t e.2) e.2) pc) s1
        .next (s2.modMyAct fun a => { a with count := a.count + 1 }).retire

/-- The continuation's transfer (R37, R156): a missing instance is resolved first. -/
def State.continueAt (s : State) (w : Word) (done : State → State) : Out State :=
  let x := s.me
  let cl := clusterOf s.cur
  match (if addrOk w then s.entry? cl x.act.pid (x.mode == .monitor) (handleOf w) else none) with
  | none => raise 0x03 w s
  | some e =>
    match e.inst with
    | none => .next (s.miss s.cur (handleOf w) 5)
    | some i =>
      if !i.tgt (linearOf w) then raise 0x03 w s
      else .next ((done s).modMe fun x =>
        ((x.setLoops (popTo (handleOf w) (linearOf w) x.loops)).setPc w).count s.cur)

/-- JOIN (R156). On a cell that no JINIT has armed it raises 0x12 (log 98). -/
def execJoin (j : JIdx) (s : State) : Out State :=
  noService (.join j) s fun s =>
    let cell := s.myCell j
    if cell.foreign s.me.act.pid then raiseOpen 0x07 s
    else match cell.mode with
      | some true => if cell.count = 0 then .next s.retire else .next (s.stall (.join j))
      | some false =>
        if cell.count = 0 then raiseOpen 0x12 s
        else if !s.settled s.cur then .next (s.stall .access)
        else if cell.count = 1 then s.continueAt cell.cont fun s => s.modMyCell j fun c => { c with count := 0 }
        else
          match s.endNow with
          | .next s1 =>
            if (s1.th s.cur).status = .idle then .next (s1.modMyCell j fun c => { c with count := c.count - 1 }) else .next s1
          | o => o
      | none => raiseOpen 0x12 s

/-! ## Deliveries (R130–R133, R142) -/

/-- Message i of the flight may be delivered now: its stamp has been applied, and no older message of its
source to its destination is still on its way. -/
def State.deliverable (s : State) (i : Nat) : Option Msg :=
  match s.flight[i]? with
  | none => none
  | some m => if m.applied && (s.flight.take i).all fun o => !(o.src == m.src && o.dest == m.dest) then some m else none

def State.dropFlight (s : State) (i : Nat) : State := { s with flight := s.flight.eraseIdx i }

/-- A launch leaves the journal; its final report is kept with its id (R404). -/
def State.retireLaunch (s : State) (id : Word) (words : List Word) : State :=
  match s.launch? id with
  | none => s
  | some l => { s with sys := { s.sys with
      launches := s.sys.launches.filter fun k => k.id != id
      retired := ((id, l.reply, words) :: s.sys.retired).take 65536 } }

/-- A launch report has been answered status 0: the final one retires the launch (R404). -/
def State.reportDone (s : State) (m : Msg) : State :=
  match m.origin with
  | .report id true _ => s.retireLaunch id m.payload
  | _ => s
/-- A try to deliver a launch report has failed: it waits to be resent while the launch lives, up to 1,000
times; then it is abandoned (R132). -/
def State.reportFailed (s : State) (m : Msg) : State :=
  match m.origin with
  | .report id final n =>
    if n < 1000 then s.modLaunch id fun l => { l with unsent := l.unsent ++ [{ m with origin := .report id final (n + 1) }] }
    else if final then s.retireLaunch id m.payload else s
  | _ => s
/-- Sends a launch report to another rank. -/
def State.reportAway (s : State) (m : Msg) : State :=
  match ({ s with cur := inboxSender (maCluster m.src) }).sendAway m false with
  | (true, s1) => { s1 with cur := s.cur }
  | (false, _) => s.reportFailed m

def State.enchannel (s : State) (blk : Nat) (c : CIdx) (m : Msg) (granted : Bool) : State :=
  s.modBlock blk fun b => b.modChan c fun h =>
    let h := if granted then { h with reserved := h.reserved - 1 } else h
    if h.bind.isNone then h
    else { h with slots := h.slots ++ [m], since := if h.slots = [] then s.cycle else h.since }

def execChannelDelivery (i : Nat) (s : State) : Out State :=
  match s.deliverable i with
  | some m =>
    let c := s.chanOf m.pid m.dest
    if maKind m.dest ≠ 2 then .next s
    else if m.ungranted then
      if !s.maHere m.pid m.dest then .next ((s.dropFlight i).reportAway m) else
      match s.answerHere m.pid m.dest 0 with
      | .grant => .next (((s.dropFlight i).enchannel (maBlock m.dest) c m false).reportDone m)
      | .full => .next s
      | _ => .next ((s.dropFlight i).reportFailed m)
    else .next (((s.dropFlight i).enchannel (maBlock m.dest) c m true).jobDone m
      (if ((s.block (maBlock m.dest)).chan c).bind.isNone then 0x0F else 0))
  | none => .next s

def execQueueDelivery (i : Nat) (s : State) : Out State :=
  match s.deliverable i with
  | some m =>
    if maKind m.dest ≠ 1 then .next s else
    let words := if m.payload = [] then [0] else m.payload
    let put : Bool → State := fun granted =>
      ((s.dropFlight i).acquireStamp (maDie m.dest) m.stamp).modBlock (maBlock m.dest) fun b => b.modQueue (maQueue m.dest) fun q =>
        { q with items := q.items ++ words, reserved := if granted then q.reserved - words.length else q.reserved }
    let p := inboxSender (maCluster m.src)
    if m.ungranted then
      match s.answerTo p m.pid m.dest m.payload.length with
      | .grant => .next (((put false).doneAt p m.dest).reportDone m)
      | .full => .next (s.waitAt p m.dest)
      | _ => .next ((s.dropFlight i).reportFailed m)
    else .next ((put true).jobDone m 0)
  | none => .next s

/-- A decrement of a join cell by a completion; the last one of a FORK cell owes a continuation (R131, R156). -/
def State.joinEvent (s : State) (cl : Nat) (j : JIdx) (pid : BitVec 16) (src : Word) : State :=
  let c := (s.cluster cl).join j
  if c.mode.isNone ∨ c.pid ≠ pid ∨ c.count = 0 then s.logRec src 0x12 0x01 (j.setWidth 64)
  else
    let last := c.count == 1 && c.mode == some false
    let o : Owed := { cont := c.cont, pid := c.pid, wid := c.wid, prio := c.prio, deadline := c.deadline, chan := c.chan
                      stage := c.stage, launch := c.launch, blocks := c.blocks, src, member := c.member }
    let s1 := s.modCluster cl fun k => k.modJoin j fun c => { c with count := c.count - 1, owed := if last then c.owed ++ [o] else c.owed }
    if last then s1.modLaunch c.launch fun l => { l with running := l.running + 1 } else s1

def execJoinCellDelivery (i : Nat) (s : State) : Out State :=
  match s.deliverable i with
  | some m =>
    if maKind m.dest ≠ 3 then .next s
    else .next (((((s.dropFlight i).acquireStamp (maDie m.dest) m.stamp)).joinEvent (maCluster m.dest) (maJoin m.dest) m.pid m.src).reportDone m |>.jobDone m 0)
  | none => .next s

/-- The cell starts the continuation on an idle thread (R156). -/
def execJoinContinuationRecruit (cl : Nat) (j : JIdx) (s : State) : Out State :=
  match ((s.cluster cl).join j).owed with
  | [] => .next s
  | o :: rest =>
    match s.idleOf o.blocks with
    | [] => .next s
    | t :: _ =>
      let a : Act := { s.freshAct t o.pid o.launch o.deadline with
        member := o.member, g := Map.set 0 (Map.set 0 [] 10 o.wid) 11 o.src
        pc := o.cont, enter := 5, wid := o.wid, prio := o.prio, chan := o.chan, stage := o.stage, recruit := true, src := o.src }
      let s1 := s.modCluster cl fun k => k.modJoin j fun c => { c with owed := rest }
      .next (((s1.startAct t a).journalMsg (blockOf t) t a none).traceDispatch t false)

/-- What becomes of a failed KIND 4 delivery (R132). -/
def State.feFailed (s : State) (m : Msg) (cause : Byte) : State :=
  match m.origin with
  | .thread t => s.recordError t cause 3 (if maDevice m.dest then 7 else 0)
      (if maDevice m.dest then (m.dest.extractLsb' 0 40).setWidth 64 else (m.dest.extractLsb' 0 18).setWidth 64)
  | .report l _ _ => s.logRec m.src (if cause = 6 then 0x0B else 0x0A) 0x02 l
  | _ => s

/-- An SF store of a message's first word at an FE word (R130, R132). none: a routine holds the granule. It is no access
of the sender's: no journal undoes it, since the send is not delivered twice (R165). A delivery to S cannot fail: a
poisoned word there is written, and stays poisoned (R132, R183, log 86). -/
def State.feStore (s : State) (m : Msg) : Option (Byte × State) :=
  let w := m.payload.headD 0
  let dev := maDevice m.dest
  let lva := (m.dest.extractLsb' 0 40).toNat
  let e : Elem := { ea := if dev then BitVec.ofNat 64 lva else (m.dest.extractLsb' 0 18).setWidth 64, size := 8, data := w.setWidth 1024
                    pa := bufBase (maBlock m.dest) 0 + (m.dest.toNat % 2 ^ 18)
                    key := ((s.block (maBlock m.dest)).stampFor 0).getD 0 }
  let r : Req := { seq := 2 ^ 64 + m.seq.toNat, what := .store, sp := if dev then .d else .s, sync := .sf, pid := m.pid, src := m.src, elems := [e] }
  let t := match m.origin with | .thread t => t | _ => nobody
  match s.locate t r e with
  | (none, s1) => some (1, s1)
  | (some (pa, key, pte), s1) =>
    let c := tnakCause pte .store .sf
    if c ≠ 0 then some (c, s1)
    else
      let lost := !dev && s1.mem.bad (pa / 8)
      let s2 := if lost then s1.modMem fun m => m.setBad (pa / 8) false else s1
      match s2.performNow nobody r e pa key with
      | .done _ _ s3 => some (0, (if lost then s3.modMem fun m => m.setBad (pa / 8) true else s3).retestAll [ownerAt pa])
      | .err c s3 => some (c, s3)
      | _ => none

def execFeWordDelivery (i : Nat) (s : State) : Out State :=
  match s.deliverable i with
  | some m =>
    if maKind m.dest ≠ 4 then .next s else
    match s.feStore m with
    | none => .next s
    | some (c, s1) =>
      let s2 := s1.dropFlight i
      .next (if c = 0 then (s2.reportDone m).jobDone m 0
        else ((s2.feFailed m c).reportFailed m).jobDone m (if c = 6 then 0x0B else 0x0A))
  | none => .next s

/-- A stalled send has an answer other than full: it is granted and delivers, or it is refused (R141). A member of a pair
issues its pair again. -/
def execSendGrant (t : Nat) (s : State) : Out State :=
  let x := s.th t
  match x.sendDst with
  | none => .next s
  | some w =>
    if x.status ≠ .stalled .send ∨ x.sendAns.isSome ∨ s.fab.unacked.any (fun u => u.thread == t && u.msg.isSome) ∨
        !s.maHere x.act.pid w.dst ∨ s.answerTo t x.act.pid w.dst w.words = .full then .next s
    else if x.paired then .next (s.unstall t)
    else match s.instrAt t with
      | some (.send a b c n ord) => (s.unstall t).asThread t (execSend a b c n ord)
      | some (.sendv a b c ord) => (s.unstall t).asThread t (execSendv a b c ord)
      | some (.reply b n ord) => (s.unstall t).asThread t (execReply b n ord)
      | _ => .next (s.unstall t)

/-- A stamped message's dependencies have been applied at its home (R237). -/
def execStampedWriteApply (i : Nat) (s : State) : Out State :=
  match s.flight[i]? with
  | some m =>
    if !m.applied ∧ s.stampOk (s.maHome 0 m.pid m.dest) m.stamp then
      .next { s with flight := s.flight.set i { m with applied := true } }
    else .next s
  | none => .next s

/-- A stalled sender is displaced (R152): 256 cycles, no free core, a dispatchable message of a higher stage, whichever launch
it is of (log 96), a free record; its accesses are answered first (log 20). -/
def execSendDisplacement (t : Nat) (s : State) : Out State :=
  let x := s.th t
  let blk := blockOf t
  let b := s.block blk
  match x.sendDst with
  | none => .next s
  | some sw =>
    let w := sw.dst
    let target := (s.block (maBlock w)).chan (s.chanOf x.act.pid w)
    let above : Option Binding → Bool := fun o => match o with
      | some n => n.stage != 0xFF && x.act.stage != 0xFF && decide (x.act.stage.toNat < n.stage.toNat)
      | none => false
    if x.status = .stalled .send ∧ x.mode = .context ∧ 256 ≤ x.sendWait ∧ x.sendAns.isNone ∧ !sw.nb ∧ maKind w = 2 ∧ s.maHere x.act.pid w ∧
        target.full ∧ above target.bind ∧ (s.freeCore blk).isNone ∧ b.sendRecords < 128 ∧ s.quietAt t ∧ x.eqops = [] ∧
        (List.any b.chans fun e : Nat × Channel => s.dispatchable blk e.2 && above e.2.bind) then
      .next (s.displace t x.act (some w))
    else .next s

/-- A host's message arrives through its VI (R26, R128, R134): a launch header for an inbox, or a message that
is granted room. A refused or full answer changes nothing here. -/
def State.hostMessage (s : State) (vi : BitVec 6) (pid : BitVec 16) (seq : BitVec 24) (dest reply : Word) (payload : List Word) : State :=
  let src : Word := BitVec.ofNat 64 (3 * 2 ^ 22 + vi.toNat * 2 ^ 16)
  if s.sys.stage ≠ 8 ∨ (s.ctx? pid).isNone ∨ s.viOf pid ≠ vi ∨ malformed dest ∨ !maLocal dest then s
  else if maKind dest = 6 then
    let h : Header := { bytes := padTo 128 (payload.flatMap fun w => leBytes 8 w.toNat), src, seq, pid, vi }
    s.modCluster (maCluster dest) fun c => { c with inbox := c.inbox ++ [h] }
  else if s.answerTo nobody pid dest payload.length = .grant then
    (s.reserveHere pid dest payload.length).push { dest, reply, payload := payload.take 8, src, seq, pid, origin := .host vi }
  else s

end Sys2Proof.Machine
end

