-- ==== Sys2Proof/Machine/Sync.lean ====
section
/-! DEFINITION. FENCE and barrier cells (R218–R225), and the events that perform and answer accesses: answers,
service operations, refusals with tickets and their calls, time-outs, the arrival of packets (R165, R176, R178, R200,
R212–R217, R237, R363, R368). -/

namespace Sys2Proof.Machine

/-! ## FENCE (R218) -/

/-- Messages of thread t that a FENCE waits for: those not delivered, but for those that are stamped and handed to another
die, which at DIE and CHIP scope count as performed (R226). -/
def State.sending (s : State) (t : Nat) (sc : Scope) : Bool :=
  !(if sc = .die ∨ sc = .chip then s.deliveredHere t else s.delivered t)

def execFence (sc : Scope) (s : State) : Out State :=
  noService (.fence sc) s fun s =>
    if !s.quietAt s.cur ∨ s.sending s.cur sc then .next (s.stall .access)
    else match s.me.act.deferred with
      | some tr => .next (s.takeDeferred tr)
      | none => .next s.retire

/-! ## Barrier cells (R219–R225) -/

def Cluster.bar (c : Cluster) (b : BIdx) : BarCell := Map.get {} c.bars b.toNat
def State.bar (s : State) (b : BIdx) : BarCell := (s.cluster (clusterOf s.cur)).bar b
def State.modBar (s : State) (cl : Nat) (b : BIdx) (f : BarCell → BarCell) : State :=
  s.modCluster cl fun c => { c with bars := Map.put c.bars b.toNat (f (c.bar b)) }
/-- The running thread's record for a cell, and the copy of PHASE in its block (R220). -/
def State.record (s : State) (b : BIdx) : Arrival := Map.get .none s.me.act.arrivals b.toNat
def State.setRecord (s : State) (t : Nat) (b : BIdx) (r : Arrival) : State :=
  s.modAct t fun a => { a with arrivals := Map.set .none a.arrivals b.toNat r }
def State.phaseCopy (s : State) (b : BIdx) : BitVec 32 := Map.get 0 (s.block (blockOf s.cur)).phases b.toNat

def BarEvent.thread : BarEvent → Nat | .init t _ | .arrive t _ | .drop t _ => t | .ofEnded e _ => e.thread
/-- The event itself, whoever waits for it. -/
def BarEvent.inner : BarEvent → BarEvent | .ofEnded e _ => e.inner | e => e
/-- The party whose event cell b takes. -/
def State.partyFor (s : State) (b : BIdx) : BarEvent → Party | .ofEnded _ p => p | e => s.partyOf e.thread b.toNat

/-- What stands for a cell as the address of a barrier event, where the answers that replays repeat are kept. -/
def cellKey (b : BIdx) : Word := 0xE000000000000000 ||| b.setWidth 64
/-- An answer of a cell as a number: a fault's code, and the record that the thread gets. -/
def answerNo (code : Byte) (r : Option Arrival) : Nat :=
  code.toNat + 256 * match r with | some (.arrived p) => 1 + 4 * p.toNat | some .dropped => 2 | some .none | none => 0
/-- A repeated event of a replayed member: the answer it had (R165, R168). -/
def State.barRepeat (s : State) (b : BIdx) : Option Nat :=
  match s.epochOf s.cur with
  | none => none
  | some (_, p) => (p.answer? s.me.act.member s.me.act.count (cellKey b)).map (·.1)
/-- One more request of the running member has been made: an event to a cell. -/
def State.madeRequest (s : State) : State := s.modMyAct fun a => { a with count := a.count + 1 }
/-- The record that an answer gives. -/
def State.takeAnswer (s : State) (b : BIdx) (n : Nat) : State :=
  let s1 := s.madeRequest
  if n / 256 % 4 = 1 then s1.modMyAct fun a => { a with arrivals := Map.set .none a.arrivals b.toNat (.arrived (BitVec.ofNat 32 (n / 1024))) }
  else if n / 256 % 4 = 2 then s1.modMyAct fun a => { a with arrivals := Map.set .none a.arrivals b.toNat .dropped }
  else s1

/-- Sends an event to the cell once, and stalls until the cell has answered; then fin goes on with the
answer, 0 or a fault's code. -/
def State.barrier (s : State) (b : BIdx) (ev : BarEvent) (fin : State → Out State) : Out State :=
  let c := s.bar b
  match c.answers.find? fun a => a.1 == s.cur with
  | some a =>
    let done := (s.modBar (clusterOf s.cur) b fun c => { c with answers := c.answers.filter fun a => a.1 != s.cur }).madeRequest
    if a.2 = 0 then fin done else raiseOpen a.2 done
  | none =>
    if c.events.any (·.of s.cur) then .next (s.stall (.barrier b))
    else match s.barRepeat b with
      | some n =>
        let s1 := s.takeAnswer b n
        if n % 256 = 0 then fin s1 else raiseOpen (BitVec.ofNat 8 n) s1
      | none => .next ((s.modBar (clusterOf s.cur) b fun c => { c with events := c.events ++ [ev] }).stall (.barrier b))

def execBinit (b : BIdx) (a : GReg) (s : State) : Out State :=
  noService (.binit b a) s fun s => s.barrier b (.init s.cur (s.g a)) fun s => .next s.retire

/-- The cell has taken the running thread's event, or has it. -/
def State.barSent (s : State) (b : BIdx) : Bool :=
  let c := s.bar b
  (c.answers.any fun a => a.1 == s.cur) || c.events.any (·.of s.cur)

/-- The release of an arrival, and then its event. The cell answers misuse too (R220). -/
def State.arrive (s : State) (b : BIdx) (chk : Bool) (fin : State → Out State) : Out State :=
  if s.barSent b then s.barrier b (.arrive s.cur chk) fin
  else if !s.settled s.cur then .next (s.stall .access)
  else s.barrier b (.arrive s.cur chk) fin

def execBarr (b : BIdx) (sc : Scope) (chk : Bool) (s : State) : Out State :=
  noService (.barr b sc chk) s fun s => s.arrive b chk fun s => .next s.retire

/-- BWAIT's condition and effect, once the thread has a record (R222). -/
def State.awaitPhase (s : State) (b : BIdx) (p : BitVec 32) (back : State) : Out State :=
  if s.phaseCopy b = p then .next (back.stall (.barrier b)) else .next (s.setRecord s.cur b .none).retire

/-- BSYNC: as BARR, then as BWAIT. While it waits for the phase the cell keeps its answer. -/
def execBsync (b : BIdx) (sc : Scope) (chk : Bool) (s : State) : Out State :=
  noService (.bsync b sc chk) s fun s => s.arrive b chk fun s1 =>
    match s1.record b with
    | .arrived p => s1.awaitPhase b p s
    | _ => .next s1.retire

def execBwait (b : BIdx) (s : State) : Out State :=
  noService (.bwait b) s fun s =>
    match s.record b with
    | .arrived p => s.awaitPhase b p s
    | _ => raiseOpen 0x12 s

def execBdrop (b : BIdx) (s : State) : Out State :=
  noService (.bdrop b) s fun s =>
    let counted := match s.record b with | .arrived p => p == s.phaseCopy b | _ => false
    if s.barSent b then s.barrier b (.drop s.cur counted) fun s => .next s.retire
    else if !s.settled s.cur then .next (s.stall .access)
    else s.barrier b (.drop s.cur counted) fun s => .next s.retire

/-- Answers an event: its thread gets the record when it still waits. -/
def State.barAnswer (s : State) (cl : Nat) (b : BIdx) (t : Nat) (code : Byte) (rec' : Option Arrival) : State :=
  if (s.th t).status ≠ .stalled (.barrier b) then s
  else
    let s0 := match s.epochOf t with
      | none => s
      | some (team, _) => s.modBlock (blockOf t) fun k => k.modEpoch team fun p =>
          p.keep (s.th t).act.member (s.th t).act.count (cellKey b) (answerNo code rec') 0
    let s1 := s0.modBar cl b fun c => { c with answers := c.answers ++ [(t, code)] }
    match rec' with
    | some r => s1.setRecord t b r
    | none => s1

/-- Answers an event, unless its activation has ended since. -/
def State.barReply (s : State) (cl : Nat) (b : BIdx) (e : BarEvent) (code : Byte) (rec' : Option Arrival) : State :=
  match e with
  | .ofEnded _ _ => s
  | e => s.barAnswer cl b e.thread code rec'

def BarCell.foreign (c : BarCell) (pid : BitVec 16) : Bool := match c.owner with | some o => o.1 != pid | none => false

/-- One BINIT with its operand (R221). -/
def State.barInit (s : State) (cl : Nat) (b : BIdx) (e : BarEvent) (w : Word) : State :=
  let c := (s.cluster cl).bar b
  let p := s.partyFor b e
  let k := w.toNat % 256
  if c.foreign p.pid then s.barReply cl b e 0x07 none
  else if w.toNat / 256 ≠ 0 ∨ k = 0 ∨ 128 < k ∨ 0 < c.arrived then s.barReply cl b e 0x12 none
  else (s.modBar cl b fun c => { c with
    owner := some (p.pid, p.launch), expect := k, nextExp := k, arrived := 0, chkp := none, parties := [] }).barReply cl b e 0 none

/-- The misuse that an arrival or a drop shows by its thread's own record: dropped before, or arrived in the current
phase already (R222). -/
def State.badRecord (s : State) (cl : Nat) (b : BIdx) (e : BarEvent) : Bool :=
  match (s.partyFor b e).record, e.inner with
  | .dropped, _ => true
  | .arrived p, .arrive _ _ => p == ((s.cluster cl).bar b).phase
  | _, _ => false

/-- Insertion in ascending order of source value, which is that of the threads' numbers. -/
def insertEvent (e : BarEvent) : List BarEvent → List BarEvent
  | [] => [e]
  | x :: xs => if e.thread ≤ x.thread then e :: x :: xs else x :: insertEvent e xs

/-- The progress of a batch: arr, drops, and the state with its answers. -/
structure Batch where
  arr : Nat := 0
  drops : Nat := 0

/-- One ARRIVE or DROP of a batch (R223). -/
def State.barTake (s : State) (cl : Nat) (b : BIdx) (u : Batch) (e : BarEvent) : Batch × State :=
  let c := (s.cluster cl).bar b
  let full : Bool := c.arrived + u.arr == c.expect
  let team := (s.partyFor b e).team
  match e.inner with
  | .init _ _ | .ofEnded _ _ => (u, s)
  | .arrive _ chk =>
    if full || c.chkp == some !chk then (u, s.barReply cl b e 0x12 none)
    else ({ u with arr := u.arr + 1 },
      (s.modBar cl b fun c => { c with chkp := some (c.chkp.getD chk), parties := c.parties ++ [team] }).barReply cl b e 0 (some (.arrived c.phase)))
  | .drop _ counted =>
    if !counted && full then (u, s.barReply cl b e 0x12 none)
    else
      let s1 := if counted then s else s.modBar cl b fun c => { c with parties := c.parties ++ [team] }
      ({ arr := if counted then u.arr else u.arr + 1, drops := u.drops + 1 }, s1.barReply cl b e 0 (some .dropped))

def State.barTakes (s : State) (cl : Nat) (b : BIdx) (u : Batch) : List BarEvent → Batch × State
  | [] => (u, s)
  | e :: es => let r := s.barTake cl b u e; r.2.barTakes cl b r.1 es

def BarEvent.isDrop (e : BarEvent) : Bool := match e.inner with | .drop _ _ => true | _ => false
/-- Keeps the first n DROP events and all others; the other DROP events. -/
def splitDrops : Nat → List BarEvent → List BarEvent × List BarEvent
  | _, [] => ([], [])
  | n, e :: es =>
    if !e.isDrop then let r := splitDrops n es; (e :: r.1, r.2)
    else match n with
      | 0 => let r := splitDrops 0 es; (r.1, e :: r.2)
      | m + 1 => let r := splitDrops m es; (e :: r.1, r.2)

/-- What an epoch's opening records of a member: one that waits in BSYNC has completed it (log 21). -/
def State.captureAct (s : State) (t : Nat) (b : BIdx) : Act :=
  let x := s.th t
  if x.status = .stalled (.barrier b) ∧ !x.paired ∧ ((s.cluster (clusterOf t)).bar b).answers.contains (t, 0) then
    match s.instrAt t with
    | some (.bsync _ _ _) => (((({ s with cur := t }).setRecord t b .none).madeRequest).retire.th t).act
    | some (.barr _ _ _) | some (.bdrop _) => (({ s with cur := t }).madeRequest.retire.th t).act
    | _ => x.act
  else x.act

/-- A new epoch for a team in every block that holds a member, on a core or displaced (R163, R225). -/
def State.openEpoch (s : State) (team : Word × Word) (b : BIdx) : State :=
  let members := s.actives.filter fun e => s.teamOf e.2.act == some team
  let same : Displaced → Bool := fun d => s.teamOf d.act == some team
  { s with blocks := List.map (fun e : Nat × Block =>
      let mine := members.filter fun m => blockOf m.1 == e.1
      let others := e.2.epochs.filter fun p => !(p.launch == team.1 && p.team == team.2)
      let new : List Epoch := if mine = [] ∧ !e.2.displaced.any same then [] else
        [{ launch := team.1, team := team.2
           joins := List.filter (fun j : Nat × JoinCell => s.teamOf { launch := j.2.launch, wid := j.2.wid } == some team ||
             j.2.owed.any fun o => s.teamOf { launch := o.launch, wid := o.wid } == some team) (s.cluster (e.1 / 8)).joins
           rested := e.2.displaced.filter same
           saved := mine.map fun m => (m.1, s.captureAct m.1 b) }]
      (e.1, { e.2 with epochs := others ++ new })) s.blocks }

/-- Writes the members' states as the epoch records them into the save areas, one record for each core (R163, R400). -/
def State.saveEpoch (s : State) (team : Word × Word) : State :=
  let all : List (Nat × Nat × Act) := List.flatMap (fun e : Nat × Block => match e.2.epoch team with
    | some p => p.saved.map fun m => (e.1, 192 + m.1 % 16, m.2)
    | none => []) s.blocks
  all.foldl (fun s e => s.saveRecord e.1 e.2.1 e.2.2) s

/-- The team whose epoch a checkpoint phase opens, if the phase covers a whole team (R225). -/
def State.phaseTeam (s : State) (c : BarCell) : Option (Word × Word) :=
  if c.chkp ≠ some true then none else
  match c.parties with
  | some team :: _ =>
    let live := (s.actives.filter fun e => s.teamOf e.2.act == some team).length +
      (List.map (fun e : Nat × Block => (e.2.displaced.filter fun d => s.teamOf d.act == some team).length) s.blocks).sum
    if c.parties.all (· == some team) ∧ c.parties.length = live then some team else none
  | _ => none

/-- The phase completes: the epoch opens, the blocks' copies change, the cell goes on or becomes idle. -/
def State.barComplete (s : State) (cl : Nat) (b : BIdx) : State :=
  let c := (s.cluster cl).bar b
  let s1 := match s.phaseTeam c with | some team => (s.openEpoch team b).saveEpoch team | none => s
  let s2 := s1.modBar cl b fun c => { c with
    phase := c.phase + 1, arrived := 0, expect := c.nextExp, chkp := none, parties := []
    owner := if c.nextExp = 0 then none else c.owner }
  (List.range 8).foldl (fun s i => s.modBlock (8 * cl + i) fun k => { k with phases := Map.set 0 k.phases b.toNat (c.phase + 1) }) s2

def execBarrierBatch (cl : Nat) (b : BIdx) (s : State) : Out State :=
  let evs := ((s.cluster cl).bar b).events.foldl (fun l e => insertEvent e l) []
  let s1 := s.modBar cl b fun c => { c with events := [] }
  let s2 := evs.foldl (fun s e => match e.inner with | .init _ w => s.barInit cl b e w | _ => s) s1
  let c := (s2.cluster cl).bar b
  let arrivals := evs.filter fun e => match e.inner with | .init _ _ => false | _ => true
  let foreign : BarEvent → Bool := fun e => c.foreign (s2.partyFor b e).pid
  let own := arrivals.filter fun e => !foreign e
  let ok := own.filter fun e => !s2.badRecord cl b e
  let s3 := (own.filter fun e => s2.badRecord cl b e).foldl (fun s e => s.barReply cl b e 0x12 none)
    ((arrivals.filter foreign).foldl (fun s e => s.barReply cl b e 0x07 none) s2)
  let sp := splitDrops c.nextExp ok
  let s4 := sp.2.foldl (fun s e => s.barReply cl b e 0x12 none) s3
  let r := s4.barTakes cl b {} sp.1
  let s5 := r.2.modBar cl b fun c => { c with arrived := c.arrived + r.1.arr, nextExp := c.nextExp - r.1.drops }
  let d := (s5.cluster cl).bar b
  .next (if d.arrived = d.expect ∧ 0 < d.arrived then s5.barComplete cl b else s5)

/-! ## Performing and answering accesses -/

/-- The next element of an atomic lies on this chip: its owner performs it (R200). -/
def State.nextIsServed (s : State) (t : Nat) (r : Req) : Bool :=
  r.what.isAtom && match r.elems.find? fun e => !e.done with
    | some e => r.sp != .d || decide (65536 ≤ t) || s.onChip r.pid e.ea
    | none => false

/-- The owner of an element's word, as far as it is mapped. -/
def State.ownerOfElem (s : State) (t : Nat) (r : Req) (e : Elem) : Option Nat :=
  if r.sp = .d then (s.leaf? t r.pid (dLva e.ea)).map fun l => ownerAt (leafAddr l (dLva e.ea)) else some (ownerAt e.pa)

/-- The owners that elements of a request have not reached yet, as far as they are mapped. -/
def State.ownersOf (s : State) (t : Nat) (r : Req) : List Nat :=
  (r.elems.filter fun e => !e.done && (match e.hold with | .free | .called _ _ => true | _ => false)).filterMap (s.ownerOfElem t r)

/-- An earlier atomic of the thread has not yet reached an owner that this one goes to (R200). -/
def State.overtakes (s : State) (t : Nat) (r : Req) : Bool :=
  (s.th t).outst.any fun q => decide (q.seq < r.seq) && q.what.isAtom &&
    (match q.phase with | .sent | .waiting => true | _ => false) &&
    (s.ownersOf t q).any fun o => (s.ownersOf t r).contains o

/-- The request may act now. -/
def Req.pending (r : Req) : Bool :=
  match r.phase with | .sent | .parked | .waiting => true | _ => false

/-- An ORD packet may be applied: every earlier packet of its source has been seen, and no earlier ORD request of it waits,
nor an earlier ORD message that was answered FULL (R367). -/
def State.ordTurn (s : State) (k : Packet) : Bool :=
  let before : Packet → Bool := fun e => e.src == k.src && e.ord && before24 e.fseq k.fseq
  !k.ord || (s.allSeenBefore k.src k.fseq && !(s.fab.inbound.any fun e => before e.2) && !(s.fab.fullWait.any fun e => before e.2) &&
    !s.fab.called.any before)
/-- A request of another chip waits for its turn. -/
def State.inTurn (s : State) (t : Nat) (r : Req) : Bool :=
  if t < 65536 ∨ !r.ord then true else
  match s.fab.inbound.find? fun e => e.1 == t - 65536 with
  | some (_, k) => s.ordTurn k
  | none => true
/-- A host's writes to TSO pages are performed in the order in which it issued them, which their FSEQ says: all that its
adapter sent before has been seen, and no earlier write of it waits (R236). -/
def State.hostTurn (s : State) (t : Nat) (r : Req) : Bool :=
  if t < 65536 ∨ !r.what.isStore ∨ (r.src.extractLsb' 22 2).toNat ≠ 3 ∨ !s.isTso t r then true else
  match s.fab.inbound.find? fun e => e.1 == t - 65536 with
  | none => true
  | some (_, k) => s.allSeenBefore k.src k.fseq &&
    !s.fab.inbound.any fun e => e.2.src == k.src && before24 e.2.fseq k.fseq && e.2.srcv == r.src &&
      (s.th (65536 + e.1)).outst.any fun q => q.what.isStore && !q.performed && s.isTso (65536 + e.1) q

/-- ACCESS_ANSWER: a performed access is answered (R178); one on its way is performed at its home first. -/
def execAccessAnswer (t seq : Nat) (s : State) : Out State :=
  match s.req? t seq with
  | none => .next s
  | some r =>
    if r.phase = .done then .next (s.deliver t r)
    else if r.pending ∧ !s.nextIsServed t r ∧ s.canPerform t r ∧ s.inTurn t r ∧ s.hostTurn t r then
      .next ((s.runAndRetest t r).relDone t seq)
    else .next s

/-- The registers a routine starts with (R212). -/
def routineRegs (r : Req) (e : Elem) : Map Word :=
  Map.set 0 (Map.set 0 (Map.set 0 (Map.set 0 [] 1 e.ea) 2 (e.data.setWidth 64)) 3 e.data2) 4 r.src

/-- Answers an element with a value and no error. -/
def Req.answer (r : Req) (x : Word) : Req :=
  { r with phase := .done, elems := r.elems.map fun e => { e with done := true, res := x.setWidth 1024 } }

/-- Starts the routine of an AMS at the owner of its word, when the owner is free (R212). -/
def State.startRoutine (s : State) (t : Nat) (r : Req) (k : BitVec 6) : State :=
  match r.elems with
  | [] => s
  | e :: _ =>
    match s.locate t r e with
    | (none, s1) => s1.setReq t { r with phase := .parked }
    | (some (pa, key, pte), s1) =>
      let c := tnakCause pte r.what .plain
      let o := ownerAt pa
      if c ≠ 0 then s1.setReq t { r with phase := .done, err := c, errAddr := e.ea, elems := r.elems.map fun e => { e with done := true } }
      else if s1.occupied o then s
      else if let some a := (s1.epochOf t).bind fun p => p.2.answer? r.member (256 * r.num) e.ea then
        s1.setReq t (r.answer (BitVec.ofNat 64 a.1))
      else if !(s1.sys.routines.any fun x => x.1 == r.pid && x.2.1 == k) then
        (s1.logRec (sourceOf o) 0x01 0 e.ea).setReq t (r.answer 0xFFFFFFFFFFFFFF01)
      else
        let keep : Elem → Elem := fun e => if r.sp = .d then s1.located t r e (pa, key, pte) else e
        let s2 := (s1.touchLine pa).setReq t { r with phase := .serving o, elems := r.elems.map keep }
        s2.modTh (serviceOf o) fun x => { x with
          mode := .context, status := .running
          act := { g := routineRegs r e, pc := codeAddr (k.setWidth 32) 0 }
          serve := some { thread := t, seq := r.seq, sp := r.sp, base := pa / granule pa * granule pa, size := granule pa
                          addr := e.ea, key, pid := r.pid } }

/-- SERVICE_OPERATION: the owner performs an atomic, or starts its routine (R200, R212). -/
def execServiceOperation (t seq : Nat) (s : State) : Out State :=
  match s.req? t seq with
  | none => .next s
  | some r =>
    if r.pending ∧ s.nextIsServed t r ∧ s.canPerform t r ∧ !s.overtakes t r ∧ s.inTurn t r then
      match r.what with
      | .ams k => .next (s.startRoutine t r k)
      | _ => .next ((s.runAndRetest t r).relDone t seq)
    else .next s

/-- The routine of owner o is abandoned at its 257th retirement (R213). -/
def execRoutineAbandon (o : Nat) (s : State) : Out State :=
  .next ({ s with trap := some { code := 0x0C, val := 0 } }.abandon (serviceOf o) 0x0C)

/-! ## The arrival of a packet (R363, R367–R370) -/

/-- A kind may carry n data flits (R363). -/
def flitsOk (kind : Byte) (n : Nat) : Bool :=
  match kind.toNat with
  | 0x01 => n == 0
  | 0x02 | 0x05 | 0x11 | 0x12 => decide (n ≤ 4)
  | 0x03 | 0x0E | 0x10 | 0x19 => n == 1
  | 0x04 => n == 0 || n == 1 || n == 4
  | 0x08 | 0x18 => decide (1 ≤ n ∧ n ≤ 4)
  | 0x09 | 0x1A => decide (n ≤ 1)
  | 0x0A | 0x0B | 0x0C | 0x0D | 0x0F | 0x1B => n == 0
  | _ => false

/-- The kinds that no partition key guards: management, whose writes fill the slots, and which has a check of its own
(R381), and notices, which belong to no partition (log 18). -/
def keyless (kind : Byte) : Bool := ([0x18, 0x19, 0x1A, 0x1B] : List Nat).contains kind.toNat
/-- The kinds whose packets have an FSEQ of their own: requests, messages and code fetches. -/
def numbered (kind : Byte) : Bool := ([1, 2, 3, 4, 5, 0x10] : List Nat).contains kind.toNat

/-- The packet goes on to another chip: its destination, or its intermediate one, is elsewhere. -/
def State.forOther (s : State) (k : Packet) : Bool := k.dst != s.coord || (k.val && !k.ph && k.mid != s.coord)

/-- A switch that can pass a request on to nobody returns it to its source (R370). -/
def State.returned (s : State) (k : Packet) : State :=
  if k.pkind = pkMSG then (s.forward (answerPacket k pkMSGA 4 0 [])).2
  else if numbered k.pkind then (s.forward (answerPacket k pkTNAK 5 0 [])).2
  else s
/-- A switch passes a packet on. -/
def State.passOn (s : State) (k : Packet) : State :=
  match s.forward { k with hops := if k.hops = 255 then 255 else k.hops + 1 } with
  | (true, s1) => s1
  | (false, _) => s.returned k

/-- Kinds that every chip of a tree, or of the fabric, takes as they reach it, whatever DST says (R374, R384). -/
def hopKind (k : Packet) : Bool := k.pkind == pkMCW || k.pkind == pkMCACK || (k.pkind == pkNOTICE && !k.ph)
/-- A packet of a kind arrives, and is discarded, passed on, dropped for its key, or taken by f (R363, R368).
Its data are whole flits. One that ends with a stomp tail is discarded (R365). hop: it is for this chip, whatever DST
says. A packet of another kind, such as the MGA that no row of the table takes, is passed on or discarded as its own kind
is, and does nothing here. -/
def State.arrives (s : State) (kind : Byte) (hop : Bool) (p : Packet) (f : Packet → State → State) : Out State :=
  let n := p.ndata.toNat
  let k := { p with data := padTo (64 * n) p.data }
  if !flitsOk k.pkind n then .next (s.countDrop false)
  else if k.ftype = 3 then .next s.countStomp
  else if !hop && !hopKind k && s.forOther k then .next (s.passOn k)
  else if k.pkind ≠ kind then .next s
  else if keyless kind then .next (f k s)
  else
    let s1 := if numbered kind then s.sawFseq k (s.keyOk k) else s
    if s.keyOk k then .next (f k s1) else .next (s1.dropReported true)

/-! ## Refusals, tickets and calls (R216, R217) -/

/-- TICKET after a refusal (R217). -/
def ticketWord (old : Word) (kind owner : Nat) (tk : BitVec 32) : Word :=
  BitVec.ofNat 64 (kind * 2 ^ 62 + owner % 2 ^ 14 * 2 ^ 48 + min 65535 ((old.extractLsb' 32 16).toNat + 1) * 2 ^ 32 + tk.toNat)

/-- The kind of an owner and its number in TICKET. -/
def ownerField (o : Nat) : Nat × Nat := if o < 16384 then (1, o) else (2, o % 64)

def execNak (t seq : Nat) (p : Option Packet) (s : State) : Out State :=
  match p with
  | some p => s.arrives pkNAK false p fun k s =>
    match s.answered? k with
    | some u =>
      let s1 := s.modUnacked u fun v => { v with refused := true }
      s1.modCtx u.thread fun a => { a with ticket := ticketWord a.ticket 2 (remoteOwner u.pkt.addr) (k.aux.extractLsb' 8 32) }
    | none => s
  | none =>
    match s.req? t seq with
    | some r =>
      match r.refusal false with
      | some (o, tk) =>
        let s1 := s.setReq t (r.setHold o tk (.refused o tk true))
        if 65536 ≤ t then
          match s.fab.inbound.find? fun e => e.1 == t - 65536 with
          | some (_, k) => .next (s1.reply k pkNAK 0 tk [])
          | none => .next s1
        else if r.orphan then .next s1
        else .next (s1.modCtx t fun a => { a with ticket := ticketWord a.ticket (ownerField o).1 (ownerField o).2 tk })
      | none => .next s
    | none => .next s

/-- The call of the first ticket that an entry has been reserved for and whose requester has not been called yet. A
reservation that has lapsed by then leaves the call standing: the resend is a new request (R216). -/
def State.callTicket (s : State) (o : Nat) : State :=
  let w := s.owner o
  match w.tickets.find? fun e => w.serve != e.1 && decide ((w.serve - e.1).toNat < 2 ^ 31) with
  | none => s
  | some (tk, t, seq) =>
    let s1 := s.modOwner o fun w => { w with tickets := w.tickets.filter fun e => e.1 != tk }
    match s1.req? t seq with
    | none => s1
    | some r =>
      if 65536 ≤ t then
        match s1.fab.inbound.find? fun e => e.1 == t - 65536 with
        | some (_, k) => s1.reply k pkCALL 0 tk []
        | none => s1
      else s1.setReq t (r.setHold o tk (.called o tk))

/-- A free slot of a channel is called out to the longest-waiting message of another chip (R363). -/
def State.callSlot (s : State) (n : Nat) : State :=
  match s.fab.fullWait.find? fun e => e.1 == n with
  | none => s
  | some (_, k) =>
    if ((s.block (n / 32)).chan (BitVec.ofNat 5 n)).full then s
    else ({ s with fab := { s.fab with
      fullWait := s.fab.fullWait.filter fun e => !(e.1 == n && e.2 == k), called := s.fab.called ++ [k] } }).reply k pkCALL 0 0 []

def execCall (o : Nat) (p : Option Packet) (s : State) : Out State :=
  match p with
  | some p => s.arrives pkCALL false p fun k s =>
    match s.answered? k with
    | some u => if u.refused then ((s.modUnacked u fun v => { v with refused := false, resends := 0 }).resend u).2 else s
    | none => s
  | none => .next (if o < 65536 then s.callTicket o else s.callSlot (o - 65536))

/-- A reservation lapses, and its entry frees (R216). -/
def execTicketLapse (o : Nat) (s : State) : Out State :=
  match (s.owner o).reserved with
  | [] => .next s
  | _ :: rest =>
    .next ((s.modOwner o fun w => { w with reserved := rest }).entryFreed o)

/-! ## Time-outs -/

/-- The first element that is not done ends with an error. -/
def Req.failNext (r : Req) (c : Byte) : Req :=
  let go : List Elem → List Elem := fun es =>
    let n := (es.takeWhile (·.done)).length
    es.zipIdx.map fun p => if p.2 = n then { p.1 with done := true } else p.1
  let es := if r.whole then r.elems.map fun e => { e with done := true } else go r.elems
  let addr := match r.elems.find? fun e => !e.done with | some e => e.ea | none => 0
  { r with elems := es, err := if r.err = 0 then c else r.err, errAddr := if r.err = 0 then addr else r.errAddr
           phase := if es.all (·.done) then .done else .sent }

/-- A request parked for 1 ms proceeds if its page is mapped by now, and is refused with cause 1 if not (R176): access seq of
thread t; or, when t has no such access, its oldest forest operation. -/
def execTranslationParkTimeout (t seq : Nat) (s : State) : Out State :=
  match s.req? t seq with
  | some r =>
    if r.phase ≠ .parked then .next s
    else
      let mapped := match r.elems.find? fun e => !e.done with
        | some e => (s.leaf? t r.pid (dLva e.ea)).isSome
        | none => true
      .next (s.setReq t (if mapped then { r with phase := .sent } else r.failNext 1))
  | none => .next (s.modTh t fun x => { x with eqops := match x.eqops with | o :: os => { o with park := if o.park = 0 then 0 else 2 } :: os | [] => [] })

/-- A service operation unanswered for 100 µs ends with error cause 5 (R165, log 22). -/
def execServiceOperationTimeout (t seq : Nat) (s : State) : Out State :=
  match s.req? t seq with
  | some r =>
    if !r.what.isAtom ∨ r.phase = .done then .next s
    else
      let addr := match r.elems with | e :: _ => e.ea | [] => 0
      let s1 := match r.phase with
        | .serving o => (s.turnOf o).modTh (serviceOf o) Thread.doneServing
        | _ => s
      .next (s1.setReq t { r with
        phase := .done, err := if r.err = 0 then 5 else r.err, errAddr := if r.err = 0 then addr else r.errAddr
        elems := r.elems.map fun e => { e with done := true } })
  | none => .next s

/-! ## The vector clock (R237) -/

/-- The stamps of die d's cross-die writes that are not applied yet: messages not delivered, headers not taken from
their inbox, accesses of its cores and of its engines not performed. -/
def State.unapplied (s : State) (d : Nat) : List (BitVec 16) :=
  (s.flight.filterMap fun m => if m.die = d ∧ m.stamp ≠ [] then some (m.stamp.getD d 0) else none) ++
  List.flatMap (fun e : Nat × Cluster => e.2.inbox.filterMap fun h =>
    if h.stamp ≠ [] ∧ (h.src.extractLsb' 36 2).toNat = d then some (h.stamp.getD d 0) else none) s.clusters ++
  List.flatMap (fun e : Nat × Thread =>
    if (isCore e.1 && dieOf e.1 == d) || (isEngine e.1 && (e.1 - 42000) / 2048 == d) then
      e.2.outst.filterMap fun r => if r.stamp ≠ [] ∧ r.phase ≠ .done ∧ r.phase ≠ .remote then some (r.stamp.getD d 0) else none
    else []) s.threads

/-- Die d broadcasts its A: the count below which all its cross-die writes are applied. -/
def execReleaseCountAdvance (d : Nat) (s : State) : Out State :=
  if 4 ≤ d then .next s else
  let n := (s.unapplied d).foldl (fun m v => if atOrPast v m then m else v) (s.die d).own
  .next ((List.range 6).foldl (fun s k => s.modDie k fun x => { x with a := withEntry x.a d n }) s)

end Sys2Proof.Machine
end

