-- ==== Sys2Proof/Machine/Jobs.lean ====
section
/-! DEFINITION. Engine jobs: shapes and cards (R61, R62, R284, R321–R323), footprints and edges (R324, R325),
the issue checks that the card instructions share (R283, R331), an engine's accesses, and completions
(R133, R289, R329, R330). -/

namespace Sys2Proof.Machine

/-! ## Shapes (R61, R284) -/

/-- m of a BFP format: its codes are 16 to 22 (R306; log 14). -/
def bfpBits (f : BitVec 5) : Nat := f.toNat - 14
/-- Bits of an element in memory; one byte for NONE (R327). -/
def Shape.width (h : Shape) : Nat := if h.fmt = 0 then 8 else fmtSlot h.fmt
def Shape.size (h : Shape) (d : Nat) : Nat := h.sizes.getD d 1
def Shape.stride (h : Shape) (d : Nat) : Int := h.strides.getD d 0
def Shape.bfp (h : Shape) : Bool := Num.isBfp h.fmt
/-- Its BASE is local, with a code above 6: the job that reads the record fails with 0x08 (R61). -/
def Shape.noSpace (h : Shape) : Bool := decide (7 < h.sp)
/-- Bytes of a BFP row of k elements (R248). -/
def bfpRowBytes (m k : Nat) : Nat := 32 * ((k + 1023) / 1024) + k * m / 8
/-- Bits of what is read or written as one: an element, or a BFP row. -/
def Shape.unitBits (h : Shape) : Nat := if h.bfp then 8 * bfpRowBytes (bfpBits h.fmt) (h.size 0) else h.width

/-- Offsets along one dimension. -/
def dimOffsets (n : Nat) (stride : Int) : List Int := (List.range n).map fun (i : Nat) => (i : Int) * stride
/-- Bit addresses of the units, in ascending element number. -/
def Shape.units (h : Shape) : List Int :=
  if h.bfp ∧ h.size 0 = 0 then [] else
  let u : Int := h.unitBits
  let base : Int := 8 * (h.addr.toNat : Int)
  (dimOffsets (h.size 3) (h.stride 3)).flatMap fun d => (dimOffsets (h.size 2) (h.stride 2)).flatMap fun c =>
    (dimOffsets (h.size 1) (h.stride 1)).flatMap fun b =>
      if h.bfp then [base + u * (b + c + d)] else (dimOffsets (h.size 0) (h.stride 0)).map fun a => base + u * (a + b + c + d)

def Shape.empty (h : Shape) : Bool := (List.range 4).any fun d => h.size d == 0
/-- The lowest and the highest offset of a dimension. -/
def lowOff (n : Nat) (stride : Int) : Int := min 0 (((n : Int) - 1) * stride)
def highOff (n : Nat) (stride : Int) : Int := max 0 (((n : Int) - 1) * stride)
/-- The dimensions that step from unit to unit. -/
def Shape.dims (h : Shape) : List Nat := if h.bfp then [1, 2, 3] else [0, 1, 2, 3]
/-- The lowest and the highest byte of a shape that is not empty. -/
def Shape.reach (h : Shape) : Int × Int :=
  let u : Int := h.unitBits
  let lo := (h.dims.map fun d => lowOff (h.size d) (h.stride d)).sum
  let hi := (h.dims.map fun d => highOff (h.size d) (h.stride d)).sum
  let base : Int := 8 * (h.addr.toNat : Int)
  ((base + u * lo) / 8, (base + u * hi + u - 1) / 8)

/-- A span: its lowest and highest byte in the space. -/
abbrev Span := Int × Int
/-- Lowest and highest byte of some units. -/
def spanOf (u : Int) : List Int → Option Span
  | [] => none
  | b :: bs =>
    some (bs.foldl (fun p x => (min p.1 (x / 8), max p.2 ((x + u - 1) / 8))) (b / 8, (b + u - 1) / 8))
/-- The spans of a shape: one for each block that a cross-block shape touches. -/
def Shape.spans (h : Shape) : List Span :=
  if h.empty then [] else
  if 4 ≤ h.sp ∧ h.sp ≤ 6 then
    (List.range 8).filterMap fun (k : Nat) => spanOf h.unitBits (h.units.filter fun b => b / 8 / 2 ^ 19 == (k : Int))
  else [h.reach]

/-- A unit lies wholly in the space, in one block (R169, R283, R331). -/
def unitInside (sp : Nat) (u b : Int) : Bool :=
  let lo := b / 8
  let hi := (b + u - 1) / 8
  if sp ≤ 3 then decide (0 ≤ lo ∧ hi < bufSize sp)
  else if sp ≤ 6 then decide (0 ≤ lo ∧ hi < 2 ^ 22 ∧ lo / 2 ^ 19 = hi / 2 ^ 19 ∧ hi % 2 ^ 19 < bufSize (sp - 4))
  else true
/-- The address of the first unit that does not. -/
def Shape.outside (h : Shape) : Option Word :=
  if h.empty ∨ h.sp = 7 then none
  else if h.sp ≤ 3 ∧ 0 ≤ h.reach.1 ∧ h.reach.2 < bufSize h.sp then none
  else (h.units.find? fun b => !unitInside h.sp h.unitBits b).map fun b => BitVec.ofInt 64 (b / 8)
/-- The alignment that BASE needs. -/
def Shape.align (h : Shape) : Nat := if h.bfp then 32 else max 1 (h.width / 8)

/-- A shape record's BASE as space and address; a local code above 6 gives a space above 7. -/
def baseForm (w : Word) : Nat × Word :=
  if w.toNat / 2 ^ 62 = 3 then
    let c := (w.extractLsb' 58 4).toNat
    (if c ≤ 6 then c else 16 + c, w &&& 0x03FFFFFFFFFFFFFF)
  else (7, w)

def int32 (x : Nat) : Int := if 2 ^ 31 ≤ x then (x : Int) - 2 ^ 32 else x

/-- Reads a shape record of 48 bytes for an engine of block blk. -/
def parseShape (blk : Nat) (bs : List Byte) : Shape :=
  let b := baseForm (BitVec.ofNat 64 (field bs 0 8))
  let rank := field bs 9 1
  { sp := b.1, blk, fmt := BitVec.ofNat 5 (field bs 8 1), addr := b.2, rank
    sizes := (List.range 4).map fun i => if i < rank then field bs (0x0C + 4 * i) 4 else 1
    strides := (List.range 4).map fun i => if i < rank then int32 (field bs (0x1C + 4 * i) 4) else 0 }
/-- RANK, FORMAT and the reserved bytes of a shape record are as R61 and R284 require. -/
def shapeOk (bs : List Byte) : Bool :=
  let h := parseShape 0 bs
  decide (1 ≤ h.rank ∧ h.rank ≤ 4) && field bs 0x0A 2 == 0 && field bs 0x2C 4 == 0 && decide (field bs 8 1 ≤ 22) &&
  (!h.bfp || (h.size 0 % 32 == 0 && h.stride 0 == 1))

/-! ## Flat addresses and regions (R324) -/

/-- The flat address of a byte of a space, for an engine of block blk. -/
def flatByte (blk sp a : Nat) : Nat :=
  if sp ≤ 3 then bufBase blk sp + a
  else if sp ≤ 6 then bufBase (blk / 8 * 8 + a / 2 ^ 19) (sp - 4) + a % 2 ^ 19
  else devBase + a % 2 ^ 64
def Shape.flat (h : Shape) (a : Int) : Nat := flatByte h.blk h.sp (if h.sp = 7 then (a % 2 ^ 64).toNat else a.toNat)
/-- The flat bit address of a unit. -/
def Shape.flatBit (h : Shape) (b : Int) : Nat := 8 * h.flat (b / 8) + (b % 8).toNat
def Shape.regions (h : Shape) : List Region := if h.noSpace then [] else h.spans.map fun p => { base := h.flat p.1, len := (p.2 - p.1 + 1).toNat }

/-- An extra region in use (R62): space, address, length and mode. -/
structure XRegion where
  sp : Nat
  addr : Nat
  len : Nat
  mode : Nat
  deriving DecidableEq, Repr

/-- Its parts, one for each block that it touches: first byte and length in the space. -/
def XRegion.parts (x : XRegion) : List (Nat × Nat) :=
  if x.len = 0 then []
  else if 4 ≤ x.sp ∧ x.sp ≤ 6 then
    (List.range 8).filterMap fun k =>
      let lo := max x.addr (k * 2 ^ 19)
      let hi := min (x.addr + x.len) ((k + 1) * 2 ^ 19)
      if lo < hi then some (lo, hi - lo) else none
  else [(x.addr, x.len)]
def XRegion.regions (x : XRegion) (blk : Nat) : List Region :=
  x.parts.map fun p => { base := flatByte blk x.sp p.1, len := if x.sp ≤ 3 then min p.2 (bufSize x.sp - p.1) else p.2 }

def Region.meets (a b : Region) : Bool := decide (a.base < b.base + b.len ∧ b.base < a.base + a.len)
def anyMeet (xs ys : List Region) : Bool := xs.any fun x => ys.any x.meets

/-! ## Cards (R62, R321–R323) -/

structure Card where
  kind : Nat
  trig : Nat
  flags : Nat
  tag : BitVec 32
  src : Word
  dst : Word
  x0 : Word
  x0len : Word
  x1 : Word
  x1len : Word
  reply : Word
  deriving DecidableEq, Repr

def parseCard (bs : List Byte) : Card :=
  let w := fun o => BitVec.ofNat 64 (field bs o 8)
  { kind := field bs 0 1, trig := field bs 1 1, flags := field bs 2 2, tag := BitVec.ofNat 32 (field bs 4 4)
    src := w 8, dst := w 0x10, x0 := w 0x18, x0len := w 0x20, x1 := w 0x28, x1len := w 0x30, reply := w 0x38 }

/-- The reserved bits and the space of an extra region (R62). -/
def xOk (base len : Word) : Bool :=
  if len.toNat / 2 ^ 62 = 0 then base == 0 && len == 0 else decide ((baseForm base).1 ≤ 7)

/-- KIND, TRIG, FLAGS and the extra regions are as R62, R322 and R323 require. -/
def Card.ok (c : Card) (kind : Nat) : Bool :=
  c.kind == kind && decide (c.trig ≤ 4) &&
  (if kind = 1 then decide (c.flags < 3) else c.flags == 0) &&
  xOk c.x0 c.x0len &&
  (if c.trig = 3 ∨ c.trig = 4 then c.x1len == 0 && c.x1.extractLsb' 32 32 == 0 else xOk c.x1 c.x1len)

def xRegion (base len : Word) : List XRegion :=
  let m := len.toNat / 2 ^ 62
  if m = 0 then [] else [{ sp := (baseForm base).1, addr := (baseForm base).2.toNat, len := len.toNat % 2 ^ 62, mode := m }]
def Card.xregions (c : Card) : List XRegion := xRegion c.x0 c.x0len ++ xRegion c.x1 c.x1len

/-! ## The scheduler (R295, R323–R325) -/

/-- Its operands have been consumed: its read regions are released. -/
def Job.consumed (j : Job) : Bool := j.phase == .consumed || j.phase == .held
def JobOp.isStream : JobOp → Bool | .stream _ => true | _ => false
/-- Card jobs: copies, streams and sweeps; a relabel counts as one for JSTAT and the selectors (R354). -/
def JobOp.isCard : JobOp → Bool
  | .swmap _ | .swred _ | .swcvt _ | .copy _ | .stream _ => true
  | _ => false
def Job.selectable (j : Job) : Bool := !j.op.isMatrix

/-- What J must wait for of an earlier job I of the cluster; bank regions count in every block, regions of
device memory and tiles in one scheduler only. -/
def edgeOf (sameBlock : Bool) (i j : Job) : Option Bool :=
  if i.cancelled then none else
  let here : List Region → List Region := fun rs => rs.filter fun r => sameBlock || decide (r.base < devBase)
  let tiles := sameBlock && i.op.isMatrix && j.op.isMatrix
  let hit := fun a b : BitVec 16 => tiles && (a &&& b) != 0
  if anyMeet (here i.writes) (here j.reads ++ here j.writes) || hit i.wrTiles (j.rdTiles ||| j.wrTiles) then some true
  else if !i.consumed && (anyMeet (here i.reads) (here j.writes) || hit i.rdTiles j.wrTiles) then some false
  else none

/-- The edges of a job that is accepted in block blk now. -/
def State.edges (s : State) (blk : Nat) (j : Job) : List (Nat × Bool) :=
  ((List.range 8).map (blk / 8 * 8 + ·)).flatMap fun b =>
    (s.block b).jobs.filterMap fun i => (edgeOf (b == blk) i j).map fun c => (jobKey b i.id, c)

/-- A wait has ended: the job is gone or cancelled, or past the event. -/
def State.waitMet (s : State) (w : Nat × Bool) : Bool :=
  match s.job? (w.1 / 2 ^ 32) (w.1 % 2 ^ 32) with
  | none => true
  | some j => j.cancelled || (!w.2 && j.consumed)
def State.mayStart (s : State) (j : Job) : Bool := j.phase == .pending && j.waits.all s.waitMet

/-- A scheduler has a free place among its 64. -/
def State.placeFree (s : State) (blk : Nat) : Bool := decide ((s.block blk).jobs.length < 64)

/-- The scheduler of block blk accepts a job. It takes three of its issuer's request numbers: two for what it writes and
one for what it reads (R335). -/
def State.acceptJob (s : State) (blk : Nat) (j : Job) : State :=
  let w := s.edges blk j
  (s.modBlock blk fun b => { b with jobs := b.jobs ++ [{ j with id := b.nextJob, waits := j.waits ++ w }], nextJob := b.nextJob + 1 }).modMe
    fun x => { x with act := { x.act with count := x.act.count + 3 } }

/-- The event that a card waits for (R323). -/
def State.trigger (s : State) (blk : Nat) (c : Card) : List (Nat × Bool) :=
  if c.trig = 1 ∨ c.trig = 2 then
    match s.me.act.lastMatrix with | some k => [(k, c.trig == 2)] | none => []
  else if c.trig = 3 ∨ c.trig = 4 then
    let named := (s.block blk).jobs.filter fun j => j.op.isCard && j.pid == s.me.act.pid && j.tag.toNat == c.x1.toNat % 2 ^ 32
    match (named.map (·.id)).max? with
    | some id => [(jobKey blk id, c.trig == 4)]
    | none => []
  else []

/-- The engine selector gB (R282): the block whose engine runs the job. -/
def State.engineBlock (s : State) (w : Word) : Option Nat :=
  let k := w.toNat % 8
  if w.extractLsb' 4 60 ≠ 0 then none
  else if w.getLsbD 3 then some (clusterOf s.cur * 8 + k)
  else if k = 0 then some (blockOf s.cur) else none

/-! ## Issue checks (R283, R331, R354) -/

/-- Reads a shape record at issue. -/
def State.readShape (s : State) (blk : Nat) (ea : Word) : Except Trap (Shape × Bool × State) :=
  match s.readS ea 48 16 with
  | .error e => .error e
  | .ok (bs, s1) => .ok (parseShape blk bs, shapeOk bs, s1)

/-- The protection of one span of n bytes from a, in space sp of an engine of block blk (R170, R331 step 7):
the key stamp. A span of another block's buffer is checked through the cross-block entries. -/
def State.spanCheck (s : State) (blk sp : Nat) (a n : Nat) (rd wr : Bool) : Except Trap Nat :=
  let bad : Trap := { code := 0x07, val := BitVec.ofNat 64 a }
  let own := blk == blockOf s.cur
  let ea := if !own && sp ≤ 2 then a + blk % 8 * 2 ^ 19 else a
  let space : Option Space := match (if !own && sp ≤ 3 then sp + 4 else sp) with
    | 0 => some .s | 1 => some .a | 2 => some .w | 3 => some .c | 4 => some .xs | 5 => some .xa | 6 => some .xw | _ => none
  match space with
  | none => .error bad
  | some q =>
    match s.pentFor s.cur q (BitVec.ofNat 64 ea) n with
    | none => .error bad
    | some p =>
      match (s.block (blockOf s.cur)).stampFor p.encl with
      | some k => if (!rd || p.r) && (!wr || p.w) then .ok k else .error bad
      | none => .error bad

def State.spansCheck (s : State) (blk sp : Nat) (rd wr : Bool) : List Span → Except Trap (List (Nat × Nat))
  | [] => .ok []
  | p :: ps =>
    match s.spanCheck blk sp p.1.toNat (p.2 - p.1 + 1).toNat rd wr, s.spansCheck blk sp rd wr ps with
    | .error e, _ => .error e
    | .ok _, .error e => .error e
    | .ok k, .ok ks => .ok ((if 4 ≤ sp then blk / 8 * 8 + p.1.toNat / 2 ^ 19 else blk, k) :: ks)

/-- Checks a shape's spans and gives it their stamps; a device shape is not checked. -/
def State.shapeCheck (s : State) (h : Shape) (rd wr : Bool) : Except Trap Shape :=
  if h.sp = 7 ∨ h.noSpace then .ok h else
  match s.spansCheck h.blk h.sp rd wr h.spans with
  | .error e => .error e
  | .ok ks => .ok { h with keys := ks }

/-- Checks the extra regions; those of device memory are not checked. -/
def State.xCheck (s : State) (blk : Nat) : List XRegion → Option Trap
  | [] => none
  | x :: xs =>
    if x.sp = 7 then s.xCheck blk xs else
    match x.parts.findSome? (fun p =>
      match s.spanCheck blk x.sp p.1 p.2 (x.mode % 2 == 1) (decide (2 ≤ x.mode)) with | .error e => some e | .ok _ => none) with
    | some e => some e
    | none => s.xCheck blk xs

/-- A device BASE obeys R172. -/
def State.devBaseOk (s : State) (w : Word) : Bool :=
  match dKind w with
  | 0 => dChip w == 0
  | 1 => decide ((dChip w).toNat < s.jobSize s.me.act.pid)
  | _ => false

/-- The raw BASE of a shape. -/
def Shape.baseWord (h : Shape) : Word :=
  if h.sp = 7 then h.addr else BitVec.ofNat 64 (3 * 2 ^ 62 + h.sp % 16 * 2 ^ 58 + h.addr.toNat)
/-- Steps 5 and 6 of R331: the spaces, the ranges, the alignments. A space code that no space has is not met here: the
job that reads the record fails by it (R61). -/
def State.placeCheck (s : State) (hs : List (Shape × List Nat)) : Option Trap :=
  let hs := hs.filter fun p => !p.1.noSpace
  (hs.findSome? fun p =>
    if !p.2.contains p.1.sp || (p.1.sp == 7 && !s.devBaseOk p.1.addr) then some { code := 0x08, val := p.1.baseWord } else none).orElse fun _ =>
  (hs.findSome? fun p => p.1.outside.map fun a => { code := 0x08, val := a }).orElse fun _ =>
  hs.findSome? fun p => if p.1.addr.toNat % p.1.align ≠ 0 then some { code := 0x09, val := p.1.addr } else none

/-- What every job takes from its issuer. -/
def State.newJob (s : State) (eng : Engine) (op : JobOp) : Job :=
  let a := s.me.act
  { id := 0, eng, op, thread := s.cur, issuer := a.id, pid := a.pid, encl := a.encl, launch := a.launch, wid := a.wid
    member := a.member, num := a.count, haz := if s.haz then some false else none }

/-! ## What an engine reads and writes (R233, R284, R326, R327) -/

/-- The source value of what an engine of block blk sends for a job: the core is the issuing one, as R313 says of drains. -/
def Job.source (j : Job) (blk : Nat) : Word := engineSource blk (engineNo j.eng) + BitVec.ofNat 64 (j.thread % 16 * 2 ^ 24)

/-- The 64-bit words that hold w bits from a flat bit address. -/
def bitWords (bit w : Nat) : List Nat := (List.range ((bit + w + 63) / 64 - bit / 64)).map fun i => (bit / 64 + i) * 8
/-- Keeps the first of equal numbers. -/
def firsts : List Nat → List Nat → List Nat
  | seen, [] => seen.reverse
  | seen, x :: xs => firsts (if seen.contains x then seen else x :: seen) xs
/-- The bits of a BFP row's exponents. -/
def expBits (k : Nat) : Nat := 8 * (k / 32)
/-- The words that a shape's units lie in, in the order in which they are first met: those of BFP exponents come first
(R249). -/
def Shape.words (h : Shape) : List Nat :=
  firsts [] ((if h.bfp then h.units.flatMap fun b => bitWords (h.flatBit b) (expBits (h.size 0)) else []) ++
    h.units.flatMap fun b => bitWords (h.flatBit b) h.unitBits)

/-- An element of an engine's access: n bytes at flat address k, or the bits of them that a mask names. -/
def engineElem (keys : List (Nat × Nat)) (k n data : Nat) (mask : Option Nat) : Elem :=
  if devBase ≤ k then { ea := BitVec.ofNat 64 (k - devBase), size := n, data := BitVec.ofNat 1024 data, mask }
  else
    let stamp := match keys.find? fun e => e.1 == bankBlock k with | some e => e.2 | none => 0
    { ea := BitVec.ofNat 64 k, size := n, pa := k, key := stamp, data := BitVec.ofNat 1024 data, mask }
def Elem.flat (dev : Bool) (e : Elem) : Nat := if dev then devBase + e.ea.toNat else e.pa

/-- The elements that an engine accesses next, and the others: n that are not done yet, and what remains of the last one's
64-byte line, which is read or written at one time (R233, R327). -/
def takePaced : Nat → Option Nat → List Elem → List Elem × List Elem
  | _, _, [] => ([], [])
  | n, last, e :: es =>
    let line := some (e.ea.toNat / 64)
    if e.done ∨ n ≠ 0 ∨ last = line then
      let r := takePaced (if e.done then n else n - 1) (if e.done then last else line) es
      (e :: r.1, r.2)
    else ([], e :: es)

/-- An engine's access goes on: wholly, or by the pace of its event. -/
def State.runPaced (s : State) (t : Nat) (q : Req) : State :=
  let s1 := { s with pace := none }
  match s.pace with
  | none => s1.runAndRetest t q
  | some n =>
    let p := takePaced n none q.elems
    if p.2 = [] then s1.runAndRetest t q
    else (s1.runAndRetest t { q with elems := p.1 }).modTh t fun x => { x with outst := x.outst.map fun r =>
      if r.seq = q.seq then { r with elems := r.elems ++ p.2, phase := if r.phase = .done then .sent else r.phase } else r }

/-- An element of job j's access lies in a region of device memory that another pending job of the block declared under
another address, so that no edge orders the two (R233; log 34). -/
def State.aliased (s : State) (blk : Nat) (j : Job) (write : Bool) (e : Elem) : Bool :=
  match e.loc with
  | none => false
  | some (pa, _, _) => (s.block blk).jobs.any fun k => k.id != j.id && k.phase != .held &&
      (k.writes ++ if write then k.reads else []).any fun r => decide (devBase ≤ r.base) &&
        !(r.meets { base := devBase + e.ea.toNat, len := e.size }) && s.sameFrame (engineThread blk (engineNo j.eng)) k.pid r pa e.size
/-- With HAZ set, the job's completion will say that an access met another job's region (R233). -/
def State.noteHazard (s : State) (blk : Nat) (j : Job) (r : Req) : State :=
  if j.haz = some false ∧ r.elems.any (s.aliased blk j r.what.isStore) then s.modJob blk j.id fun k => { k with haz := some true } else s

/-- An engine of block blk makes an access under a number: it issues it, or goes on with it; the access when it is performed. Its number
is the job's, so that a replayed job's access has that of the first (R168, R335); what it writes to device memory has the
die's stamp (R237). -/
def State.engineAccessAs (s : State) (t blk : Nat) (j : Job) (r : Req) : Option Req × State :=
  let stamp := if r.sp = .d ∧ r.what.isStore then s.writeStamp (blk / 256) else []
  let s1 := match (s.th t).outst with
    | [] => s.setTh t { outst := [{ r with seq := j.num + r.seq, member := j.member, num := j.num + r.seq, src := j.source blk, pid := j.pid, stamp }]
                        act := { pid := j.pid, encl := j.encl, launch := j.launch, wid := j.wid }
                        issuer := if j.issuer = 0 then none else some j.thread }
    | _ => s
  match (s1.th t).outst with
  | [] => (none, s1)
  | q :: _ =>
    let s2 := if q.pending then s1.runPaced t q else s1
    match (s2.th t).outst with
    | q :: _ =>
      if q.phase = .done then (some q, ({ s2 with threads := Map.drop (fun k => k == t) s2.threads }).noteHazard blk j q) else (none, s2)
    | [] => (none, s2)

/-- An engine makes an access for a job under its own number. -/
def State.engineAccess (s : State) (blk : Nat) (j : Job) (r : Req) : Option Req × State :=
  s.engineAccessAs (engineThread blk (engineNo j.eng)) blk j r

/-- The pieces that words are read by: a device line of which every word is wanted, in whatever order, is read at once, where
the first of them is (R190, R327). -/
def readPieces : Nat → List Nat → List (Nat × Nat)
  | 0, _ => []
  | _ + 1, [] => []
  | fuel + 1, w :: ws =>
    let line := w / 128 * 128
    if devBase ≤ w ∧ (List.range 16).all (fun i => (w :: ws).contains (line + 8 * i)) then
      (line, 128) :: readPieces fuel (ws.filter fun x => x / 128 * 128 != line)
    else (w, 8) :: readPieces fuel ws

/-- The cause in STATUS of an access error (R329): a poisoned word, or a refused or unreachable request. -/
def errStatus (c : Byte) : Byte := if c = 0 then 0 else if c = 6 then 0x0B else 0x0A

/-- Reads words into a job's image, up to the first that cannot be read; none while the access is not performed. -/
def State.engineRead (s : State) (blk : Nat) (j : Job) (keys : List (Nat × Nat)) (ws : List Nat) : Option Job × State :=
  let dev := match ws with | w :: _ => decide (devBase ≤ w) | [] => false
  match s.engineAccess blk j { seq := 2, what := .load, sp := if dev then .d else .s
                               elems := (readPieces ws.length ws).map fun w => engineElem keys w.1 w.2 0 none } with
  | (none, s1) => (none, s1)
  | (some r, s1) =>
    let failed := if r.err = 0 then none else some (if dev then devBase + r.errAddr.toNat else r.errAddr.toNat)
    let good := r.elems.takeWhile fun e => some (e.flat dev) != failed
    (some { j with
      image := j.image ++ good.flatMap fun e => (List.range (e.size / 8)).map fun i => (e.flat dev + 8 * i, e.res.extractLsb' (64 * i) 64)
      failAt := j.failAt.orElse fun _ => failed
      cause := if j.failAt.isSome then j.cause else r.err
      haz := (s1.job? blk j.id).elim j.haz (·.haz)
      status := if j.status = 0 then errStatus r.err else j.status }, s1)

/-- w bits from a flat bit address, as the image holds them; none when one of its words was not read. -/
def imageBits (img : List (Nat × Word)) (bit w : Nat) : Option Nat :=
  let xs := (bitWords bit w).map fun k => (img.find? fun e => e.1 == k).map (·.2)
  if xs.any (·.isNone) then none
  else some ((xs.foldr (fun x n => (x.getD 0).toNat + 2 ^ 64 * n) 0) / 2 ^ (bit % 64) % 2 ^ w)
/-- The values of a shape's units, as far as they were read. -/
def Shape.values (h : Shape) (img : List (Nat × Word)) : List Nat :=
  ((h.units.map fun b => imageBits img (h.flatBit b) h.unitBits).takeWhile (·.isSome)).map (·.getD 0)

/-- Words to be written: flat address over 8, to the bits written and their values. -/
abbrev WordMap := Map (Nat × Nat)
/-- Puts w bits at a flat bit address; what is put later stands. -/
def putBits (m : WordMap) (bit w x : Nat) : WordMap :=
  (List.range ((bit + w + 63) / 64 - bit / 64)).foldl (fun m i =>
    let a := bit / 64 + i
    let lo := max bit (64 * a) - 64 * a
    let hi := min (bit + w) (64 * a + 64) - 64 * a
    let mask := 2 ^ hi - 2 ^ lo
    let v := x * 2 ^ (bit % 64) / 2 ^ (64 * i) % 2 ^ 64 &&& mask
    let old := Map.get (0, 0) m a
    Map.put m a (old.1 ||| mask, (old.2 &&& (2 ^ 64 - 1 - mask)) ||| v)) m
/-- The words of some units of a shape, each with its value. -/
def Shape.putUnits (h : Shape) (ps : List (Int × Nat)) : WordMap :=
  ps.foldl (fun m (p : Int × Nat) => putBits m (h.flatBit p.1) h.unitBits p.2) []

/-- A write of an engine: flat address, bytes, value, and the bits written where it is part of a word. -/
structure Piece where
  at' : Nat
  n : Nat
  val : Nat
  mask : Option Nat := none
  deriving DecidableEq, Repr

/-- The first n entries are the whole words from a on. -/
def wholeRun (a : Nat) : Nat → WordMap → Bool
  | 0, _ => true
  | _ + 1, [] => false
  | n + 1, (k, m) :: es => k == a && m.1 == 2 ^ 64 - 1 && wholeRun (a + 1) n es
/-- The writes of a word map: lines and words written whole, and parts of words. -/
def pieces : Nat → WordMap → List Piece
  | 0, _ => []
  | _ + 1, [] => []
  | fuel + 1, (a, m) :: es =>
    if a % 16 = 0 ∧ wholeRun a 16 ((a, m) :: es) then
      { at' := 8 * a, n := 128, val := (((a, m) :: es).take 16).foldr (fun e x => e.2.2 + 2 ^ 64 * x) 0 } :: pieces fuel (((a, m) :: es).drop 16)
    else { at' := 8 * a, n := 8, val := m.2, mask := if m.1 = 2 ^ 64 - 1 then none else some m.1 } :: pieces fuel es
/-- Of units with one address the last stands: a job whose elements set tags writes each by itself (R322, R327). -/
def lastUnits : List (Int × Nat) → List (Int × Nat)
  | [] => []
  | p :: ps => if ps.any fun q => q.1 == p.1 then lastUnits ps else p :: lastUnits ps
/-- The writes for some units: together, or by elements where a tag action goes with each one's write (R322). -/
def Shape.pieces (h : Shape) (sync : Sync) (ps : List (Int × Nat)) : List Piece :=
  let one : List (Int × Nat) → List Piece := fun ps => let m := h.putUnits ps; Machine.pieces m.length m
  if sync ≠ .plain ∧ h.unitBits < 64 then (lastUnits ps).flatMap fun p => one [p] else one ps

/-- Writes units of a shape, as write k of the job; whole: only whole words of it. none while the access is not performed,
else its error cause. -/
def State.engineWriteAt (s : State) (blk : Nat) (j : Job) (h : Shape) (sync : Sync) (ps : List (Int × Nat)) (k : Nat) (whole : Bool) :
    Option Byte × State :=
  let dev := h.sp == 7
  let xs := (h.pieces sync ps).filter fun p => !whole || p.mask.isNone
  match s.engineAccess blk j { seq := k, what := .store, sp := if dev then .d else .s, sync
                               elems := xs.map fun p => engineElem h.keys p.at' p.n p.val p.mask } with
  | (none, s1) => (none, s1)
  | (some r, s1) => (some r.err, s1)
/-- Writes the values of a shape's units in order. -/
def State.engineWrite (s : State) (blk : Nat) (j : Job) (h : Shape) (sync : Sync) (xs : List Nat) : Option Byte × State :=
  s.engineWriteAt blk j h sync (h.units.zip xs) 0 false

/-! ## Completions and failures (R133, R289, R316, R329, R330) -/

/-- Records a matrix job's failure in its issuer's MSTAT, and ends the job (R316). A failure 0x16 is not replayed: its team is
no longer replayable (R309). -/
def State.matrixFailed (s : State) (blk : Nat) (j : Job) (tile : TIdx) (cause : Byte) (exp found : BitVec 5) : State :=
  let s := if cause = 0x16 then (s.dropJob blk j.id).killEpoch j.team else s.dropJob blk j.id
  let rec1 : Act → Act := fun a =>
    if a.mstat.extractLsb' 56 8 = 0 then
      { a with mstat := (a.mstat &&& 0x1F) ||| (cause.setWidth 64 <<< 56) ||| (tile.setWidth 64 <<< 52) |||
          (exp.setWidth 64 <<< 26) ||| (found.setWidth 64 <<< 21) }
    else
      let more := min 255 ((a.mstat.extractLsb' 32 8).toNat + 1)
      { a with mstat := (a.mstat &&& 0xFFFFFF00FFFFFFFF) ||| BitVec.ofNat 64 (more * 2 ^ 32) }
  let taken := (s.alive blk).any fun a => a.id == j.issuer && a.mstat.extractLsb' 56 8 != 0
  match s.modIssuer j rec1 with
  | some s1 => if taken then s1.logRec (sourceOf j.thread) cause 0 (tile.setWidth 64) else s1
  | none => s.jobReport j cause

/-- The completion word (R289). -/
def completionWord (status : Byte) (fl : BitVec 5) (tag : BitVec 32) : Word :=
  (status.setWidth 64 <<< 56) ||| (fl.setWidth 64 <<< 48) ||| tag.setWidth 64

/-- Ends a card job: its completion waits for delivery, or with REPLY 0 a failure is recorded. -/
def State.finishJob (s : State) (blk : Nat) (j : Job) (status : Byte) (fl : BitVec 5) : State :=
  let met := (s.job? blk j.id).any fun k => k.haz == some true
  let status := if status = 0 ∧ met then 0x17 else status
  let s1 := s.dropJob blk j.id
  if j.reply = 0 then
    if status = 0 ∨ status = 0xFF ∨ status = 0x17 then s1 else s1.cardFailed j status
  else
    let m : Msg := {
      dest := j.reply, payload := [completionWord status fl j.tag], src := j.source blk, wid := j.wid
      launch := j.launch, pid := j.pid, origin := .job blk j.id, die := blk / 256 }
    s1.modBlock blk fun b => { b with jobs := b.jobs ++
      [{ j with phase := .held, status, image := [], msg := some m, cancelled := j.cancelled || status == 0xFF }] }

/-- Delivers a held completion to a target on the engine's die: none while it has no room, else a failure's cause or 0. -/
def State.deliverCompletion (s : State) (p : Nat) (m : Msg) : Option (Byte × State) :=
  match maKind m.dest with
  | 4 =>
    if s.refuses m.pid then some (0x0F, s) else
    match s.feStore m with
    | none => none
    | some (c, s2) => some (if c = 0 then 0 else if c = 6 then 0x0B else 0x0A, s2)
  | k =>
    match s.answerTo p m.pid m.dest 1 with
    | .full => none
    | .grant =>
      some (0, if k = 1 then
          (s.modBlock (maBlock m.dest) fun b => b.modQueue (maQueue m.dest) fun q => { q with items := q.items ++ m.payload }).doneAt p m.dest
        else if k = 2 then s.enchannel (maBlock m.dest) (s.chanOf m.pid m.dest) m false
        else s.joinEvent (maCluster m.dest) (maJoin m.dest) m.pid m.src)
    | _ => some (0x0F, s)

/-- Sends a held completion to another die: a release with its stamp (R234, R237). none while it must wait. -/
def State.sendCompletion (s : State) (blk p : Nat) (j : Job) (m : Msg) : Option State :=
  if s.releaseStalls m.die then none else
  match s.answerTo p m.pid m.dest 1 with
  | .full => none
  | .grant =>
    let r := ((s.reserveHere m.pid m.dest 1).doneAt p m.dest).releaseStamp m.die
    some ((r.2.push { m with stamp := r.1, applied := false }).modJob blk j.id fun j => { j with away := true })
  | _ => some (s.completed blk j.id 0x0F)

/-- The held completions of an engine, in the order in which their jobs finished. -/
def State.heldOf (s : State) (blk : Nat) (e : Engine) : List Job :=
  (s.block blk).jobs.filter fun j => j.eng == e && j.phase == .held

/-- Tries held completions: one is not delivered before an earlier one to the same target. -/
def State.tryCompletions (s : State) (blk : Nat) (passed : List Word) : List Job → State
  | [] => s
  | j :: js =>
    match j.msg with
    | none => s
    | some m =>
      if j.away ∨ passed.contains m.dest then s.tryCompletions blk (m.dest :: passed) js
      else if !s.maHere m.pid m.dest then
        let u := engineSender blk (engineNo j.eng)
        match ({ s with cur := u }.modAct u fun a => { a with encl := j.encl }).sendAway m false with
        | (true, s1) => { s1 with cur := s.cur }.modJob blk j.id fun j => { j with away := true }
        | (false, _) => s.completed blk j.id 0x0F
      else
        let p := engineThread blk (engineNo j.eng)
        match (if malformed m.dest then some (s.completed blk j.id 0x0F)
          else if s.maHome 0 m.pid m.dest ≠ m.die then s.sendCompletion blk p j m
          else (s.deliverCompletion p m).map fun r => r.2.completed blk j.id r.1) with
        | some s1 => s1
        | none => (s.waitAt p m.dest).tryCompletions blk (m.dest :: passed) js

def engineAt (e : Nat) : Engine := match e with | 0 => .vector | 1 => .matrix | 2 => .copy | _ => .equiv

/-- COMPLETION_DELIVERY: one held completion of an engine is delivered or discarded (R133). -/
def execCompletionDelivery (blk eng : Nat) (s : State) : Out State :=
  .next (s.tryCompletions blk [] (s.heldOf blk (engineAt eng)))

/-- An engine may start its next job: none runs, and fewer than 16 completions wait (R133, R325). -/
def State.engineFree (s : State) (blk : Nat) (e : Engine) : Bool :=
  ((s.block blk).jobs.all fun j => !(j.eng == e && (j.phase == .started || j.phase == .consumed))) &&
  decide ((s.heldOf blk e).length < 16)
/-- The next job of an engine to start (R325). -/
def State.nextJobOf (s : State) (blk : Nat) (e : Engine) : Option Job :=
  (s.block blk).jobs.find? fun j => j.eng == e && j.phase == .pending
/-- Starts job id of an engine when it is the next one and may start. -/
def State.startJob (s : State) (blk id : Nat) (e : Engine) : State :=
  match s.nextJobOf blk e with
  | some j => if j.id = id ∧ s.mayStart j ∧ s.engineFree blk e then s.modJob blk id fun j => { j with phase := .started } else s
  | none => s

/-! ## Cancelling (R334, R335, R356) -/

def State.quern (s : State) (blk : Nat) : Quern := (s.block blk).quern
def State.modQuern (s : State) (blk : Nat) (f : Quern → Quern) : State := s.modBlock blk fun b => { b with quern := f b.quern }
/-- The home engine's block, and the blocks of the group (R338). -/
def groupBase (blk lg : Nat) : Nat := blk / 2 ^ lg * 2 ^ lg
def groupOfBlocks (blk lg : Nat) : List Nat := (List.range (2 ^ lg)).map (groupBase blk lg + ·)
/-- A started relabel job lets the engines go on: its operands are consumed, or it fails or is cancelled (R355, R356). -/
def State.releaseForest (s : State) (blk : Nat) (j : Job) : State :=
  if j.eng ≠ .equiv ∨ j.phase ≠ .started then s else
  (groupOfBlocks blk (s.quern blk).lg).foldl (fun s b => s.modQuern b fun k => { k with held := false }) s

/-- A completion that has been granted its place on this chip and is not delivered is called back. -/
def State.recall (s : State) (blk id : Nat) : State :=
  let mine : Msg → Bool := fun m => m.origin == .job blk id
  (s.flight.filter mine).foldl (fun s m => match maKind m.dest with
    | 1 => s.modBlock (maBlock m.dest) fun b => b.modQueue (maQueue m.dest) fun q => { q with reserved := q.reserved - 1 }
    | 2 => s.modBlock (maBlock m.dest) fun b => b.modChan (s.chanOf m.pid m.dest) fun c => { c with reserved := c.reserved - 1 }
    | _ => s) { s with flight := s.flight.filter fun m => !mine m }

/-- The completion of a held job says that it was cancelled; one that has left for another chip says so when it is sent again,
if its first copy was not accepted (log 23). -/
def State.cancelHeld (s : State) (blk : Nat) (j : Job) : State :=
  let put : Msg → Msg := fun m => { m with payload := [completionWord 0xFF 0 j.tag] }
  let mine : Msg → Bool := fun m => m.origin == Origin.job blk j.id
  let resent : Unacked → Unacked := fun u => match u.msg with
    | some m => if mine m then { u with msg := some (put m), pkt := { u.pkt with data := msgBytes (put m) } } else u
    | none => u
  ({ s with
    flight := s.flight.map fun (m : Msg) => if mine m then put m else m
    fab := { s.fab with unacked := s.fab.unacked.map resent } }).modJob blk j.id fun j =>
    { j with status := 0xFF, cancelled := true, msg := j.msg.map put }

/-- JSTAT and MSTAT of thread t's activation as read, and the pending jobs that PEND counts (R316, R330). -/
def State.pendOf (s : State) (t : Nat) (matrix : Bool) : Nat := s.pendingJobs (clusterOf t) (s.th t).act.id matrix
def State.jstatRead (s : State) (t : Nat) : Word := s.jstatOf (clusterOf t) (s.th t).act
def State.mstatRead (s : State) (t : Nat) : Word := s.mstatOf (clusterOf t) (s.th t).act

end Sys2Proof.Machine
end

