-- ==== Sys2Proof/Machine/Copy.lean ====
section
/-! DEFINITION. The copy engine: CPY and CPYS, copies and streams (R327, R328, R331, R332), the waiting for,
polling and cancelling of card jobs (R333, R334), and the copy engine's events. -/

namespace Sys2Proof.Machine

/-! ## Issuing a card (R283, R331) -/

/-- A card with its shape records, as read at issue. -/
structure CardRead where
  card : Card
  src : Shape
  srcOk : Bool
  dst : Shape := {}
  dstOk : Bool := true

/-- Reads a card and the records it names; two: DST names one too. -/
def State.readCard (s : State) (a : Word) (two : Bool) : Except Trap (CardRead × State) :=
  match s.readS a 64 16 with
  | .error e => .error e
  | .ok (bs, s1) =>
    let c := parseCard bs
    match s1.readShape 0 c.src with
    | .error e => .error e
    | .ok (src, ok, s2) =>
      if !two then .ok ({ card := c, src, srcOk := ok }, s2) else
      match s2.readShape 0 c.dst with
      | .error e => .error e
      | .ok (dst, ok2, s3) => .ok ({ card := c, src, srcOk := ok, dst, dstOk := ok2 }, s3)

/-- Checks protection, waits for a place, and creates the job (R331 step 7, R33). xs: of the extra regions too, which R283
does not name. fault raises a failed check; bind acts at acceptance. -/
def State.issueCard (s : State) (blk : Nat) (c : Card) (eng : Engine) (op : JobOp) (src : Shape) (dst : Option Shape)
    (dstRd xs : Bool) (fault : Trap → State → Out State) (bind : State → State) : Out State :=
  match s.shapeCheck src true false, (match dst with
      | none => .ok none
      | some h => match s.shapeCheck h dstRd true with | .error e => .error e | .ok k => .ok (some k) : Except Trap (Option Shape)) with
  | .error e, _ => fault e s
  | .ok _, .error e => fault e s
  | .ok src, .ok dst =>
    match (if xs then s.xCheck blk c.xregions else none) with
    | some e => fault e s
    | none =>
      if !s.placeFree blk then .next (s.stall .engine) else
      let xr := fun bit : Nat => (c.xregions.filter fun x => x.mode / bit % 2 == 1).flatMap fun x => x.regions blk
      let dr := match dst with | some h => h.regions | none => []
      let j : Job := { s.newJob eng op with
        tag := c.tag, reply := c.reply, src := some src, dst, waits := s.trigger blk c
        reads := src.regions ++ (if dstRd then dr else []) ++ xr 1, writes := dr ++ xr 2 }
      .next (bind (s.acceptJob blk j)).retire

/-- The fault of a failed check of R331, with its own MTVAL. -/
def plainFault (tr : Trap) (s : State) : Out State := .next (s.takeFault tr)

/-- What COPY requires of its shapes and FLAGS (R322, R327). -/
def copyShapes (src dst : Shape) (flags : Nat) : Bool :=
  src.fmt == dst.fmt && src.rank == dst.rank && src.sizes == dst.sizes &&
  (flags == 0 || dst.sp == 0 || dst.sp == 4 || dst.sp == 7)

/-- CPY (R331). -/
def execCpy (a b : GReg) (s : State) : Out State :=
  noService (.cpy a b) s fun s =>
    if !s.settled s.cur then .next (s.stall .access) else
    match s.readCard (s.g a) true with
    | .error e => .next (s.takeFault e)
    | .ok (k, s1) =>
      match s1.engineBlock (s.g b) with
      | none => raise 0x0F (s.g b) s1
      | some blk =>
        let src := { k.src with blk }
        let dst := { k.dst with blk }
        if !(k.card.ok 1 && k.srcOk && k.dstOk && copyShapes src dst k.card.flags) then raiseOwn (s.g a) s1
        else if !replyOk k.card.reply then raise 0x0F k.card.reply s1
        else match s1.placeCheck [(src, [0, 1, 4, 5, 7]), (dst, [0, 1, 2, 4, 5, 6, 7])] with
        | some tr => .next (s1.takeFault tr)
        | none =>
          s1.issueCard blk k.card .copy (.copy (BitVec.ofNat 2 k.card.flags)) src (some dst) false true plainFault id

/-- The stream register is bound (R158, R328). -/
def Act.bound (a : Act) (x : SIdx) : Bool := match a.stream x with | some st => !(st.ended && st.buf.isEmpty) | none => false

/-- CPYS (R331): the job is bound to sD as it is accepted. -/
def execCpys (d : SIdx) (a : GReg) (s : State) : Out State :=
  noService (.cpys d a) s fun s =>
    if !s.settled s.cur then .next (s.stall .access) else
    match s.readCard (s.g a) false with
    | .error e => .next (s.takeFault e)
    | .ok (k, s1) =>
      let blk := blockOf s.cur
      let src := { k.src with blk }
      if s.me.act.bound d then raise 0x0E 0 s1
      else if !(k.card.ok 2 && k.srcOk && k.card.dst == 0 && decide (src.fmt.toNat ≤ 14)) then raiseOwn (s.g a) s1
      else if !replyOk k.card.reply then raise 0x0F k.card.reply s1
      else match s1.placeCheck [(src, [0, 1, 4, 5, 7])] with
      | some tr => .next (s1.takeFault tr)
      | none =>
        let id := (s1.block blk).nextJob
        s1.issueCard blk k.card .copy (.stream d) src none false true plainFault fun s =>
          s.setStream s.cur d (some { blk, job := id })

/-! ## Streams (R328) -/

/-- Changes the stream register that a job is bound to. -/
def State.modStream (s : State) (blk : Nat) (j : Job) (x : SIdx) (f : Stream → Option Stream) : State :=
  (s.modIssuer j fun a =>
    match a.stream x with
    | some st => if st.blk = blk ∧ st.job = j.id then { a with streams := Map.set none a.streams x.toNat (f st) } else a
    | none => a).getD s
/-- The stream gets no more elements: its binding ends when the buffer is empty. -/
def State.endStream (s : State) (blk : Nat) (j : Job) : State :=
  match j.op with
  | .stream x => s.modStream blk j x fun st => if st.buf = [] then none else some { st with ended := true }
  | _ => s

/-- An element widened to 64 bits. -/
def widen (f : BitVec 5) (x : Nat) : Word :=
  if fmtSigned f then BitVec.ofInt 64 (intDecode f x) else BitVec.ofNat 64 (if f = 0 then x else x % 2 ^ fmtBits f)

/-- The buffer that a stream job fills, where its activation still has it. -/
def State.streamBuf (s : State) (blk : Nat) (j : Job) (x : SIdx) : Option (List Word) :=
  (s.alive (blockOf j.thread)).findSome? fun a =>
    if a.id = j.issuer then
      match a.stream x with | some st => if st.blk = blk ∧ st.job = j.id then some st.buf else none | none => none
    else none

/-- STREAM_ELEMENT: the engine reads the next element and places it, when the buffer has room. -/
def execStreamElement (blk id : Nat) (s : State) : Out State :=
  match s.job? blk id with
  | none => .next s
  | some j =>
    match j.op, j.src with
    | .stream x, some h =>
      if j.phase ≠ .started ∨ 16 ≤ ((s.streamBuf blk j x).getD []).length then .next s else
      if h.noSpace then .next ((s.endStream blk j).finishJob blk j 0x08 0) else
      match h.units[j.pos]? with
      | none => .next (s.endStream blk j |>.modJob blk id fun j => { j with phase := .consumed })
      | some b =>
        match s.engineRead blk { j with image := [] } h.keys (bitWords (h.flatBit b) h.unitBits) with
        | (none, s1) => .next s1
        | (some j1, s1) =>
          match imageBits j1.image (h.flatBit b) h.unitBits with
          | none => .next ((s1.endStream blk j).finishJob blk j j1.status 0)
          | some v =>
            let last := h.units.length ≤ j.pos + 1
            let s2 := s1.modStream blk j x fun st => some { st with buf := st.buf ++ [widen h.fmt v], ended := last }
            .next (s2.modJob blk id fun j => { j with pos := j.pos + 1, phase := if last then .consumed else j.phase })
    | _, _ => .next s

/-! ## Copies (R327) and what they share with sweeps -/

/-- A BFP row at a flat bit address holds an exponent of 255, among those that were read (R249). -/
def badRow (img : List (Nat × Word)) (k bit : Nat) : Bool := (List.range (k / 32)).any fun i => imageBits img (bit + 8 * i) 8 == some 255
def Shape.badExponent (h : Shape) (img : List (Nat × Word)) : Bool := h.bfp && h.units.any fun b => badRow img (h.size 0) (h.flatBit b)
/-- A unit as a copy writes it: the padding of a BFP row (R248) and the upper two bits of an E3M2 or E2M3 element (R246) are
ignored and written as zero. -/
def Shape.padded (h : Shape) (x : Nat) : Nat :=
  if !h.bfp then (if fmtBits h.fmt = 6 then x % 64 else x) else
  let top := 2 ^ (256 * ((h.size 0 + 1023) / 1024))
  x % 2 ^ expBits (h.size 0) + x / top * top

/-- The job reads its destination too: SWMAP. -/
def Job.readsDst (j : Job) : Bool := match j.op with | .swmap _ => true | _ => false

/-- COPY_JOB_START (R325, R332). -/
def execCopyJobStart (blk id : Nat) (s : State) : Out State := .next (s.startJob blk id .copy)

def syncOfDsy (d : BitVec 2) : Sync := match d.toNat with | 1 => .sf | 2 => .se | _ => .plain

/-- COPY_JOB_COMPLETE: a copy's writes are performed, and its completion follows; a stream's completion. -/
def execCopyJobComplete (blk id : Nat) (s : State) : Out State :=
  match s.job? blk id with
  | none => .next s
  | some j =>
    if j.phase ≠ .consumed then .next s else
    match j.op, j.src, j.dst with
    | .stream _, _, _ => .next (s.finishJob blk j 0 0)
    | .copy dsy, some src, some dst =>
      if src.badExponent j.image then .next (s.finishJob blk j 0x06 0) else
      let xs := (src.values j.image).map src.padded
      -- of a job that failed, what was written before is some first units, in whole words (R329)
      let r := if j.status = 0 then s.engineWrite blk j dst (syncOfDsy dsy) xs
        else s.engineWriteAt blk j dst (syncOfDsy dsy) (dst.units.zip (xs.take (s.pace.getD 0))) 0 true
      match r with
      | (none, s1) => .next s1
      | (some c, s1) => .next (s1.finishJob blk j (if j.status = 0 then errStatus c else j.status) 0)
    | _, _, _ => .next s

/-! ## Waiting, polling, cancelling (R333, R334) -/

/-- The scheduler and TAG of a job selector. -/
def State.jobSel (s : State) (w : Word) : Option (Nat × BitVec 32) :=
  let k := w.toNat / 2 ^ 32 % 8
  if w.extractLsb' 36 28 ≠ 0 then none
  else if w.getLsbD 35 then some (clusterOf s.cur * 8 + k, w.setWidth 32)
  else if k = 0 then some (blockOf s.cur, w.setWidth 32) else none

/-- The selected jobs that are not completed. -/
def State.selected (s : State) (sel : Nat × BitVec 32) : List Job :=
  let a := s.me.act
  (s.block sel.1).jobs.filter fun j =>
    j.selectable && j.pid == a.pid && (if sel.2 = BitVec.allOnes 32 then j.issuer == a.id else j.tag == sel.2)

/-- JWAIT: it waits for the selected jobs, and then takes the recorded failure. -/
def execJwait (a : GReg) (s : State) : Out State :=
  noService (.jwait a) s fun s =>
    match s.jobSel (s.g a) with
    | none => raiseOwn (s.g a) s
    | some sel =>
      let lim := s.me.bound.getD (s.block sel.1).nextJob
      if (s.selected sel).any fun j => decide (j.id < lim) then .next ((s.modMe fun x => { x with bound := some lim }).stall .engine)
      else
        let s1 := s.modMe fun x => { x with bound := none }
        match s1.me.act.cardFail with
        | some tr => .next ((s1.modMyAct fun a => { a with jstat := jstatTaken a.jstat }).takeFault tr)
        | none => .next s1.retire

def execJpoll (d a : GReg) (s : State) : Out State :=
  noService (.jpoll d a) s fun s =>
    match s.jobSel (s.g a) with
    | none => raiseOwn (s.g a) s
    | some sel => .next (s.writeRetire d (BitVec.ofNat 64 (s.selected sel).length))

/-- A running job stops: what its engine accesses is dropped, its stream ends, and its forest is released. -/
def State.haltJob (s : State) (blk : Nat) (j : Job) : State :=
  let t := engineThread blk (engineNo j.eng)
  let s1 := if j.phase = .started ∨ j.phase = .consumed then { s with threads := Map.drop (fun k => k == t) s.threads } else s
  (s1.endStream blk j).releaseForest blk j
/-- Cancels a job that is not completed: it stops, and its completion says so. quiet: without a completion. -/
def State.cancelJob (s : State) (blk : Nat) (j : Job) (quiet : Bool) : State :=
  if quiet then ((s.haltJob blk j).recall blk j.id).dropJob blk j.id
  else if j.phase = .held then s.cancelHeld blk j
  else (s.haltJob blk j).finishJob blk { j with cancelled := true } 0xFF 0

/-- JCANCEL. A job whose completion waits for delivery is not completed, and is cancelled too (R326). -/
def execJcancel (d a : GReg) (s : State) : Out State :=
  noService (.jcancel d a) s fun s =>
    match s.jobSel (s.g a) with
    | none => raiseOwn (s.g a) s
    | some sel =>
      let js := (s.selected sel).filter fun j => !j.cancelled
      .next ((js.foldl (fun s j => s.cancelJob sel.1 j false) s).writeRetire d (BitVec.ofNat 64 js.length))

end Sys2Proof.Machine
end

