-- ==== Sys2Proof/Machine/FpScalar.lean ====
section
/-! DEFINITION. The scalar FP32 instructions of class 1 (R87–R95). -/

namespace Sys2Proof.Machine

/-- Writes an FP32 or integer result and ORs the flags (R87, R88). -/
def State.fpWrite (s : State) (d : GReg) (r : Word × FFlags) : State :=
  ((s.setG d r.1).orFlags r.2).retire

def fp32 (w : Word) : Fp := fpDecode 8 w.toNat
def ofCode (r : Nat × FFlags) : Word × FFlags := (BitVec.ofNat 64 r.1, r.2)

/-- An instruction that rounds under RM: illegal when DYN finds no mode (R49). -/
def withRm (i : Instr) (rm : Rm) (s : State) (f : Rm → State → Out State) : Out State :=
  match s.rounding rm with
  | some r => f r s
  | none => illegal i s

/-- FADD, FSUB and FMUL (R90). -/
def fpOp (i : Instr) (op : Rm → Fp → Fp → Exact × FFlags) (d a b : GReg) (n : Num) (s : State) : Out State :=
  withRm i n.rm s fun rm s =>
    .next (s.fpWrite d (ofCode (roundWith 8 rm false (op rm (fp32 (s.g a)) (fp32 (s.g b))))))

def execFadd (d a b : GReg) (n : Num) (s : State) : Out State := fpOp (.fadd d a b n) fpAdd d a b n s
def execFsub (d a b : GReg) (n : Num) (s : State) : Out State := fpOp (.fsub d a b n) fpSub d a b n s
def execFmul (d a b : GReg) (n : Num) (s : State) : Out State := fpOp (.fmul d a b n) (fun _ => fpMul) d a b n s
def execFma (d a b c : GReg) (n : Num) (s : State) : Out State :=
  withRm (.fma d a b c n) n.rm s fun rm s =>
    .next (s.fpWrite d (ofCode (roundWith 8 rm false (fpFma rm (fp32 (s.g a)) (fp32 (s.g b)) (fp32 (s.g c))))))

/-- FMIN and FMAX (R91): RM is checked and has no other effect. -/
def fpPick (i : Instr) (isMax : Bool) (d a b : GReg) (n : Num) (s : State) : Out State :=
  withRm i n.rm s fun _ s =>
    .next (s.fpWrite d (ofCode (fpMinMax 8 isMax ((s.g a).toNat % 2 ^ 32) ((s.g b).toNat % 2 ^ 32))))
def execFmin (d a b : GReg) (n : Num) (s : State) : Out State := fpPick (.fmin d a b n) false d a b n s
def execFmax (d a b : GReg) (n : Num) (s : State) : Out State := fpPick (.fmax d a b n) true d a b n s

/-- FEQ, FLT and FLE (R92). -/
def fpTest (op : Nat) (d a b : GReg) (s : State) : Out State :=
  let r := fpCompare op (fp32 (s.g a)) (fp32 (s.g b))
  .next (s.fpWrite d (boolWord r.1, r.2))
def execFeq (d a b : GReg) (s : State) : Out State := fpTest 0 d a b s
def execFlt (d a b : GReg) (s : State) : Out State := fpTest 1 d a b s
def execFle (d a b : GReg) (s : State) : Out State := fpTest 2 d a b s

/-- FCVTIF (R93). A reserved FMT raises the format fault after the check of RM (R42, R95). -/
def execFcvtif (d a : GReg) (n : Num) (s : State) : Out State :=
  withRm (.fcvtif d a n) n.rm s fun rm s =>
    if Num.reserved n.fmt then reservedFmt n.fmt s else
    .next (s.fpWrite d (ofCode (fpRound 8 rm n.ovf (exactOfInt (intDecode n.fmt (s.g a).toNat)))))
/-- FCVTFI (R94): the result is extended to 64 bits as its format is signed or not. -/
def execFcvtfi (d a : GReg) (n : Num) (s : State) : Out State :=
  withRm (.fcvtfi d a n) n.rm s fun rm s =>
    if Num.reserved n.fmt then reservedFmt n.fmt s else
    let r := fpToInt n.fmt rm n.ovf (fp32 (s.g a))
    .next (s.fpWrite d (BitVec.ofInt 64 r.1, r.2))

end Sys2Proof.Machine
end

