-- ==== Sys2Proof/Machine/VectorFn.lean ====
section
/-! DEFINITION. The special functions of the vector unit, correctly rounded (R275–R277): each gives its exact
value, or its value to 2^-256 with a sticky bit when it is irrational. -/

namespace Sys2Proof.Machine

/-! ## Quotients and roots -/

/-- a / b, b nonzero, to 160 bits beyond the integers of the given shift, with a sticky bit. -/
def quotient (neg : Bool) (m1 : Nat) (e1 : Int) (m2 : Nat) (e2 : Int) : Exact :=
  let k := 160 + bitLen m2
  let n := m1 * 2 ^ k
  .num neg (n / m2) (e1 - e2 - k) (n % m2 != 0)

/-- The largest r with r · r ≤ n, bit by bit from 2^b down. -/
def isqrtFrom (n : Nat) : Nat → Nat → Nat
  | 0, r => if (r + 1) * (r + 1) ≤ n then r + 1 else r
  | b + 1, r => let c := r + 2 ^ (b + 1); isqrtFrom n b (if c * c ≤ n then c else r)
def isqrt (n : Nat) : Nat := isqrtFrom n (bitLen n / 2 + 1) 0

/-- m · 2^e with an even exponent. -/
def evenExp (m : Nat) (e : Int) : Nat × Int := if e % 2 = 0 then (m, e) else (2 * m, e - 1)

/-- The root of m · 2^e. -/
def rootExact (m : Nat) (e : Int) : Exact :=
  let p := evenExp m e
  let n := p.1 * 2 ^ 320
  let r := isqrt n
  .num false r (p.2 / 2 - 160) (r * r != n)

/-- The reciprocal of the root of m · 2^e, m nonzero. -/
def rsqrtExact (m : Nat) (e : Int) : Exact :=
  let p := evenExp m e
  let n := 2 ^ (2 * (160 + bitLen p.1))
  let r := isqrt (n / p.1)
  .num false r (-(p.2 / 2) - (160 + bitLen p.1)) (r * r * p.1 != n)

/-! ## 2^x and log2 x, in fixed point with 320 bits of fraction -/

def fxOne : Nat := 2 ^ 320

/-- The sum of z^(2k+1) / (2k+1), from the power pw = z^(2k+1) on. -/
def atanhSum (z2 : Nat) : Nat → Nat → Nat → Nat
  | 0, _, _ => 0
  | n + 1, k, pw => pw / (2 * k + 1) + atanhSum z2 n (k + 1) (pw * z2 / fxOne)
/-- ln((1 + z) / (1 − z)) for a fixed-point z of at most 1/3. -/
def lnRatio (z : Nat) : Nat := 2 * atanhSum (z * z / fxOne) 110 0 z
/-- ln 2, as the logarithm of the ratio with z = 1/3. -/
def ln2 : Nat := lnRatio (fxOne / 3)

/-- e^y, from the term t = y^k / k! on. -/
def expSum (y : Nat) : Nat → Nat → Nat → Nat
  | 0, _, _ => 0
  | n + 1, k, t => t + expSum y n (k + 1) (t * y / fxOne / (k + 1))

/-- Drops the guard bits of a fixed-point number: it is irrational, so the sticky bit stands. -/
def fixed (neg : Bool) (v : Nat) (e : Int) : Exact := .num neg (v / 2 ^ 64) (e - 256) true

/-- 2^x for x = (−1)^neg · m · 2^e, m nonzero. Beyond 2^12 the result overflows or vanishes in every format. -/
def exp2Exact (neg : Bool) (m : Nat) (e : Int) : Exact :=
  if 0 ≤ e ∨ 12 < (bitLen m : Int) + e then
    let n : Nat := if 12 < (bitLen m : Int) + e then 2 ^ 12 else m * 2 ^ e.toNat
    .num false 1 (if neg then -(n : Int) else n) false
  else
    let d := 2 ^ (-e).toNat
    if m % d = 0 then .num false 1 (if neg then -((m / d : Nat) : Int) else (m / d : Nat)) false
    else
      -- x = n + f with 0 < f < 1
      let n : Int := if neg then -((m / d : Nat) : Int) - 1 else (m / d : Nat)
      let f := if neg then d - m % d else m % d
      let y := f * ln2 / d
      fixed false (expSum y 90 0 fxOne) n

/-- log2 x for x = m · 2^e, m nonzero. -/
def log2Exact (m : Nat) (e : Int) : Exact :=
  let b := bitLen m - 1
  let n : Int := e + b
  if m = 2 ^ b then exactOfInt n
  else
    -- x = 2^n · (m / 2^b), the second factor between 1 and 2
    let z := (m - 2 ^ b) * fxOne / (m + 2 ^ b)
    let l := lnRatio z * fxOne / ln2
    let v : Int := n * (fxOne : Int) + l
    fixed (decide (v < 0)) v.natAbs 0

/-! ## The functions of R275 on one lane -/

/-- The functions, by number: 0 VEXP2, 1 VLOG2, 2 VRCP, 3 VRSQ, 4 VSQRT. -/
def specialExact (fn : Nat) (x : Fp) : Exact × FFlags :=
  let zero : Exact := .num false 0 0 false
  match x with
  | .nan _ sig => (.nan, flIf sig flNV)
  | .inf neg =>
    match fn with
    | 0 => (if neg then zero else .inf false, 0)
    | 2 => (.num neg 0 0 false, 0)
    | 3 => if neg then (.nan, flNV) else (zero, 0)
    | _ => if neg then (.nan, flNV) else (.inf false, 0)
  | .fin neg m e =>
    if m = 0 then
      match fn with
      | 0 => (.num false 1 0 false, 0)
      | 1 => (.inf true, flDZ)
      | 4 => (.num neg 0 0 false, 0)
      | _ => (.inf neg, flDZ)
    else if neg ∧ (fn = 1 ∨ fn = 3 ∨ fn = 4) then (.nan, flNV)
    else
      match fn with
      | 0 => (exp2Exact neg m e, 0)
      | 1 => (log2Exact m e, 0)
      | 2 => (quotient neg 1 0 m e, 0)
      | 3 => (rsqrtExact m e, 0)
      | _ => (rootExact m e, 0)

/-- VDIV (R276). -/
def divExact (x y : Fp) : Exact × FFlags :=
  match x, y with
  | .fin n1 m1 e1, .fin n2 m2 e2 =>
    if m2 = 0 then (if m1 = 0 then nanOf [] true else (.inf (n1 != n2), flDZ))
    else if m1 = 0 then (.num (n1 != n2) 0 0 false, 0)
    else (quotient (n1 != n2) m1 e1 m2 e2, 0)
  | .inf n1, .fin n2 _ _ => (.inf (n1 != n2), 0)
  | .fin n1 _ _, .inf n2 => (.num (n1 != n2) 0 0 false, 0)
  | .inf _, .inf _ => nanOf [] true
  | x, y => nanOf [x, y] false

/-- VSCL (R277): beyond 2^12 either way a further power of two changes no result. -/
def scaleExact (x : Fp) (k : Int) : Exact × FFlags :=
  match x with
  | .nan _ sig => (.nan, flIf sig flNV)
  | .inf neg => (.inf neg, 0)
  | .fin neg m e => (.num neg m (e + max (-4096) (min 4096 k)) false, 0)

end Sys2Proof.Machine
end

