-- ==== Sys2Proof/Machine/Vector.lean ====
section
/-! DEFINITION. Class 6: the register forms of the vector unit (R263–R281), and the event that grants them. -/

namespace Sys2Proof.Machine

/-! ## Lanes (R246, R266) -/

/-- Lane i of w bits, as raw bits. -/
def lane (w : Nat) (v : BitVec 2048) (i : Nat) : Nat := v.toNat / 2 ^ (w * i) % 2 ^ w
/-- The lanes of a format as raw bits, and as elements: the two upper bits of an E3M2 or E2M3 lane are ignored. -/
def rawLanes (f : BitVec 5) (v : BitVec 2048) : List Nat := (List.range (Num.lanes f)).map (lane (fmtSlot f) v)
def lanesOf (f : BitVec 5) (v : BitVec 2048) : List Nat := (rawLanes f v).map (· % 2 ^ fmtBits f)
def packNat (w : Nat) : List Nat → Nat
  | [] => 0
  | x :: xs => x % 2 ^ w + 2 ^ w * packNat w xs
/-- A register of lanes of a format, with its tag. -/
def vregOf (f : BitVec 5) (xs : List Nat) : VReg := { bits := BitVec.ofNat 2048 (packNat (fmtSlot f) xs), tag := f }

def orAll (fs : List FFlags) : FFlags := fs.foldl (· ||| ·) 0

/-! ## The unit (R263) -/

/-- Thread t goes before u in the unit's line: the older first, and of equal age that of the lower core (R22). -/
def State.olderThan (s : State) (t u : Nat) : Bool :=
  let a := s.cycle - (s.th t).headSince s.cycle
  let b := s.cycle - (s.th u).headSince s.cycle
  decide (b.toNat < a.toNat) || (a == b && decide (t < u))
/-- The line with thread t in its place. -/
def State.intoLine (s : State) (t : Nat) : List Nat → List Nat
  | [] => [t]
  | u :: us => if s.olderThan t u then t :: u :: us else u :: s.intoLine t us

/-- A class 6 instruction issues when its thread holds the unit's grant; until then it waits in the block's line. Bad parity in
the unit's latches is found by the instruction that goes through them (R263; log 52). -/
def vectorUnit (i : Instr) (s : State) (f : State → Out State) : Out State :=
  noService i s fun s =>
    let blk := blockOf s.cur
    if (s.block blk).vgrant = some s.cur then
      let s1 := s.modBlock blk fun b => { b with vgrant := none, unitBad := false }
      if (s.block blk).unitBad then raiseOpen 0x16 s1 else f s1
    else .next ((s.modBlock blk fun b =>
      { b with vwait := if b.vwait.contains s.cur then b.vwait else s.intoLine s.cur b.vwait }).stall .vector)

/-- VECTOR_GRANT: the oldest waiting thread gets the unit; its instruction issues as the thread next moves. -/
def execVectorGrant (blk : Nat) (s : State) : Out State :=
  let b := s.block blk
  let free : Bool := match b.vgrant with | none => true | some t => (s.th t).status != .running
  match b.vwait.find? fun t => (s.th t).status == .stalled .vector with
  | some t =>
    if free then
      .next ((s.modBlock blk fun b => { b with vgrant := some t, vwait := b.vwait.filter (· != t) }).unstall t)
    else .next s
  | none => .next s

/-- The format fault of a vector register whose tag differs (R252). -/
def State.tagFault (s : State) (f : BitVec 5) (rs : List VIdx) : Option Trap :=
  (rs.find? fun r => (s.v r).tag != f).map fun r =>
    { code := 0x06, val := BitVec.ofNat 64 (r.toNat * 2 ^ 16 + f.toNat * 2 ^ 8 + (s.v r).tag.toNat) }

/-- The checks of a class 6 instruction: its rounding mode when it uses one, FMT, and the tags of the sources
it reads as FMT (R42, R49, R267). -/
def vecOp (i : Instr) (n : Num) (useRm : Bool) (srcs : List VIdx) (s : State) (f : Rm → State → Out State) : Out State :=
  vectorUnit i s fun s =>
    match (if useRm then s.rounding n.rm else some .rne) with
    | none => illegal i s
    | some rm =>
      if Num.reserved n.fmt then reservedFmt n.fmt s
      else match s.tagFault n.fmt srcs with
        | some tr => .next (s.takeFault tr)
        | none => f rm s

/-- Writes a vector register and the flags, and retires. -/
def State.vecWrite (s : State) (d : VIdx) (v : VReg) (fl : FFlags) : Out State := .next ((s.setV d v).orFlags fl).retire

/-- Writes lanes of FMT, each with its flags. -/
def State.vecLanes (s : State) (d : VIdx) (f : BitVec 5) (rs : List (Nat × FFlags)) : Out State :=
  s.vecWrite d (vregOf f (rs.map (·.1))) (orAll (rs.map (·.2)))

/-! ## One lane (R268, R270) -/

/-- An exact integer in a lane of an integer format: clamped, or modulo 2^w. -/
def intLane (f : BitVec 5) (ovf : Bool) (v : Int) : Nat :=
  intCode f (if ovf then max (intMin f) (min (intMax f) v) else v)

/-- A lane of an arithmetic operation, given in the integers and in floating point. -/
def arithLane (n : Num) (rm : Rm) (fi : List Int → Int) (ff : List Fp → Exact × FFlags) (xs : List Nat) : Nat × FFlags :=
  if Num.isI n.fmt then (intLane n.fmt n.ovf (fi (xs.map (intDecode n.fmt))), 0)
  else roundWith n.fmt rm n.ovf (ff (xs.map (fpDecode n.fmt)))

def addFi : List Int → Int | [x, y] => x + y | _ => 0
def subFi : List Int → Int | [x, y] => x - y | _ => 0
def mulFi : List Int → Int | [x, y] => x * y | _ => 0
def fmaFi : List Int → Int | [x, y, z] => x * y + z | _ => 0
def addFf (rm : Rm) : List Fp → Exact × FFlags | [x, y] => fpAdd rm x y | _ => (.nan, 0)
def subFf (rm : Rm) : List Fp → Exact × FFlags | [x, y] => fpSub rm x y | _ => (.nan, 0)
def mulFf : List Fp → Exact × FFlags | [x, y] => fpMul x y | _ => (.nan, 0)
def fmaFf (rm : Rm) : List Fp → Exact × FFlags | [x, y, z] => fpFma rm x y z | _ => (.nan, 0)

/-- The smaller or the larger of two codes (R270). -/
def pickLane (f : BitVec 5) (isMax : Bool) (a b : Nat) : Nat × FFlags :=
  if Num.isI f then
    let x := intDecode f a
    let y := intDecode f b
    (if (if isMax then decide (y ≤ x) else decide (x ≤ y)) then a else b, 0)
  else fpMinMax f isMax a b

/-- Clears or inverts the sign of a floating-point lane: a NaN becomes canonical. -/
def signLane (f : BitVec 5) (abs : Bool) (a : Nat) : Nat × FFlags :=
  let x := fpDecode f a
  if x.isNan then (fmtNan f, flIf x.isSig flNV)
  else
    let mag := a % 2 ^ (fmtBits f - 1)
    (mag + fmtSign f (!abs && !x.neg), 0)

def absLane (n : Num) (a : Nat) : Nat × FFlags :=
  if Num.isI n.fmt then (intLane n.fmt n.ovf (intDecode n.fmt a).natAbs, 0) else signLane n.fmt true a
def negLane (n : Num) (a : Nat) : Nat × FFlags :=
  if Num.isI n.fmt then (intLane n.fmt n.ovf (-(intDecode n.fmt a)), 0) else signLane n.fmt false a

/-- The condition of a VCMP on one lane: 0 EQ, 1 LT, 2 LE, 3 NE. -/
def condLane (f : BitVec 5) (cond : Nat) (a b : Nat) : Bool × FFlags :=
  let op := if cond = 3 then 0 else cond
  let r := if Num.isI f then
      let x := intDecode f a
      let y := intDecode f b
      ((match op with | 0 => x == y | 1 => decide (x < y) | _ => decide (x ≤ y)), (0 : FFlags))
    else fpCompare op (fpDecode f a) (fpDecode f b)
  (if cond = 3 then !r.1 else r.1, r.2)

/-! ## Arithmetic (R269, R270) -/

def State.lanes2 (s : State) (f : BitVec 5) (a b : VIdx) : List (Nat × Nat) :=
  (lanesOf f (s.v a).bits).zip (lanesOf f (s.v b).bits)

def vecArith2 (i : Instr) (fi : List Int → Int) (ff : Rm → List Fp → Exact × FFlags) (d a b : VIdx) (n : Num) (s : State) : Out State :=
  vecOp i n (Num.isF n.fmt) [a, b] s fun rm s =>
    s.vecLanes d n.fmt ((s.lanes2 n.fmt a b).map fun p => arithLane n rm fi (ff rm) [p.1, p.2])

def execVadd (d a b : VIdx) (n : Num) (s : State) : Out State := vecArith2 (.vadd d a b n) addFi addFf d a b n s
def execVsub (d a b : VIdx) (n : Num) (s : State) : Out State := vecArith2 (.vsub d a b n) subFi subFf d a b n s
def execVmul (d a b : VIdx) (n : Num) (s : State) : Out State := vecArith2 (.vmul d a b n) mulFi (fun _ => mulFf) d a b n s
def execVfma (d a b c : VIdx) (n : Num) (s : State) : Out State :=
  vecOp (.vfma d a b c n) n (Num.isF n.fmt) [a, b, c] s fun rm s =>
    s.vecLanes d n.fmt (((s.lanes2 n.fmt a b).zip (lanesOf n.fmt (s.v c).bits)).map fun p =>
      arithLane n rm fmaFi (fmaFf rm) [p.1.1, p.1.2, p.2])

def vecPick (i : Instr) (isMax : Bool) (d a b : VIdx) (n : Num) (s : State) : Out State :=
  vecOp i n false [a, b] s fun _ s => s.vecLanes d n.fmt ((s.lanes2 n.fmt a b).map fun p => pickLane n.fmt isMax p.1 p.2)
def execVmin (d a b : VIdx) (n : Num) (s : State) : Out State := vecPick (.vmin d a b n) false d a b n s
def execVmax (d a b : VIdx) (n : Num) (s : State) : Out State := vecPick (.vmax d a b n) true d a b n s

def vecEach (i : Instr) (useRm : Bool) (f : Rm → Nat → Nat × FFlags) (d a : VIdx) (n : Num) (s : State) : Out State :=
  vecOp i n useRm [a] s fun rm s => s.vecLanes d n.fmt ((lanesOf n.fmt (s.v a).bits).map (f rm))
def execVabs (d a : VIdx) (n : Num) (s : State) : Out State := vecEach (.vabs d a n) false (fun _ => absLane n) d a n s
def execVneg (d a : VIdx) (n : Num) (s : State) : Out State := vecEach (.vneg d a n) false (fun _ => negLane n) d a n s

/-! ## Comparison and selection (R271) -/

/-- The signed integer format of a format's lane width. -/
def signedOf (f : BitVec 5) : BitVec 5 :=
  match fmtSlot f with | 8 => 1 | 16 => 3 | 32 => 5 | _ => 7

def execVcmp (d a b : VIdx) (n : Num) (s : State) : Out State :=
  vecOp (.vcmp d a b n) n false [a, b] s fun _ s =>
    let w := fmtSlot n.fmt
    let rs := (s.lanes2 n.fmt a b).map fun p => condLane n.fmt n.opx.toNat p.1 p.2
    s.vecWrite d { vregOf n.fmt (rs.map fun r => if r.1 then 2 ^ w - 1 else 0) with tag := signedOf n.fmt } (orAll (rs.map (·.2)))

def execVsel (d a b c : VIdx) (n : Num) (s : State) : Out State :=
  vecOp (.vsel d a b c n) n false [b, c] s fun _ s =>
    s.vecWrite d (vregOf n.fmt (((rawLanes n.fmt (s.v a).bits).zip (s.lanes2 n.fmt b c)).map fun p =>
      if p.1 ≠ 0 then p.2.1 else p.2.2)) 0

/-! ## Bits, shifts and tags (R272, R273) -/

/-- A form on raw bits: the result has the tag of vA. -/
def vecRaw (i : Instr) (d a : VIdx) (f : State → BitVec 2048) (s : State) : Out State :=
  vectorUnit i s fun s => s.vecWrite d { bits := f s, tag := (s.v a).tag } 0

def execVand (d a b : VIdx) (n : Num) (s : State) : Out State := vecRaw (.vand d a b n) d a (fun s => (s.v a).bits &&& (s.v b).bits) s
def execVor (d a b : VIdx) (n : Num) (s : State) : Out State := vecRaw (.vor d a b n) d a (fun s => (s.v a).bits ||| (s.v b).bits) s
def execVxor (d a b : VIdx) (n : Num) (s : State) : Out State := vecRaw (.vxor d a b n) d a (fun s => (s.v a).bits ^^^ (s.v b).bits) s
def execVmov (d a : VIdx) (n : Num) (s : State) : Out State := vecRaw (.vmov d a n) d a (fun s => (s.v a).bits) s

/-- VTAG sets the tag alone: bits and error mark stay. -/
def execVtag (d : VIdx) (n : Num) (s : State) : Out State :=
  vecOp (.vtag d n) n false [] s fun _ s =>
    .next (s.modMyAct fun a => { a with v := Map.set {} a.v d.toNat { Map.get ({} : VReg) a.v d.toNat with tag := n.fmt } }).retire

def vecShift (i : Instr) (f : Nat → Nat → Nat → Nat) (d a b : VIdx) (n : Num) (s : State) : Out State :=
  vecOp i n false [a, b] s fun _ s =>
    let w := fmtSlot n.fmt
    s.vecWrite d (vregOf n.fmt ((s.lanes2 n.fmt a b).map fun p => f w p.1 (p.2 % w))) 0
def execVshl (d a b : VIdx) (n : Num) (s : State) : Out State := vecShift (.vshl d a b n) (fun _ x c => x * 2 ^ c) d a b n s
def execVshr (d a b : VIdx) (n : Num) (s : State) : Out State := vecShift (.vshr d a b n) (fun _ x c => x / 2 ^ c) d a b n s
def execVsra (d a b : VIdx) (n : Num) (s : State) : Out State :=
  vecShift (.vsra d a b n) (fun w x c => x / 2 ^ c + (if 2 ^ (w - 1) ≤ x then 2 ^ w - 2 ^ (w - c) else 0)) d a b n s

/-! ## Conversion (R274) -/

/-- Replaces lanes from lane k on. -/
def putLanes (w : Nat) (old : List Nat) (k : Nat) (new : List Nat) : List Nat :=
  (old.take k).map (· % 2 ^ w) ++ new ++ old.drop (k + new.length)

def execVcvt (d a : VIdx) (n : Num) (s : State) : Out State :=
  vectorUnit (.vcvt d a n) s fun s =>
    match s.rounding n.rm with
    | none => illegal (.vcvt d a n) s
    | some rm =>
      if Num.reserved n.fmt then reservedFmt n.fmt s
      else if Num.reserved n.fmt2 then reservedFmt n.fmt2 s
      else match s.tagFault n.fmt2 [a] with
        | some tr => .next (s.takeFault tr)
        | none =>
          let ns := Num.lanes n.fmt2
          let nd := Num.lanes n.fmt
          let m := min ns nd
          let src := lanesOf n.fmt2 (s.v a).bits
          let part := if nd < ns then (src.drop (n.opx.toNat * m)).take m else src.take m
          let rs := part.map (convert n.fmt n.fmt2 rm n.ovf)
          let w := fmtSlot n.fmt
          let out := if nd < ns then rs.map (·.1)
            else putLanes w (rawLanes n.fmt (s.v d).bits) (n.opx.toNat * m) (rs.map (·.1))
          s.vecWrite d (vregOf n.fmt out) (orAll (rs.map (·.2)))

/-! ## Special functions, division and scaling (R275–R277) -/

def vecFn (i : Instr) (fn : Nat) (d a : VIdx) (n : Num) (s : State) : Out State :=
  vecEach i true (fun rm x => roundWith n.fmt rm n.ovf (specialExact fn (fpDecode n.fmt x))) d a n s
def execVexp2 (d a : VIdx) (n : Num) (s : State) : Out State := vecFn (.vexp2 d a n) 0 d a n s
def execVlog2 (d a : VIdx) (n : Num) (s : State) : Out State := vecFn (.vlog2 d a n) 1 d a n s
def execVrcp (d a : VIdx) (n : Num) (s : State) : Out State := vecFn (.vrcp d a n) 2 d a n s
def execVrsq (d a : VIdx) (n : Num) (s : State) : Out State := vecFn (.vrsq d a n) 3 d a n s
def execVsqrt (d a : VIdx) (n : Num) (s : State) : Out State := vecFn (.vsqrt d a n) 4 d a n s

def execVdiv (d a b : VIdx) (n : Num) (s : State) : Out State :=
  vecOp (.vdiv d a b n) n true [a, b] s fun rm s =>
    s.vecLanes d n.fmt ((s.lanes2 n.fmt a b).map fun p =>
      roundWith n.fmt rm n.ovf (divExact (fpDecode n.fmt p.1) (fpDecode n.fmt p.2)))
def execVscl (d a : VIdx) (b : GReg) (n : Num) (s : State) : Out State :=
  vecOp (.vscl d a b n) n true [a] s fun rm s =>
    s.vecLanes d n.fmt ((lanesOf n.fmt (s.v a).bits).map fun x =>
      roundWith n.fmt rm n.ovf (scaleExact (fpDecode n.fmt x) (s.g b).toInt))

/-! ## Reduction (R259, R278) -/

/-- The tree of R259: each step combines lane i with the lane half the list away. -/
def treeReduce (f : Nat → Nat → Nat × FFlags) : Nat → List Nat → FFlags → Nat × FFlags
  | 0, xs, fl => (xs.headD 0, fl)
  | k + 1, xs, fl =>
    let h := xs.length / 2
    if h = 0 then (xs.headD 0, fl)
    else
      let rs := (xs.take h).zipWith f (xs.drop h)
      treeReduce f k (rs.map (·.1)) (fl ||| orAll (rs.map (·.2)))

/-- A code of a format extended to 64 bits: signed integers by their sign. -/
def extendCode (f : BitVec 5) (x : Nat) : Word :=
  if fmtSigned f then BitVec.ofInt 64 (intDecode f x) else BitVec.ofNat 64 (x % 2 ^ fmtBits f)

def execVred (d : GReg) (a : VIdx) (n : Num) (s : State) : Out State :=
  vecOp (.vred d a n) n (Num.isF n.fmt) [a] s fun rm s =>
    let step : Nat → Nat → Nat × FFlags := fun x y =>
      match n.opx.toNat with
      | 0 => arithLane n rm addFi (addFf rm) [x, y]
      | 1 => pickLane n.fmt false x y
      | _ => pickLane n.fmt true x y
    let r := treeReduce step 9 (lanesOf n.fmt (s.v a).bits) 0
    .next ((s.setG d (extendCode n.fmt r.1)).orFlags r.2).retire

/-! ## Moving lanes (R279, R280) -/

def execVbcast (d : VIdx) (a : GReg) (n : Num) (s : State) : Out State :=
  vecOp (.vbcast d a n) n false [] s fun _ s =>
    s.vecWrite d (vregOf n.fmt (List.replicate (Num.lanes n.fmt) ((s.g a).toNat % 2 ^ fmtBits n.fmt))) 0
def execVext (d : GReg) (a : VIdx) (b : GReg) (n : Num) (s : State) : Out State :=
  vecOp (.vext d a b n) n false [a] s fun _ s =>
    let x := lane (fmtSlot n.fmt) (s.v a).bits ((s.g b).toNat % Num.lanes n.fmt) % 2 ^ fmtBits n.fmt
    .next (s.writeRetire d (if fmtSigned n.fmt then extendCode n.fmt x else BitVec.ofNat 64 x))
def execVins (d : VIdx) (a b : GReg) (n : Num) (s : State) : Out State :=
  vecOp (.vins d a b n) n false [] s fun _ s =>
    let old := rawLanes n.fmt (s.v d).bits
    s.vecWrite d (vregOf n.fmt (old.set ((s.g b).toNat % Num.lanes n.fmt) ((s.g a).toNat % 2 ^ fmtBits n.fmt))) 0
/-- The number i in a lane. -/
def iotaLane (f : BitVec 5) (i : Nat) : Nat :=
  if Num.isI f then intCode f i else (fpRound f .rne false (exactOfInt i)).1
def execViota (d : VIdx) (n : Num) (s : State) : Out State :=
  vecOp (.viota d n) n false [] s fun _ s => s.vecWrite d (vregOf n.fmt ((List.range (Num.lanes n.fmt)).map (iotaLane n.fmt))) 0
def execVperm (d a b : VIdx) (n : Num) (s : State) : Out State :=
  vecOp (.vperm d a b n) n false [a] s fun _ s =>
    let w := fmtSlot n.fmt
    s.vecWrite d (vregOf n.fmt ((rawLanes n.fmt (s.v b).bits).map fun k => lane w (s.v a).bits (k % Num.lanes n.fmt) % 2 ^ fmtBits n.fmt)) 0

/-! ## Bit operations per 64-bit lane (R281) -/

def lanes64 (v : BitVec 2048) : List Word := (List.range 32).map fun i => BitVec.ofNat 64 (lane 64 v i)
def pack64 (xs : List Word) : BitVec 2048 := BitVec.ofNat 2048 (packNat 64 (xs.map (·.toNat)))
def vec64 (i : Instr) (f : Word → Word → Word) (d a b : VIdx) (s : State) : Out State :=
  vecRaw i d a (fun s => pack64 ((lanes64 (s.v a).bits).zipWith f (lanes64 (s.v b).bits))) s

def execVbmm8 (d a b : VIdx) (n : Num) (s : State) : Out State :=
  vec64 (.vbmm8 d a b n)
    (match n.opx.toNat with
      | 0 => bmm8 (fun i k => 8 * i + k) true
      | 1 => bmm8 (fun i k => 8 * i + k) false
      | _ => bmm8 (fun i k => 8 * k + i) true) d a b s
def execVpdep (d a b : VIdx) (n : Num) (s : State) : Out State := vec64 (.vpdep d a b n) pdep d a b s
def execVpext (d a b : VIdx) (n : Num) (s : State) : Out State := vec64 (.vpext d a b n) pext d a b s
def execVbperm (d a b : VIdx) (n : Num) (s : State) : Out State :=
  vecRaw (.vbperm d a b n) d a (fun s => pack64 ((lanes64 (s.v a).bits).map (bperm (s.v b).bits))) s

end Sys2Proof.Machine
end

