-- ==== Sys2Proof/Machine/Sweep.lean ====
section
/-! DEFINITION. Class 7: sweeps of the vector unit over shapes (R282–R291, R429), with block floating point
(R247–R250), and the sweep events. -/

namespace Sys2Proof.Machine

/-! ## Block floating point (R247–R250) -/

/-- 2^(e − 127 − (m − 1)), the unit of a block with exponent byte e. -/
def bfpScale (m e : Nat) : Int := (e : Int) - 127 - (m - 1)
/-- Element i of a row of k elements. -/
def bfpElem (m k row i : Nat) : Int × Nat :=
  let e := row / 2 ^ (8 * (i / 32)) % 256
  let x := row / 2 ^ (8 * 32 * ((k + 1023) / 1024) + m * i) % 2 ^ m
  (if 2 ^ (m - 1) ≤ x then (x : Int) - 2 ^ m else x, e)
def bfpValue (m k row i : Nat) : Fp :=
  let p := bfpElem m k row i
  .fin (decide (p.1 < 0)) p.1.natAbs (bfpScale m p.2)

/-- The larger magnitude of two finite numbers. -/
def largerMag (a b : Nat × Int) : Nat × Int := if leScaled a.1 a.2 b.1 b.2 then b else a
/-- The finite elements' largest magnitude. -/
def largestMag (xs : List Fp) : Nat × Int :=
  xs.foldl (fun a x => match x with | .fin _ m e => largerMag a (m, e) | _ => a) (0, 0)

/-- A finite element's mantissa at exponent e before clamping, and whether it is inexact; a NaN counts as 0. -/
def bfpRound (m : Nat) (rm : Rm) (e : Int) : Fp → Int × Bool
  | .fin neg x ex => roundInt rm neg x (ex + 127 + (m - 1 : Nat) - e)
  | _ => (0, false)
/-- Some finite element lies outside the range at exponent e. -/
def bfpOver (m : Nat) (rm : Rm) (e : Int) (xs : List Fp) : Bool :=
  xs.any fun x => let q := (bfpRound m rm e x).1; decide (q < -(2 ^ (m - 1)) ∨ 2 ^ (m - 1) - 1 < q)
/-- Raises the exponent while some element lies outside: at most n times. -/
def bfpExponent (m : Nat) (rm : Rm) (xs : List Fp) : Nat → Int → Int
  | 0, e => max 0 e
  | n + 1, e => let e := max 0 e; if bfpOver m rm e xs then bfpExponent m rm xs n (e + 1) else e

/-- One block of 32 elements (R250): its exponent, mantissas and flags. -/
def bfpBlock (m : Nat) (rm : Rm) (xs : List Fp) : Nat × List Int × FFlags :=
  let hasInf := xs.any Fp.isInf
  let a := largestMag xs
  let e0 : Int := if a.1 = 0 then 0 else 128 + ((bitLen a.1 : Int) - 1 + a.2)
  let e1 := if hasInf then 254 else bfpExponent m rm xs 3 e0
  let e := min 254 e1
  let top : Int := 2 ^ (m - 1) - 1
  let one : Fp → Int × FFlags := fun x =>
    match x with
    | .nan _ _ => (0, flNV)
    | .inf neg => (if neg then -top else top, flOF)
    | .fin _ n _ =>
      let q := bfpRound m rm e x
      let c := max (-(2 ^ (m - 1))) (min top q.1)
      (c, flIf q.2 flNX ||| flIf (c != q.1) (flOF ||| flNX) ||| flIf (q.1 == 0 && n != 0) (flUF ||| flNX))
  let rs := xs.map one
  (e.toNat, rs.map (·.1), orAll (rs.map (·.2)) ||| flIf (decide (254 < e1)) (flOF ||| flNX))

/-- A row of elements in BFP: its bytes as a number, and flags. -/
def bfpRow (m : Nat) (rm : Rm) (xs : List Fp) : Nat × FFlags :=
  let k := xs.length
  let bs := (List.range (k / 32)).map fun b => bfpBlock m rm ((xs.drop (32 * b)).take 32)
  let exps := packNat 8 (bs.map (·.1))
  let mants := packNat m (bs.flatMap fun b => b.2.1.map fun q => (q % 2 ^ m).toNat)
  (exps + 2 ^ (8 * 32 * ((k + 1023) / 1024)) * mants, orAll (bs.map fun b => b.2.2))

/-! ## Issue (R282, R283, R429) -/

/-- A failed check whose MTVAL R283 does not state: a free value (log 8). -/
def openFault (tr : Trap) (s : State) : Out State := raiseOpen tr.code s

/-- The issue of a sweep: its KIND, whether it uses RM, what it requires of its shapes, and whether it reads DST. -/
def sweepIssue (i : Instr) (a b : GReg) (n : Num) (kind : Nat) (useRm : Bool) (ok : Shape → Shape → Bool) (dstRd : Bool)
    (op : Num → JobOp) (s : State) : Out State :=
  noService i s fun s =>
    match (if useRm then s.rounding n.rm else some .rne) with
    | none => illegal i s
    | some rm =>
      if Num.reserved n.fmt then reservedFmt n.fmt s
      else if Num.reserved n.fmt2 then reservedFmt n.fmt2 s
      else if !s.settled s.cur then .next (s.stall .access) else
      match s.readCard (s.g a) true with
      | .error e => .next (s.takeFault e)
      | .ok (k, s1) =>
        match s1.engineBlock (s.g b) with
        | none => raise 0x0F (s.g b) s1
        | some blk =>
          let src := { k.src with blk }
          let dst := { k.dst with blk }
          if !replyOk k.card.reply then raise 0x0F k.card.reply s1
          else if !(k.card.ok kind && k.srcOk && k.dstOk && src.sp != 7 && dst.sp != 7 && ok src dst) then let r := s1.takeFree; raiseOwn r.1 r.2
          -- a space code that no space has is none of the spaces of R283's step 5; R61's failing job is a copy's or a relabel's (log 93)
          else if src.noSpace || dst.noSpace then raiseOpen 0x08 s1
          else match s1.placeCheck [(src, [0, 1, 2]), (dst, [0, 1])] with
          | some tr => openFault tr s1
          | none => s1.issueCard blk k.card .vector (op { n with rm }) src (some dst) dstRd false openFault id

def sameExtent (x y : Shape) : Bool := x.rank == y.rank && x.sizes == y.sizes

/-- SWMAP (R285). -/
def execSwmap (a b : GReg) (n : Num) (s : State) : Out State :=
  sweepIssue (.swmap a b n) a b n 0x10 (Num.isF n.fmt && n.opx.toNat < 2)
    (fun src dst => src.fmt == n.fmt && dst.fmt == n.fmt && sameExtent src dst) true .swmap s
/-- SWRED (R286). -/
def execSwred (a b : GReg) (n : Num) (s : State) : Out State :=
  sweepIssue (.swred a b n) a b n 0x11 (n.fmt == 8)
    (fun src dst => src.fmt == n.fmt2 && dst.fmt == n.fmt && dst.rank == max 1 (src.rank - 1) &&
      (List.range 3).all fun d => dst.size d == src.size (d + 1)) false .swred s
/-- SWCVT (R287). -/
def execSwcvt (a b : GReg) (n : Num) (s : State) : Out State :=
  sweepIssue (.swcvt a b n) a b n 0x12 true
    (fun src dst => src.fmt == n.fmt2 && dst.fmt == n.fmt && sameExtent src dst) false .swcvt s

/-! ## The work of a sweep (R285–R287, R290) -/

/-- SWMAP over the elements that were read: the values written, each seeing those before it, and the flags. -/
def mapElems (n : Num) (dst : Shape) (img : List (Nat × Word)) : List (Int × Nat) → Map Nat → List Nat → FFlags → List Nat × FFlags
  | [], _, out, fl => (out.reverse, fl)
  | (b, x) :: rest, seen, out, fl =>
    let bit := dst.flatBit b
    let old := if seen.any fun e => e.1 == bit then some (Map.get 0 seen bit) else imageBits img bit dst.width
    match old with
    | none => (out.reverse, fl)
    | some y =>
      let r := match n.opx.toNat with
        | 0 => arithLane n n.rm addFi (addFf n.rm) [x, y]
        | 1 => arithLane n n.rm mulFi mulFf [x, y]
        | 2 => pickLane n.fmt false x y
        | _ => pickLane n.fmt true x y
      mapElems n dst img rest (Map.put seen bit r.1) (r.1 :: out) (fl ||| r.2)

/-- The step of a reduction on two partials. -/
def redStep (n : Num) (x y : Nat) : Nat × FFlags :=
  match n.opx.toNat with
  | 1 => pickLane n.fmt false x y
  | 2 => pickLane n.fmt true x y
  | _ => arithLane n n.rm addFi (addFf n.rm) [x, y]

/-- Element x into its partial (R260, R286). -/
def redInto (n : Num) (p : Option Nat) (x : Nat) : Nat × FFlags :=
  if n.opx = 3 then
    match p with
    | none => arithLane n n.rm mulFi mulFf [x, x]
    | some q => arithLane n n.rm fmaFi (fmaFf n.rm) [x, x, q]
  else match p with
    | none => (x, 0)
    | some q => redStep n q x

/-- The 64 partials of a fibre. -/
def partials (n : Num) : Nat → List Nat → Map (Option Nat) → FFlags → Map (Option Nat) × FFlags
  | _, [], m, fl => (m, fl)
  | e, x :: xs, m, fl =>
    let c := convert n.fmt n.fmt2 n.rm n.ovf x
    let r := redInto n (Map.get none m (e % 64)) c.1
    partials n (e + 1) xs (Map.put m (e % 64) (some r.1)) (fl ||| c.2 ||| r.2)

/-- The tree over partials, where an empty one takes no part (R259, R260). -/
def partialTree (n : Num) : Nat → List (Option Nat) → FFlags → Option Nat × FFlags
  | 0, ps, fl => (ps.headD none, fl)
  | k + 1, ps, fl =>
    let h := ps.length / 2
    if h = 0 then (ps.headD none, fl) else
    let rs := (ps.take h).zipWith (fun x y => match x, y with
      | some a, some b => let r := redStep n a b; (some r.1, r.2)
      | some a, none => (some a, 0)
      | none, y => (y, (0 : FFlags))) (ps.drop h)
    partialTree n k (rs.map (·.1)) (fl ||| orAll (rs.map (·.2)))

/-- What an empty fibre writes (R286). -/
def emptyFibre (n : Num) : Nat :=
  match n.opx.toNat with
  | 1 => if Num.isI n.fmt then intCode n.fmt (intMax n.fmt) else fmtInf n.fmt false
  | 2 => if Num.isI n.fmt then intCode n.fmt (intMin n.fmt) else fmtInf n.fmt true
  | _ => 0

/-- The result of one fibre. -/
def redFibre (n : Num) (xs : List Nat) : Nat × FFlags :=
  let p := partials n 0 xs [] 0
  let r := partialTree n 7 ((List.range 64).map (Map.get none p.1)) p.2
  match r.1 with
  | some x => (x, r.2)
  | none => (emptyFibre n, r.2)

/-- The elements of a list in pieces of k. -/
def piecesOf (k : Nat) : Nat → List Nat → List (List Nat)
  | 0, _ => []
  | n + 1, xs => xs.take k :: piecesOf k n (xs.drop k)

/-- The elements that units hold, as numbers to convert: an integer, or a floating-point datum. -/
def unitData (h : Shape) (x : Nat) : List (Int ⊕ Fp) :=
  if h.bfp then (List.range (h.size 0)).map fun i => .inr (bfpValue (bfpBits h.fmt) (h.size 0) x i)
  else if Num.isI h.fmt then [.inl (intDecode h.fmt x)] else [.inr (fpDecode h.fmt x)]

/-- A datum converted to a code of a format (R274). -/
def cvtDatum (n : Num) : Int ⊕ Fp → Nat × FFlags
  | .inl v => if Num.isI n.fmt then let r := intToInt n.fmt n.ovf v; (intCode n.fmt r.1, r.2) else fpRound n.fmt n.rm n.ovf (exactOfInt v)
  | .inr x => if Num.isI n.fmt then let r := fpToInt n.fmt n.rm n.ovf x; (intCode n.fmt r.1, r.2) else fpToFp n.fmt n.rm n.ovf x
/-- A datum as floating point, for a BFP block. -/
def datumFp : Int ⊕ Fp → Fp
  | .inl v => .fin (decide (v < 0)) v.natAbs 0
  | .inr x => x

/-- The units that SWCVT writes for the data read: elements, or whole rows. -/
def cvtUnits (n : Num) (dst : Shape) (xs : List (Int ⊕ Fp)) : Nat → List (Nat × FFlags)
  | 0 => []
  | fuel + 1 =>
    if dst.bfp then
      let k := dst.size 0
      if k = 0 ∨ xs.length < k then [] else
      bfpRow (bfpBits dst.fmt) n.rm ((xs.take k).map datumFp) :: cvtUnits n dst (xs.drop k) fuel
    else match xs with
      | [] => []
      | x :: rest => cvtDatum n x :: cvtUnits n dst rest fuel

/-- What a sweep writes to DST's units in order, its flags, and its status before any write. -/
def sweepResult (j : Job) (src dst : Shape) : List Nat × FFlags × Byte :=
  let xs := src.values j.image
  if src.badExponent j.image then ([], 0, 0x06) else
  match j.op with
  | .swmap n =>
    let r := mapElems n dst j.image (dst.units.zip xs) [] [] 0
    (r.1, r.2, j.status)
  | .swred n =>
    if j.status ≠ 0 then ([], 0, j.status) else
    let rs := (piecesOf (src.size 0) dst.units.length xs).map (redFibre n)
    (rs.map (·.1), orAll (rs.map (·.2)), 0)
  | .swcvt n =>
    let rs := cvtUnits n dst (xs.flatMap (unitData src)) dst.units.length
    (rs.map (·.1), orAll (rs.map (·.2)), j.status)
  | _ => ([], 0, 0)

def JobOp.isRed : JobOp → Bool | .swred _ => true | _ => false
/-- A reduction writes all of its results in one step, so that one that is cancelled has written none (R290): it waits
while a routine holds one of their granules. -/
def Shape.mayWrite (h : Shape) (s : State) (j : Job) : Bool := !j.op.isRed || h.words.all fun w => !s.held w

/-- SWEEP_START (R291). -/
def execSweepStart (blk id : Nat) (s : State) : Out State := .next (s.startJob blk id .vector)

/-- SWEEP_COMPLETE: the results are written, and the completion follows (R289). -/
def execSweepComplete (blk id : Nat) (s : State) : Out State :=
  match s.job? blk id with
  | none => .next s
  | some j =>
    match j.phase, j.eng, j.src, j.dst with
    | .consumed, .vector, some src, some dst =>
      let r := sweepResult j src dst
      if !dst.mayWrite s j then .next s else
      match (if j.op.isRed then { s with pace := none } else s).engineWrite blk j dst .plain r.1 with
      | (none, s1) => .next s1
      | (some c, s1) => .next (s1.finishJob blk j (if r.2.2 = 0 then errStatus c else r.2.2) r.2.1)
    | _, _, _, _ => .next s

end Sys2Proof.Machine
end

