-- ==== Sys2Proof/Machine/Equiv.lean ====
section
/-! DEFINITION. Class 10: the equivalence engines (R338–R357): forests, finding and uniting in steps, snapshots,
relabelling, and the engines' events; and the reading of the operands of every card job (R326). -/

namespace Sys2Proof.Machine

/-! ## Forests and entries (R338–R340) -/

def Quern.size (q : Quern) : Nat := 2 ^ q.lg
/-- The owner of element i. -/
def eqOwner (blk : Nat) (q : Quern) (i : Nat) : Nat := groupBase blk q.lg + i % q.size

/-- The forest that a context has bound to the engine of a block. -/
def State.forest? (s : State) (blk : Nat) (pid : BitVec 16) : Option Quern :=
  let q := s.quern blk
  if q.bound ∧ q.pid = pid ∧ (groupOfBlocks blk q.lg).all (fun b => (s.quern b).bound && (s.quern b).forest == q.forest) then some q else none
def State.home (s : State) (blk : Nat) (q : Quern) : Quern := s.quern (groupBase blk q.lg)
def State.modHome (s : State) (blk : Nat) (q : Quern) (f : Quern → Quern) : State := s.modQuern (groupBase blk q.lg) f

/-- Address of element i: in S of its owner, or in device memory. -/
def eqAddr (q : Quern) (i : Nat) : Nat := if q.dev then q.base.toNat + 8 * i else q.base.toNat + 8 * (i / q.size)

/-- Where an entry lies: flat word and stamp; or the cause of the error (R176): 1 when its page is not mapped. -/
def State.eqLocate (s : State) (blk : Nat) (q : Quern) (i : Nat) (write : Bool) : Except Byte (Nat × Nat × State) :=
  let o := eqOwner blk q i
  if !q.dev then .ok ((bufBase o 0 + eqAddr q i) / 8, (s.quern o).key, s)
  else
    let lva := eqAddr q i % 2 ^ 40
    match s.translate (engineThread o 3) q.pid lva with
    | (none, _) => .error 1
    | (some l, s1) =>
      let c := tnakCause l.1 (if write then .store else .load) .plain
      if c ≠ 0 then .error c
      else
        let pa := leafAddr l lva
        .ok (pa / 8, s1.memStamp q.pid (l.1.extractLsb' 54 3), s1.touchLine pa)

def State.eqRead (s : State) (blk : Nat) (q : Quern) (i : Nat) : Except Byte (Word × State) :=
  match s.eqLocate blk q i false with
  | .error c => .error c
  | .ok (w, key, s1) => if s1.mem.bad w then .error 6 else .ok (s1.readWord key w)
/-- Writes a whole entry, which clears its poison; or the cause of the error (R342), 0 while a routine holds its granule (R200). -/
def State.eqWrite (s : State) (blk : Nat) (q : Quern) (i : Nat) (x : Word) : Except Byte State :=
  match s.eqLocate blk q i true with
  | .error c => .error c
  | .ok (w, key, s1) => if s1.held (8 * w) then .error 0 else .ok ((s1.writeWords key w 1 x.toNat).modMem fun m => m.setBad w false)
/-- Writes some entries, in order; the element of the first error and its cause. -/
def State.eqWrites (s : State) (blk : Nat) (q : Quern) : List (Nat × Word) → Except (Nat × Byte) State
  | [] => .ok s
  | (i, x) :: es =>
    match s.eqWrite blk q i x with
    | .error c => .error (i, c)
    | .ok s1 => s1.eqWrites blk q es

def entryParent (w : Word) : Nat := w.toNat % 2 ^ 32
def entrySize (w : Word) : Nat := w.toNat / 2 ^ 32
def entryOf (parent size : Nat) : Word := BitVec.ofNat 64 (size * 2 ^ 32 + parent)

/-! ## Issue (R341–R344, R347, R352) -/

/-- A class 10 instruction of a team member ends the epoch's use; then the operation joins the thread's. -/
def eqIssue (i : Instr) (op : State → EqOp) (s : State) : Out State :=
  noService i s fun s =>
    let o := { op s with mon := s.me.mode == .monitor }
    .next (((s.killEpoch s.me.act).modMe fun x => { x with eqops := x.eqops ++ [o] })).retire

def execEqunite (d a b : GReg) (s : State) : Out State :=
  eqIssue (.equnite d a b) (fun s => { kind := 0, dst := d, x := s.g a, y := s.g b }) s
def execEqfind (d a : GReg) (s : State) : Out State := eqIssue (.eqfind d a) (fun s => { kind := 1, dst := d, x := s.g a }) s
def execEqsame (d a b : GReg) (s : State) : Out State :=
  eqIssue (.eqsame d a b) (fun s => { kind := 2, dst := d, x := s.g a, y := s.g b }) s
def execEqsize (d a : GReg) (s : State) : Out State := eqIssue (.eqsize d a) (fun s => { kind := 3, dst := d, x := s.g a }) s
def execEqsnap (d : GReg) (s : State) : Out State := eqIssue (.eqsnap d) (fun _ => { kind := 4, dst := d }) s
def execEqundo (d : GReg) (s : State) : Out State := eqIssue (.equndo d) (fun _ => { kind := 5, dst := d }) s
def execEqcommit (d : GReg) (s : State) : Out State := eqIssue (.eqcommit d) (fun _ => { kind := 6, dst := d }) s

/-- The blocks of a group, and of the forests that the context has bound to its engines: what is accepted there completes
before the rebinding (R344). -/
def State.eqOld (s : State) (grp : List Nat) (pid : BitVec 16) : List Nat :=
  grp ++ grp.flatMap fun b => if (s.quern b).bound && (s.quern b).pid == pid then groupOfBlocks b (s.quern b).lg else []
/-- Another EQINIT has had an engine of the group released and is about to bind it. -/
def State.eqClaimed (s : State) (grp : List Nat) : Bool :=
  grp.any fun b => match (s.quern b).claim with
    | some (t, id) => t != s.cur && (s.th t).act.id == id && (s.th t).status == .stalled .engine
    | none => false

/-- Some thread of these blocks has forest operations that are not answered. -/
def State.eqBusy (s : State) (blks : List Nat) : Bool :=
  List.any s.threads fun e : Nat × Thread => isAct e.1 && blks.contains (blockOf e.1) && e.2.eqops != []

/-- The stamps of an S forest's region at each engine (R344 steps 4 and 5), or the first failing check. -/
def State.eqKeys (s : State) (base len : Nat) : List Nat → Except Trap (List (Nat × Nat))
  | [] => .ok []
  | b :: bs =>
    let own := b == blockOf s.cur
    let a := base + (if own then 0 else b % 8 * 2 ^ 19)
    match s.spanCheck (blockOf s.cur) (if own then 0 else 4) a len true true, s.eqKeys base len bs with
    | .error e, _ => .error { e with val := BitVec.ofNat 64 a }
    | .ok _, .error e => .error e
    | .ok k, .ok ks => .ok ((b, k) :: ks)

/-- EQINIT (R343, R344). Operations accepted before complete against the old forest, and what an earlier EQINIT has still to
write is written first. A KIND 00 BASE that names a chip is
met after its alignment (R172, log 89). Between the release of the old forest and the binding of the new other operations
may reach an engine, when the binding comes later than the first issue (R348). -/
def execEqinit (a : GReg) (size : Bool) (lg : BitVec 2) (s : State) : Out State :=
  noService (.eqinit a size lg) s fun s =>
    let ga := s.g a
    let blk := blockOf s.cur
    let grp := groupOfBlocks blk lg.toNat
    if s.readWaits ga 16 then .next (s.stall .engine) else
    match s.readS ga 16 16 with
    | .error e => .next (s.takeFault e)
    | .ok (bs, s1) =>
      let raw : Word := BitVec.ofNat 64 (field bs 0 8)
      let n := field bs 8 4
      let bf := baseForm raw
      let dev := bf.1 == 7
      let len := 8 * ((n + 2 ^ lg.toNat - 1) / 2 ^ lg.toNat)
      if field bs 0xC 4 ≠ 0 ∨ n = 0 ∨ 2 ^ 24 < n ∨ !(bf.1 == 0 || (dev && dKind raw == 0)) then raiseOwn ga s1
      else if bf.2.toNat % 8 ≠ 0 then raise 0x09 raw s1
      else if dev ∧ dChip raw ≠ 0 then raise 0x08 raw s1
      else if !dev ∧ 0x40000 < bf.2.toNat + len then raise 0x08 (BitVec.ofNat 64 (bf.2.toNat + len - 1)) s1
      else
        match (if dev then .ok [] else s1.eqKeys bf.2.toNat len grp : Except Trap (List (Nat × Nat))) with
        | .error e => .next (s1.takeFault e)
        | .ok ks =>
          let x := s1.me
          if s1.eqBusy (s1.eqOld grp x.act.pid) ∨ (s1.eqOld grp x.act.pid).any (fun b => (s1.quern b).due || (s1.quern b).held) ∨ s1.eqClaimed grp then .next (s.stall .engine)
          else match grp.find? fun b => (s1.quern b).bound && (s1.quern b).pid != x.act.pid with
            | some b => raise 0x07 (BitVec.ofNat 64 (b % 8)) s1
            | none =>
              if x.late then
                .next ((grp.foldl (fun s b => s.modQuern b fun _ => { claim := some (s.cur, x.act.id) }) s).stall .engine) else
              let num := ((List.range 8).map fun i => (s1.quern (blk / 8 * 8 + i)).forest).foldl max 0 + 1
              let s2 := grp.foldl (fun s b => s.modQuern b fun _ => {
                bound := true, pid := x.act.pid, launch := x.act.launch, thread := s1.cur, issuer := x.act.id, forest := num, dev, base := bf.2, n
                sizeRule := size, lg := lg.toNat, due := true, key := ((ks.find? fun k => k.1 == b).elim 0 (·.2))
                classes := if b = groupBase blk lg.toNat then n else 0, maxSize := if b = groupBase blk lg.toNat then 1 else 0 }) s1
              .next (s2.killEpoch x.act).retire

/-- EQ_ENTRY_WRITES: an engine writes its entries; for a device forest the home engine writes all, apart from what a relabel
job of that engine still writes (R344). An error is held against the thread of the EQINIT, with the entry that failed (R342). -/
def execEqEntryWrites (blk : Nat) (s : State) : Out State :=
  let q := s.quern blk
  if !q.bound ∨ !q.due then .next s
  else if !q.dev then
    let mine := (List.range q.n).filter fun i => eqOwner blk q i == blk
    match s.eqWrites blk q (mine.map fun i => (i, entryOf i 1)) with
    | .error _ => .next s
    | .ok s1 => .next (s1.modQuern blk fun q => { q with due := false })
  else if blk ≠ groupBase blk q.lg then .next s
  else
    let j : Job := { id := 0, eng := .equiv, op := .relabel false 0, thread := q.thread, issuer := 0, pid := q.pid, launch := 0, wid := 0 }
    let h : Shape := { sp := 7, blk, fmt := 7, addr := q.base, sizes := [q.n], strides := [1] }
    let es := (h.pieces .plain (h.units.zip ((List.range q.n).map fun i => (entryOf i 1).toNat))).map fun p =>
      engineElem h.keys p.at' p.n p.val p.mask
    match s.engineAccessAs (engineThread blk 4) blk j { seq := 0, what := .store, sp := .d, elems := es } with
    | (none, s1) => .next s1
    | (some r, s1) =>
      let s2 := (groupOfBlocks blk q.lg).foldl (fun s b => s.modQuern b fun k => if k.forest = q.forest then { k with due := false } else k) s1
      .next (if r.err = 0 then s2 else (s2.modIssuer { j with issuer := q.issuer } fun a => a.addError r.err 3 7 r.errAddr).getD s2)

/-! ## The steps of an operation (R345–R349) -/

/-- A result word (R347). -/
def eqWord (status size : Nat) (same : Bool) (root : Nat) : Word :=
  BitVec.ofNat 64 (status * 2 ^ 60 + (if status ≤ 1 then size % 2 ^ 25 * 2 ^ 32 + (if same then 2 ^ 31 else 0) + root else 0))

def State.setOp (s : State) (t : Nat) (o : EqOp) : State :=
  s.modTh t fun x => { x with eqops := match x.eqops with | _ :: os => o :: os | [] => [] }
/-- Answers thread t's oldest operation with a word. -/
def State.eqAnswer (s : State) (t : Nat) (o : EqOp) (w : Word) : State :=
  s.modTh t fun x =>
    let a := x.act
    let a1 := if o.kind ≤ 3 ∧ w.toNat / 2 ^ 60 ≤ 1 then { a with eqlast := w.extractLsb' 32 25 } else a
    let x1 := { x with eqops := x.eqops.drop 1, act := a1 }
    if o.dst = 0 then x1
    else if o.mon then { x1 with mg := Map.set 0 x1.mg o.dst.toNat w, mgErr := x1.mgErr &&& ~~~(1#32 <<< o.dst.toNat) }
    else { x1 with act := x1.act.setG o.dst w }
/-- Answers it with an error, which marks its register (R340, R342). -/
def State.eqError (s : State) (t : Nat) (o : EqOp) (c : Byte) (q : Quern) (i : Nat) : State :=
  (s.modTh t fun x =>
    let x1 := { x with eqops := x.eqops.drop 1 }
    if o.dst = 0 then x1
    else if o.mon then { x1 with mgErr := x1.mgErr ||| (1#32 <<< o.dst.toNat) }
    else { x1 with act := { x1.act with gErr := x1.act.gErr ||| (1#32 <<< o.dst.toNat) } }).recordError t c 3 (if q.dev then 7 else 0)
      (BitVec.ofNat 64 (eqAddr q i))

/-- An operation's access to an entry has not succeeded. It waits while a routine holds the granule, and for 1 ms while the
page is not mapped, and the walk is logged (R174, R176); otherwise the operation ends with the error. -/
def State.eqFail (s : State) (t : Nat) (o : EqOp) (c : Byte) (q : Quern) (i : Nat) : State :=
  let park := match (s.th t).eqops with | h :: _ => h.park | [] => 0
  if c = 0 ∨ (c = 1 ∧ park = 1) then s
  else if c = 1 ∧ park = 0 then
    let s1 := (s.translate (engineThread (eqOwner (blockOf t) q i) 3) q.pid (eqAddr q i % 2 ^ 40)).2
    s1.modTh t fun x => { x with eqops := match x.eqops with | h :: os => { h with park := 1 } :: os | [] => [] }
  else s.eqError t o c q i

/-- Entries used at an engine. -/
def usedAt (log : List (Nat × List (Nat × Word))) (blk : Nat) : Nat := (log.filter fun e => e.1 == blk).length
/-- The log of an element's owner is full, under a snapshot. -/
def State.logFull (s : State) (blk : Nat) (q : Quern) (i : Nat) : Bool :=
  let h := s.home blk q
  h.snap.isSome && decide (4096 ≤ usedAt h.log (eqOwner blk q i))
/-- Logs old entries at an element's owner, under a snapshot. -/
def State.eqLog (s : State) (blk : Nat) (q : Quern) (i : Nat) (olds : List (Nat × Word)) : State :=
  if (s.home blk q).snap.isSome then s.modHome blk q fun h => { h with log := (eqOwner blk q i, olds) :: h.log } else s

/-- The visited elements to compress: all but the root and its direct child. -/
def toCompress (path : List Nat) (root : Nat) : List (Nat × Nat) := path.dropLast.map fun i => (i, root)

/-- Whether an operation walks from y too. -/
def EqOp.two (o : EqOp) : Bool := o.kind == 0 || o.kind == 2

/-- One hop of a walk: it reads an entry. -/
def State.eqWalk (s : State) (t : Nat) (o : EqOp) (q : Quern) : State :=
  let blk := blockOf t
  let onX := o.rootX.isNone
  let i := if onX then o.atX else o.atY
  match s.eqRead blk q i with
  | .error c => s.eqFail t o c q i
  | .ok (w, s1) =>
    let p := entryParent w
    if q.n ≤ p ∨ q.n < o.steps then s1.setOp t { o with result := some (eqWord 9 0 false 0) }
    else if p = i then
      if onX then s1.setOp t { o with rootX := some (i, entrySize w), steps := 0 } else s1.setOp t { o with rootY := some (i, entrySize w), steps := 0 }
    else if onX then s1.setOp t { o with atX := p, pathX := o.pathX ++ [i], steps := o.steps + 1 }
    else s1.setOp t { o with atY := p, pathY := o.pathY ++ [i], steps := o.steps + 1 }

/-- One compression write, made while its element is no root. -/
def State.eqCompress (s : State) (t : Nat) (o : EqOp) (q : Quern) (i root : Nat) (rest : List (Nat × Nat)) : State :=
  let blk := blockOf t
  let s0 := s.setOp t { o with compress := rest }
  if s.logFull blk q i then s0
  else match s.eqRead blk q i with
    | .error c => s.eqFail t o c q i
    | .ok (w, _) =>
      if entryParent w = i then s0
      else match (s0.eqLog blk q i [(i, w)]).eqWrite blk q i (entryOf root (entrySize w)) with
        | .ok s1 => s1
        | .error c => s.eqFail t o c q i

/-- EQSNAP, EQUNDO and EQCOMMIT: one cut through the forest's history (R352). -/
def State.eqSnapStep (s : State) (t : Nat) (o : EqOp) (q : Quern) : State :=
  let blk := blockOf t
  let h := s.home blk q
  let st := fun n : Nat => BitVec.ofNat 64 (n * 2 ^ 60)
  match o.kind, h.snap with
  | 4, some _ => s.eqAnswer t o (st 4)
  | 4, none => (s.modHome blk q fun h => { h with snap := some blk, log := [], snapClasses := h.classes, snapMax := h.maxSize }).eqAnswer t o 0
  | _, none => s.eqAnswer t o (st 5)
  | k, some b =>
    if b ≠ blk then s.eqAnswer t o (st 6)
    else
      match (if k = 5 then s.eqWrites blk q (h.log.flatMap (·.2)) else .ok s : Except (Nat × Byte) State) with
      | .error e => s.eqFail t o e.2 q e.1
      | .ok s1 =>
        (s1.modHome blk q fun h =>
          if k = 5 then { h with classes := h.snapClasses, maxSize := h.snapMax, snap := none, log := [] }
          else { h with snap := none, log := [] }).eqAnswer t o 0

/-- Another operation on the same forest is under way. -/
def State.eqUnderWay (s : State) (t : Nat) (forest : Nat) (lg : Nat) : Bool :=
  List.any s.threads fun e : Nat × Thread =>
    isAct e.1 && e.1 != t && (groupOfBlocks (blockOf t) lg).contains (blockOf e.1) &&
    match e.2.eqops with | o :: _ => o.begun && o.forest == forest | [] => false

/-- An operation walks again from its elements. -/
def EqOp.again (o : EqOp) : EqOp :=
  { o with atX := o.x.toNat, atY := o.y.toNat, pathX := [], pathY := [], rootX := none, rootY := none, steps := 0 }
/-- EQSAME with both roots found: different ones count only while x's is still a root, so that the classes were apart when
y's was found (R349). -/
def State.eqCompare (s : State) (t : Nat) (o : EqOp) (q : Quern) (rx n ry : Nat) : State :=
  if rx = ry then s.setOp t { o with result := some (eqWord 0 n true rx) }
  else match s.eqRead (blockOf t) q rx with
    | .error c => s.eqFail t o c q rx
    | .ok (w, s1) => s1.setOp t (if entryParent w = rx then { o with result := some (eqWord 0 n false rx) } else o.again)

/-- EQ_HOP: one step of thread t's oldest operation. -/
def execEqHop (t : Nat) (s : State) : Out State :=
  let x := s.th t
  match x.eqops with
  | [] => .next s
  | h :: _ =>
    let o := { h with park := 0 }
    match s.forest? (blockOf t) x.act.pid with
    | none => .next (s.eqAnswer t o (BitVec.ofNat 64 (7 * 2 ^ 60)))
    | some q =>
      let blk := blockOf t
      if q.due ∨ (!o.begun ∧ (groupOfBlocks blk q.lg).any fun b => (s.quern b).held || (s.quern b).due) then .next s
      else if 4 ≤ o.kind then
        if s.eqUnderWay t q.forest q.lg then .next s else .next (s.eqSnapStep t o q)
      else if !o.begun then
        if q.n ≤ o.x.toNat ∨ (o.two ∧ q.n ≤ o.y.toNat) then .next (s.eqAnswer t o (eqWord 3 0 false 0))
        else .next (s.setOp t { o with begun := true, forest := q.forest, atX := o.x.toNat, atY := o.y.toNat })
      else match o.result, o.compress with
        | some _, (i, r) :: rest => .next (s.eqCompress t o q i r rest)
        | some w, [] => .next (s.eqAnswer t o w)
        | none, _ =>
          match o.rootX, o.rootY with
          | none, _ => .next (s.eqWalk t o q)
          | some (r, n), y =>
            if o.kind = 1 then .next (s.setOp t { o with result := some (eqWord 0 n false r), compress := toCompress o.pathX r })
            else if o.kind = 3 then .next (s.setOp t { o with result := some (eqWord 0 n false r) })
            else match y with
              | none => .next (s.eqWalk t o q)
              | some (r2, _) =>
                if o.kind = 2 then .next (s.eqCompare t o q r n r2) else .next s

/-- The winner and the loser of two roots with their entries (R346). -/
def eqChoose (q : Quern) (rx ry : Nat) (wx wy : Word) : (Nat × Word) × (Nat × Word) :=
  let xWins := if q.sizeRule ∧ entrySize wx ≠ entrySize wy then decide (entrySize wy < entrySize wx) else decide (rx < ry)
  if xWins then ((rx, wx), (ry, wy)) else ((ry, wy), (rx, wx))

/-- EQ_LINK: the check-and-link of thread t's EQUNITE, one indivisible step (R346). -/
def execEqLink (t : Nat) (s : State) : Out State :=
  let x := s.th t
  let blk := blockOf t
  match x.eqops, s.forest? blk x.act.pid with
  | h :: _, some q =>
    let o := { h with park := 0 }
    match o.kind, o.result, o.rootX, o.rootY with
    | 0, none, some (rx, _), some (ry, _) =>
      match s.eqRead blk q rx with
      | .error c => .next (s.eqFail t o c q rx)
      | .ok (wx, s1) =>
        match s1.eqRead blk q ry with
        | .error c => .next (s1.eqFail t o c q ry)
        | .ok (wy, s2) =>
          let comp := toCompress o.pathX rx ++ toCompress o.pathY ry
          if entryParent wx ≠ rx ∨ entryParent wy ≠ ry then .next (s2.setOp t o.again)
          else if rx = ry then .next (s2.setOp t { o with result := some (eqWord 1 (entrySize wx) false rx), compress := comp })
          else
            let c := eqChoose q rx ry wx wy
            if s2.logFull blk q c.2.1 then .next (s2.setOp t { o with result := some (eqWord 2 0 false 0) })
            else
              let size := entrySize c.1.2 + entrySize c.2.2
              let s3 := s2.eqLog blk q c.2.1 [(c.2.1, c.2.2), (c.1.1, c.1.2)]
              match s3.eqWrites blk q [(c.2.1, entryOf c.1.1 (entrySize c.2.2)), (c.1.1, entryOf c.1.1 size)] with
              | .error e => .next (s.eqFail t o e.2 q e.1)
              | .ok s4 =>
                let s5 := s4.modHome blk q fun h => { h with classes := h.classes - 1, maxSize := max h.maxSize size }
                .next (s5.setOp t { o with result := some (eqWord 0 size false c.1.1), compress := comp })
    | _, _, _, _ => .next s
  | _, _ => .next s

/-! ## The engine's control registers (R351) -/

def State.eqCls (s : State) : Word :=
  match s.forest? (blockOf s.cur) s.me.act.pid with | some q => BitVec.ofNat 64 (s.home (blockOf s.cur) q).classes | none => 0
def State.eqMax (s : State) : Word :=
  match s.forest? (blockOf s.cur) s.me.act.pid with | some q => BitVec.ofNat 64 ((s.home (blockOf s.cur) q).maxSize % 2 ^ 25) | none => 0
def State.eqLogReg (s : State) : Word :=
  let blk := blockOf s.cur
  match s.forest? blk s.me.act.pid with
  | none => 0
  | some q =>
    let h := s.home blk q
    let mx := ((groupOfBlocks blk q.lg).map (usedAt h.log)).foldl max 0
    BitVec.ofNat 64 ((if h.snap.isSome then 2 ^ 31 else 0) + (if h.snap = some blk then 2 ^ 30 else 0) + mx * 2 ^ 16 + usedAt h.log blk)

/-! ## Relabelling (R353–R356) -/

/-- Reads a shape record that a relabel record names, unless it names none. -/
def State.readMaybe (s : State) (blk : Nat) (ea : Word) : Except Trap (Option Shape × Bool × State) :=
  if ea = 0 then .ok (none, true, s) else
  match s.readShape blk ea with
  | .error e => .error e
  | .ok (h, ok, s1) => .ok (some h, ok, s1)

/-- The table of R354. -/
def relabelOk (red : Nat) (labels : Shape) (values out : Option Shape) : Bool :=
  labels.rank == 1 && (labels.fmt == 5 || labels.fmt == 6) &&
  (match values with
    | none => red == 0 || red == 4
    | some v => v.rank == 1 && ((red == 1 && v.fmt == 8) || ((red == 2 || red == 3) && (v.fmt == 8 || v.fmt == 5)))) &&
  (match out with
    | none => red == 0
    | some o => o.rank == 1 && ((red == 1 && o.fmt == 8) || (red == 4 && (o.fmt == 5 || o.fmt == 6)) ||
        ((red == 2 || red == 3) && some o.fmt == values.map (·.fmt))))

/-- Checks the spans of a shape that may be absent. -/
def State.maybeCheck (s : State) (h : Option Shape) (rd wr : Bool) : Except Trap (Option Shape) :=
  match h with
  | none => .ok none
  | some h => match s.shapeCheck h rd wr with | .error e => .error e | .ok k => .ok (some k)

def maybeRegions (h : Option Shape) : List Region := match h with | some k => k.regions | none => []

/-- EQRELABEL. -/
def execEqrelabel (a b : GReg) (dense : Bool) (red : BitVec 3) (s : State) : Out State :=
  noService (.eqrelabel a b dense red) s fun s =>
    let ga := s.g a
    if !s.settled s.cur then .next (s.stall .access)
    else if s.me.eqops ≠ [] then .next (s.stall .eqResult)
    else match s.readS ga 64 16 with
    | .error e => .next (s.takeFault e)
    | .ok (bs, s1) =>
      let w := fun o => BitVec.ofNat 64 (field bs o 8)
      match s1.readShape 0 (w 8) with
      | .error e => .next (s1.takeFault e)
      | .ok (lab, ok1, s2) =>
        match s2.readMaybe 0 (w 0x10) with
        | .error e => .next (s2.takeFault e)
        | .ok (val, ok2, s3) =>
          match s3.readMaybe 0 (w 0x18) with
          | .error e => .next (s3.takeFault e)
          | .ok (out, ok3, s4) =>
            match s4.engineBlock (s.g b) with
            | none => raise 0x0F (s.g b) s4
            | some blk =>
              let lab := { lab with blk }
              let val := val.map fun h => { h with blk }
              let out := out.map fun h => { h with blk }
              if !(ok1 && ok2 && ok3 && field bs 4 4 == 0 && zeroBytes ((bs.drop 0x20).take 24) && relabelOk red.toNat lab val out) then
                raiseOwn ga s4
              else if !replyOk (w 0x38) then raise 0x0F (w 0x38) s4
              else match s4.placeCheck ([(lab, [0, 1, 7])] ++ val.toList.map (fun h => (h, [0, 1, 2, 7])) ++ out.toList.map (fun h => (h, [0, 1, 7]))) with
              | some e => .next (s4.takeFault e)
              | none =>
                match s4.shapeCheck lab false true, s4.maybeCheck val true false, s4.maybeCheck out false true with
                | .error e, _, _ => .next (s4.takeFault e)
                | .ok _, .error e, _ => .next (s4.takeFault e)
                | .ok _, .ok _, .error e => .next (s4.takeFault e)
                | .ok lab, .ok val, .ok out =>
                  if !s4.placeFree blk then .next (s.stall .engine) else
                  let j : Job := { s4.newJob .equiv (.relabel dense red) with
                    tag := BitVec.ofNat 32 (field bs 0 4), reply := w 0x38, src := val, dst := some lab, out
                    reads := maybeRegions val, writes := lab.regions ++ maybeRegions out }
                  .next ((s4.killEpoch s4.me.act).acceptJob blk j).retire

/-- The forest of a relabel job, when its shapes have the sizes it needs: else the STATUS (R354, R356). -/
def State.relabelForest (s : State) (blk : Nat) (j : Job) (dense : Bool) : Except Byte Quern :=
  match s.forest? blk j.pid with
  | none => .error 7
  | some q =>
    let need := if dense then (s.home blk q).classes else q.n
    if (match j.dst with | some h => h.size 0 == q.n | none => false) && (match j.src with | some h => h.size 0 == q.n | none => true) &&
        (match j.out with | some h => decide (need ≤ h.size 0) | none => true) then .ok q else .error 8

/-- RELABEL_JOB_START: the engines finish what they do, and hold later operations (R355). -/
def execRelabelJobStart (blk id : Nat) (s : State) : Out State :=
  match s.job? blk id with
  | none => .next s
  | some j =>
    match j.op with
    | .relabel dense _ =>
      let s1 := s.startJob blk id .equiv
      match s1.job? blk id with
      | some j1 =>
        if decide (j1.phase ≠ .started) || decide (j.phase ≠ .pending) then .next s else
        match s1.relabelForest blk j dense with
        | .error c => .next (s1.finishJob blk j c 0)
        | .ok q =>
          let grp := groupOfBlocks blk q.lg
          let busy := (List.any s.threads fun e : Nat × Thread =>
            isAct e.1 && grp.contains (blockOf e.1) && match e.2.eqops with | o :: _ => o.begun | [] => false) ||
            grp.any fun b => (s.quern b).due || (s.quern b).held
          if busy then .next s else .next (grp.foldl (fun s b => s.modQuern b fun k => { k with held := true }) s1)
      | none => .next s
    | _ => .next s

/-- The entry of an element in a job's image. -/
def entryIn (img : List (Nat × Word)) (word : Nat) : Word := match img.find? fun e => e.1 == word with | some e => e.2 | none => 0
/-- The flat key of element i's entry. -/
def eqKey (blk : Nat) (q : Quern) (i : Nat) : Nat :=
  if q.dev then devBase + eqAddr q i else bufBase (eqOwner blk q i) 0 + eqAddr q i
/-- The root of an element in at most fuel hops; none for a damaged forest. -/
def rootIn (parent : Nat → Nat) (n : Nat) : Nat → Nat → Option Nat
  | 0, _ => none
  | fuel + 1, i => let p := parent i; if n ≤ p then none else if p = i then some i else rootIn parent n fuel p

/-- Reads the words of a shape for a started job, as its stage n. -/
def State.readStage (s : State) (blk : Nat) (j : Job) (h : Option Shape) (n : Nat) : Option Job × State :=
  match h with
  | none => (some { j with pos := n }, s)
  | some h =>
    match s.engineRead blk j h.keys h.words with
    | (some j1, s1) => (some { j1 with pos := n }, s1.modJob blk j.id fun _ => { j1 with pos := n })
    | (none, s1) => (none, s1)

/-- Reads the entries of the forest that a relabel job holds. -/
def State.readForest (s : State) (blk : Nat) (j : Job) : Option Job × State :=
  match s.forest? blk j.pid with
  | none => (some { j with status := 7 }, s)
  | some q => s.engineRead blk j ((groupOfBlocks blk q.lg).map fun b => (b, (s.quern b).key)) ((List.range q.n).map (eqKey blk q))
/-- One class's reduction: the value so far, the next, and the flags. -/
def relabelStep (red : Nat) (f : BitVec 5) (x y : Nat) : Nat × FFlags :=
  match red with
  | 1 => roundWith 8 .rne false (fpAdd .rne (fpDecode 8 x) (fpDecode 8 y))
  | 2 => if f = 8 then fpMinMax 8 true x y else (if intDecode 5 x < intDecode 5 y then y else x, 0)
  | _ => if f = 8 then fpMinMax 8 false x y else (if intDecode 5 y < intDecode 5 x then y else x, 0)

/-- The reduced values of the classes, by root, over elements in ascending order. -/
def relabelReduce (red : Nat) (f : BitVec 5) (xs : List (Nat × Nat)) : Map Nat × FFlags :=
  xs.foldl (fun (p : Map Nat × FFlags) (e : Nat × Nat) =>
    if List.any p.1 fun k : Nat × Nat => k.1 == e.1 then
      let r := relabelStep red f (Map.get 0 p.1 e.1) e.2
      (Map.put p.1 e.1 r.1, p.2 ||| r.2)
    else (Map.put p.1 e.1 e.2, p.2)) ([], 0)

/-- The labels, the units of OUT with their values, and the flags of a relabel job. -/
def relabelResult (j : Job) (blk : Nat) (q : Quern) (dense : Bool) (red : Nat) : Option (List Nat × List (Int × Nat) × FFlags) :=
  let parent : Nat → Nat := fun i => entryParent (entryIn j.image (eqKey blk q i))
  let es := List.range q.n
  let roots := es.map fun e => rootIn parent q.n (q.n + 1) e
  if roots.any (·.isNone) then none
  else
    let rs := roots.map (·.getD 0)
    let tops := es.filter fun e => parent e == e
    let num : Nat → Nat := fun r => if dense then (tops.takeWhile (· != r)).length else r
    let vals := match j.src with | some h => h.values j.image | none => []
    let f := match j.src with | some h => h.fmt | none => 0
    let red1 : Map Nat × FFlags :=
      if red = 4 then (tops.map fun r => (r, entrySize (entryIn j.image (eqKey blk q r))), 0)
      else relabelReduce red f (rs.zip vals)
    let outs := match j.out with
      | some h => List.filterMap (fun e : Nat × Nat => (h.units[num e.1]?).map fun b => (b, e.2)) red1.1
      | none => []
    some (rs.map num, outs, red1.2)

/-- A relabel job's operands are read: its labels are those of the partition at its start, which the engines have held
(R355). A damaged forest gives 0x08; a device forest's error at an engine is held against the issuing thread too (R342). j: the
job with what the reading of VALUES gave; f: with the forest read as well, and the forest's failure alone. -/
def State.relabelRead (s : State) (blk : Nat) (j f : Job) (dense : Bool) (red : Nat) : State :=
  let s1 := if f.status = 0x0A then
      (s.modIssuer j fun a => a.addError f.cause 3 7 (BitVec.ofNat 64 ((f.failAt.getD devBase) - devBase))).getD s else s
  let j := if j.status = 0 then f else { f with status := j.status, cause := j.cause, failAt := j.failAt }
  let out : Job → Job := fun j =>
    if j.status ≠ 0 then j else
    match s.forest? blk j.pid with
    | none => { j with status := 7 }
    | some q => match relabelResult j blk q dense red with
      | none => { j with status := 8 }
      | some r => { j with labels := r.1, outs := r.2.1, flags := r.2.2 }
  (s1.modJob blk j.id fun _ => { out j with phase := .consumed }).releaseForest blk j

/-- CARD_OPERANDS_CONSUMED: the last source byte of a copy, a sweep or a relabel is read (R326). A record whose local BASE
names no space fails the job (R61). -/
def execCardOperandsConsumed (blk id : Nat) (s : State) : Out State :=
  match s.job? blk id with
  | none => .next s
  | some j =>
    if j.phase ≠ .started ∨ j.op.isMatrix ∨ j.op.isStream then .next s
    else if [j.src, j.dst, j.out].any (fun h => h.any (·.noSpace)) then .next ((s.releaseForest blk j).finishJob blk j 0x08 0) else
    let r := if j.pos = 0 then s.readStage blk j j.src 1 else (some j, s)
    match r with
    | (none, s1) => .next s1
    | (some j1, s1) =>
      match j1.op with
      | .relabel dense red =>
        (match s1.readForest blk { j1 with status := 0, cause := 0, failAt := none } with
        | (none, s2) => .next s2
        | (some f, s2) => .next (s2.relabelRead blk j1 f dense red.toNat))
      | _ =>
        match s1.readStage blk j1 (if j1.readsDst then j1.dst else none) 2 with
        | (none, s2) => .next s2
        | (some j2, s2) => .next (s2.modJob blk id fun _ => { j2 with phase := .consumed })

/-- RELABEL_JOB_COMPLETE: labels and results are written, and the completion follows (R355, R356). -/
def execRelabelJobComplete (blk id : Nat) (s : State) : Out State :=
  match s.job? blk id with
  | none => .next s
  | some j =>
    match j.op, j.phase, j.dst with
    | .relabel _ _, .consumed, some lab =>
      if j.status ≠ 0 then .next (s.finishJob blk j j.status 0) else
      match (if j.pos < 3 then s.engineWrite blk j lab .plain j.labels else (some 0, s) : Option Byte × State) with
      | (none, s1) => .next s1
      | (some c, s1) =>
        if c ≠ 0 then .next (s1.finishJob blk j (errStatus c) j.flags) else
        let s2 := s1.modJob blk id fun j => { j with pos := 3 }
        match j.out with
        | none => .next (s2.finishJob blk j 0 j.flags)
        | some h =>
          match s2.engineWriteAt blk j h .plain j.outs 1 false with
          | (none, s3) => .next s3
          | (some c, s3) => .next (s3.finishJob blk j (errStatus c) j.flags)
    | _, _, _ => .next s

end Sys2Proof.Machine
end

