-- ==== Sys2Proof/Machine/Launch.lean ====
section
/-! DEFINITION. Launches: headers, acceptance and refusal (R143, R144), launch ids and reports (R145, R404),
enumeration (R146), completion (R147), the dispatcher's event (R138), and the replay of a team (R165). -/

namespace Sys2Proof.Machine

/-! ## Device memory as hardware reads it for a context -/

/-- A word at an LVA of a context on this chip; none when it is not mapped, not readable, or poisoned. -/
def State.devWord (s : State) (t : Nat) (pid : BitVec 16) (lva : Nat) : Option (Word × State) :=
  match s.translate t pid lva with
  | (none, _) => none
  | (some l, s1) =>
    if !l.1.getLsbD 61 then none else
    let pa := leafAddr l lva
    let s2 := s1.touchLine pa
    if s2.mem.bad (pa / 8) then none else some (s2.readWord (s2.memStamp pid (l.1.extractLsb' 54 3)) (pa / 8))

def State.devWords (s : State) (t : Nat) (pid : BitVec 16) (lva : Nat) : Nat → Option (List Byte × State)
  | 0 => some ([], s)
  | n + 1 =>
    match s.devWord t pid lva with
    | none => none
    | some (w, s1) =>
      match s1.devWords t pid (lva + 8) n with
      | none => none
      | some (bs, s2) => some (leBytes 8 w.toNat ++ bs, s2)

/-- n bytes at a device address that lies on this chip. -/
def State.devBytes (s : State) (t : Nat) (pid : BitVec 16) (ea : Word) (n : Nat) : Option (List Byte × State) :=
  if !s.onChip pid ea || (dKind ea == 0 && dChip ea != 0) then none else
  let a := dLva ea
  match s.devWords t pid (a / 8 * 8) ((a % 8 + n + 7) / 8) with
  | none => none
  | some (bs, s1) => some ((bs.drop (a % 8)).take n, s1)

/-! ## Headers (R143) -/

/-- An entry of a stage table. -/
structure StageEntry where
  index : Nat
  chan : Nat
  prio : Nat
  deadline : Nat
  zero : Bool
  deriving DecidableEq, Repr

def parseStage (bs : List Byte) : StageEntry :=
  { index := field bs 0 4, chan := field bs 4 1, prio := field bs 5 1, deadline := field bs 6 2, zero := field bs 8 8 == 0 }

/-- The launch id (R145). -/
def State.launchId (s : State) (h : Header) : Word :=
  let kind := (h.src.extractLsb' 22 2).toNat
  let rank := if kind = 3 then 0 else (h.rank.getD (s.ownRank h.pid)).toNat
  let where' := if kind = 3 then (h.src.extractLsb' 16 6).toNat else (h.src.extractLsb' 24 14).toNat * 4
  BitVec.ofNat 64 (kind * 2 ^ 62 + h.seq.toNat * 2 ^ 38 + rank * 2 ^ 16 + where')

/-- The placed blocks in order: die, cluster, block (R143, R144, R146). -/
def State.placed (s : State) (place : Word) : List Nat :=
  let bm := (place.extractLsb' 40 8).toNat
  let bmask := if bm = 0 then 255 else bm
  (List.range 4).flatMap fun d => if !place.getLsbD (32 + d) then [] else
    (List.range 32).flatMap fun c =>
      if !place.getLsbD c || (s.cluster (32 * d + c)).missing then [] else
      ((List.range 8).filter fun b => bmask / 2 ^ b % 2 == 1).map fun b => (32 * d + c) * 8 + b

/-- BMASK is a union of aligned gangs of g blocks. -/
def gangsWhole (place : Word) (g : Nat) : Bool :=
  let bm := (place.extractLsb' 40 8).toNat
  let bmask := if bm = 0 then 255 else bm
  g ≤ 1 || (List.range (8 / g)).all fun i => let x := bmask / 2 ^ (g * i) % 2 ^ g; x == 0 || x == 2 ^ g - 1

/-- A header as parsed. -/
structure Head where
  entry : Word
  index : Nat
  fl : Nat
  widths : Word
  exts : List Nat
  base : Word
  place : Word
  gang : Nat
  chk : Byte
  prio : Nat
  cquota : Byte
  deadline : Nat
  nstage : Nat
  stages : Word
  param : Word
  reply : Word
  dep : Word
  zero : Bool
  deriving DecidableEq, Repr

def parseHead (bs : List Byte) : Head :=
  let w := fun o => BitVec.ofNat 64 (field bs o 8)
  { entry := w 0, index := field bs 8 4, fl := field bs 0x0C 4, widths := w 0x10
    exts := (List.range 6).map fun i => field bs (0x18 + 4 * i) 4
    base := w 0x30, place := w 0x38, gang := field bs 0x40 1, chk := BitVec.ofNat 8 (field bs 0x41 1), prio := field bs 0x42 1
    cquota := BitVec.ofNat 8 (field bs 0x43 1), deadline := field bs 0x44 2, nstage := field bs 0x46 1
    stages := w 0x48, param := w 0x50, reply := w 0x58, dep := w 0x60
    zero := field bs 0x47 1 == 0 && zeroBytes ((bs.drop 0x68).take 24) }

/-- fi(BASE), as WIDX reads it (R80). -/
def fieldOf (spec : BitVec 36) (w : Word) (i : Nat) : Nat := w.toNat / 2 ^ fieldLow spec i % 2 ^ widthOf spec i
/-- A work identifier with field i replaced. -/
def withField (spec : BitVec 36) (w : Word) (i x : Nat) : Word :=
  BitVec.ofNat 64 (w.toNat - fieldOf spec w i * 2 ^ fieldLow spec i + x * 2 ^ fieldLow spec i)

/-- The extents fit the widths: check 3 of R144. -/
def Head.extsOk (h : Head) : Bool :=
  let spec : BitVec 36 := h.widths.setWidth 36
  (List.range 6).all fun i =>
    let e := h.exts.getD i 0
    if widthOf spec i = 0 then decide (e ≤ 1) else decide (1 ≤ e ∧ fieldOf spec h.base i + e ≤ 2 ^ widthOf spec i)

/-- The channels a launch binds: table index, channel, priority, deadline, stage. -/
def Head.binds (h : Head) (st : List StageEntry) : List (Nat × Nat × Nat × Nat × Byte) :=
  if h.nstage = 0 then [(h.index, (h.place.extractLsb' 48 5).toNat, h.prio, h.deadline, 0xFF)]
  else st.zipIdx.map fun e => (e.1.index, e.1.chan, e.1.prio, e.1.deadline, BitVec.ofNat 8 e.2)

def noTwice : List Nat → Bool
  | [] => true
  | x :: xs => !xs.contains x && noTwice xs

/-- Reads the digest-table entries of some indexes. -/
def State.readDigests (s : State) (t : Nat) (pid : BitVec 16) (entry : Word) : List Nat → Option (List Digest × State)
  | [] => some ([], s)
  | k :: ks =>
    match s.devBytes t pid (entry + BitVec.ofNat 64 (32 * k)) 32 with
    | none => none
    | some (bs, s1) =>
      match s1.readDigests t pid entry ks with
      | none => none
      | some (ds, s2) => some (digestOf bs :: ds, s2)

def dedup (ds : List Digest) : List Digest := ds.foldl (fun l d => if l.contains d then l else l ++ [d]) []

/-- The first check of R144 that fails, by its reason; st is none when the stage table cannot be read, digs
when a digest cannot. -/
def State.refusal (s : State) (h : Head) (pid : BitVec 16) (st : Option (List StageEntry)) (digs : Option (List Digest)) : Option Byte :=
  let spec : BitVec 36 := h.widths.setWidth 36
  let stages := st.getD []
  let blocks := s.placed h.place
  let binds := h.binds stages
  if !h.zero || decide (8 ≤ h.fl) || h.widths.extractLsb' 36 28 != 0 || h.place.extractLsb' 53 11 != 0 ||
      h.place.extractLsb' 36 4 != 0 || stages.any (!·.zero) then some 0x01
  else if 64 < ((List.range 6).map (widthOf spec)).sum then some 0x02
  else if !h.extsOk then some 0x03
  else if blocks = [] then some 0x04
  else if !([0, 1, 2, 4, 8] : List Nat).contains h.gang || !gangsWhole h.place h.gang then some 0x05
  else if !(h.chk == 0xFF || (decide (h.chk.toNat ≤ 5) && widthOf spec h.chk.toNat != 0)) then some 0x06
  else if 7 < h.prio ∨ 8 < h.nstage ∨ stages.any (fun e => decide (7 < e.prio) || decide (31 < e.chan)) then some 0x07
  else if st.isSome && (!noTwice (binds.map (·.2.1)) || blocks.any fun b => binds.any fun k =>
      let c := (s.block b).chan (s.chanNo b pid (BitVec.ofNat 5 k.2.1))
      c.bind.isSome || decide (0 < c.slots.length + c.reserved)) then some 0x08
  else if st.isNone || digs.isNone || (match stages with | e :: _ => e.index != h.index | [] => false) then some 0x09
  else
    let cls := dedupN (blocks.map (· / 8))
    if cls.any fun cl =>
        let new := (dedup (digs.getD [])).filter fun d => (s.lookup cl pid false d).isNone
        decide (4096 < (s.cluster cl).dir.length + new.length) then some 0x0A
    else if 65536 ≤ s.sys.launches.length then some 0x0B
    else none
where
  dedupN (l : List Nat) : List Nat := l.foldl (fun l d => if l.contains d then l else l ++ [d]) []

/-- Binds a launch's channels in a block (R146). -/
def State.bindBlock (s : State) (blk : Nat) (id : Word) (pid : BitVec 16) (ks : List ((Nat × Nat × Nat × Nat × Byte) × Digest)) : State :=
  ks.foldl (fun s k =>
    match s.lookupOrCreate (blk / 8) pid false k.2 with
    | (some hd, s1) => s1.modBlock blk fun b => b.modChan (s.chanNo blk pid (BitVec.ofNat 5 k.1.2.1)) fun c => { c with bind := some {
        handle := hd, prio := BitVec.ofNat 3 k.1.2.2.1, stage := k.1.2.2.2.2
        deadline := if k.1.2.2.2.1 = 0 then 0xFFFF else BitVec.ofNat 16 k.1.2.2.2.1, launch := id, pid } }
    | (none, s1) => s1) s

/-- The words of a report. -/
def reportWords (kind : Nat) (id word2 : Word) : List Word := [BitVec.ofNat 64 kind, id, word2, 0, 0, 0, 0, 0]

/-- The inbox of a cluster serves its oldest header (R144, R145, R148, R404). -/
def State.serveHeader (s : State) (cl : Nat) (h : Header) : State :=
  let t := 128 * cl
  let p := parseHead h.bytes
  let id := s.launchId h
  match s.launch? id with
  | some l => s.reportTo l (reportWords 1 id 0) false
  | none =>
    match s.sys.retired.find? fun r => r.1 == id with
    | some r =>
      let s1 := s.report cl h.pid r.2.1 (reportWords 1 id 0) (.report id false 1000)
      if r.2.2 = [] then s1 else s1.report cl h.pid r.2.1 r.2.2 (.report id false 1000)
    | none =>
      let refuse : Byte → State → State := fun c s => s.report cl h.pid p.reply (reportWords 2 0 (c.setWidth 64)) (.report 0 false 1000)
      if s.refuses h.pid then refuse 0x0C s else
      let (st, s1) : Option (List StageEntry) × State :=
        if p.nstage = 0 then (some [], s) else
        match s.devBytes t h.pid p.stages (16 * p.nstage) with
        | some (bs, s1) => (some ((List.range p.nstage).map fun i => parseStage (bs.drop (16 * i))), s1)
        | none => (none, s)
      let binds := p.binds (st.getD [])
      let (digs, s2) : Option (List Digest) × State :=
        match s1.readDigests t h.pid p.entry (binds.map (·.1)) with
        | some (ds, s2) => (some ds, s2)
        | none => (none, s1)
      match s2.refusal p h.pid st digs with
      | some c => refuse c s2
      | none =>
        let blocks := s2.placed p.place
        let l : Launch := {
          id, pid := h.pid, vi := h.vi, src := h.src, inbox := cl, widspec := p.widths.setWidth 36, exts := p.exts, base := p.base
          chk := p.chk, cquota := p.cquota
          stages := binds.map fun k => (BitVec.ofNat 5 k.2.1, BitVec.ofNat 3 k.2.2.1, BitVec.ofNat 16 k.2.2.2.1, k.2.2.2.2)
          gang := p.gang, param := p.param, reply := p.reply, dep := if (s2.launch? p.dep).isSome then p.dep else 0
          noComp := p.fl / 2 % 2 == 1, errStop := p.fl / 4 % 2 == 1, conf := p.fl % 2 == 1
          blocks, total := (p.exts.map fun e => max 1 e).foldl (· * ·) 1 }
        let s3 : State := { s2 with sys := { s2.sys with launches := s2.sys.launches ++ [l] } }
        let s4 := blocks.foldl (fun s b => s.bindBlock b id h.pid (binds.zip (digs.getD []))) s3
        s4.reportTo l (reportWords 1 id 0) false

/-- LAUNCH_HEADER. -/
def execLaunchHeader (cl : Nat) (s : State) : Out State :=
  match (s.cluster cl).inbox with
  | [] => .next s
  | h :: rest =>
    if !s.stampOk (cl / 32) h.stamp then .next s else
    .next (((s.modCluster cl fun c => { c with inbox := rest }).acquireStamp (cl / 32) h.stamp).serveHeader cl h)

/-! ## Enumeration (R146) -/

/-- The index tuple of activation m in mixed radix, the last field changing fastest: from the last field on. -/
def mixedRadix : List Nat → Nat → List Nat
  | [], _ => []
  | e :: es, m => m % e :: mixedRadix es (m / e)

/-- The work identifier of activation m. -/
def Launch.widOf (l : Launch) (m : Nat) : Word :=
  let xs := (mixedRadix (l.exts.map fun e => max 1 e).reverse m).reverse
  xs.zipIdx.foldl (fun w e => if widthOf l.widspec e.2 = 0 then w else withField l.widspec w e.2 (fieldOf l.widspec l.base e.2 + e.1)) l.base

/-- The address of a channel of a block of this chip. -/
def chanAddr (blk : Nat) (c : CIdx) : Word :=
  BitVec.ofNat 64 (2 * 2 ^ 61 + 2 ^ 60 + blk / 256 * 2 ^ 36 + blk / 8 % 32 * 2 ^ 31 + blk % 8 * 2 ^ 28 + c.toNat * 2 ^ 23)

/-- LAUNCH_ENUMERATION: the next activation's message leaves for its block, when its channel has room; to another die it
passes the launch's release on, as a release (R227, R237). One of a team that
a fault has ended is discarded with the team's other messages (R166). -/
def execLaunchEnumeration (id : Word) (s : State) : Out State :=
  match s.launch? id with
  | none => .next s
  | some l =>
    let m := l.nextEnum
    let blk := l.blocks.getD (m % l.blocks.length) 0
    let c : CIdx := match l.stages with | k :: _ => k.1 | [] => 0
    let h := s.chanNo blk l.pid c
    let d := l.inbox / 32
    let away := decide (blk / 256 ≠ d)
    if l.stopped ∨ l.finished ∨ l.total ≤ m ∨ ((s.block blk).chan h).full ∨ s.refuses l.pid ∨ (away ∧ s.releaseStalls d) then .next s
    else if l.chk ≠ 0xFF ∧ l.deadTeams.contains (teamKey l.widspec l.chk.toNat (l.widOf m)) then
      .next (s.modLaunch id fun l => { l with nextEnum := m + 1, dispatched := l.dispatched + 1, released := l.released + 1 })
    else
      let (v, s) := if away then s.releaseStamp d else ([], s)
      let msg : Msg := {
        dest := chanAddr blk c, reply := l.reply, payload := [l.param, l.id], src := l.src, wid := l.widOf m, launch := l.id, pid := l.pid
        origin := .gone, die := d, stamp := v, applied := !away, enumNo := some m }
      .next (((s.modLaunch id fun l => { l with nextEnum := m + 1 }).modBlock blk fun b =>
        b.modChan h fun k => { k with reserved := k.reserved + 1 }).push msg)

/-! ## Completion (R147) -/

/-- Every channel of the launch is empty. -/
def State.channelsEmpty (s : State) (id : Word) : Bool :=
  List.all s.blocks fun e : Nat × Block => List.all e.2.chans fun c : Nat × Channel =>
    match c.2.bind with | some n => n.launch != id || (c.2.slots.isEmpty && c.2.reserved == 0) | none => true

/-- Every engine job of the launch's activations has completed. -/
def State.jobsDone (s : State) (id : Word) : Bool :=
  List.all s.blocks fun e : Nat × Block => e.2.jobs.all fun j => j.launch != id

/-- The continuation that a join cell of the launch owes has not started yet. -/
def State.owes (s : State) (id : Word) : Bool :=
  List.any s.clusters fun e : Nat × Cluster => List.any e.2.joins fun j : Nat × JoinCell => j.2.owed.any fun o => o.launch == id

/-- What a launch held is freed: channels, epochs, gangs, forests, and barrier cells (R146, R219, R300, R341). A join cell
stays armed, and its context's: the spec does not say when one becomes idle again (log 85). -/
def State.freeLaunch (s : State) (id : Word) : State :=
  let s1 := s.eachBlock fun b =>
    let b1 := b.eachChan fun c => match c.bind with
      | some n => if n.launch == id then { c with bind := none, slots := [], running := 0 } else c
      | none => c
    { b1 with
      epochs := b1.epochs.filter fun p => p.launch != id
      joints := b1.joints.filter fun j => j.1 != id
      quern := if b1.quern.bound && b1.quern.launch == id then {} else b1.quern }
  { s1 with clusters := List.map (fun e : Nat × Cluster => (e.1, { e.2 with
      broken := e.2.broken.filter fun b => b.1 != id
      bars := List.map (fun c : Nat × BarCell =>
        (c.1, match c.2.owner with
          | some o => if o.2 == id then { phase := c.2.phase, events := c.2.events, answers := c.2.answers } else c.2
          | none => c.2)) e.2.bars })) s1.clusters }

/-- A launch that has ended sends COMPLETE, and its entry waits for that report's delivery. -/
def State.completeLaunch (s : State) (l : Launch) : State :=
  let s1 := (s.freeLaunch l.id).modLaunch l.id fun l => { l with finished := true }
  if l.noComp ∨ l.reply = 0 ∨ malformed l.reply ∨ 4 < maKind l.reply then s1.retireLaunch l.id []
  else s1.reportTo l (reportWords 3 l.id l.errors) true

/-- LAUNCH_COMPLETE. -/
def execLaunchComplete (id : Word) (s : State) : Out State :=
  match s.launch? id with
  | none => .next s
  | some l =>
    if l.finished then .next s
    else if l.stopped ∨ (l.dispatched = l.total ∧ l.running = 0 ∧ s.channelsEmpty id ∧ s.jobsDone id ∧ !s.owes id) then
      .next (s.completeLaunch l)
    else .next s

/-- LAUNCH_REPORT_RESEND: reports whose last try failed are sent again (R132). -/
def execLaunchReportResend (id : Word) (s : State) : Out State :=
  match s.launch? id with
  | none => .next s
  | some l => .next { s.modLaunch id fun l => { l with unsent := [] } with flight := s.flight ++ l.unsent }

/-! ## Dispatch (R138) -/

def execDispatch (blk : Nat) (s : State) : Out State := .next (s.dispatchOne blk)

/-! ## The replay of a team (R165) -/

/-- The fault that stalls thread t can be replayed: a soft error, a loss, or a page that is mapped by now. Whether another chip
has mapped a page this one cannot see: it counts as mapped, and the replayed access says (log 99). -/
def State.mayReplay (s : State) (t : Nat) : Bool :=
  let x := s.th t
  s.replayable x.act &&
  if x.mcause = 0x16 then true
  else
    let c := (x.act.taken.extractLsb' 60 4).toNat
    if c = 5 then true
    else 1 ≤ c && c ≤ 4 &&
      (!s.onChip x.act.pid x.mtval || (s.leaf? t x.act.pid (dLva x.mtval)).isSome)

/-- An access that must be answered before the team can stop: it acts on another chip, or a routine serves it. -/
def Req.busy (r : Req) : Bool := match r.phase with | .remote | .serving _ => !r.orphan | _ => false

/-- Thread t's accesses are cancelled. -/
def State.cancelReqs (s : State) (t : Nat) : State :=
  let s1 := (s.th t).outst.foldl (fun s r => r.elems.zipIdx.foldl (fun s e =>
    if r.orphan then s else
    match s.locate t r e.1 with | (some (pa, _, _), _) => s.leaveRetry (ownerAt pa) t r.seq e.2 | (none, _) => s) s) s
  s1.modTh t fun x => { x with outst := x.outst.filter (·.orphan) }

/-- Restores a block's journalled words, newest first. -/
def restoreOlds (m : Mem) (olds : List (Nat × Word × Bool)) : Mem :=
  olds.foldl (fun m o => (m.setWord o.1 o.2.1).setTag o.1 o.2.2) m

/-- The counts of an activation that starts again: what uncount took (R135, R147, R149). -/
def State.recount (s : State) (blk : Nat) (a : Act) : State :=
  (if a.recruit then s else s.modBlock blk fun b => b.modChan a.home fun c => { c with running := c.running + 1 }).modLaunch a.launch
    fun l => { l with running := l.running + 1, released := if a.enumNo.isSome && !a.triggered then l.released - 1 else l.released }
/-- A member that was displaced at the epoch's opening is displaced again. -/
def State.restAgain (s : State) (blk : Nat) (d : Displaced) : State :=
  (s.recount blk d.act).modBlock blk fun b => { b with displaced := b.displaced ++ [{ d with since := s.cycle }] }
/-- Starts a member again on its thread; while another activation has that, it waits for it (R165). -/
def State.restart (s : State) (t : Nat) (a : Act) (resumed : Bool) : State :=
  let blk := blockOf t
  let s1 := s.recount blk a
  if (s1.th t).status = .idle then (s1.startAct t a).traceDispatch t resumed
  else s1.modBlock blk fun b => { b with displaced := b.displaced ++ [{ act := a, atSend := none, since := s1.cycle, again := some t }] }

/-- The activation that a journalled message starts again, with the name it had among its team's members. -/
def State.actOf (s : State) (t : Nat) (m : Msg) (member : List Nat) : Option Act :=
  let c := s.chanNo (blockOf t) m.pid (maChan m.dest)
  match ((s.block (blockOf t)).chan c).bind with
  | some n => some { s.freshAct t n.pid n.launch n.deadline with
      member, g := dispatchRegs m, v := match m.vec with | some x => Map.set {} [] 0 x | none => [], pc := codeAddr n.handle 0, enter := 4
      reply := m.reply, wid := m.wid, prio := n.prio, chan := maChan m.dest, home := c, stage := n.stage, enumNo := m.enumNo, src := m.src }
  | none => none

/-- The join cells of a cluster that a team's forks hold stand as at the epoch's opening, and so does what they owe. -/
def State.restoreJoins (s : State) (team : Word × Word) (cl : Nat) (saved : List (Nat × JoinCell)) : State :=
  let mine : Owed → Bool := fun o => s.teamOf { launch := o.launch, wid := o.wid } == some team
  let one : Nat × JoinCell → Nat × JoinCell := fun e =>
    let old := saved.find? fun k => k.1 == e.1
    let owed := e.2.owed.filter (fun o => !mine o) ++ (match old with | some k => k.2.owed.filter mine | none => [])
    if s.teamOf { launch := e.2.launch, wid := e.2.wid } == some team then
      match old.filter fun k => s.teamOf { launch := k.2.launch, wid := k.2.wid } == some team with
      | some k => (e.1, { k.2 with owed })
      | none => (e.1, { e.2 with count := 0, owed })
    else (e.1, { e.2 with owed })
  let owing : State → Nat := fun s =>
    (List.map (fun e : Nat × JoinCell => (e.2.owed.filter mine).length) (s.cluster cl).joins).sum
  let s1 := s.modCluster cl fun c => { c with joins := List.map one c.joins }
  s1.modLaunch team.1 fun l => { l with running := l.running + owing s1 - owing s }

/-- One block of the team: its words are restored, and its members start again. -/
def State.replayBlock (s : State) (team : Word × Word) (blk : Nat) : State :=
  match (s.block blk).epoch team with
  | none => s
  | some p =>
    let s0 : State := { s with mem := restoreOlds s.mem p.olds }
    let s1 := (s0.restoreJoins team (blk / 8) p.joins).modBlock blk fun b => b.modEpoch team fun p =>
      { p with olds := [], used := p.used - p.olds.length, replays := p.replays + 1 }
    -- the numbers of the epoch's first sends, and where each thread stood
    let s2 := p.sends.foldl (fun s e => s.modTh e.1 fun x =>
      let now := (x.seqs.find? fun q => q.1 == e.2.1).elim 0 (·.2)
      let old := x.resent.find? fun q => q.1 == e.2.1
      let lim := match old with | some q => if (now - q.2).toNat < 2 ^ 23 then now else q.2 | none => now
      { x with seqs := (e.2.1, e.2.2) :: x.seqs.filter fun q => q.1 != e.2.1
               resent := (e.2.1, lim) :: x.resent.filter fun q => q.1 != e.2.1 }) s1
    let s3 := p.saved.foldl (fun s e => s.restart e.1 e.2 true) (p.rested.foldl (fun s d => s.restAgain blk d) s2)
    -- tags have changed: what waits at their owners is tested again (R186)
    (p.msgs.foldl (fun s e =>
      match s.actOf e.1 e.2.1 e.2.2 with
      | some a => s.restart e.1 a false
      | none => s) s3).retestAll (p.olds.foldl (fun l o => if l.contains (ownerAt (8 * o.1)) then l else l ++ [ownerAt (8 * o.1)]) [])

/-- A team is replayed: every member stops, the blocks restore their words, and the members start again. -/
def State.replayTeam (s : State) (team : Word × Word) : State :=
  let same : Act → Bool := fun a => s.teamOf a == some team
  let ts : List Nat := (List.filter (fun e : Nat × Thread => same e.2.act) s.actives).map Prod.fst
  let s1 := ts.foldl (fun s u => (s.cancelReqs u).freeThread u) s
  let s2 := s1.dropDisplaced same
  let jobs : List (Nat × Job) := List.flatMap (fun e : Nat × Block => e.2.jobs.filterMap fun j =>
    if j.launch == team.1 && s.teamOf { launch := j.launch, wid := j.wid } == some team && !j.op.isMatrix then some (e.1, j) else none) s2.blocks
  let s3 := jobs.foldl (fun s e => s.cancelJob e.1 e.2 true) s2
  (List.map Prod.fst s3.blocks).foldl (fun s b => s.replayBlock team b) s3

/-- TEAM_REPLAY: the team of a thread that waits for it is replayed, when none of its members' accesses is under way elsewhere. -/
def execTeamReplay (t : Nat) (s : State) : Out State :=
  let x := s.th t
  if x.status ≠ .stalled .replay then .next s else
  match s.teamOf x.act with
  | none => .next s
  | some team =>
    if !s.mayReplay t then .next (s.monitorEntry t { code := x.mcause, val := x.mtval }) else
    let same : Act → Bool := fun a => s.teamOf a == some team
    let ts : List Nat := (List.filter (fun e : Nat × Thread => same e.2.act) s.actives).map Prod.fst
    .next (if ts.any fun u => (s.th u).outst.any (·.busy) then s else s.replayTeam team)

end Sys2Proof.Machine
end

