-- ==== Sys2Proof/Machine/Code.lean ====
section
/-! DEFINITION. The resolution of code misses: the sources asked in turn, their offers, and installs that wait for
room in the kiln (R109, R113–R118, R385). -/

namespace Sys2Proof.Machine

/-- The thread number under which code-fetch requests are kept. -/
def codeThread : Nat := 65534

/-- Changes the resolution of a handle. -/
def State.modFetch (s : State) (cl : Nat) (h : BitVec 32) (f : Fetch → Fetch) : State :=
  s.modCluster cl fun c => { c with fetches := c.fetches.map fun x => if x.handle = h then f x else x }
def State.fetch? (s : State) (cl : Nat) (h : BitVec 32) : Option Fetch := (s.cluster cl).fetches.find? fun f => f.handle == h

/-- The CFREQ of a resolution to a chip (R385), with its number there (R168, R362). -/
def State.codeRequest (s : State) (cl : Nat) (f : Fetch) (dst : BitVec 22) (n : BitVec 24) : Packet :=
  { seq := n, pkind := pkCFREQ, ndata := 1, pkey := s.pkeyOf f.pid, dst, src := s.coord, pid := f.pid, srcv := inboxSource cl
    data := padTo 64 (digestBytes f.digest ++ [if f.askTrans then 1 else 2]) }

/-- The unanswered requests of a resolution are forgotten: what answers them comes too late. -/
def State.dropRequests (s : State) (cl : Nat) (h : BitVec 32) : State :=
  { s with fab := { s.fab with unacked := s.fab.unacked.filter fun u =>
      !(u.thread == codeThread && u.seq == cl && u.ix == h.toNat) } }

/-- Asks the present source: a peer by CFREQ, the host depot through the VI. A peer that cannot be reached
is passed over; with no source left the miss ends with nothing installed (R113). -/
def State.askSource (s : State) (cl : Nat) (h : BitVec 32) : Nat → State
  | 0 => s
  | fuel + 1 =>
    match s.fetch? cl h with
    | none => s
    | some f =>
      match f.source.toNat, f.peers with
      | 3, r :: rest =>
        let next := (s.modFetch cl h fun f => { f with
          peers := rest, source := if rest = [] then 4 else 3, askTrans := f.mask != 0, parts := [], data := [] })
        match (if r = s.ownRank f.pid then none else s.coordOf f.pid r) with
        | none => next.askSource cl h fuel
        | some c =>
          let (n, s) := s.nextSeqTo (inboxSender cl) (chipKey 0 c)
          match s.request (s.codeRequest cl f c n) codeThread cl h.toNat none with
          | (true, s1) => s1
          | (false, _) => next.askSource cl h fuel
      | 3, [] => (s.modFetch cl h fun f => { f with source := 4, askTrans := f.mask != 0 })
      | _, _ => s

/-- The present source is passed over. -/
def State.nextSource (s : State) (cl : Nat) (h : BitVec 32) : State :=
  let s := s.dropRequests cl h
  match s.fetch? cl h with
  | none => s
  | some f =>
    if f.source = 4 then s.endFetch cl f 0x11 3
    else
      let rest := f.peers.drop 1
      (s.modFetch cl h fun f => { f with
        peers := rest, source := if rest = [] then 4 else 3, askTrans := f.mask != 0, parts := [], data := [] }).askSource cl h 9

/-- The source has no image of the kind asked for: after a translation the portable image is asked for. -/
def State.noOffer (s : State) (cl : Nat) (h : BitVec 32) : State :=
  match s.fetch? cl h with
  | none => s
  | some f =>
    if f.askTrans then ((s.dropRequests cl h).modFetch cl h fun f => { f with askTrans := false, parts := [], data := [] }).askSource cl h 9
    else s.nextSource cl h

/-- An accepted instance is installed, or waits for room behind the installs that wait already (R109, R110). -/
def State.installFetched (s : State) (cl : Nat) (f : Fetch) (i : Inst) : State :=
  match f.svc with
  | some k =>
    ({ s with sys := { s.sys with routines := (f.pid, k, i) :: s.sys.routines } } : State).endFetch cl f 0 (if i.trans then 2 else 1)
  | none =>
  match (if s.installWaits cl then (s, false) else s.install cl f.pid f.handle i) with
  | (s1, true) => s1.endFetch cl f 0 (if i.trans then 2 else 1)
  | (s1, false) =>
    s1.modCluster cl fun c => { c with
      fetches := (c.fetches.filter fun x => x.handle != f.handle) ++ [{ f with waiting := some i }] }

/-- An offer is checked (R113, R114, R118). -/
def State.takeOffer (s : State) (cl : Nat) (f : Fetch) (bs : List Byte) : State :=
  let reject : Byte → State → State := fun c s => s.modFetch cl f.handle fun f => { f with
    nrej := if f.nrej = 255 then 255 else f.nrej + 1, rjsrc := f.source, reason := c }
  if f.askTrans then
    match s.checkTranslation f.pid f.mask f.digest bs with
    | .ok i => s.installFetched cl f i
    | .error c => ((reject c s).logRec (inboxSource cl) 0x11 c (f.handle.setWidth 64)).noOffer cl f.handle
  else
    match checkPortable f.digest bs with
    | .ok i => s.installFetched cl f i
    | .error c => (reject c s).nextSource cl f.handle

/-- Thread t joins the resolution of a handle, or begins it (R110, R113). -/
def State.resolveCode (s : State) (t cl : Nat) (pid : BitVec 16) (svc : Option (BitVec 6)) (h : BitVec 32) (digest : Digest) (mask : Byte) (trig : BitVec 4) : State :=
  match s.fetch? cl h with
  | some f =>
    if f.waiters.any fun w => w.1 == t then s
    else s.modFetch cl h fun f => { f with waiters := f.waiters ++ [(t, trig)] }
  | none =>
    let peers := s.peers pid
    let f : Fetch := {
      pid, svc, handle := h, digest, mask, waiters := [(t, trig)], peers
      source := if peers = [] then 4 else 3, askTrans := mask != 0 }
    (s.modCluster cl fun c => { c with fetches := c.fetches ++ [f] }).askSource cl h 9

/-- The digest of a context's service routine (R402). -/
def State.routineDigest (s : State) (pid : BitVec 16) (k : BitVec 6) : Digest :=
  match s.ctx? pid with
  | some x => digestOf (s.mem.bytesAt (ctxAddr x + 0x1100 + 32 * k.toNat) 32)
  | none => 0

/-- CODE_MISS: thread t's resolution begins, or joins one under way; an instance found in the kiln, or a routine found in
the routine stores, ends it (R110, R113). -/
def execCodeMiss (t : Nat) (s : State) : Out State :=
  let x := s.th t
  match x.status with
  | .stalled (.codeMiss h trig) =>
    let cl := clusterOf t
    if !isAct t then
      match x.serve with
      | none => .next s
      | some v =>
        let k : BitVec 6 := h.setWidth 6
        if s.sys.routines.any fun r => r.1 == v.pid && r.2.1 == k then .next (s.unstall t)
        else .next (s.resolveCode t cl v.pid (some k) h (s.routineDigest v.pid k) (s.initMask v.pid) trig)
    else
    match (s.cluster cl).entry h with
    | none => .next s
    | some e =>
      match e.inst with
      | some i =>
        let s1 := if trig = 3 then s.modAct t fun a => { a with codeflt := codefltWord 0 2 3 (if i.trans then 2 else 1) 0 0 h } else s
        .next (s1.unstall t)
      | none => .next (s.resolveCode t cl e.pid none h e.digest (if trig = 4 then s.initMask e.pid else x.act.ttlmask) trig)
  | _ => .next s

/-- CODE_SOURCE_TIMEOUT: the source's limit for the request has run out. -/
def execCodeSourceTimeout (cl : Nat) (h : BitVec 32) (s : State) : Out State :=
  match s.fetch? cl h with
  | some f => if f.waiting.isSome then .next s else .next (s.nextSource cl h)
  | none => .next s

/-- CODE_INSTALL: a peer's assembled image, or the depot's offer, is checked and installed; an empty offer says
that the depot has none of this kind. -/
def execCodeInstall (cl : Nat) (h : BitVec 32) (offer : List Byte) (s : State) : Out State :=
  match s.fetch? cl h with
  | none => .next s
  | some f =>
    if f.waiting.isSome then .next s
    else if f.source = 4 then .next (if offer = [] then s.noOffer cl h else s.takeOffer cl f offer)
    else if f.data = [] then .next s
    else .next (s.takeOffer cl f f.data)

/-- The first install of a cluster that waits for room. -/
def Cluster.firstWaiting (c : Cluster) : Option (Fetch × Inst) :=
  c.fetches.findSome? fun f => f.waiting.map fun i => (f, i)

/-- KILN_INSTALL_RETRY: the kiln looks for a victim again, for the install that waits longest (R109). -/
def execKilnInstallRetry (cl : Nat) (s : State) : Out State :=
  match (s.cluster cl).firstWaiting with
  | none => .next s
  | some (f, i) =>
    match s.install cl f.pid f.handle i with
    | (s1, true) => .next (s1.endFetch cl f 0 (if i.trans then 2 else 1))
    | (s1, false) => .next s1

/-- KILN_INSTALL_TIMEOUT: an install has waited 50 ms (R109). -/
def execKilnInstallTimeout (cl : Nat) (s : State) : Out State :=
  match (s.cluster cl).firstWaiting with
  | none => .next s
  | some (f, _) => .next (s.endFetch cl f 0x15 3)

end Sys2Proof.Machine
end

