-- ==== Sys2Proof/Machine/Creg.lean ====
section
/-! DEFINITION. Control registers: GETC and SETC (R159–R161), with the registers of every chapter (R79, R88, R100,
R108, R115, R116, R120, R121, R126, R127, R177, R217, R316, R330, R351, R379) and the monitor's (R393, R413). -/

namespace Sys2Proof.Machine

/-! ## Reading -/

/-- What a read of a control register gives: its value; or none: the register is not there. wait: forest
operations of the thread are still to be answered (R351). -/
inductive CRead where
  | value (w : Word) (s : State)
  | wait
  | absent
  deriving DecidableEq, Repr

/-- CORE (R161). The register of a memory-side service core is not described (log 8). -/
def State.coreReg (s : State) : CRead :=
  if isCore s.cur then .value (BitVec.ofNat 64 s.cur) s else let r := s.takeFree; .value r.1 r.2

/-- LC0 to LC3 (R100): level k counts from the outermost. -/
def Thread.loopReg (x : Thread) (k : Nat) : Word :=
  match x.loops.reverse[k]? with | some l => l.calls ++ l.count | none => 0

/-- CQUOTA (R108). RESIDENT shows 255 where more instances are resident than its bits hold (log 90). -/
def State.cquota (s : State) : Word :=
  let cl := clusterOf s.cur
  let pid := s.me.act.pid
  BitVec.ofNat 64 (min 255 (s.resident cl pid) * 256 + s.quota cl pid % 256)

/-- DTBASE (R126). -/
def State.dtbase (s : State) : Word :=
  let n : Nat := match s.myInst with | some i => i.digs.length | none => 0
  handleOf s.me.act.pc ++ BitVec.ofNat 32 n

/-- Registers that the service thread reads as zero and may not write (R159). -/
def serviceless (n : Nat) : Bool := [1, 2, 3, 4, 6, 7, 8, 10].contains n

/-- A register below 0x800. -/
def State.lowReg (s : State) (n : Nat) : CRead :=
  let x := s.me
  let a := x.act
  if !isAct s.cur && serviceless n then .value 0 s else
  match n with
  | 0x00 => s.coreReg
  | 0x01 => .value ((a.stage.setWidth 64 <<< 8) ||| a.chan.setWidth 64) s
  | 0x02 => .value (a.prio.setWidth 64) s
  | 0x03 => .value a.wid s
  | 0x04 => .value (a.widspec.setWidth 64) s
  | 0x05 => .value s.cycle s
  | 0x06 => .value (a.dline.setWidth 64) s
  | 0x07 => .value (BitVec.ofNat 64 a.retire) s
  | 0x08 => .value (fstatWord x.drm x.flagsRead) s
  | 0x09 => .value s.cquota s
  | 0x0A => .value a.codeflt s
  | 0x0B => .value (x.loopReg 0) s
  | 0x0C => .value (x.loopReg 1) s
  | 0x0D => .value (x.loopReg 2) s
  | 0x0E => .value (x.loopReg 3) s
  | 0x10 => if x.eqops = [] then .value s.eqCls s else .wait
  | 0x11 => if x.eqops = [] then .value s.eqMax s else .wait
  | 0x12 => .value (a.eqlast.setWidth 64) s
  | 0x13 => if x.eqops = [] then .value s.eqLogReg s else .wait
  | 0x14 => .value (s.mstatRead s.cur) s
  | 0x15 => .value (s.jstatRead s.cur) s
  | 0x16 => .value a.rfault s
  | 0x17 => .value a.ticket s
  | 0x18 => .value a.mcack s
  | 0x19 => .value 0x00030001 s
  | 0x1A => .value (a.ttlmask.setWidth 64) s
  | 0x1B => .value s.dtbase s
  | _ => .absent

/-- The VALID bits of a map of n entries. -/
def validBits {α : Type} (n : Nat) (f : Nat → Option α) : Nat :=
  ((List.range n).map fun i => if (f i).isSome then 2 ^ i else 0).sum

/-- KEYSEL (R393). -/
def Block.keysel (b : Block) : Word :=
  BitVec.ofNat 64 (b.lock.toNat * 256 + validBits 8 fun i => Map.get none b.keys i)

/-- PROTCFG (R393): the V bits of the core's entries. -/
def Owner.protcfg (o : Owner) : Word :=
  BitVec.ofNat 64 (validBits 16 fun i => match Map.get none o.pents i with | some p => if p.v then some p else none | none => none)

/-- MSTATUS (R393). -/
def State.mstatus (s : State) : Word :=
  let x := s.me
  BitVec.ofNat 64 (Config.lifecycle.toNat * 512 + (if s.sys.dbg then 256 else 0) + (if x.norpl then 2 else 0) +
    (if x.mode = .monitor then 1 else 0))

/-- A register at 0x800 or above, in monitor mode. -/
def State.highReg (s : State) (n : Nat) : CRead :=
  let x := s.me
  match n with
  | 0x800 => .value s.mstatus s
  | 0x801 => .value (x.mcause.setWidth 64) s
  | 0x802 => .value x.mepc s
  | 0x803 => .value x.mtval s
  | 0x804 => .value (x.act.pid.setWidth 64) s
  | 0x805 => .value (x.act.encl.setWidth 64) s
  | 0x806 => .value (s.block (blockOf s.cur)).keysel s
  | 0x807 => .value (s.owner (coreOf s.cur)).protcfg s
  | 0x808 => .value (x.act.vi.setWidth 64) s
  | 0x809 => .value x.trcfg s
  | 0x80A => .value (x.wdcfg.setWidth 64) s
  | 0x80B => .value (s.block (blockOf s.cur)).savebase s
  | _ => .absent

/-- Number n is outside the thread's reach: 0x800 and above outside monitor mode (R159). -/
def State.mayNotName (s : State) (n : BitVec 12) : Bool := decide (0x800 ≤ n.toNat) && !(isAct s.cur && s.me.mode == .monitor)

/-- GETC (R159). -/
def execGetc (d : GReg) (n : BitVec 12) (s : State) : Out State :=
  if s.mayNotName n then raiseOpen 0x15 s
  else match (if n.toNat < 0x800 then s.lowReg n.toNat else s.highReg n.toNat) with
    | .value w s1 => .next (s1.writeRetire d w)
    | .wait => .next (s.stall .eqResult)
    | .absent => illegal (.getc d n) s

/-! ## Writing -/

/-- SETC to a register below 0x800: the new activation; none where the register has no RW field, or the value is illegal. -/
def State.writeLow (s : State) (n : Nat) (w : Word) : Option Act :=
  let a := s.me.act
  if !isAct s.cur && serviceless n then none else
  match n with
  | 0x02 => if a.prio.toNat < w.toNat % 8 then none else some { a with prio := w.setWidth 3 }
  | 0x08 => some { a with drm := w.extractLsb' 8 3, flags := w.setWidth 5 }
  | 0x0A => some { a with codeflt := w }
  | 0x14 => some { a with mstat := (a.mstat &&& ~~~0x1F) ||| (w &&& 0x1F) }
  | 0x1A => some { a with ttlmask := w.setWidth 8 &&& (a.ttlmask ||| s.initMask a.pid) }
  | _ => none

/-- TRCFG as it is stored: HAZ needs DBG (R393, R413). -/
def State.trcfgOf (s : State) (w : Word) : Word :=
  (w &&& 0x000000FFFFFFFF06) ||| (if s.sys.dbg then w &&& 1 else 0)

/-- SETC to a monitor register; none where it has no field that SETC changes. -/
def State.writeHigh (s : State) (n : Nat) (w : Word) : Option State :=
  match n with
  | 0x801 => some (s.modMe fun x => { x with mcause := w.setWidth 8 })
  | 0x802 => some (s.modMe fun x => { x with mepc := w })
  | 0x803 => some (s.modMe fun x => { x with mtval := w })
  | 0x804 => some (s.modMyAct fun a => { a with pid := w.setWidth 16 })
  | 0x805 => some (s.modMyAct fun a => { a with encl := w.setWidth 8 })
  | 0x806 => some (s.modBlock (blockOf s.cur) fun b => { b with lock := b.lock &&& ~~~(w.extractLsb' 8 8) })
  | 0x808 => some (s.modMyAct fun a => { a with vi := w.setWidth 6 })
  | 0x809 =>
    let new := s.trcfgOf w
    let old := s.me.trcfg
    let moved := new.extractLsb' 12 28 != old.extractLsb' 12 28 || new.extractLsb' 8 4 != old.extractLsb' 8 4
    let s1 := if moved then (s.traceFlush s.cur).modMe fun x => { x with trace := { x.trace with head := 0 } } else s
    some (s1.modMe fun x => { x with trcfg := new, trace := if new.getLsbD 1 && !old.getLsbD 1 then { x.trace with lastTime := s.cycle } else x.trace })
  | 0x80A => some (s.modMe fun x => { x with wdcfg := w.setWidth 16 })
  | 0x80B => some (s.modBlock (blockOf s.cur) fun b => { b with savebase := w &&& 0x000000FFFFE00000 })
  | _ => none

/-- SETC (R159). -/
def execSetc (a : GReg) (n : BitVec 12) (s : State) : Out State :=
  let w := s.g a
  if s.mayNotName n then raiseOpen 0x15 s
  else if n.toNat < 0x800 then
    match s.writeLow n.toNat w with
    | some x => .next (s.modMyAct fun _ => x).retire
    | none => illegal (.setc a n) s
  else match s.writeHigh n.toNat w with
    | some s1 => .next s1.retire
    | none => illegal (.setc a n) s

end Sys2Proof.Machine
end

