-- ==== Sys2Proof/Machine/Fabric.lean ====
section
/-! DEFINITION. The fabric: what packets do on arrival and the timers that resend them (R362–R371, R385), multicast
copies and their answers (R373, R374), links and ports (R364, R384), the fabric manager's writes and reads
(R381–R383), and class 11 (R377–R380). -/

namespace Sys2Proof.Machine

/-! ## Requests (R168, R191, R363) -/

/-- What a request packet does at its word. -/
def accessOf (k : Packet) : Access :=
  let opn : BitVec 6 := k.lo.extractLsb' 6 6
  if k.pkind = pkRD then (if k.opkind = 1 then .tagRead else .load)
  else if k.pkind = pkWR then (if k.opkind = 1 then .tagWrite else .store)
  else match k.opkind.toNat with
    | 2 => .amo opn | 3 => .amof opn | 4 => .cas | _ => .ams opn

/-- The elements of a request packet: a word or line; or the words that WMASK names; or one of no bytes; or lanes. -/
def packetElems (k : Packet) : List Elem :=
  let sz := k.lo.toNat % 8
  let n := if sz < 4 then 2 ^ sz else 128
  let all := if n = 128 then 16 else 1
  if k.pkind ≠ pkWR then
    if k.lanes = [] then
      [{ ea := k.addr, size := n, data := BitVec.ofNat 1024 (field k.data 0 8)
         data2 := if k.opkind = 4 then k.aux else BitVec.ofNat 64 (field k.data 8 8) }]
    else k.lanes.zipIdx.map fun l => { ea := l.1.1, size := n, off := n * l.2, data := l.1.2.setWidth 1024 }
  else
    let on := (List.range all).filter fun i => k.hi.getLsbD i
    if on = [] then [{ ea := k.addr, size := 0 }]
    else if on.length = all then [{ ea := k.addr, size := n, data := BitVec.ofNat 1024 (field k.data 0 n), mask := k.part }]
    else on.map fun i => { ea := k.addr + BitVec.ofNat 64 (8 * i), size := 8, off := 8 * i, data := BitVec.ofNat 1024 (field k.data (8 * i) 8) }

/-- The access that a request packet asks for; one of no bytes is PLAIN (R191). -/
def packetReq (k : Packet) : Req :=
  let es := packetElems k
  { seq := 0, what := accessOf k, sp := .d, sync := if es.all (fun e => e.size == 0) then .plain else syncOfNo (k.lo.toNat / 8 % 8)
    ord := k.ord, pid := k.pid, src := k.srcv, perOwner := k.lanes != [], elems := es }

/-- The thread number of a request of another chip that is still here: that of the same number (R168). -/
def State.inboundOf (s : State) (k : Packet) : Option Nat :=
  (s.fab.inbound.find? fun e => repeats e.2 k).map fun e => 65536 + e.1
/-- What answers a request that is still here answers the last of its repeats. -/
def State.renumber (s : State) (k : Packet) : State :=
  { s with fab := { s.fab with inbound := s.fab.inbound.map fun e => if repeats e.2 k then (e.1, { e.2 with fseq := k.fseq }) else e } }

/-- A request is accepted; a repeat gets the answer that was kept, uses its call, or is dropped while the
first copy is still here (R168, R216, R366). -/
def State.acceptRequest (s : State) (k : Packet) : State :=
  match s.inboundOf k with
  | some t =>
    let s := s.renumber k
    match s.req? t 0 with
    | some r =>
      match r.refusal true with
      | some (o, tk) => s.setReq t (r.setHold o tk (.called o tk))
      | none => s
    | none => s
  | none =>
    match s.keptAnswer k with
    | some a => (s.forward a).2
    | none => s.addInbound k (packetReq k)

def execRd (p : Packet) (s : State) : Out State := s.arrives pkRD false p fun k s => s.acceptRequest k
def execWr (p : Packet) (s : State) : Out State := s.arrives pkWR false p fun k s => s.acceptRequest k
def execAtm (p : Packet) (s : State) : Out State := s.arrives pkATM false p fun k s => s.acceptRequest k

/-! ## Messages (R141, R148, R363) -/

/-- The rank whose coordinates in a context's live map are those of a chip. -/
def State.rankAt (s : State) (pid : BitVec 16) (c : BitVec 22) : Option (BitVec 22) :=
  let n := s.slotOf pid
  let base := rankKey n (if (s.pkb n).getLsbD 63 then 1 else 0) 0
  List.findSome? (fun e : Nat × Word =>
    if base ≤ e.1 ∧ e.1 < base + 2 ^ 22 ∧ e.2.getLsbD 31 ∧ e.2.extractLsb' 0 22 = c then some (BitVec.ofNat 22 (e.1 - base)) else none) s.fab.ranks

/-- The message of a packet. -/
def messageOf (k : Packet) : Msg :=
  { dest := k.addr, reply := k.aux, src := k.srcv, wid := k.lo, launch := k.hi, seq := k.seq, pid := k.pid, origin := .remote k.src
    payload := if k.ndata = 4 then [] else wordsOfBytes k.data
    vec := if k.ndata = 4 then some { bits := BitVec.ofNat 2048 (leNat k.data), tag := k.vtag } else none }

/-- Answers a message with a status. -/
def State.answerMsg (s : State) (k : Packet) (st : Byte) : State := s.reply k pkMSGA st 0 []

/-- A message is taken (R363): a channel's is granted a slot, refused, or told FULL, when its CALL is owed, but not to a
SENDNB, which sends nothing more (R141); a launch header goes to its inbox. -/
def State.acceptMessage (s : State) (k : Packet) : State :=
  let s := { s with fab := { s.fab with called := s.fab.called.filter fun e => !repeats e k } }
  match s.keptAnswer k with
  | some a => (s.forward a).2
  | none =>
    let m := messageOf k
    if malformed m.dest then s.answerMsg k 3
    else if maKind m.dest = 2 then
      let c := s.chanOf m.pid m.dest
      match s.answerHere m.pid m.dest 0 with
      | .grant => (s.enchannel (maBlock m.dest) c m false).answerMsg k 0
      | .full =>
        let w := s.fab.fullWait
        let s1 : State := if k.nb || w.any fun e => repeats e.2 k then s
          else { s with fab := { s.fab with fullWait := w ++ [(32 * maBlock m.dest + c.toNat, k)] } }
        s1.answerMsg k 1
      | a => s.answerMsg k (a.status.setWidth 8)
    else if maKind m.dest = 6 then
      let h : Header := { bytes := k.data.take 128, src := k.srcv, seq := k.seq, pid := k.pid, vi := s.viOf k.pid, wid := k.lo, rank := s.rankAt k.pid k.src }
      (s.modCluster (maCluster m.dest) fun c => { c with inbox := c.inbox ++ [h] }).answerMsg k 0
    else s.answerMsg k 3

/-- An ORD packet of a kind that is for this chip and whose turn has not come waits (R367). -/
def State.waitsTurn (s : State) (kind : Byte) (hop : Bool) (p : Packet) : Bool :=
  p.pkind == kind && flitsOk kind p.ndata.toNat && p.ftype != 3 && p.ord && (hop || !s.forOther p) && s.keyOk p && !s.ordTurn p

/-- MSG. -/
def execMsg (p : Packet) (s : State) : Out State :=
  if s.waitsTurn pkMSG false p then .next s else s.arrives pkMSG false p fun k s => s.acceptMessage k

/-! ## Multicast copies (R373, R374, R388, R389) -/

/-- MCW: a copy meets its group's entry. Without one under its key the chip sends nothing, and its parent's
time-out accounts for it. A repeat gets the answer that was kept, or waits with the first for its answer. -/
def State.acceptCopy (s : State) (k : Packet) : State :=
  let e := s.grp (mcGroup k)
  if !grpValid e || grpKey e != k.pkey then s
  else if (s.mcWait? k).isSome then s.modMcWait k fun w => { w with pkt := { w.pkt with fseq := k.fseq } }
  else match s.keptAnswer k with
    | some a => if a.pkind = pkMCACK ∧ s.portOpen (grpParent e) then s.outPkt (grpParent e) a else s
    | none => s.mcArrive k (some (grpParent e)) 0

/-- MCW. -/
def execMcw (p : Packet) (s : State) : Out State :=
  if s.waitsTurn pkMCW true p then .next s else s.arrives pkMCW true p fun k s => s.acceptCopy k

/-- MCACK on a port: the answer of the copy that went out there; a later one is discarded (R374). -/
def execMcack (port : Nat) (p : Packet) (s : State) : Out State := s.arrives pkMCACK true p fun k s =>
  match s.answered? k with
  | some u =>
    if u.pkt.pkind = pkMCW ∧ u.ix = port then (s.dropUnacked u).mcAnswer u.pkt port (mcBitmap k) (mcReport k) else s
  | none => s

/-- MCACK_TIMEOUT: the answers that the group's oldest waiting copy has not had count as given, its own result among them
(R374, R389). -/
def execMcackTimeout (g : Nat) (s : State) : Out State :=
  match s.fab.mcwaits.find? fun w => mcGroup w.pkt == g && (w.children != [] || w.here) with
  | some w => .next (((s.dropCopies w.pkt).modMcWait w.pkt fun w => { w with children := [], here := false }).mcSettle w.pkt)
  | none => .next s

/-! ## Answers (R363) -/

/-- The elements that an answer answers are done, each with its value (R168, R178). -/
def State.elementDone (s : State) (u : Unacked) (err : Byte) (ea : Word) (res : List Nat) (fl : BitVec 5) : State :=
  let s1 := s.dropUnacked u
  match s1.req? u.thread u.seq with
  | none => s1
  | some r =>
    let es := r.elems.zipIdx.map fun p =>
      if u.ixs.contains p.2 then { p.1 with done := true, res := BitVec.ofNat 1024 (res.getD (u.ixs.idxOf p.2) 0) } else p.1
    s1.setReq u.thread { r with
      elems := es, flags := r.flags ||| fl
      err := if r.err = 0 then err else r.err, errAddr := if r.err = 0 ∧ err ≠ 0 then ea else r.errAddr
      phase := if es.all (·.done) then .done else .sent }

/-- The bytes that an element's packet asked for. -/
def askedBytes (k : Packet) : Nat := let sz := k.lo.toNat % 8; if sz < 4 then 2 ^ sz else 128

/-- The answer to a thread's send arrives (R141): FULL keeps a blocking send waiting for its CALL. -/
def State.sendAnswered (s : State) (u : Unacked) (st : Word) : State :=
  let t := u.thread
  let blocking : Bool := !(s.th t).sendDst.any (·.nb)
  if st = 1 ∧ blocking then s.modUnacked u fun v => { v with refused := true }
  else
    let s1 := (s.dropUnacked u).modTh t fun x => { x with sendAns := some st }
    if (s1.th t).status = .stalled .send then s1.unstall t else s1

/-- The answer to a message of this chip (R132, R133, R141). -/
def State.messageAnswered (s : State) (u : Unacked) (m : Msg) (st : Word) : State :=
  match m.origin with
  | .thread _ => if u.thread = 65535 then s.dropUnacked u else s.sendAnswered u st
  | .job blk id =>
    if st = 1 then s.modUnacked u fun v => { v with refused := true }
    else (s.dropUnacked u).completed blk id (if st = 0 then 0 else 0x0F)
  | .report _ _ _ =>
    if st = 0 then (s.dropUnacked u).reportDone m
    else if st = 1 then s.modUnacked u fun v => { v with refused := true }
    else (s.dropUnacked u).reportFailed m
  | _ => s.dropUnacked u

/-- A request ends with error cause 5, its message as unreachable, its copy with no answer (R366, R370). -/
def State.requestFailed (s : State) (u : Unacked) (cause : Byte) : State :=
  match u.msg with
  | some m => s.messageAnswered u m 4
  | none =>
    if u.thread = codeThread then (s.dropUnacked u).nextSource u.seq (BitVec.ofNat 32 u.ix)
    else if u.pkt.pkind = pkMCW then (s.dropUnacked u).mcAnswer u.pkt u.ix 0 none
    else s.elementDone u cause u.pkt.addr [] 0

/-- An answer packet that no request waits for is discarded. -/
def State.answers (s : State) (k : Packet) (f : Unacked → State) : State :=
  match s.answered? k with | some u => f u | none => s

def execRda (p : Packet) (s : State) : Out State := s.arrives pkRDA false p fun k s =>
  s.answers k fun u => s.elementDone u 0 0 [leNat (k.data.take (askedBytes u.pkt))] 0
def execAck (p : Packet) (s : State) : Out State := s.arrives pkACK false p fun k s =>
  s.answers k fun u => s.elementDone u 0 0 (if k.lanes = [] then [leNat (k.data.take 8)] else k.lanes.map fun l => l.2.toNat) (k.aux.extractLsb' 0 5)
/-- TNAK. One for a VAMO's message names the lane that failed (R210). -/
def execTnak (p : Packet) (s : State) : Out State := s.arrives pkTNAK false p fun k s =>
  s.answers k fun u => match k.lanes with
    | l :: _ => s.elementDone u (k.aux.extractLsb' 0 8) l.1 [] 0
    | [] => s.requestFailed u (k.aux.extractLsb' 0 8)
def execMsga (p : Packet) (s : State) : Out State := s.arrives pkMSGA false p fun k s =>
  s.answers k fun u => match u.msg with
    | some m => s.messageAnswered u m (k.aux &&& 0xFF)
    | none => s

/-! ## Resends (R366) -/

/-- SEQNAK_TIMER: an FSEQ has been missing behind a higher one from the same chip. -/
def execSeqnakTimer (src : BitVec 22) (fseq : BitVec 24) (s : State) : Out State :=
  let x := s.seenOf src
  if !x.has fseq && x.past.any fun n => before24 fseq n then
    .next (s.forward { pkind := pkSEQNAK, ndata := 0, vcl := 1, pkey := x.pkey, dst := src, src := s.coord, fseq, pid := x.pid }).2
  else .next s

/-- An unanswered request is sent again: a copy on its port. False when no port can take it. -/
def State.again (s : State) (u : Unacked) : Bool × State := if u.pkt.pkind = pkMCW then (true, s.outCopy u.ix u.pkt) else s.resend u

/-- SEQNAK: the packet it names is sent again at once. -/
def execSeqnak (p : Packet) (s : State) : Out State := s.arrives pkSEQNAK false p fun k s =>
  s.answers k fun u => if u.refused then s else (s.again u).2

/-- REQUEST_RESEND_TIMER: an unanswered request is sent again; after the fourth time it ends. -/
def execRequestResendTimer (fseq : BitVec 24) (dst : BitVec 22) (s : State) : Out State :=
  match s.fab.unacked.find? fun u => u.pkt.dst == dst && u.pkt.fseq == fseq && !u.refused with
  | none => .next s
  | some u =>
    if 4 ≤ u.resends then .next (s.requestFailed u 5)
    else match s.again u with
      | (true, s1) => .next (s1.modUnacked u fun v => { v with resends := v.resends + 1 })
      | (false, _) => .next (s.requestFailed u 5)

/-- FLOWLET_TIMEOUT: a flowlet without traffic ends once its packets are acknowledged (R371). -/
def execFlowletTimeout (core : Nat) (rank : BitVec 22) (s : State) : Out State :=
  .next { s with fab := { s.fab with flowlets := s.fab.flowlets.filter fun f =>
    !(f.core == core && f.names.any (fun n => n.2 == rank) && s.flowQuiet f) } }

/-! ## Code fetch (R385) -/

/-- The image that a kiln of this chip holds of a digest, for a context and of a kind. -/
def State.imageFor (s : State) (pid : BitVec 16) (dig : Digest) (trans : Bool) : Option (List Byte) :=
  List.findSome? (fun c : Nat × Cluster => c.2.dir.findSome? fun e =>
    if e.pid == pid && e.digest == dig && decide (256 ≤ e.handle.toNat) then
      match e.inst with | some i => if i.trans == trans then some i.image else none | none => none
    else none) s.clusters

/-- CFREQ: the image leaves in parts of up to 256 bytes, from the offset asked for on. -/
def execCfreq (p : Packet) (s : State) : Out State := s.arrives pkCFREQ false p fun k s =>
  match s.imageFor k.pid (digestOf k.data) (field k.data 32 1 == 1) with
  | none => s.reply k pkCFNONE 0 0 []
  | some bs =>
    (List.range ((bs.length + 255) / 256)).foldl (fun s i =>
      if 256 * i < k.addr.toNat then s else
      let part := (bs.drop (256 * i)).take 256
      (s.forward { answerPacket k pkCFDAT 0 0 (padTo ((part.length + 63) / 64 * 64) part) with
        addr := BitVec.ofNat 64 (256 * i), aux := BitVec.ofNat 64 bs.length }).2) s

/-- The image that parts make up, once they are all there. -/
def assemble (parts : Map (List Byte)) (size : Nat) : Option (List Byte) :=
  let offs := (List.range ((size + 255) / 256)).map (256 * ·)
  if offs.all fun o => Map.get ([] : List Byte) parts o != [] then some ((offs.flatMap fun o => Map.get [] parts o).take size) else none

/-- CFDAT: a part of the image that the resolution asked for. -/
def execCfdat (p : Packet) (s : State) : Out State := s.arrives pkCFDAT false p fun k s =>
  s.answers k fun u =>
    if u.thread ≠ codeThread then s else
    let h := BitVec.ofNat 32 u.ix
    match s.fetch? u.seq h with
    | none => s.dropUnacked u
    | some f =>
      let parts := Map.put f.parts k.addr.toNat k.data
      match assemble parts k.aux.toNat with
      | some bs => (s.dropUnacked u).modFetch u.seq h fun f => { f with parts := [], data := bs }
      | none => s.modFetch u.seq h fun f => { f with parts }

def execCfnone (p : Packet) (s : State) : Out State := s.arrives pkCFNONE false p fun k s =>
  s.answers k fun u =>
    if u.thread ≠ codeThread then s else (s.dropUnacked u).noOffer u.seq (BitVec.ofNat 32 u.ix)

/-! ## Links and ports (R364, R382–R384) -/

def Port.state (p : Port) : Nat := (p.reg.extractLsb' 62 2).toNat
def Port.setState (p : Port) (n : Nat) : Port := { p with reg := (p.reg &&& 0x3FFFFFFFFFFFFFFF) ||| BitVec.ofNat 64 (n * 2 ^ 62) }
def Port.badLane (p : Port) : BitVec 4 := p.reg.extractLsb' 58 4
def Port.setLane (p : Port) (n : BitVec 3) : Port :=
  { p with reg := (p.reg &&& 0xC3FFFFFFFFFFFFFF) ||| (n.setWidth 64 <<< 58) }
def Port.en (p : Port) : Bool := p.reg.getLsbD 0
/-- The port is held down: by EN, or by the management controller (R382, R428). -/
def Port.down (p : Port) : Bool := !p.en || p.held

/-- A packet that waited at a port that went down goes another way; where it can go none, its request ends with cause 5
here, or is returned to its source (R370). A copy, its answer and a flooded notice are the port's own (R374, R384, R389). -/
def State.reroute (s : State) (k : Packet) : State :=
  if k.pkind = pkMCW ∨ k.pkind = pkMCACK ∨ (k.pkind = pkNOTICE ∧ !k.ph) then s
  else match s.forward k with
    | (true, s1) => s1
    | (false, _) =>
      match s.fab.unacked.find? fun u => k.src == s.coord && u.pkt.dst == k.dst && u.pkt.fseq == k.fseq && u.pkt.pkind == k.pkind with
      | some u => s.requestFailed u 5
      | none => s.returned k
/-- A port goes down: the packet that leaves is stomped, those that wait go another way, and the endpoints hear of it
(R384). -/
def State.takeDown (s : State) (port : Nat) (why : Byte) : State :=
  if (s.port port).state = 0 then s
  else
    let waiting := s.fab.out.filter fun e => e.1 == port
    let s1 := (s.stomp port).modPort port fun p => { p.setState 0 with refusals := 0 }
    let s2 := { s1 with fab := { s1.fab with out := s1.fab.out.filter fun e => e.1 != port } }
    (waiting.foldl (fun s e => s.reroute e.2) s2).portNotice port why
/-- A chip goes down, or comes back (R370). -/
def State.chipDown (s : State) (c : BitVec 22) (up : Bool) : State :=
  { s with fab := { s.fab with downChips := if up then s.fab.downChips.filter (· != c) else if s.fab.downChips.contains c then s.fab.downChips else c :: s.fab.downChips } }
/-- A port that nothing holds down begins to train. -/
def State.train (s : State) (port : Nat) : State :=
  if (s.port port).down ∨ (s.port port).state ≠ 0 then s else s.modPort port fun p => p.setState 1

/-- FLIT_REPLAY: a flit is refused and sent again; at its sixteenth refusal the link retrains. A flit that arrives ends the
count (R364). -/
def execFlitReplay (port : Nat) (s : State) : Out State :=
  if !s.portUp port then .next s else
  let s1 := { s with fab := { s.fab with cntLink := s.fab.cntLink + 0x100000000 } }
  .next (s1.modPort port fun p =>
    if 15 ≤ p.refusals then { p.setState 1 with refusals := 0 } else { p with refusals := p.refusals + 1 })

/-- LINK_RETRAIN: the spare lane replaces a bad one; without it the port goes down. -/
def execLinkRetrain (port : Nat) (lane : Option (BitVec 3)) (s : State) : Out State :=
  let p := s.port port
  if p.state ≠ 1 then .next s else
  match lane with
  | some n =>
    if p.badLane = 15 ∨ p.badLane = n.setWidth 4 then .next (s.modPort port fun p => (p.setLane n).setState 3)
    else .next (s.takeDown port 1)
  | none => .next (s.takeDown port 1)

/-- LINK_TRAINED: training ends and the port comes up, on the spare lane where that replaces another. -/
def execLinkTrained (port : Nat) (s : State) : Out State :=
  let p := s.port port
  if p.state ≠ 1 ∨ p.down then .next s
  else .next (s.modPort port fun p => p.setState (if p.badLane = 15 then 2 else 3))

def execPortDown (port : Nat) (why : Byte) (s : State) : Out State := .next (s.takeDown port why)

/-- NOTICE: a unicast copy goes on to its endpoint; a flooded one is forwarded once (R384). -/
def execNotice (port : Nat) (p : Packet) (s : State) : Out State := s.arrives pkNOTICE (!p.ph) p fun k s =>
  if k.ph then s else
  let key : BitVec 22 × BitVec 32 := (k.addr.extractLsb' 0 22, k.aux.extractLsb' 8 32)
  if s.fab.notices.contains key then s
  else ({ s with fab := { s.fab with notices := key :: s.fab.notices } }).flood { k with hops := if k.hops = 255 then 255 else k.hops + 1 } (some port)

/-! ## Management registers (R381–R383) -/

def State.anyUp (s : State) : Bool := (List.range 12).any s.portUp

/-- EN of a port is written (R383). -/
def State.writeEn (s : State) (port : Nat) (en : Bool) : State :=
  let s1 := s.modPort port fun p => { p with reg := (p.reg &&& 0xFFFFFFFFFFFFFFFE) ||| (if en then 1 else 0) }
  if en then s1.train port else s1.takeDown port 3
/-- FGEOM is written; while a port is up that is dropped and counted (R382). -/
def State.writeFgeom (s : State) (w : Word) : State :=
  if s.anyUp then s.countDrop false else { s with fab := { s.fab with fgeom := w &&& 0x03FFFFF0003FFFFF } }
/-- Slot n of some partition slots is valid, and so is another one with its key. -/
def sharesKey (m : Map Word) (n : Nat) : Bool :=
  let w := Map.get 0 m n
  w.getLsbD 63 && (List.range 64).any fun k =>
    k != n && (Map.get 0 m k).getLsbD 63 && (Map.get 0 m k).extractLsb' 0 16 == w.extractLsb' 0 16
/-- Partition slots are written together; a write that gives two valid slots one key is dropped and counted, with all that
it would write of the slots (R381, R382). -/
def State.writePkas (s : State) (ws : List (Nat × Word)) : State :=
  let m := ws.foldl (fun m e => Map.set 0 m e.1 (e.2 &&& 0x807FFFFFFFFFFFFF)) s.fab.pka
  if ws.any fun e => sharesKey m e.1 then s.countDrop false else { s with fab := { s.fab with pka := m } }
def State.writePka (s : State) (n : Nat) (w : Word) : State := s.writePkas [(n, w)]
def State.writePkb (s : State) (n : Nat) (w : Word) : State :=
  { s with fab := { s.fab with pkb := Map.set 0 s.fab.pkb n (w &&& 0xBFFFFF0000000000) } }
/-- A rank-map entry is written; its bits 30 to 22 are zero (R361). -/
def State.writeRank (s : State) (i : Nat) (w : Word) : State :=
  { s with fab := { s.fab with ranks := Map.set 0 s.fab.ranks i (w &&& 0x803FFFFF) } }
/-- Bytes of the management key. -/
def State.writeKey (s : State) (off : Nat) (bs : List Byte) : State :=
  let old := digestBytes s.fab.mkey
  { s with fab := { s.fab with mkey := digestOf (old.take off ++ bs ++ old.drop (off + bs.length)) } }

/-- Writes the register at a management offset; a read-only one keeps its value (R382). -/
def State.mgmtWrite (s : State) (a : Nat) (w : Word) : State :=
  if a = 0 then s.writeFgeom w
  else if 0x10 ≤ a ∧ a < 0x30 then
    { s with fab := { s.fab with fmep := Map.set 0 s.fab.fmep ((a - 0x10) / 8) (w &&& 0x80000000003FFFFF) } }
  else if 0x30 ≤ a ∧ a < 0x50 then s.writeKey (a - 0x30) (leBytes 8 w.toNat)
  else if 0x80 ≤ a ∧ a < 0xE0 then s.writeEn ((a - 0x80) / 8) (w.getLsbD 0)
  else if 0x1000 ≤ a ∧ a < 0x1400 then
    if a % 16 = 0 then s.writePka ((a - 0x1000) / 16) w else s.writePkb ((a - 0x1000) / 16) w
  else if 0x40000000 ≤ a ∧ a < 0xC0000000 then
    let i := (a - 0x40000000) / 4
    (s.writeRank i (w &&& 0xFFFFFFFF)).writeRank (i + 1) (w >>> 32)
  else s

/-- The 8 bytes of the register at an aligned offset, as a write that covers some of them finds them. -/
def State.mgmtBytes (s : State) (a : Nat) : List Byte :=
  if 0x30 ≤ a ∧ a < 0x50 then ((digestBytes s.fab.mkey).drop (a - 0x30)).take 8
  else leBytes 8 ((s.mgmtRead a).getD 0).toNat

/-- The registers that bytes from offset a on write, and what each holds then. -/
def State.mgmtWords (s : State) (a : Nat) (bs : List Byte) : Nat → List (Nat × Word)
  | 0 => []
  | fuel + 1 =>
    if bs = [] then [] else
    let lo := a % 8
    let n := min (8 - lo) bs.length
    let old := s.mgmtBytes (a - lo)
    let new := old.take lo ++ bs.take n ++ old.drop (lo + n)
    (a - lo, BitVec.ofNat 64 (leNat new)) :: s.mgmtWords (a + n) (bs.drop n) fuel
/-- The partition slot that an offset names the PKA of. -/
def pkaSlot (a : Nat) : Option Nat := if 0x1000 ≤ a ∧ a < 0x1400 ∧ a % 16 = 0 then some ((a - 0x1000) / 16) else none
/-- Writes bytes from offset a on, which take effect together (R381). -/
def State.mgmtPut (s : State) (a : Nat) (bs : List Byte) (fuel : Nat) : State :=
  let ws := s.mgmtWords a bs fuel
  let pk := ws.filterMap fun e => (pkaSlot e.1).map fun n => (n, e.2)
  ((ws.filter fun e => (pkaSlot e.1).isNone).foldl (fun s e => s.mgmtWrite e.1 e.2) s).writePkas pk

/-- The header flit, with HOPS, DL, DET and PH clear (R381). -/
def headerBytes (k : Packet) : List Byte := headerFlit { k with hops := 0, dl := false, det := false, ph := false }

/-- A management packet is accepted (R381). -/
def State.authentic (s : State) (k : Packet) : Bool :=
  s.managers.contains k.src &&
  digestOf (k.data.drop 8) == hmac s.fab.mkey (headerBytes k ++ k.data.take 8 ++ k.data.drop 40) &&
  decide (s.fab.mnonce.toNat < field k.data 0 8)
def State.acceptNonce (s : State) (k : Packet) : State :=
  { s with fab := { s.fab with mnonce := BitVec.ofNat 64 (field k.data 0 8) } }
/-- The MGA of an accepted management packet. -/
def State.manageAnswer (s : State) (k : Packet) (data : List Byte) : State :=
  (s.forward { answerPacket k pkMGA 0 0 data with vcl := 2 }).2

/-- MGW: the bytes of data flits 1 to 3 are written together. -/
def execMgw (p : Packet) (s : State) : Out State := s.arrives 0x18 false p fun k s =>
  let n := k.aux.toNat
  if !s.authentic k || !decide (8 ≤ n ∧ n ≤ 192 ∧ n + 64 ≤ k.data.length) then s.dropReported false
  else ((s.acceptNonce k).mgmtPut k.addr.toNat ((k.data.drop 64).take n) 64).manageAnswer k []

/-- MGR: up to 64 bytes are read; the count stands in AUX as for MGW. -/
def execMgr (p : Packet) (s : State) : Out State := s.arrives 0x19 false p fun k s =>
  if !s.authentic k then s.dropReported false
  else
    let byte : Nat → Byte := fun a => BitVec.ofNat 8 (((s.mgmtRead (a / 8 * 8)).getD 0).toNat / 2 ^ (8 * (a % 8)))
    let bs := (List.range (min 64 k.aux.toNat)).map fun i => byte (k.addr.toNat + i)
    (s.acceptNonce k).manageAnswer k (padTo ((bs.length + 63) / 64 * 64) bs)

/-- KEYNEXT_WRITE: the key from the next packet on. -/
def execKeynextWrite (k : Digest) (s : State) : Out State := .next { s with fab := { s.fab with mkey := k } }
def execRankMapBankFlip (slot : BitVec 6) (bank : Bool) (s : State) : Out State :=
  .next (s.writePkb slot.toNat ((s.pkb slot.toNat &&& 0x7FFFFFFFFFFFFFFF) ||| (if bank then 0x8000000000000000 else 0)))
def execPortEnWrite (port : Nat) (en : Bool) (s : State) : Out State := .next (s.writeEn port en)
def execFgeomWrite (w : Word) (s : State) : Out State := .next (s.writeFgeom w)
def execPkaWrite (slot : BitVec 6) (w : Word) (s : State) : Out State := .next (s.writePka slot.toNat w)

/-! ## Class 11 (R377–R380) -/

/-- The layout of MCWAIT's selector (R378). -/
def selectorOk (w : Word) : Bool :=
  let all := w.getLsbD 31
  let list := w.getLsbD 30
  w.extractLsb' 44 20 == 0 && w.extractLsb' 18 12 == 0 && (!all || (w.extractLsb' 32 12 == 0 && !list))

/-- The summary of a track: failed members in order, members that applied every store, NMEM. -/
def Track.failedMembers (q : Track) : List Nat := missing q.nmem q.bitmap
def Track.okCount (q : Track) : Nat := q.nmem - q.failedMembers.length
/-- The first failed member and its cause: 5 where no report names it. -/
def Track.first (q : Track) : Option (Nat × Nat) :=
  match q.failedMembers with
  | [] => none
  | i :: _ => some (i, match q.reports.find? fun r => r.1.toNat == i with | some r => r.2.toNat | none => 5)

/-- The MCACK register (R379) for tracks in ascending order of group. -/
def mcackWord (grp : Nat) (qs : List Track) : Word :=
  let sat := fun n : Nat => min 1023 n
  let fi := (qs.findSome? Track.first).getD (0, 0)
  BitVec.ofNat 64 (grp * 2 ^ 48 + sat ((qs.map fun q => q.failedMembers.length).sum) * 2 ^ 38 + sat ((qs.map Track.okCount).sum) * 2 ^ 28 +
    sat ((qs.map Track.nmem).sum) * 2 ^ 18 + fi.1 * 2 ^ 9 + fi.2 * 2 ^ 5)

def insertTrack (q : Track) : List Track → List Track
  | [] => [q]
  | x :: xs => if q.group.toNat ≤ x.group.toNat then q :: x :: xs else x :: insertTrack q xs

/-- The tracks that a selector covers, in ascending order of group. -/
def Act.tracksOf (a : Act) (w : Word) : List Track :=
  let qs := (List.range 4).filterMap a.track
  (qs.filter fun q => w.getLsbD 31 || q.group.toNat == (w.extractLsb' 32 12).toNat).foldl (fun l q => insertTrack q l) []

/-- Frees tracks and discards the held errors of their stores (R378). -/
def Act.dropTracks (a : Act) (qs : List Track) : Act :=
  let gs := qs.map Track.group
  let b := a.setErrors (a.errors.filter fun e => !(e.1.extractLsb' 60 4 == 7 && gs.contains (groupOf e.2)))
  { b with tracks := List.filter (fun e : Nat × Option Track => match e.2 with | some q => !gs.contains q.group | none => false) b.tracks }

/-- The tracks that an MCWAIT waits for are its own until it completes. -/
def Act.await (a : Act) (qs : List Track) : Act :=
  let gs := qs.map Track.group
  { a with tracks := List.map (fun e : Nat × Option Track =>
      (e.1, e.2.map fun q => if gs.contains q.group then { q with awaited := some (a.pc, a.retire) } else q)) a.tracks }

/-- MCWAIT (R378). Its store waits for a routine that holds the granule (R200). -/
def execMcwait (d a : GReg) (s : State) : Out State :=
  noService (.mcwait d a) s fun s =>
    let w := s.g a
    let list := w.getLsbD 30
    let ea : Word := (w.extractLsb' 0 18).setWidth 64
    let place : Except Trap (Nat × Nat) := if list then s.checkLocal s.cur .s true ea 64 64 else .ok (0, 0)
    let probe : Req := { seq := 0, what := .store, sp := .s, elems := [{ ea, size := 64 }] }
    if !selectorOk w then raiseOwn w s
    else match place with
      | .error e => .next (s.takeFault e)
      | .ok (pa, key) =>
        let qs := s.me.act.tracksOf w
        if qs.any (fun q => q.waiting != []) || (list && (s.held pa || s.me.outst.any fun q => !q.performed && !q.orphan && overlaps q probe)) then
          .next ((s.modMyAct fun a => a.await qs).stall .engine)
        else
          let v := mcackWord (if w.getLsbD 31 then 0xFFF else (w.extractLsb' 32 12).toNat) qs
          let bits : BitVec 512 := match qs with | q :: _ => q.bitmap &&& BitVec.ofNat 512 (2 ^ q.nmem - 1) | [] => 0
          let s1 := if list then (s.storeAt s.me.act key pa 64 bits.toNat).modMem fun m => clearPoison (wordsOf pa 64) m else s
          .next ((s1.modMyAct fun a => { a.dropTracks qs with mcack := v }).writeRetire d v)

/-- gA of FLOWEND and RANKC: a rank, or all ones. -/
def rankOk (w : Word) : Bool := w == BitVec.allOnes 64 || w.extractLsb' 22 42 == 0

/-- FLOWEND (R380): the flowlet to the chip that the rank has now, or the one that serves it still. -/
def execFlowend (a : GReg) (s : State) : Out State :=
  noService (.flowend a) s fun s =>
    let w := s.g a
    if !rankOk w then illegal (.flowend a) s
    else
      let core := coreOf s.cur
      let pid := s.me.act.pid
      let rank : BitVec 22 := w.extractLsb' 0 22
      let close : Flowlet → Flowlet := fun f =>
        if f.core = core ∧ (w = BitVec.allOnes 64 ∨ f.names.contains (pid, rank) ∨ s.coordOf pid rank = some f.dst) then { f with closed := true } else f
      .next { s with fab := { s.fab with flowlets := s.fab.flowlets.map close } }.retire

/-- RANKC's result (R380). -/
def State.rankcWord (s : State) (pid : BitVec 16) (w : Word) : Word :=
  let out := fun (rank : BitVec 22) (hops : Nat) (c : BitVec 22) =>
    BitVec.ofNat 64 (2 ^ 63 + rank.toNat * 2 ^ 32 + min 1023 hops * 2 ^ 22 + c.toNat)
  if w = BitVec.allOnes 64 then out (s.ownRank pid) 0 s.coord
  else match s.coordOf pid (w.extractLsb' 0 22) with
    | some c => out (w.extractLsb' 0 22) (s.hopCount s.coord c) c
    | none => BitVec.ofNat 64 ((w.extractLsb' 0 22).toNat * 2 ^ 32)

def execRankc (d a : GReg) (s : State) : Out State :=
  noService (.rankc d a) s fun s =>
    let w := s.g a
    if !rankOk w then illegal (.rankc d a) s else .next (s.writeRetire d (s.rankcWord s.me.act.pid w))

end Sys2Proof.Machine
end

