-- ==== Sys2Proof/Machine/System.lean ====
section
/-! DEFINITION. Class 12, the monitor's instructions (R394–R411), the services that the monitor gives by MCALL
(R395), and the freezing of a virtual interface (R403). -/

namespace Sys2Proof.Machine

/-! ## Calls, returns and exits (R395–R397) -/

/-- A double fault whose cause and value the spec does not state: both are free (log 8). -/
def doubleOpen (s : State) : Out State :=
  let c := s.takeFree
  let v := c.2.takeFree
  let tr : Trap := { code := c.1.setWidth 8, val := v.1 }
  .next ({ v.2 with trap := some tr }.doubleFault s.cur tr.code tr.val)

/-- Bits of a word that stand outside a mask. -/
def strayBits (w mask : Word) : Bool := w &&& ~~~mask != 0

/-- MCALL (R395): the monitor is entered; in monitor mode that is a double fault. -/
def execMcall (n : BitVec 48) (s : State) : Out State :=
  noService (.mcall n) s fun s => .next (s.takeFault { code := 0x00, val := n.setWidth 64, nextSlot := true })

/-- The activation being served ends, with one ERROR report (R166, R397). -/
def State.exitMonitor (s : State) (cause : Byte) : State := s.endFaulted s.cur cause s.me.mepc s.me.mtval

/-- MEXT (R397). -/
def execMext (a : GReg) (s : State) : Out State :=
  monitorOnly (.mext a) s fun s =>
    let w := s.g a
    if strayBits w 0xFF then illegal (.mext a) s
    else .next (s.exitMonitor (if w = 0 then s.me.mcause else w.setWidth 8))

/-- Seals record n of a block, when there is a key. -/
def State.sealWith (s : State) (blk n : Nat) (a : Act) (key : Option Digest) : State :=
  match key with
  | some k => s.sealRecord blk n a k
  | none => s

/-- The sealing key of a context that is quarantined (R399, R407). -/
def State.sealKey (s : State) (pid : BitVec 16) : Option Digest :=
  if s.sys.quarantined.contains pid then (s.sys.sealKeys.find? fun k => k.1 == pid).map (·.2) else none

/-- An activation stops for good and its state goes to the save area (R403, R407), sealed when its context is quarantined. -/
def State.stopThread (s : State) (t : Nat) (a : Act) : State :=
  let blk := blockOf t
  let n := s.freeRecord blk t
  ((((s.freeThread t).traceLeft t a).saveRecord blk n a).sealWith blk n a (s.sealKey a.pid)).modBlock blk fun b =>
    { b with records := (n, a, s.sys.quarantined.contains a.pid) :: b.records.filter fun r => r.1 != n }
/-- A displaced activation stops for good; one whose state is in no record goes to the save area. -/
def State.stopDisplaced (s : State) (blk : Nat) (d : Displaced) : State :=
  let n := s.freeRecord blk 0
  let s1 := if d.place.isSome then s else (s.saveRecord blk n d.act).sealWith blk n d.act (s.sealKey d.act.pid)
  s1.modBlock blk fun b => { b with displaced := b.displaced.map fun e =>
    if e = d then { e with stopped := true, place := some (d.place.getD n) } else e }

/-- MEPC names no slot that MRET can return to (R396). -/
def State.badReturn (s : State) : Bool :=
  let w := s.me.mepc
  !addrOk w || match s.entry? (clusterOf s.cur) s.me.act.pid false (handleOf w) with
    | none => true
    | some e => match e.inst with | some i => decide (i.lines.length ≤ lineOf w) | none => false

/-- MRET, the return from an exception (R396). -/
def execMret (s : State) : Out State :=
  monitorOnly .mret s fun s =>
    let x := s.me
    if x.mcause = 0x0B ∨ x.mcause = 0x0C ∨ x.mcause = 0x10 then .next (s.exitMonitor x.mcause)
    else
      if s.badReturn then doubleOpen (s.modMe fun x => { x with act := { x.returned with pc := x.act.pc } })
      else if s.refuses x.act.pid then .next (s.stopThread s.cur x.returned)
      else .next (s.modMe Thread.leaveMonitor)

/-! ## Protection entries (R398) -/

/-- Base and limit of an entry are as R398 requires for its space: a cross-block space's valid range takes in every block's bits,
over the offsets that R169 gives the space. -/
def pentOk (sp base limit : Nat) : Bool :=
  decide (base ≤ limit) &&
  (match sp with
   | 0 | 3 => decide (limit < 0x40000)
   | 1 | 2 => decide (limit < 0x80000)
   | 4 => decide (limit % 0x80000 < 0x40000)
   | _ => true)

def execPent (a b : GReg) (s : State) : Out State :=
  monitorOnly (.pent a b) s fun s =>
    let x := s.g a
    let y := s.g b
    let e : Pent := {
      encl := x.extractLsb' 24 8, w := x.getLsbD 17, r := x.getLsbD 16, sp := x.extractLsb' 8 4
      base := y.extractLsb' 0 22, limit := y.extractLsb' 32 22, v := x.getLsbD 18 }
    if strayBits x 0xFF070F0F || strayBits y 0x003FFFFF003FFFFF || decide (7 ≤ e.sp.toNat) ||
        (e.v && !pentOk e.sp.toNat e.base.toNat e.limit.toNat) then illegal (.pent a b) s
    else .next (s.modOwner (coreOf s.cur) fun o => { o with pents := Map.set none o.pents (x.toNat % 16) (some e) }).retire

/-- The control word and the range word of an entry. -/
def Pent.control (e : Pent) (n : Nat) : Word :=
  BitVec.ofNat 64 (e.encl.toNat * 2 ^ 24 + (if e.v then 2 ^ 18 else 0) + (if e.w then 2 ^ 17 else 0) + (if e.r then 2 ^ 16 else 0) +
    e.sp.toNat * 2 ^ 8 + n)
def Pent.range (e : Pent) : Word := BitVec.ofNat 64 (e.limit.toNat * 2 ^ 32 + e.base.toNat)

def execPentr (d a : GReg) (s : State) : Out State :=
  monitorOnly (.pentr d a) s fun s =>
    let w := s.g a
    if strayBits w 0x10F then illegal (.pentr d a) s
    else
      let n := w.toNat % 16
      let v : Word := match Map.get none (s.owner (coreOf s.cur)).pents n with
        | some e => if w.getLsbD 8 then e.range else e.control n
        | none => if w.getLsbD 8 then 0 else BitVec.ofNat 64 n
      .next (s.writeRetire d v)

/-! ## Keys (R399) -/

/-- The key stamps under which a job accesses buffers: those that its protection entries selected at issue (R181, R399). -/
def Job.stamps (j : Job) : List Nat := j.keyA :: j.keyB :: [j.src, j.dst, j.out].flatMap fun o => match o with | some h => h.keys.map (·.2) | none => []
/-- A shape of the job lies on a page of a memory key slot. -/
def State.usesMemSlot (s : State) (blk : Nat) (j : Job) (slot : Nat) : Bool :=
  [j.src, j.dst, j.out].any fun o => match o with
    | some h => h.sp == 7 && h.words.any fun k =>
        match s.leaf? (engineThread blk (engineNo j.eng)) j.pid (dLva (BitVec.ofNat 64 (k - devBase))) with
        | some l => (l.1.extractLsb' 54 3).toNat == slot
        | none => false
    | none => false
/-- A pending job of the block was issued under the slot that a load would change; a relabel works under the stamp of its
forest. -/
def State.slotInUse (s : State) (blk kind : Nat) (pid : BitVec 16) (slot : Nat) : Bool :=
  let b := s.block blk
  b.jobs.any fun j => j.phase != .held &&
    (if kind = 0 then (match Map.get none b.keys slot with
        | some k => (if j.eng = .equiv then b.quern.key :: j.stamps else j.stamps).contains (stampOf k.2 k.1)
        | none => false)
     else kind == 1 && j.pid == pid && s.usesMemSlot blk j slot)

/-- Loads a key. -/
def State.loadKey (s : State) (kind : Nat) (pid : BitVec 16) (slot : Nat) (key : Digest) (encl : Byte) : State :=
  match kind with
  | 0 => s.modBlock (blockOf s.cur) fun b => { b with keys := Map.set none b.keys slot (some (encl, key)) }
  | 1 =>
    let k : BitVec 3 := BitVec.ofNat 3 slot
    { s with sys := { s.sys with memKeys := (pid, k, key) :: s.sys.memKeys.filter fun e => !(e.1 == pid && e.2.1 == k) } }
  | 2 => { s with sys := { s.sys with traceKeys := (pid, key) :: s.sys.traceKeys.filter fun e => e.1 != pid } }
  | _ => { s with sys := { s.sys with sealKeys := (pid, key) :: s.sys.sealKeys.filter fun e => e.1 != pid } }

/-- Overwrites a record of 64 bytes at flat address pa with zero and sets its tags empty, under the key that applies to it
now; under old where its enclave's slot has gone. -/
def State.zeroRecord (s : State) (ea : Word) (pa old : Nat) : State :=
  let key := match s.checkLocal s.cur .s false ea 64 64 with | .ok r => r.2 | .error _ => old
  ((s.writeAt key pa 64 0).modMem (setTags false (wordsOf pa 64))).retestAll [ownerAt pa]

def execKeyslot (a b : GReg) (s : State) : Out State :=
  monitorOnly (.keyslot a b) s fun s =>
    let w := s.g b
    let kind := (w.extractLsb' 4 2).toNat
    let slot := w.toNat % 8
    let pid := w.extractLsb' 16 16
    let blk := blockOf s.cur
    if strayBits w 0xFFFF0037 || (kind == 0 && pid != 0) || (decide (2 ≤ kind) && slot != 0) then illegal (.keyslot a b) s
    else if s.readWaits (s.g a) 64 then .next (s.stall .access)
    else match s.checkLocal s.cur .s false (s.g a) 64 64, s.readS (s.g a) 64 64 with
      | .error e, _ | _, .error e => .next (s.takeFault e)
      | .ok (pa, key), .ok (bs, s1) =>
        if kind = 0 ∧ (s.block blk).lock.getLsbD slot then raiseOpen 0x07 s1
        else if s.slotInUse blk kind pid slot || s.heldIn pa 64 then .next (s.stall .engine)
        else .next ((s1.loadKey kind pid slot (digestOf bs) (BitVec.ofNat 8 (field bs 32 1))).zeroRecord (s.g a) pa key).retire

/-! ## The save area (R400, R401) -/

/-- The context's accesses have all been answered. -/
def Thread.contextQuiet (x : Thread) : Bool := x.outst.all fun r => r.mon || r.orphan

/-- The lines of a record are read (R423). -/
def State.touchRecord (s : State) (blk n : Nat) : State :=
  (List.range 38).foldl (fun s i => s.touchLine (s.recordAt blk n + 128 * i)) s

/-- CTXSV. A sealed record stays as it is until it is scrubbed (R407; log 29). -/
def execCtxsv (a : GReg) (s : State) : Out State :=
  monitorOnly (.ctxsv a) s fun s =>
    let n := (s.g a).toNat
    let blk := blockOf s.cur
    if n < 208 ∨ 430 < n then illegal (.ctxsv a) s
    else if !s.me.contextQuiet then .next (s.stall .access)
    else
      let s := s.touchRecord blk n
      if s.recordSealed blk n then .next s.retire else
      let c : Act := { s.me.entry.getD s.me.act with pc := s.me.mepc }
      .next ((s.saveRecord blk n c).modBlock blk fun b =>
        { b with records := (n, c, false) :: b.records.filter fun r => r.1 != n }).retire

/-- The activation that record n holds: its bytes, and for what they have no place for the activation that was saved there;
a record that was written otherwise has none of that. -/
def State.loaded (s : State) (blk n : Nat) : Act :=
  let a := match (s.block blk).records.find? fun r => r.1 == n with | some r => r.2.1 | none => { id := s.nextAct }
  a.ofRecord (s.mem.bytesAt (s.recordAt blk n) 0x1300)

def execCtxld (a : GReg) (s : State) : Out State :=
  monitorOnly (.ctxld a) s fun s =>
    let n := (s.g a).toNat
    let blk := blockOf s.cur
    let s := if n < 208 ∨ 430 < n then s else s.touchRecord blk n
    if n < 208 ∨ 430 < n ∨ !s.recordValid blk n ∨ s.recordSealed blk n then doubleOpen s
    else if !s.me.contextQuiet then .next (s.stall .access)
    else
      let c := s.loaded blk n
      let pc := s.me.act.pc
      let s1 : State := { s with nextAct := max s.nextAct (c.id + 1) }
      let old := (s.me.entry.getD s.me.act).id
      .next ((((s1.clearValid blk n c).modBlock blk fun b => { b with
          records := b.records.filter fun q => q.1 != n
          swapped := (if old = c.id || !b.records.any (fun q => q.1 != n && q.2.1.id == old) then [] else [old]) ++
            b.swapped.filter fun i => i != c.id && i != old }).modMe fun x =>
        { x with act := { c with pc }, entry := some c, mepc := c.pc }).noteConf s.cur).retire

/-! ## Scrubbing (R406) -/

/-- Zero in every word of a region, tags empty, no poison, written under a key, with its lines' MACs. -/
def Mem.scrub (m : Mem) (key pa n : Nat) : Mem :=
  let inB : Nat → Bool := fun a => decide (pa ≤ a ∧ a < pa + n)
  let inW : Nat → Bool := fun w => decide (pa / 8 ≤ w ∧ w < (pa + n) / 8)
  { bytes := Map.drop inB m.bytes
    full := Map.drop inW m.full
    poison := Map.drop inW m.poison
    keys := (List.range (n / 8)).foldl (fun k i => Map.set 0 k (pa / 8 + i) key) m.keys
    macOk := if isBank pa then m.macOk else (List.range (n / 128)).foldl (fun k i => Map.set false k (pa / 128 + i) true) m.macOk }

/-- Save-area records that lie in a scrubbed region of tier 1 are gone (R407). -/
def State.scrubRecords (s : State) (lo n : Nat) : State :=
  s.eachBlock fun b =>
    let hit : Nat → Bool := fun r => decide (b.savebase.toNat + 0x1300 * r < lo + n ∧ lo < b.savebase.toNat + 0x1300 * (r + 1))
    { b with records := b.records.filter fun r => !hit r.1 }

/-- The 32-byte entry of the scrub record. -/
def State.scrubEntry (s : State) (form where' slot : Nat) (addr : Word) (n : Nat) : List Byte :=
  [BitVec.ofNat 8 form, BitVec.ofNat 8 where', BitVec.ofNat 8 slot, 0] ++ leBytes 2 s.me.act.pid.toNat ++ leBytes 2 (16 * blockOf s.cur) ++
  leBytes 8 addr.toNat ++ leBytes 8 n ++ leBytes 8 s.cycle.toNat

def State.scrub (s : State) (key pa n : Nat) (e : List Byte) (os : List Nat) : State :=
  let s1 := s.modMem fun m => m.scrub key pa n
  let y : Sys := { s1.sys with scrubdig := extend s1.sys.scrubdig e, nscrub := s1.sys.nscrub + 1, scrubs := (e :: s1.sys.scrubs).take 4096 }
  let s2 : State := { s1 with sys := y }
  (if pa < tierBase 1 then s2.scrubRecords pa n else s2).retestAll os

def execScrub (a b : GReg) (s : State) : Out State :=
  monitorOnly (.scrub a b) s fun s =>
    let w := s.g a
    let n := (s.g b).toNat
    let blk := blockOf s.cur
    let lenOk := decide (0 < n ∧ n ≤ 2 ^ 32 ∧ n % 128 = 0)
    match (w.extractLsb' 62 2).toNat with
    | 3 =>
      let k := (w.extractLsb' 58 4).toNat
      let addr := w.extractLsb' 0 58
      if !lenOk || decide (3 < k) || addr.toNat % 128 != 0 || decide (bufSize k < addr.toNat + n) then illegal (.scrub a b) s
      else match (s.block blk).stampFor s.me.act.encl with
        | none => raiseOpen 0x07 s
        | some key => if s.heldIn (bufBase blk k + addr.toNat) n then .next (s.stall .access) else .next (s.scrub key (bufBase blk k + addr.toNat) n
            (s.scrubEntry 0 k s.me.act.encl.toNat (addr.setWidth 64) n) ((List.range 16).map (16 * blk + ·))).retire
    | 2 =>
      let tier := if w.getLsbD 40 then 1 else 0
      let addr := w.extractLsb' 0 40
      let slot := w.extractLsb' 53 3
      if !lenOk || strayBits w 0x80E001FFFFFFFFFF || addr.toNat % 128 != 0 || decide (tierBytes tier < addr.toNat + n) then illegal (.scrub a b) s
      else if s.heldIn (tierBase tier + addr.toNat) n then .next (s.stall .access)
      else .next (s.scrub (s.memStamp s.me.act.pid slot) (tierBase tier + addr.toNat) n
          (s.scrubEntry 1 tier slot.toNat (addr.setWidth 64) n) ((List.range 64).map (32768 + ·))).retire
    | _ => illegal (.scrub a b) s

/-! ## Freezing and quarantine (R403, R407) -/

/-- Every activation of some contexts stops, and their pending jobs are cancelled with STATUS 0xFF. -/
def State.stopContexts (s : State) (mine : Act → Bool) (pids : BitVec 16 → Bool) : State :=
  let ts := (s.actives.filter fun e => e.2.mode == .context && mine e.2.act)
  let s1 := ts.foldl (fun s e => s.stopThread e.1 e.2.act) s
  let rest : List (Nat × Displaced) := List.flatMap (fun e : Nat × Block => (e.2.displaced.filter fun d => mine d.act).map fun d => (e.1, d)) s1.blocks
  let s2 := rest.foldl (fun s e => s.stopDisplaced e.1 e.2) s1
  let jobs : List (Nat × Job) := List.flatMap (fun e : Nat × Block =>
    (e.2.jobs.filter fun j => pids j.pid).map fun j => (e.1, j)) s2.blocks
  jobs.foldl (fun s e => s.cancelJob e.1 e.2 e.2.op.isMatrix) s2

/-- A launch ends with an ERROR report whose word 2 is 0x07 and word 4 the VI, and then COMPLETE. The spec states
no other word of that report: they are free (log 8). -/
def State.closeLaunch (s : State) (vi : BitVec 6) (id : Word) : State :=
  match s.launch? id with
  | none => s
  | some l =>
    let a := s.takeFree
    let b := a.2.takeFree
    let c := b.2.takeFree
    let s1 := (c.2.reportTo l [4, l.id, 7, a.1, vi.setWidth 64, b.1, c.1, 0] false).modLaunch id fun l => { l with
      errors := if l.errors = BitVec.allOnes 64 then l.errors else l.errors + 1, running := 0, stopped := true }
    match s1.launch? id with
    | some l => s1.completeLaunch l
    | none => s1

def State.closeLaunches (s : State) (p : Launch → Bool) : State :=
  (s.sys.launches.filter fun l => !l.finished && p l).foldl (fun s l => s.closeLaunch l.vi l.id) s

/-- Freezes a VI (R403). A second time has no further effect. -/
def State.freezeVi (s : State) (vi : BitVec 6) : State :=
  if s.sys.frozen.contains vi then s else
  let s1 := { s with sys := { s.sys with frozen := vi :: s.sys.frozen } }
  (s1.stopContexts (fun a => a.vi == vi) (fun p => (s.ctx? p).isSome && s.viOf p == vi)).closeLaunches fun l => l.vi == vi

def execVifrz (a : GReg) (s : State) : Out State :=
  monitorOnly (.vifrz a) s fun s =>
    let w := s.g a
    if strayBits w 0x3F then illegal (.vifrz a) s else .next (s.freezeVi (w.setWidth 6)).retire

/-- The block key slots of the enclaves that a context's protection entries name are locked. -/
def State.lockSlots (s : State) (pid : BitVec 16) : State :=
  (List.filter (fun e : Nat × Thread => isAct e.1 && e.2.act.pid == pid) s.threads).foldl (fun s e =>
    let ps := (s.owner (coreOf e.1)).pents
    let encls := ((List.range 16).map fun i => Map.get none ps i).filterMap fun p => match p with | some p => if p.v then some p.encl else none | none => none
    s.modBlock (blockOf e.1) fun b =>
      let add : Byte → Nat → Byte := fun l i => match Map.get none b.keys i with
        | some k => if encls.contains k.1 then l ||| (1#8 <<< i) else l
        | none => l
      { b with lock := (List.range 8).foldl add b.lock }) s

/-- Every record of a context in every save area is sealed in place (R407): those of CTXSV, of displaced activations, and
those that an epoch's opening wrote. -/
def State.sealRecords (s : State) (pid : BitVec 16) (key : Option Digest) : State :=
  let of : Act → Bool := fun a => a.pid == pid
  let all : List (Nat × Nat × Act) := List.flatMap (fun e : Nat × Block =>
    ((e.2.records.filter fun r => of r.2.1 && !r.2.2).map fun r => (e.1, r.1, r.2.1)) ++
    ((e.2.displaced.filter fun d => of d.act).filterMap fun d => d.place.map fun n => (e.1, n, d.act)) ++
    ((e.2.epochs.flatMap (·.saved)).filter fun m => of m.2).map fun m => (e.1, 192 + m.1 % 16, m.2)) s.blocks
  let s1 := all.foldl (fun s e => s.sealWith e.1 e.2.1 e.2.2 key) s
  s1.eachBlock fun b => { b with records := b.records.map fun r => if of r.2.1 then (r.1, r.2.1, true) else r }

/-- Quarantines a context (R407). A second time has no further effect. -/
def State.quarantine (s : State) (pid : BitVec 16) : State :=
  if s.sys.quarantined.contains pid then s else
  let s1 := s.lockSlots pid
  let s2 : State := { s1 with sys := { s1.sys with quarantined := pid :: s1.sys.quarantined } }
  ((s2.sealRecords pid (s2.sealKey pid)).stopContexts (fun a => a.pid == pid) (· == pid)).closeLaunches fun l => l.pid == pid

def execQuar (a : GReg) (s : State) : Out State :=
  monitorOnly (.quar a) s fun s =>
    let w := s.g a
    let pid : BitVec 16 := w.setWidth 16
    if strayBits w 0xFFFF || !(s.sys.sealKeys.any fun k => k.1 == pid) then illegal (.quar a) s
    else .next (s.quarantine pid).retire

/-! ## The loader (R408, R409) -/

/-- Registers a routine with every owner, and its digest in the context table (R211, R408). -/
def State.setRoutine (s : State) (pid : BitVec 16) (k : BitVec 6) (dig : Digest) (i : Inst) : State :=
  let s1 := { s with sys := { s.sys with routines := (pid, k, i) :: s.sys.routines.filter fun r => !(r.1 == pid && r.2.1 == k) } }
  match s1.ctx? pid with
  | some x => s1.modMem fun m => m.putBytes (ctxAddr x + 0x1100 + 32 * k.toNat) (digestBytes dig)
  | none => s1

/-- What an install step gives: a status and a handle, or none while the kiln has no room or installs wait that came
before it (R110). -/
def State.installStep (s : State) (pid : BitVec 16) (dig : Digest) (img : Option (List Byte)) (trans : Bool) (svc : Option (BitVec 6)) :
    Option (Byte × BitVec 32) × State :=
  let cl := clusterOf s.cur
  let route : Inst → State → State := fun i s => match svc with | some k => s.setRoutine pid k dig i | none => s
  match (s.lookup cl pid false dig).bind fun e => e.inst.map fun i => (e.handle, i) with
  | some (h, i) => (some (0x01, h), route i s)
  | none =>
    match img with
    | none => (some (0x14, 0), s)
    | some bs =>
      match (if trans then s.checkTranslation pid (s.initMask pid) dig bs else checkPortable dig bs) with
      | .error c => (some (c, 0), s)
      | .ok i =>
        match s.lookupOrCreate cl pid false dig with
        | (none, s1) => (some (0x12, 0), s1)
        | (some h, s1) =>
          match (if s1.installWaits cl then (s1, false) else s1.install cl pid h i) with
          | (s2, true) => (some (0x00, h), route i s2)
          | (s2, false) => (none, s2)

/-- The image that a descriptor names, read through the PID's page table. -/
def State.imageAt (s : State) (pid : BitVec 16) (ea : Word) (n : Nat) : Option (List Byte × State) :=
  if dKind ea ≠ 0 then none else s.devBytes s.cur pid ea n

def execCodeinst (d a b : GReg) (s : State) : Out State :=
  monitorOnly (.codeinst d a b) s fun s =>
    let w := s.g b
    if s.readWaits (s.g a) 64 then .next (s.stall .access) else
    match s.readS (s.g a) 64 64 with
    | .error e => .next (s.takeFault e)
    | .ok (bs, s1) =>
      let pid : BitVec 16 := BitVec.ofNat 16 (field bs 0x0C 2)
      let fl := field bs 0x0E 2
      let svc := fl / 2 % 2 == 1
      if strayBits w 0x3F || (!svc && w != 0) then illegal (.codeinst d a b) s
      else
        let img := s1.imageAt pid (BitVec.ofNat 64 (field bs 0 8)) (field bs 8 4)
        let s2 := match img with | some r => r.2 | none => s1
        match s2.installStep pid (digestOf (bs.drop 0x10)) (img.map (·.1)) (fl % 2 == 1) (if svc then some (w.setWidth 6) else none) with
        | (none, s3) => .next (s3.stall .access)
        | (some (st, h), s3) => .next (s3.writeRetire d (BitVec.ofNat 64 (st.toNat * 2 ^ 56 + h.toNat)))

def execCodeevict (a : GReg) (s : State) : Out State :=
  monitorOnly (.codeevict a) s fun s =>
    let w := s.g a
    let h : BitVec 32 := w.setWidth 32
    if strayBits w 0xFFFFFFFF then illegal (.codeevict a) s
    else if 1 ≤ h.toNat ∧ h.toNat ≤ 255 then doubleOpen s
    else .next (match s.entry? (clusterOf s.cur) s.me.act.pid false h with
      | some _ => s.evict (clusterOf s.cur) h
      | none => s).retire

/-! ## Translation invalidation (R410) -/

/-- log2 of the size that SIZE names; none for all of the addresses. -/
def stinvBits (n : Nat) : Option Nat := match n with | 0 => some 16 | 1 => some 21 | 2 => some 30 | _ => none

/-- A cached translation lies under the range. -/
def Xlate.under (e : Xlate) (base : Nat) (bits : Option Nat) : Bool :=
  match bits with
  | none => true
  | some k =>
    let lo := e.lva.toNat * 2 ^ pageBits e.level
    decide (lo < base + 2 ^ k ∧ base < lo + 2 ^ pageBits e.level)

/-- A request that was translated under a leaf of a context, in a range, is still to be performed (R410). -/
def State.translatedUnder (s : State) (pids : BitVec 16 → Bool) (base : Nat) (bits : Option Nat) : Bool :=
  List.any s.threads fun t => t.2.outst.any fun r => r.sp == .d && pids r.pid && r.elems.any fun e =>
    !e.done && match e.loc with
      | some l => ({ pid := r.pid, lva := BitVec.ofNat 64 (dLva e.ea / 2 ^ pageBits e.level), level := e.level, pte := l.2.2 } : Xlate).under base bits
      | none => false

/-- STINV. While a request translated under the range is to be performed it waits, and drops the entries again. -/
def execStinv (a b : GReg) (s : State) : Out State :=
  monitorOnly (.stinv a b) s fun s =>
    let x := s.g a
    let y := s.g b
    let all := x.getLsbD 16
    let mine : BitVec 16 → Bool := fun p => all || p == x.extractLsb' 0 16
    let bits := stinvBits (y.toNat % 4)
    let base := y.toNat / 2 ^ 16 * 2 ^ 16
    if strayBits x 0x1FFFF || (all && x.extractLsb' 0 16 != 0) || strayBits y 0xFFFFFF0003 ||
        (match bits with | some k => base % 2 ^ k != 0 | none => base != 0) then illegal (.stinv a b) s
    else
      let s1 : State := { s with sys := { s.sys with stations := List.map (fun e : Nat × List Xlate =>
        (e.1, e.2.filter fun t => !(mine t.pid && t.under base bits))) s.sys.stations } }
      .next (if s.translatedUnder mine base bits then s1.stall .access else s1.retire)

/-! ## Attestation (R411) -/

/-- The function that a measurement names is resident in a kiln of the chip. -/
def State.resides (s : State) (m : BitVec 16 × Digest × Digest) : Bool :=
  List.any s.clusters fun c => c.2.dir.any fun e => e.pid == m.1 && e.digest == m.2.1 && e.inst.map (·.sum) == some m.2.2

/-- The report, but for its signature. -/
def State.reportBytes (s : State) (kind : Nat) (pid : BitVec 16) (nonce : List Byte) : List Byte :=
  let y := s.sys
  let codes := if kind = 1 then y.measured.filter fun m => m.1 == pid && s.resides m else []
  let scrubs := if kind = 2 then (y.scrubs.take y.nscrub.toNat).reverse else []
  [0x53, 0x58, 0x41, 0x54] ++ leBytes 2 1 ++ [BitVec.ofNat 8 kind, BitVec.ofNat 8 (Config.lifecycle.toNat + if y.dbg then 4 else 0)] ++
  leBytes 4 0x00030001 ++ leBytes 2 pid.toNat ++ leBytes 2 codes.length ++ digestBytes Config.deviceId ++ nonce ++
  digestBytes y.mboot ++ digestBytes y.mmon ++ digestBytes y.mstn ++ digestBytes y.msvc ++ digestBytes y.scrubdig ++
  leBytes 4 y.nscrub.toNat ++ leBytes 4 scrubs.length ++ leBytes 8 s.cycle.toNat ++
  (codes.flatMap fun m => digestBytes m.2.1 ++ digestBytes m.2.2) ++ scrubs.flatMap id

/-- ATREQ of a kind: the signed report goes to tier 1. -/
def State.attest (s : State) (i : Instr) (kind : Nat) (a b : GReg) : Out State :=
  let dst := s.g b
  if strayBits dst 0xFFFFFFFF80 then illegal i s
  else if s.readWaits (s.g a) 64 then .next (s.stall .access)
  else match s.readS (s.g a) 64 64 with
    | .error e => .next (s.takeFault e)
    | .ok (bs, s1) =>
      if field bs 0 1 ≠ kind then illegal i s
      else
        let body := s1.reportBytes kind (BitVec.ofNat 16 (field bs 2 2)) ((bs.drop 0x20).take 32)
        let s2 := s1.monitorWrite (tierBase 0 + dst.toNat) (body ++ (List.range 384).map (Config.attestSign body))
        let s3 := if kind = 2 then { s2 with sys := { s2.sys with scrubdig := 0, nscrub := 0 } } else s2
        .next s3.retire

def execAtreqAttestation (a b : GReg) (s : State) : Out State :=
  monitorOnly (.atreqAttestation a b) s fun s => s.attest (.atreqAttestation a b) 1 a b
def execAtreqAllocation (a b : GReg) (s : State) : Out State :=
  monitorOnly (.atreqAllocation a b) s fun s => s.attest (.atreqAllocation a b) 2 a b

/-! ## The monitor's services (R395) -/

/-- The monitor answers an MCALL with a status in its g1. -/
def State.serveCall (s : State) (st : Word) : State :=
  s.modMe fun x => { x with mg := Map.set 0 x.mg 1 st, mgErr := x.mgErr &&& ~~~2#32, served := true }
/-- A failure's status: the spec states only that 0 means success. -/
def State.refuseCall (s : State) : State := let r := s.takeFree; r.2.serveCall (r.1 ||| 1)

/-- Serves the MCALL of the running thread when its number is n; an unlisted number gets all ones. -/
def State.service (s : State) (n : Nat) (f : State → State) : Out State :=
  let x := s.me
  if !isAct s.cur ∨ x.mode ≠ .monitor ∨ !x.mcall ∨ x.served then .next s
  else if x.mtval.toNat = n then .next (f s)
  else if x.mtval.toNat = 0 ∨ 3 < x.mtval.toNat then .next (s.serveCall 0xFFFFFFFFFFFFFFFF)
  else .next s

/-- Service 1: routine g2 of the context is installed from the digest at S:[g3]. The spec does not say where the
monitor takes the image from: here from a kiln of the chip that holds it. -/
def execMcallInstallRoutine (s : State) : Out State :=
  s.service 1 fun s =>
    let k := s.g 2
    let pid := s.me.act.pid
    match (if 63 < k.toNat then none else (match s.readS (s.g 3) 32 8 with | .ok r => some r | .error _ => none)) with
    | none => s.refuseCall
    | some (bs, s1) =>
      let dig := digestOf bs
      match s1.imageFor pid dig false with
      | none => s1.refuseCall
      | some img =>
        match s1.installStep pid dig (some img) false (some (k.setWidth 6)) with
        | (some (st, _), s2) => if st.toNat ≤ 1 then s2.serveCall 0 else s2.refuseCall
        | (none, s2) => s2.refuseCall

/-- The chip at the other end of a port of chip x, and the port there that leads back: the links of a pair keep their order
(log 88). -/
def State.acrossFrom (s : State) (x : BitVec 22) (p : Nat) : BitVec 22 :=
  ({ s with fab := { s.fab with fgeom := (s.fab.fgeom &&& ~~~0x3FFFFF) ||| x.setWidth 64 } }.across p).getD x
def portBack (p : Nat) : Nat := if p < 4 then (if p % 2 = 0 then p + 1 else p - 1) else if p / 2 % 2 = 0 then p + 2 else p - 2
/-- The links of the route from one chip to another, in dimension order: each by its chip and port. -/
def State.pathTo (s : State) (x y : BitVec 22) : Nat → List (BitVec 22 × Nat)
  | 0 => []
  | n + 1 => match (s.minPorts x y).head? with
    | some p => (x, p) :: s.pathTo (s.acrossFrom x p) y n
    | none => []

/-- The entry of a chip in the tree whose links are given: the root's is this chip's. -/
def State.treeEntry (s : State) (pid : BitVec 16) (chips : List (BitVec 22)) (links : List (BitVec 22 × Nat)) (x : BitVec 22) (meas : Digest) : List Byte :=
  let root := x == s.coord
  let fwd := (List.range 12).foldl (fun m p => if links.contains (x, p) then m + 2 ^ p else m) 0
  let parent := match links.find? fun l => s.acrossFrom l.1 l.2 == x with | some l => portBack l.2 | none => 0xFF
  let isHere := chips.contains x
  [BitVec.ofNat 8 (1 + (if root then 2 else 0) + (if isHere then 4 else 0)), BitVec.ofNat 8 (if root then 0xFF else parent)] ++ leBytes 2 fwd ++
  leBytes 2 (s.pkeyOf pid).toNat ++ leBytes 2 (if isHere then chips.idxOf x else 0) ++
  leBytes 2 (if root then chips.length else 0) ++ List.replicate 22 0 ++ (if isHere then digestBytes meas else List.replicate 32 0)

/-- A digest that the spec does not give: another chip's measurement (log 88). -/
def State.freeDigest (s : State) : Digest × State :=
  let a := s.takeFree
  let b := a.2.takeFree
  let c := b.2.takeFree
  let d := c.2.takeFree
  (a.1 ++ b.1 ++ c.1 ++ d.1, d.2)

/-- Forms group g of the chips of its members, this chip's the root: its own entry is written, and those of the tree's
other chips go to them (R372, R395). -/
def State.formGroup (s : State) (pid : BitVec 16) (g : Nat) (chips : List (BitVec 22)) : State :=
  let links := (chips.flatMap fun c => s.pathTo s.coord c (s.hopCount s.coord c)).eraseDups
  let nodes := (links.map fun l => s.acrossFrom l.1 l.2).eraseDups.filter (· != s.coord)
  let s1 := s.modMem fun m => m.putBytes (grpAddr g) (s.treeEntry pid chips links s.coord s.measurement)
  nodes.foldl (fun s x =>
    let d := s.freeDigest
    { d.2 with fab := { d.2.fab with groupOut := d.2.fab.groupOut ++ [(x, g, s.treeEntry pid chips links x d.1)] } }) s1
/-- The group service of another chip writes an entry of this one's. -/
def State.putGroup (s : State) (g : Nat) (entry : List Byte) : State :=
  if 4095 < g then s else s.modMem fun m => m.putBytes (grpAddr g) (padTo 64 entry)

/-- Service 2: group g2 is formed from the g4 member ranks at S:[g3], 8 bytes each. -/
def execMcallFormGroup (s : State) : Out State :=
  s.service 2 fun s =>
    let g := (s.g 2).toNat
    let n := (s.g 4).toNat
    let pid := s.me.act.pid
    let bytes := if 4095 < g ∨ n = 0 ∨ 512 < n then none else (match s.readS (s.g 3) (8 * n) 8 with | .ok r => some r | .error _ => none)
    match bytes with
    | none => s.refuseCall
    | some (bs, s1) =>
      let ws := wordsOfBytes bs
      let chips := ws.filterMap fun w => s.coordOf pid (w.extractLsb' 0 22)
      if ws.any (fun w => strayBits w 0x3FFFFF) || chips.length != ws.length then s1.refuseCall
      else (s1.formGroup pid g chips).serveCall 0

/-- Service 3: the code-peer list from the 64 bytes at S:[g2]. -/
def execMcallSetCodePeers (s : State) : Out State :=
  s.service 3 fun s =>
    match s.readS (s.g 2) 64 8, s.ctx? s.me.act.pid with
    | .ok (bs, s1), some x =>
      let ws := wordsOfBytes bs
      if ws.any fun w => strayBits w 0x80000000003FFFFF then s1.refuseCall
      else
        let vs := ws.filter fun w => w.getLsbD 63
        let out := padTo 64 (vs.flatMap fun w => leBytes 8 w.toNat)
        (s1.modMem fun m => m.putBytes (ctxAddr x + 0x20) out).serveCall 0
    | _, _ => s.refuseCall

end Sys2Proof.Machine
end

