-- ==== Sys2Proof/Machine/Trace.lean ====
section
/-! DEFINITION. Class 13, trace and breakpoints (R417–R420), the trace unit's record of an unchanged state (R415),
and the stops of the debug port (R421). -/

namespace Sys2Proof.Machine

/-- TRMARK (R417). -/
def execTrmark (a : GReg) (mark : BitVec 48) (s : State) : Out State :=
  noService (.trmark a mark) s fun s =>
    let x := s.me
    let e : List Byte := [2, 0] ++ leBytes 2 x.trace.current.toNat ++ leBytes 4 mark.toNat ++ leBytes 8 (s.g a).toNat ++
      leBytes 8 s.cycle.toNat ++ leBytes 2 (mark.toNat / 2 ^ 32)
    .next (if x.trcfg.extractLsb' 1 2 = 3 then s.traceEntry s.cur e else s).retire

/-- TRCTL's operation, gA[1:0], is n, and its other bits are zero. -/
def trctlIs (w : Word) (n : Nat) : Bool := w.toNat == n

def State.setPaused (s : State) (b : Bool) : State := s.modMyAct fun a => { a with paused := b }

/-- TRCTL 0: the open blocks are written out (R419). -/
def execTrctlFlush (a : GReg) (s : State) : Out State :=
  noService (.trctlFlush a) s fun s =>
    if !trctlIs (s.g a) 0 then illegal (.trctlFlush a) s
    else .next (if traceTen s.me then s.traceFlush s.cur else s).retire
/-- TRCTL 1: a record of the current state, and no more of them until resume or END. -/
def execTrctlPause (a : GReg) (s : State) : Out State :=
  noService (.trctlPause a) s fun s =>
    if !trctlIs (s.g a) 1 then illegal (.trctlPause a) s
    else .next (if traceTen s.me && !s.me.act.paused then (s.traceState s.cur 1).setPaused true else s).retire
/-- TRCTL 2: a record of the state at resume. -/
def execTrctlResume (a : GReg) (s : State) : Out State :=
  noService (.trctlResume a) s fun s =>
    if !trctlIs (s.g a) 2 then illegal (.trctlResume a) s
    else .next (if traceTen s.me then (s.traceState s.cur 1).setPaused false else s).retire

/-- BKPT (R420). -/
def execBkpt (code : BitVec 48) (s : State) : Out State :=
  noService (.bkpt code) s fun s => raise 0x14 (code.setWidth 64) s

/-- TRACE_IDLE_RECORD: 16,383 cycles have passed without a change (R415); no more pass before it (State.tick). -/
def execTraceIdleRecord (t : Nat) (s : State) : Out State :=
  let x := s.th t
  let u := x.trace
  if isAct t ∧ traceTen x ∧ !x.act.paused ∧ 16383 ≤ (s.cycle - u.lastTime).toNat then
    .next { ({ s with cycle := u.lastTime + 16383 }.traceState t u.last) with cycle := s.cycle }
  else .next s

/-- Stops or releases the dispatchers of some blocks, once the debug port is open (R412, R421). -/
def State.debugHold (s : State) (blks : List Nat) (on : Bool) : State :=
  if !s.sys.portOpen then s else blks.foldl (fun s b => s.modBlock b fun k => { k with stopped := on }) s
def execDebugStop (blks : List Nat) (s : State) : Out State := .next (s.debugHold blks true)
def execDebugResume (blks : List Nat) (s : State) : Out State := .next (s.debugHold blks false)

end Sys2Proof.Machine
end

