-- ==== Sys2Proof/Machine/Device.lean ====
section
/-! DEFINITION. Reset, live service, power, the management controller's commands (R423–R428), debug unlock (R412),
and the failure of a part (R405). -/

namespace Sys2Proof.Machine

/-! ## Reset (R423, R426, R427) -/

/-- A module reset: every register at its reset value, the banks zero with empty tags, and device memory not
cleared, but with no line whose MAC holds; bring-up begins at stage 1. What is not of the chip stays: the inputs to come, and
the counts that number free values and activations; so do the failures of clusters. -/
def State.moduleReset (s : State) (cause : Byte) : State :=
  let device : Nat → Bool := fun a => decide (tierBase 2 ≤ a)
  let m : Mem := {
    bytes := Map.drop device s.mem.bytes
    full := Map.drop (fun w => device (8 * w)) s.mem.full
    poison := Map.drop (fun w => device (8 * w)) s.mem.poison
    keys := Map.drop (fun w => device (8 * w)) s.mem.keys }
  -- a cluster that has failed fails its test again: the spares are placed as before, and a number may be missing (R16)
  let failed : Map Cluster := (List.range 128).foldl (fun m c =>
    Map.set {} m c { missing := (s.cluster c).missing, spare := (s.cluster c).spare }) []
  { State.reset with
    agenda := s.agenda, free := s.free, nextAct := s.nextAct, mem := m, clusters := failed
    sys := { State.reset.sys with cause, spares := s.sys.spares &&& 0xFF } }

def execModuleReset (s : State) : Out State := .next (s.moduleReset 1)
/-- RESET_COMMAND of the management controller. -/
def execResetCommand (s : State) : Out State := .next (s.moduleReset 2)

/-- What the end of a stage of bring-up does (R423): the firmware that it verified is started and measured, at stage 6 the
monitor in every cluster; at stage 7 the ports train and the first management key is loaded. -/
def State.endStage (s : State) (d : Digest) : State :=
  let y := s.sys
  match y.stage with
  | 2 => { s with sys := { y with mboot := extend y.mboot (digestBytes d) } }
  | 4 => (List.range 64).foldl (fun s k => s.modOwner (32768 + k) fun o => { o with firmware := d })
      { s with sys := { y with msvc := extend y.msvc (digestBytes d) } }
  | 5 => { s with sys := { y with mstn := extend y.mstn (digestBytes d), stationFw := (List.range 16).foldl (fun m k => Map.put m k d) y.stationFw } }
  | 6 => (List.range 128).foldl (fun s c => s.modCluster c fun k => { k with monitor := some d })
      { s with sys := { y with mmon := extend y.mmon (digestBytes d) } }
  | 7 => (List.range 12).foldl State.train { s with fab := { s.fab with mkey := d } }
  | _ => s
/-- The present stage of bring-up ends: the next begins, or the chip stays where a signature or a test failed (R423). -/
def State.bringUp (s : State) (ok : Bool) (d : Digest) : State :=
  if s.sys.voltageBad || s.sys.stuck || s.sys.stage == 0 || decide (8 ≤ s.sys.stage) then s
  else if !ok then { s with sys := { s.sys with stuck := true } }
  else
    let s1 := s.endStage d
    { s1 with sys := { s1.sys with stage := s.sys.stage + 1 } }

/-- A die reports its hottest sensor. At 115 °C the chip takes a module reset with cause 3 (R427). -/
def State.sense (s : State) (die : Nat) (temp : Byte) : State :=
  let s1 := if 115 ≤ temp.toNat then s.moduleReset 3 else s
  { s1 with sys := { s1.sys with temps := Map.set 0 s1.sys.temps die temp } }
/-- The chip throttles: its power was above the limit, or a die is above 105 °C, whatever the power (R426, R427). It changes only
timing. -/
def Sys.throttled (y : Sys) : Bool := y.throttle || List.any y.temps fun e => decide (105 < e.2.toNat)
/-- THERMAL_TRIP: a die's sensor has passed a bound. -/
def execThermalTrip (die : Nat) (temp : Byte) (s : State) : Out State := .next (s.sense die temp)
/-- THERMAL_THROTTLE: the same for the bound of throttling. -/
def execThermalThrottle (die : Nat) (temp : Byte) (s : State) : Out State := .next (s.sense die temp)
/-- PWRNOW over the last 1,000 windows of 1 µs: the mean of their watts, and how many of them throttled (R428, log 76). -/
def powerNow (ws : List (BitVec 16 × Bool)) : BitVec 32 :=
  BitVec.ofNat 32 ((ws.map fun w => w.1.toNat).sum / 1000 + (ws.filter (·.2)).length * 2 ^ 16)
/-- POWER_WINDOW: a window of 1 µs ends; above PWRLIM the chip throttles until the next window under the limit (R426). -/
def execPowerWindow (watts : BitVec 16) (s : State) : Out State :=
  let ws := ((watts, s.sys.throttled) :: s.sys.windows).take 1000
  .next { s with sys := { s.sys with throttle := decide (s.sys.pwrlim.toNat < watts.toNat), windows := ws, pwrnow := powerNow ws } }
/-- INPUT_VOLTAGE_FAULT: outside 40 V to 60 V the package is held in reset; power-good ends that. -/
def execInputVoltageFault (volts : Nat) (s : State) : Out State :=
  if 40 ≤ volts ∧ volts ≤ 60 then .next (if s.sys.voltageBad then s.moduleReset 1 else s)
  else
    let r := s.moduleReset 1
    .next { r with sys := { r.sys with voltageBad := true, stage := 0 } }

/-! ## Live service (R424, R425) -/

/-- MEMORY_TRAINING of a channel: only timing. -/
def execMemoryTraining (chan : Nat) (s : State) : Out State :=
  .next { s with sys := { s.sys with trained := Map.put s.sys.trained chan (Map.get 0 s.sys.trained chan + 1) } }

/-- No activation is bound to a thread of the cluster. -/
def State.drained (s : State) (cl : Nat) : Bool := s.actives.all fun e => clusterOf e.1 != cl

/-- CLUSTER_DRAIN: dispatch in the cluster stops, when no other cluster drains; once no activation is bound there, the new monitor
is installed and measured, its withdrawn cores return, and dispatch resumes. -/
def execClusterDrain (cl : Nat) (monitor : Digest) (s : State) : Out State :=
  match (s.cluster cl).draining with
  | none => .next (if List.any s.clusters fun e => e.2.draining.isSome then s else s.modCluster cl fun c => { c with draining := some monitor })
  | some d =>
    if !s.drained cl then .next s
    else
      let s1 := s.modCluster cl fun c => { c with draining := none, monitor := some d }
      let s2 := (List.range 128).foldl (fun s i => s.modOwner (128 * cl + i) fun o => { o with withdrawn := false }) s1
      .next { s2 with sys := { s2.sys with mmon := extend s2.sys.mmon (digestBytes d) } }

/-- Firmware of memory-side service core k; its partner serves its words meanwhile. -/
def execServiceCoreFirmwareUpdate (k : Nat) (fw : Digest) (s : State) : Out State :=
  .next (s.modOwner (32768 + k) fun o => { o with firmware := fw })
/-- Firmware of station k; the die's other stations take its requests meanwhile. -/
def execStationFirmwareUpdate (k : Nat) (fw : Digest) (s : State) : Out State :=
  .next { s with sys := { s.sys with stationFw := Map.put s.sys.stationFw k fw } }

/-- The monitor retires a frame: it is counted once (R424, R428). -/
def State.retireFrame (s : State) (a : Nat) : State :=
  let f := a / 2 ^ 16 * 2 ^ 16
  if isBank a || s.sys.retiredFrames.contains f then s else { s with sys := { s.sys with retiredFrames := f :: s.sys.retiredFrames } }

/-! ## The management controller (R428) -/

/-- HOUSEKEEPING_READ: the controller gets the register; nothing else changes. -/
def execHousekeepingRead (y : Word) (s : State) : Out State :=
  .next { s with sys := { s.sys with hkAnswer := s.hkRead (y.toNat % 2 ^ 32) } }
/-- PWRLIM_WRITE: clamped to 1,000 to 2,800 W (R426). -/
def execPwrlimWrite (w : Word) (s : State) : Out State :=
  .next { s with sys := { s.sys with pwrlim := BitVec.ofNat 16 (max 1000 (min 2800 w.toNat)) } }
/-- VI_THAW: the inboxes reopen; stopped activations stay saved. -/
def execViThaw (vi : BitVec 6) (s : State) : Out State :=
  .next { s with sys := { s.sys with frozen := s.sys.frozen.filter (· != vi) } }
def execPortHold (port : Nat) (s : State) : Out State :=
  .next ((s.modPort port fun p => { p with held := true }).takeDown port 3)
def execPortRelease (port : Nat) (s : State) : Out State :=
  .next ((s.modPort port fun p => { p with held := false }).train port)

/-! ## Debug unlock (R412) -/

/-- A fresh 32-byte challenge: a free value. -/
def execDebugChallenge (s : State) : Out State :=
  let a := s.takeFree
  let b := a.2.takeFree
  let c := b.2.takeFree
  let d := c.2.takeFree
  .next { d.2 with sys := { d.2.sys with challenge := some (a.1 ++ b.1 ++ c.1 ++ d.1) } }

/-- The token passes every check. -/
def State.tokenOk (s : State) (tk : List Byte) : Bool :=
  tk.length == 456 && tk.take 4 == [0x53, 0x58, 0x44, 0x54] && field tk 4 2 == 1 && field tk 6 1 == Config.lifecycle.toNat &&
  digestOf (tk.drop 8) == Config.deviceId &&
  (match s.sys.challenge with | some c => digestOf (tk.drop 40) == c | none => false) &&
  Config.pssVerify Config.vendorDebugKey (tk.take 72) (tk.drop 72)

/-- The bytes of "debug-unlocked". -/
def debugText : List Byte := [100, 101, 98, 117, 103, 45, 117, 110, 108, 111, 99, 107, 101, 100]

/-- DEBUG_TOKEN: an accepted token freezes every VI, wipes every key, extends MBOOT and opens the port. -/
def execDebugToken (token : List Byte) (s : State) : Out State :=
  if !s.tokenOk token then .next { s with sys := { s.sys with refusedTokens := s.sys.refusedTokens + 1 } }
  else
    let s1 := (List.range 64).foldl (fun s i => s.freezeVi (BitVec.ofNat 6 i)) s
    let s2 := s1.eachBlock fun b => { b with keys := [] }
    let d := sha256 (debugText ++ digestBytes Config.deviceId ++ (token.drop 40).take 32)
    .next { s2 with sys := { s2.sys with
      memKeys := [], traceKeys := [], sealKeys := [], mboot := extend s2.sys.mboot (digestBytes d), dbg := true, portOpen := true } }

/-! ## The failure of a part (R405) -/

/-- Stamp of the words of a lost part: what a read of them gives is free (log 7). -/
def lostStamp : Nat := 2 ^ 301

/-- The activation of thread t is lost: replayed with its team, or ended with one report. The spec states its
cause and value, and not its MEPC, which is free. -/
def State.loseThread (s : State) (t : Nat) : State :=
  let x := s.th t
  if x.status = .idle then s
  else if s.replayable x.act then
    s.awaitReplay t 0x16 0x10000
  else
    let r := s.takeFree
    r.2.endFaulted t 0x16 r.1 0x10000

/-- The replayable team that sent a message. -/
def State.senderTeam (s : State) (m : Msg) : Option (Word × Word) :=
  let sender : Act := { launch := m.launch, wid := m.wid }
  if (s.launch? m.launch).isSome ∧ s.replayable sender then s.teamOf sender else none
/-- A team replays for a message that was lost: a member that runs waits for it; where none does, it is replayed at once. -/
def State.loseTeam (s : State) (team : Word × Word) : State :=
  match s.actives.find? fun e => s.teamOf e.2.act == some team with
  | some e => s.loseThread e.1
  | none => s.replayTeam team
/-- One report says that a message of a lost channel is lost, which no replay sends again. -/
def State.loseMessage (s : State) (n : Binding) (m : Msg) : State :=
  let r := s.takeFree
  let q := r.2.takeFree
  let c := q.2.takeFree
  (c.2.errorReport (c.1.toNat % 16384) { launch := n.launch, wid := m.wid } 0x0F r.1 q.1).stopOnError n.launch

/-- The channels of a block are lost. Enumerated messages wait in the part that replaces it, if one does. -/
def State.loseChannels (s : State) (blk : Nat) (spare : Bool) : State :=
  let lost : List (Binding × Msg) := List.flatMap (fun e : Nat × Channel => match e.2.bind with
    | some n => (e.2.slots.filter fun m => !(m.enumNo.isSome && spare)).map fun m => (n, m)
    | none => []) (s.block blk).chans
  let s1 := s.modBlock blk fun b => { b.eachChan (Channel.discard s.cycle fun m => !(m.enumNo.isSome && spare)) with queues := [] }
  let teams := (lost.filterMap fun e => s.senderTeam e.2).eraseDups
  let s2 := lost.foldl (fun s' e =>
    let s3 := if e.2.enumNo.isSome then s'.modLaunch e.1.launch fun l => { l with dispatched := l.dispatched + 1, released := l.released + 1 } else s'
    if (s.senderTeam e.2).isSome then s3 else s3.loseMessage e.1 e.2) s1
  teams.foldl State.loseTeam s2

/-- The banks of a block are lost. -/
def Mem.loseBlock (m : Mem) (blk : Nat) : Mem :=
  let mine : Nat → Bool := fun w => decide (bufBase blk 0 / 8 ≤ w ∧ w < bufBase (blk + 1) 0 / 8)
  { m with
    full := Map.drop mine m.full
    poison := Map.drop mine m.poison
    keys := List.map (fun e : Nat × Nat => (e.1, if mine e.1 then lostStamp else e.2)) m.keys }

/-- A cluster fails: the die's spare takes its logical number, or the number goes missing (R16). -/
def State.loseCluster (s : State) (cl : Nat) : State :=
  let die := cl / 32
  let spare := !s.sys.spares.getLsbD die
  let blks := (List.range 8).map (8 * cl + ·)
  let ts : List Nat := (List.filter (fun e : Nat × Thread => clusterOf e.1 == cl) s.actives).map Prod.fst
  let s1 := ts.foldl State.loseThread s
  let s2 := blks.foldl (fun s b => s.loseChannels b spare) s1
  let s3 := blks.foldl (fun s b => ((s.block b).jobs.foldl (fun s j => s.cancelJob b j true) s).modMem fun m => m.loseBlock b) s2
  let s4 := s3.modCluster cl fun c => { c with
    dir := c.dir.map fun e => { e with inst := none }, spare := spare, missing := !spare }
  { s4 with sys := { s4.sys with spares := s4.sys.spares ||| (1#32 <<< (if spare then die else die + 4)) } }

/-- PART_FAILURE (R405). -/
def execPartFailure (p : Part) (s : State) : Out State :=
  match p with
  | .core t => .next (s.loseThread (coreOf t))
  | .cluster cl => .next (s.loseCluster cl)
  | .stations die =>
    .next { s with sys := { s.sys with stations := Map.drop (fun k => k / 4 == die) s.sys.stations } }
  | .memoryChannel c => .next { s with sys := { s.sys with lostChannels := if s.sys.lostChannels.contains c then s.sys.lostChannels else c :: s.sys.lostChannels } }
  | .link port => .next (s.takeDown port 2)

end Sys2Proof.Machine
end

