-- ==== Sys2Proof/Machine/Matrix.lean ====
section
/-! DEFINITION. Class 8: the matrix slice (R294–R320): issue checks, gangs and the wired barrier, products,
tiles, drains, status, and the events of the slice. -/

namespace Sys2Proof.Machine

/-! ## Tiles (R251, R294, R310; the layout is log 4) -/

def tileBase (blk : Nat) (t : TIdx) : Nat := bufBase blk 3 + 16384 * t.toNat
def cellAddr (blk : Nat) (t : TIdx) (i j : Nat) : Nat := tileBase blk t + 4 * (64 * i + j)
def State.cell (s : State) (blk : Nat) (t : TIdx) (i j : Nat) : Nat := s.mem.read (cellAddr blk t i j) 4
def State.tileTag (s : State) (blk : Nat) (t : TIdx) : BitVec 5 := Map.get 8 (s.block blk).tileTags t.toNat
def State.setTileTag (s : State) (blk : Nat) (t : TIdx) (f : BitVec 5) : State :=
  s.modBlock blk fun b => { b with tileTags := Map.set 8 b.tileTags t.toNat f }
/-- A word of the tile's rows i to i + n − 1 is poisoned. -/
def State.tilePoisoned (s : State) (blk : Nat) (t : TIdx) (i n : Nat) : Bool :=
  let w := cellAddr blk t i 0 / 8
  List.any s.mem.poison fun e : Nat × Bool => e.2 && decide (w ≤ e.1 ∧ e.1 < w + 32 * n)

/-- Writes all cells of a tile, row after row, clears its poison and sets its tag. -/
def State.writeTile (s : State) (blk : Nat) (t : TIdx) (f : BitVec 5) (cells : List Nat) : State :=
  let a := tileBase blk t
  let w := a / 8
  let inTile := fun k : Nat => decide (w ≤ k ∧ k < w + 2048)
  (s.modMem fun m =>
    { m.write a 16384 (packNat 32 cells) with poison := Map.drop inTile m.poison, keys := Map.drop inTile m.keys }).setTileTag blk t f

/-- A tile of zeros. -/
def State.zeroTile (s : State) (blk : Nat) (t : TIdx) : State :=
  let a := tileBase blk t
  let w := a / 8
  let inTile := fun k : Nat => decide (w ≤ k ∧ k < w + 2048)
  (s.modMem fun m => { m with
    bytes := Map.drop (fun k => decide (a ≤ k ∧ k < a + 16384)) m.bytes
    poison := Map.drop inTile m.poison, keys := Map.drop inTile m.keys }).setTileTag blk t 8

/-! ## Operands (R302, R312) -/

/-- An operand: its space (1 A, 2 W, 5 XA, 0 S), first byte there, stride and bytes per row. -/
structure Operand where
  sp : Nat
  addr : Nat
  stride : Nat
  row : Nat
  deriving DecidableEq, Repr

/-- Bytes of a row of k elements. -/
def rowBytes (f : BitVec 5) (k : Nat) : Nat := if Num.isBfp f then bfpRowBytes (bfpBits f) k else k * fmtBits f / 8
def descK (a : Word) : Nat := 32 * (a.extractLsb' 48 10).toNat
def descStride (a : Word) : Nat := (a.extractLsb' 32 16).toNat
def descAddr (a : Word) : Nat := (a.extractLsb' 0 19).toNat
def descX (a : Word) : Bool := a.getLsbD 22
def descBlk (a : Word) : Nat := (a.extractLsb' 19 3).toNat
def operandA (a : Word) (f : BitVec 5) : Operand :=
  { sp := if descX a then 5 else 1, addr := (if descX a then descBlk a * 2 ^ 19 else 0) + descAddr a, stride := descStride a
    row := rowBytes f (descK a) }
def operandB (a b : Word) (f : BitVec 5) : Operand :=
  { sp := 2, addr := descAddr b, stride := descStride b, row := rowBytes f (descK a) }
def loadOperand (a : Word) (f : BitVec 5) : Operand :=
  { sp := a.toNat / 2 ^ 60, addr := descAddr a, stride := descStride a, row := 8 * fmtBits f }
def Operand.len (o : Operand) : Nat := 63 * o.stride + o.row
/-- The span lies in its buffer. -/
def Operand.fits (o : Operand) : Bool := decide (o.addr % 2 ^ 19 + o.len ≤ if o.sp = 0 then 0x40000 else 0x80000)
def Operand.last (o : Operand) : Word := BitVec.ofNat 64 (o.addr + o.len - 1)
def Operand.region (o : Operand) (blk : Nat) : Region := { base := flatByte blk o.sp o.addr, len := o.len }
/-- The flat address of row i, and the words of the 64 rows: exps bits of each row, a BFP row's exponents, come first
(R249). -/
def Operand.rowAt (o : Operand) (blk i : Nat) : Nat := flatByte blk o.sp o.addr + i * o.stride
def Operand.words (o : Operand) (blk exps : Nat) : List Nat :=
  let rows := fun n : Nat => (List.range 64).flatMap fun i => bitWords (8 * o.rowAt blk i) n
  firsts [] ((if exps = 0 then [] else rows exps) ++ rows (8 * o.row))
/-- The rows as numbers, from the image. -/
def Operand.rows (o : Operand) (blk : Nat) (img : List (Nat × Word)) : List Nat :=
  (List.range 64).map fun i => (imageBits img (8 * o.rowAt blk i) (8 * o.row)).getD 0

/-- Reserved bits of the descriptors are zero (R305 step 1). -/
def okA (a : Word) : Bool :=
  a.extractLsb' 58 6 == 0 && a.extractLsb' 23 9 == 0 && descK a != 0 && (descX a || descBlk a == 0)
def okB (b : Word) : Bool := b.extractLsb' 48 16 == 0 && b.extractLsb' 19 13 == 0
def okLoad (a : Word) : Bool := decide (a.toNat / 2 ^ 60 ≤ 1) && a.extractLsb' 48 12 == 0 && a.extractLsb' 19 13 == 0
def alignedTo (n : Nat) (w : Word) : Bool := descAddr w % n == 0 && descStride w % n == 0

/-- The first failing check of R305 from step 3 on, over operands with their registers; else their stamps. -/
def State.operandCheck (s : State) (n : Nat) (os : List (Operand × Word)) : Except Trap (List Nat) :=
  match os.find? fun p => !alignedTo n p.2 with
  | some p => .error { code := 0x09, val := p.2 }
  | none =>
    match os.find? fun p => !p.1.fits with
    | some p => .error { code := 0x08, val := p.1.last }
    | none => os.foldr (fun p r =>
        match s.spanCheck (blockOf s.cur) p.1.sp p.1.addr p.1.len true false, r with
        | .error e, _ => .error e
        | .ok _, .error e => .error e
        | .ok k, .ok ks => .ok (k :: ks)) (.ok [])

/-! ## Issue (R295, R298, R304, R305) -/

def mmaZ (n : Num) : Bool := n.opx.getLsbD 0
def mmaG (n : Num) : Bool := n.opx.getLsbD 1
def tileBit (t : TIdx) : BitVec 16 := 1#16 <<< t.toNat

/-- The slice accepts a matrix job, when a place is free. -/
def State.issueMatrix (s : State) (j : Job) (names : Bool) : Out State :=
  let blk := blockOf s.cur
  if !s.placeFree blk then .next (s.stall .engine) else
  let key := jobKey blk (s.block blk).nextJob
  let s1 := s.acceptJob blk j
  .next (if names then s1.modMyAct fun a => { a with lastMatrix := some key } else s1).retire

/-- The gang size of the running thread's launch. -/
def State.gangOf (s : State) (launch : Word) : Nat := match s.launch? launch with | some l => l.gang | none => 0

/-- MMA and MMAB. -/
def mmaIssue (i : Instr) (bfp : Bool) (d : TIdx) (a b : GReg) (n : Num) (s : State) : Out State :=
  noService i s fun s =>
    let x := s.g a
    let y := s.g b
    let blk := blockOf s.cur
    let launch := s.me.act.launch
    if Num.reserved n.fmt then reservedFmt n.fmt s
    else if Num.reserved n.fmt2 then reservedFmt n.fmt2 s
    else if !okA x then raiseOwn x s
    else if !okB y then raiseOwn y s
    else if mmaG n && (decide (s.gangOf launch < 2) || !descX x) then raise 0x12 0 s
    else
      let oa := operandA x n.fmt
      let ob := operandB x y n.fmt2
      match s.operandCheck 16 [(oa, x), (ob, y)] with
      | .error e => .next (s.takeFault e)
      | .ok ks =>
        if !s.settled s.cur then .next (s.stall .access) else
        let seq := match (s.block blk).joints.find? fun e => e.1 == launch with | some e => e.2 | none => 0
        let j : Job := { s.newJob .matrix (.mma d x y n bfp) with
          keyA := ks.getD 0 0, keyB := ks.getD 1 0, reads := [oa.region blk, ob.region blk]
          rdTiles := if mmaZ n then 0 else tileBit d, wrTiles := tileBit d
          word := encode i, joint := if mmaG n then some seq else none }
        let s1 := if mmaG n ∧ s.placeFree blk then
            s.modBlock blk fun k => { k with joints := (launch, seq + 1) :: k.joints.filter fun e => e.1 != launch }
          else s
        s1.issueMatrix j true

def execMma (d : TIdx) (a b : GReg) (n : Num) (s : State) : Out State := mmaIssue (.mma d a b n) false d a b n s
def execMmab (d : TIdx) (a b : GReg) (n : Num) (s : State) : Out State := mmaIssue (.mmab d a b n) true d a b n s

/-- MZERO (R311). -/
def execMzero (d : TIdx) (s : State) : Out State :=
  noService (.mzero d) s fun s =>
    if !s.settled s.cur then .next (s.stall .access)
    else s.issueMatrix { s.newJob .matrix (.mzero d) with wrTiles := tileBit d } false

/-- MLOAD (R312). -/
def execMload (d : TIdx) (a : GReg) (n : Num) (s : State) : Out State :=
  noService (.mload d a n) s fun s =>
    let x := s.g a
    if Num.reserved n.fmt then reservedFmt n.fmt s
    else if !okLoad x then raiseOwn x s
    else
      let o := loadOperand x n.fmt
      match s.operandCheck 64 [(o, x)] with
      | .error e => .next (s.takeFault e)
      | .ok ks =>
        if !s.settled s.cur then .next (s.stall .access)
        else s.issueMatrix { s.newJob .matrix (.mload d x n) with
          keyA := ks.getD 0 0, reads := [o.region (blockOf s.cur)], wrTiles := tileBit d } true

/-- MDRAIN (R313). -/
def execMdrain (a : TIdx) (b : GReg) (n : Num) (s : State) : Out State :=
  noService (.mdrain a b n) s fun s =>
    let w := s.g b
    if Num.reserved n.fmt then reservedFmt n.fmt s
    else if malformed w ∨ maKind w ≠ 2 ∨ !maLocal w ∨ maBlock w ≠ blockOf s.cur then raise 0x0F w s
    else if !s.settled s.cur then .next (s.stall .access)
    else s.issueMatrix { s.newJob .matrix (.mdrain a w n) with
      rdTiles := tileBit a, wrTiles := if mmaZ n then tileBit a else 0 } false

/-! ## Starting jobs, gangs (R295, R299–R301, R307) -/

/-- The tag that an MMA's tile must carry. -/
def mmaTag (n : Num) : BitVec 5 := if Num.isI n.fmt then 5 else 8
def JobOp.tile : JobOp → TIdx
  | .mma t _ _ _ _ | .mzero t | .mload t _ _ | .mdrain t _ _ => t
  | _ => 0
/-- The tag a job needs at its start. -/
def JobOp.needs : JobOp → Option (BitVec 5)
  | .mma _ _ _ n _ => if mmaZ n then none else some (mmaTag n)
  | .mdrain _ _ n => some n.fmt
  | _ => none

/-- No matrix job of the block runs. -/
def State.sliceFree (s : State) (blk : Nat) : Bool := (s.block blk).jobs.all fun j => !(j.eng == .matrix && j.phase == .started)

/-- A matrix job starts: its tile's tag and poison are met now (R307, R309, R313). -/
def State.startMatrix (s : State) (blk : Nat) (j : Job) : State :=
  let t := j.op.tile
  match j.op.needs with
  | some f =>
    if s.tileTag blk t ≠ f then s.matrixFailed blk j t 0x06 f (s.tileTag blk t)
    else if j.rdTiles ≠ 0 ∧ (match j.op with | .mma _ _ _ _ _ => s.tilePoisoned blk t 0 64 | _ => false) = true then
      s.matrixFailed blk j t 0x0B 0 0
    else s.modJob blk j.id fun j => { j with phase := .started }
  | none => s.modJob blk j.id fun j => { j with phase := .started }

/-- The lowest block of the gang of a launch's joint job. -/
def State.gangBase (s : State) (blk : Nat) (launch : Word) : Nat := blk / max 1 (s.gangOf launch) * max 1 (s.gangOf launch)
def State.gangBroken (s : State) (blk : Nat) (launch : Word) : Bool :=
  (s.cluster (blk / 8)).broken.contains (launch, s.gangBase blk launch)

/-- The next job of a slice, when it may start. -/
def State.headOf (s : State) (blk : Nat) : Option Job :=
  match s.nextJobOf blk .matrix with
  | some j => if s.mayStart j ∧ s.sliceFree blk then some j else none
  | none => none

/-- MATRIX_JOB_START: a joint job starts by its barrier, or fails here when its gang is broken. -/
def execMatrixJobStart (blk : Nat) (s : State) : Out State :=
  match s.headOf blk with
  | none => .next s
  | some j =>
    match j.joint with
    | none => .next (s.startMatrix blk j)
    | some _ => .next (if s.gangBroken blk j.launch then s.matrixFailed blk j j.op.tile 0x12 0 0 else s)

/-- The parts of the joint operation that block blk's next job belongs to, which wait at the barrier. -/
def State.gangParts (s : State) (blk : Nat) : List (Nat × Job) :=
  match s.headOf blk with
  | some j =>
    if j.joint.isNone then [] else
    ((List.range (s.gangOf j.launch)).map (s.gangBase blk j.launch + ·)).filterMap fun b =>
      match s.headOf b with
      | some k => if k.launch = j.launch ∧ k.joint = j.joint then some (b, k) else none
      | none => none
  | none => []

def JobOp.descA : JobOp → Word | .mma _ a _ _ _ => a | _ => 0

/-- GANG_BARRIER_FIRE (R300): every part has become the next job of its slice. -/
def execGangBarrierFire (blk : Nat) (s : State) : Out State :=
  let ps := s.gangParts blk
  match ps with
  | [] => .next s
  | p :: _ =>
    if ps.length ≠ s.gangOf p.2.launch ∨ s.gangBroken blk p.2.launch then .next s
    else if ps.any fun q => q.2.word != p.2.word || q.2.op.descA != p.2.op.descA then
      .next (ps.foldl (fun s q => s.matrixFailed q.1 q.2 q.2.op.tile 0x12 0 0) s)
    else
      match ps.find? fun q => match q.2.op.needs with | some f => s.tileTag q.1 q.2.op.tile != f | none => false with
      | some q => .next (ps.foldl (fun s r => s.matrixFailed r.1 r.2 r.2.op.tile 0x06 ((q.2.op.needs).getD 0) (s.tileTag q.1 q.2.op.tile)) s)
      | none => .next (ps.foldl (fun s q => s.startMatrix q.1 q.2) s)

/-- GANG_BREAK (R301): a part has waited for 100 ms. -/
def execGangBreak (blk : Nat) (s : State) : Out State :=
  let ps := s.gangParts blk
  match ps with
  | [] => .next s
  | p :: _ =>
    if ps.length = s.gangOf p.2.launch ∨ s.gangBroken blk p.2.launch then .next s
    else
      let e := (p.2.launch, s.gangBase blk p.2.launch)
      .next (ps.foldl (fun s q => s.matrixFailed q.1 q.2 q.2.op.tile 0x12 0 0)
        (s.modCluster (blk / 8) fun c => { c with broken := e :: c.broken }))

/-! ## Products (R261, R262, R307) -/

/-- One floating-point product into a cell. -/
def mmaStep (n : Num) (c : Nat × FFlags) (a b : Nat) : Nat × FFlags :=
  let x := fpDecode n.fmt a
  let y := fpDecode n.fmt2 b
  if x.isNan || y.isNan then (fmtNan 8, c.2 ||| flNV)
  else
    let r := roundWith 8 .rne n.ovf (fpFma .rne x y (fpDecode 8 c.1))
    (r.1, c.2 ||| r.2)

/-- Element k of a row in a format's packing. -/
def rowElem (f : BitVec 5) (row k : Nat) : Nat := row / 2 ^ (fmtBits f * k) % 2 ^ fmtBits f

/-- One block of 32 products of BFP rows into a cell (R261). -/
def mmabStep (n : Num) (k ra rb : Nat) (c : Nat × FFlags) (blk : Nat) : Nat × FFlags :=
  let ma := bfpBits n.fmt
  let mb := bfpBits n.fmt2
  let sum : Int := ((List.range 32).map fun i => (bfpElem ma k ra (32 * blk + i)).1 * (bfpElem mb k rb (32 * blk + i)).1).sum
  let e := bfpScale ma (bfpElem ma k ra (32 * blk)).2 + bfpScale mb (bfpElem mb k rb (32 * blk)).2
  let r := roundWith 8 .rne n.ovf (fpAdd .rne (fpDecode 8 c.1) (.fin (decide (sum < 0)) sum.natAbs e))
  (r.1, c.2 ||| r.2)

/-- The final value of a cell that starts at c0. -/
def mmaCell (n : Num) (bfp : Bool) (k ra rb c0 : Nat) : Nat × FFlags :=
  if bfp then (List.range (k / 32)).foldl (mmabStep n k ra rb) (c0, 0)
  else if Num.isI n.fmt then
    let s : Int := ((List.range k).map fun i => intDecode n.fmt (rowElem n.fmt ra i) * intDecode n.fmt2 (rowElem n.fmt2 rb i)).sum
    (((c0 + s) % 2 ^ 32).toNat, 0)
  else (List.range k).foldl (fun c i => mmaStep n c (rowElem n.fmt ra i) (rowElem n.fmt2 rb i)) (c0, 0)

/-! ## The events of a running job (R297, R309, R312) -/

def blockOfA (blk : Nat) (o : Operand) : Nat := if o.sp = 5 then blk / 8 * 8 + o.addr / 2 ^ 19 else blk

/-- The operands of a job, with their blocks, their stamps, and the exponent bits of each row. -/
def Job.operands (j : Job) (blk : Nat) : List (Operand × Nat × Nat × Nat) :=
  match j.op with
  | .mma _ a b n bfp =>
    let oa := operandA a n.fmt
    let exps := if bfp then expBits (descK a) else 0
    [(oa, blockOfA blk oa, j.keyA, exps), (operandB a b n.fmt2, blk, j.keyB, exps)]
  | .mload _ a n => [(loadOperand a n.fmt, blk, j.keyA, 0)]
  | _ => []

/-- The members of a joint job that have not read its A operand, lowest block first. -/
def State.castTo (s : State) (blk : Nat) (j : Job) : List (Nat × Job) :=
  if j.joint.isNone then [] else
  ((List.range (s.gangOf j.launch)).map (s.gangBase blk j.launch + ·)).flatMap fun b =>
    ((s.block b).jobs.filter fun k => k.joint == j.joint && k.launch == j.launch && k.phase == .started && k.pos == 0).map fun k => (b, k)
/-- What one member has read of A, every member has: it is read once and multicast (R303). -/
def State.multicastA (s : State) (blk : Nat) (j : Job) : State :=
  (s.castTo blk j).foldl (fun s e => s.modJob e.1 e.2.id fun k =>
    { k with image := j.image, failAt := j.failAt, status := j.status, pos := 1 }) s

/-- Reads the operands that are not read yet, first A and then B. -/
def State.readOperands (s : State) (blk : Nat) (j : Job) : List (Operand × Nat × Nat × Nat) → Option Job × State
  | [] => (some j, s)
  | (o, ob, key, exps) :: os =>
    match s.engineRead blk j [(ob, key)] (o.words blk exps) with
    | (none, s1) => (none, s1)
    | (some j1, s1) =>
      let j2 := { j1 with pos := j1.pos + 1 }
      let s2 := (if j.pos = 0 then s1.multicastA blk j1 else s1).modJob blk j.id fun _ => j2
      if j2.failAt.isSome then (some j2, s2) else s2.readOperands blk j2 os

/-- The format of a BFP operand that holds an exponent of 255. -/
def Job.badBfp (j : Job) (blk : Nat) : Option (BitVec 5) :=
  match j.op with
  | .mma _ a b n true =>
    let bad : Operand → Bool := fun o => (List.range 64).any fun i => badRow j.image (descK a) (8 * o.rowAt blk i)
    if bad (operandA a n.fmt) then some n.fmt
    else if bad (operandB a b n.fmt2) then some n.fmt2 else none
  | _ => none

/-- MATRIX_OPERANDS_CONSUMED: the slice has read the last byte of its operands. Of a joint job the lowest member reads
A, and the others wait for it. -/
def execMatrixOperandsConsumed (blk id : Nat) (s : State) : Out State :=
  match s.job? blk id with
  | none => .next s
  | some j =>
    if j.phase ≠ .started ∨ j.operands blk = [] then .next s
    else if j.pos = 0 ∧ (match s.castTo blk j with | e :: _ => e.1 != blk | [] => false) = true then .next s else
    match (if j.failAt.isSome then (some j, s) else s.readOperands blk j ((j.operands blk).drop j.pos) : Option Job × State) with
    | (none, s1) => .next s1
    | (some j1, s1) =>
      match j1.badBfp blk with
      | some f => .next (s1.matrixFailed blk j1 j1.op.tile 0x06 f 0)
      | none =>
        if j1.failAt.isSome then .next (s1.matrixFailed blk j1 j1.op.tile 0x0B 0 0)
        else .next (s1.modJob blk id fun _ => { j1 with phase := .consumed })

/-- A completed job leaves its flags with its issuer (R316). -/
def State.matrixDone (s : State) (blk : Nat) (j : Job) (fl : FFlags) : State :=
  let s1 := (s.dropJob blk j.id).killEpoch j.team
  (s1.modIssuer j fun a => { a with mstat := a.mstat ||| fl.setWidth 64 }).getD s1

/-- The cells of a product. -/
def State.mmaCells (s : State) (blk : Nat) (j : Job) (t : TIdx) (a b : Word) (n : Num) (bfp : Bool) : List (Nat × FFlags) :=
  let ra := (operandA a n.fmt).rows blk j.image
  let rb := (operandB a b n.fmt2).rows blk j.image
  (List.range 64).flatMap fun i => (List.range 64).map fun c =>
    mmaCell n bfp (descK a) (ra.getD i 0) (rb.getD c 0) (if mmaZ n then 0 else s.cell blk t i c)

/-- MATRIX_JOB_COMPLETE: the tile is written (R307, R311, R312). -/
def execMatrixJobComplete (blk id : Nat) (s : State) : Out State :=
  match s.job? blk id with
  | none => .next s
  | some j =>
    match j.op, j.phase with
    | .mzero t, .started => .next ((s.zeroTile blk t).matrixDone blk j 0)
    | .mload t a n, .consumed =>
      let rows := (loadOperand a n.fmt).rows blk j.image
      let w := fmtBits n.fmt
      let rs := rows.flatMap fun r => (List.range 64).map fun c =>
        let x := r / 2 ^ (w * c) % 2 ^ w
        if w = 16 then convert 8 n.fmt .rne false x else (x, (0 : FFlags))
      .next ((s.writeTile blk t (if n.fmt = 5 then 5 else 8) (rs.map (·.1))).matrixDone blk j (orAll (rs.map (·.2))))
    | .mma t a b n bfp, .consumed =>
      let rs := s.mmaCells blk j t a b n bfp
      .next ((s.writeTile blk t (mmaTag n) (rs.map (·.1))).matrixDone blk j (orAll (rs.map (·.2))))
    | _, _ => .next s

/-! ## Drains (R313, R314) -/

/-- The message of a row. -/
def drainMsg (blk : Nat) (j : Job) (t : TIdx) (dest : Word) (f : BitVec 5) (row : Nat) (bits : Nat) : Msg :=
  { dest, vec := some { bits := BitVec.ofNat 2048 bits, tag := f }, wid := j.wid, launch := j.launch, pid := j.pid
    src := engineSource blk 1 + BitVec.ofNat 64 (j.thread % 16 * 2 ^ 24 + row * 2 ^ 12 + t.toNat * 2 ^ 8)
    origin := .gone, die := blk / 256 }

/-- DRAIN_ROW: a slot is reserved, and the row is read, cleared with CLR, and placed. -/
def execDrainRow (blk id : Nat) (s : State) : Out State :=
  match s.job? blk id with
  | none => .next s
  | some j =>
    match j.op, j.phase with
    | .mdrain t dest n, .started =>
      match s.answerHere j.pid dest 0 with
      | .full => .next s
      | .grant =>
        if s.tilePoisoned blk t j.pos 1 then .next (s.matrixFailed blk j t 0x0B 0 0)
        else
          let a := cellAddr blk t j.pos 0
          let m := drainMsg blk j t dest n.fmt j.pos (s.mem.read a 256)
          let s1 := if mmaZ n then (s.modMem fun k => { k with bytes := Map.drop (fun b => decide (a ≤ b ∧ b < a + 256)) k.bytes }).killEpoch j.team else s
          let s2 := s1.enchannel blk (s.chanOf j.pid dest) m false
          .next (if 63 ≤ j.pos then s2.dropJob blk id else s2.modJob blk id fun j => { j with pos := j.pos + 1 })
      | _ => .next (s.matrixFailed blk j t 0x0F 0 0)
    | _, _ => .next s

/-! ## Waiting and status (R316, R317) -/

/-- Takes the recorded matrix failure, or goes on. -/
def State.matrixWaited (s : State) (fin : State → Out State) : Out State :=
  match s.me.act.matrixFail with
  | some tr => .next ((s.modMyAct fun a => { a with mstat := mstatTaken a.mstat }).takeFault tr)
  | none => fin s

def execMwait (a : TIdx) (s : State) : Out State :=
  noService (.mwait a) s fun s =>
    let b := s.block (blockOf s.cur)
    let lim := s.me.bound.getD b.nextJob
    if b.jobs.any fun j => j.op.isMatrix && j.op.tile == a && decide (j.id < lim) then
      .next ((s.modMe fun x => { x with bound := some lim }).stall .engine)
    else (s.modMe fun x => { x with bound := none }).matrixWaited fun s => .next s.retire

def execMstat (d : GReg) (s : State) : Out State :=
  noService (.mstat d) s fun s =>
    if s.pendOf s.cur true ≠ 0 then .next (s.stall .engine)
    else s.matrixWaited fun s => .next (s.writeRetire d (s.mstatRead s.cur))

end Sys2Proof.Machine
end

