-- ==== Sys2Proof/Machine/Dispatch.lean ====
section
/-! DEFINITION. The meaning of every instruction and event: one arm per constructor. -/

namespace Sys2Proof.Machine

def exec (i : Instr) (s : State) : Host.Outcome State Fault Refusal :=
  match i with
  | .add d a b => Sys2Proof.Machine.execAdd d a b s
  | .sub d a b => Sys2Proof.Machine.execSub d a b s
  | .and d a b => Sys2Proof.Machine.execAnd d a b s
  | .or d a b => Sys2Proof.Machine.execOr d a b s
  | .xor d a b => Sys2Proof.Machine.execXor d a b s
  | .andn d a b => Sys2Proof.Machine.execAndn d a b s
  | .shl d a b => Sys2Proof.Machine.execShl d a b s
  | .shr d a b => Sys2Proof.Machine.execShr d a b s
  | .sra d a b => Sys2Proof.Machine.execSra d a b s
  | .rol d a b => Sys2Proof.Machine.execRol d a b s
  | .ror d a b => Sys2Proof.Machine.execRor d a b s
  | .min d a b => Sys2Proof.Machine.execMin d a b s
  | .max d a b => Sys2Proof.Machine.execMax d a b s
  | .minu d a b => Sys2Proof.Machine.execMinu d a b s
  | .maxu d a b => Sys2Proof.Machine.execMaxu d a b s
  | .seq d a b => Sys2Proof.Machine.execSeq d a b s
  | .sne d a b => Sys2Proof.Machine.execSne d a b s
  | .slt d a b => Sys2Proof.Machine.execSlt d a b s
  | .sltu d a b => Sys2Proof.Machine.execSltu d a b s
  | .addi d a imm => Sys2Proof.Machine.execAddi d a imm s
  | .andi d a imm => Sys2Proof.Machine.execAndi d a imm s
  | .ori d a imm => Sys2Proof.Machine.execOri d a imm s
  | .xori d a imm => Sys2Proof.Machine.execXori d a imm s
  | .slti d a imm => Sys2Proof.Machine.execSlti d a imm s
  | .shli d a n => Sys2Proof.Machine.execShli d a n s
  | .shri d a n => Sys2Proof.Machine.execShri d a n s
  | .srai d a n => Sys2Proof.Machine.execSrai d a n s
  | .mul d a b => Sys2Proof.Machine.execMul d a b s
  | .mulh d a b => Sys2Proof.Machine.execMulh d a b s
  | .mulhu d a b => Sys2Proof.Machine.execMulhu d a b s
  | .div d a b => Sys2Proof.Machine.execDiv d a b s
  | .divu d a b => Sys2Proof.Machine.execDivu d a b s
  | .rem d a b => Sys2Proof.Machine.execRem d a b s
  | .remu d a b => Sys2Proof.Machine.execRemu d a b s
  | .sel d a b c => Sys2Proof.Machine.execSel d a b c s
  | .lea d a b e imm => Sys2Proof.Machine.execLea d a b e imm s
  | .widx d a n => Sys2Proof.Machine.execWidx d a n s
  | .widc d a n => Sys2Proof.Machine.execWidc d a n s
  | .clz d a => Sys2Proof.Machine.execClz d a s
  | .ctz d a => Sys2Proof.Machine.execCtz d a s
  | .popc d a => Sys2Proof.Machine.execPopc d a s
  | .bswap d a => Sys2Proof.Machine.execBswap d a s
  | .sext d a n => Sys2Proof.Machine.execSext d a n s
  | .zext d a n => Sys2Proof.Machine.execZext d a n s
  | .li d imm => Sys2Proof.Machine.execLi d imm s
  | .bmm8 d a b => Sys2Proof.Machine.execBmm8 d a b s
  | .bmm8x d a b => Sys2Proof.Machine.execBmm8x d a b s
  | .bmm8t d a b => Sys2Proof.Machine.execBmm8t d a b s
  | .pdep d a b => Sys2Proof.Machine.execPdep d a b s
  | .pext d a b => Sys2Proof.Machine.execPext d a b s
  | .bperm d a c => Sys2Proof.Machine.execBperm d a c s
  | .bfx d a pos len => Sys2Proof.Machine.execBfx d a pos len s
  | .bfi d a b pos len => Sys2Proof.Machine.execBfi d a b pos len s
  | .brev d a => Sys2Proof.Machine.execBrev d a s
  | .fadd d a b n => Sys2Proof.Machine.execFadd d a b n s
  | .fsub d a b n => Sys2Proof.Machine.execFsub d a b n s
  | .fmul d a b n => Sys2Proof.Machine.execFmul d a b n s
  | .fma d a b c n => Sys2Proof.Machine.execFma d a b c n s
  | .fmin d a b n => Sys2Proof.Machine.execFmin d a b n s
  | .fmax d a b n => Sys2Proof.Machine.execFmax d a b n s
  | .feq d a b => Sys2Proof.Machine.execFeq d a b s
  | .flt d a b => Sys2Proof.Machine.execFlt d a b s
  | .fle d a b => Sys2Proof.Machine.execFle d a b s
  | .fcvtif d a n => Sys2Proof.Machine.execFcvtif d a n s
  | .fcvtfi d a n => Sys2Proof.Machine.execFcvtfi d a n s
  | .beq a b off => Sys2Proof.Machine.execBeq a b off s
  | .bne a b off => Sys2Proof.Machine.execBne a b off s
  | .blt a b off => Sys2Proof.Machine.execBlt a b off s
  | .bge a b off => Sys2Proof.Machine.execBge a b off s
  | .bltu a b off => Sys2Proof.Machine.execBltu a b off s
  | .bgeu a b off => Sys2Proof.Machine.execBgeu a b off s
  | .jmp off => Sys2Proof.Machine.execJmp off s
  | .jmpr a => Sys2Proof.Machine.execJmpr a s
  | .leac d off => Sys2Proof.Machine.execLeac d off s
  | .loop a len => Sys2Proof.Machine.execLoop a len s
  | .loopi len count => Sys2Proof.Machine.execLoopi len count s
  | .calld k => Sys2Proof.Machine.execCalld k s
  | .calldr a => Sys2Proof.Machine.execCalldr a s
  | .ret => Sys2Proof.Machine.execRet s
  | .yield vmask deadline gmask => Sys2Proof.Machine.execYield vmask deadline gmask s
  | .endAct => Sys2Proof.Machine.execEndAct s
  | .trap code => Sys2Proof.Machine.execTrap code s
  | .nop => Sys2Proof.Machine.execNop s
  | .send a b c n ord => Sys2Proof.Machine.execSend a b c n ord s
  | .sendnb d a b c n ord => Sys2Proof.Machine.execSendnb d a b c n ord s
  | .sendv a b c ord => Sys2Proof.Machine.execSendv a b c ord s
  | .reply b n ord => Sys2Proof.Machine.execReply b n ord s
  | .fork a b j off => Sys2Proof.Machine.execFork a b j off s
  | .join j => Sys2Proof.Machine.execJoin j s
  | .jinit a j count => Sys2Proof.Machine.execJinit a j count s
  | .launch a b => Sys2Proof.Machine.execLaunch a b s
  | .trigger => Sys2Proof.Machine.execTrigger s
  | .chbind c a b keep => Sys2Proof.Machine.execChbind c a b keep s
  | .chinfo d c => Sys2Proof.Machine.execChinfo d c s
  | .qpush q a => Sys2Proof.Machine.execQpush q a s
  | .qpop d q => Sys2Proof.Machine.execQpop d q s
  | .qpeek d q => Sys2Proof.Machine.execQpeek d q s
  | .qtry d q b => Sys2Proof.Machine.execQtry d q b s
  | .spop d x => Sys2Proof.Machine.execSpop d x s
  | .stry d x b => Sys2Proof.Machine.execStry d x b s
  | .getc d n => Sys2Proof.Machine.execGetc d n s
  | .setc a n => Sys2Proof.Machine.execSetc a n s
  | .ld d a b m imm => Sys2Proof.Machine.execLd d a b m imm s
  | .ldx d a b m imm => Sys2Proof.Machine.execLdx d a b m imm s
  | .st a b c m imm => Sys2Proof.Machine.execSt a b c m imm s
  | .stx a b c m imm => Sys2Proof.Machine.execStx a b c m imm s
  | .vld d a b m imm => Sys2Proof.Machine.execVld d a b m imm s
  | .vst a b c m imm => Sys2Proof.Machine.execVst a b c m imm s
  | .vldx d a b m imm => Sys2Proof.Machine.execVldx d a b m imm s
  | .vstx a b c m imm => Sys2Proof.Machine.execVstx a b c m imm s
  | .tagrd d a b m imm => Sys2Proof.Machine.execTagrd d a b m imm s
  | .tagwr a b c m imm => Sys2Proof.Machine.execTagwr a b c m imm s
  | .amo d a b c m op => Sys2Proof.Machine.execAmo d a b c m op s
  | .amof d a b c m op => Sys2Proof.Machine.execAmof d a b c m op s
  | .cas d a b c m imm => Sys2Proof.Machine.execCas d a b c m imm s
  | .vamo d a b c m op => Sys2Proof.Machine.execVamo d a b c m op s
  | .ams d a b c m op => Sys2Proof.Machine.execAms d a b c m op s
  | .fence sc => Sys2Proof.Machine.execFence sc s
  | .binit b a => Sys2Proof.Machine.execBinit b a s
  | .barr b sc chk => Sys2Proof.Machine.execBarr b sc chk s
  | .bsync b sc chk => Sys2Proof.Machine.execBsync b sc chk s
  | .bwait b => Sys2Proof.Machine.execBwait b s
  | .bdrop b => Sys2Proof.Machine.execBdrop b s
  | .vadd d a b n => Sys2Proof.Machine.execVadd d a b n s
  | .vsub d a b n => Sys2Proof.Machine.execVsub d a b n s
  | .vmul d a b n => Sys2Proof.Machine.execVmul d a b n s
  | .vfma d a b c n => Sys2Proof.Machine.execVfma d a b c n s
  | .vmin d a b n => Sys2Proof.Machine.execVmin d a b n s
  | .vmax d a b n => Sys2Proof.Machine.execVmax d a b n s
  | .vabs d a n => Sys2Proof.Machine.execVabs d a n s
  | .vneg d a n => Sys2Proof.Machine.execVneg d a n s
  | .vcmp d a b n => Sys2Proof.Machine.execVcmp d a b n s
  | .vsel d a b c n => Sys2Proof.Machine.execVsel d a b c n s
  | .vand d a b n => Sys2Proof.Machine.execVand d a b n s
  | .vor d a b n => Sys2Proof.Machine.execVor d a b n s
  | .vxor d a b n => Sys2Proof.Machine.execVxor d a b n s
  | .vmov d a n => Sys2Proof.Machine.execVmov d a n s
  | .vtag d n => Sys2Proof.Machine.execVtag d n s
  | .vshl d a b n => Sys2Proof.Machine.execVshl d a b n s
  | .vshr d a b n => Sys2Proof.Machine.execVshr d a b n s
  | .vsra d a b n => Sys2Proof.Machine.execVsra d a b n s
  | .vcvt d a n => Sys2Proof.Machine.execVcvt d a n s
  | .vexp2 d a n => Sys2Proof.Machine.execVexp2 d a n s
  | .vlog2 d a n => Sys2Proof.Machine.execVlog2 d a n s
  | .vrcp d a n => Sys2Proof.Machine.execVrcp d a n s
  | .vrsq d a n => Sys2Proof.Machine.execVrsq d a n s
  | .vsqrt d a n => Sys2Proof.Machine.execVsqrt d a n s
  | .vdiv d a b n => Sys2Proof.Machine.execVdiv d a b n s
  | .vscl d a b n => Sys2Proof.Machine.execVscl d a b n s
  | .vred d a n => Sys2Proof.Machine.execVred d a n s
  | .vbcast d a n => Sys2Proof.Machine.execVbcast d a n s
  | .vext d a b n => Sys2Proof.Machine.execVext d a b n s
  | .vins d a b n => Sys2Proof.Machine.execVins d a b n s
  | .viota d n => Sys2Proof.Machine.execViota d n s
  | .vperm d a b n => Sys2Proof.Machine.execVperm d a b n s
  | .vbmm8 d a b n => Sys2Proof.Machine.execVbmm8 d a b n s
  | .vpdep d a b n => Sys2Proof.Machine.execVpdep d a b n s
  | .vpext d a b n => Sys2Proof.Machine.execVpext d a b n s
  | .vbperm d a b n => Sys2Proof.Machine.execVbperm d a b n s
  | .swmap a b n => Sys2Proof.Machine.execSwmap a b n s
  | .swred a b n => Sys2Proof.Machine.execSwred a b n s
  | .swcvt a b n => Sys2Proof.Machine.execSwcvt a b n s
  | .mma d a b n => Sys2Proof.Machine.execMma d a b n s
  | .mmab d a b n => Sys2Proof.Machine.execMmab d a b n s
  | .mzero d => Sys2Proof.Machine.execMzero d s
  | .mload d a n => Sys2Proof.Machine.execMload d a n s
  | .mdrain a b n => Sys2Proof.Machine.execMdrain a b n s
  | .mwait a => Sys2Proof.Machine.execMwait a s
  | .mstat d => Sys2Proof.Machine.execMstat d s
  | .cpy a b => Sys2Proof.Machine.execCpy a b s
  | .cpys d a => Sys2Proof.Machine.execCpys d a s
  | .jwait a => Sys2Proof.Machine.execJwait a s
  | .jpoll d a => Sys2Proof.Machine.execJpoll d a s
  | .jcancel d a => Sys2Proof.Machine.execJcancel d a s
  | .eqinit a size lg => Sys2Proof.Machine.execEqinit a size lg s
  | .equnite d a b => Sys2Proof.Machine.execEqunite d a b s
  | .eqfind d a => Sys2Proof.Machine.execEqfind d a s
  | .eqsame d a b => Sys2Proof.Machine.execEqsame d a b s
  | .eqsize d a => Sys2Proof.Machine.execEqsize d a s
  | .eqsnap d => Sys2Proof.Machine.execEqsnap d s
  | .equndo d => Sys2Proof.Machine.execEqundo d s
  | .eqcommit d => Sys2Proof.Machine.execEqcommit d s
  | .eqrelabel a b dense red => Sys2Proof.Machine.execEqrelabel a b dense red s
  | .mcwait d a => Sys2Proof.Machine.execMcwait d a s
  | .flowend a => Sys2Proof.Machine.execFlowend a s
  | .rankc d a => Sys2Proof.Machine.execRankc d a s
  | .mcall n => Sys2Proof.Machine.execMcall n s
  | .mret => Sys2Proof.Machine.execMret s
  | .mext a => Sys2Proof.Machine.execMext a s
  | .pent a b => Sys2Proof.Machine.execPent a b s
  | .pentr d a => Sys2Proof.Machine.execPentr d a s
  | .keyslot a b => Sys2Proof.Machine.execKeyslot a b s
  | .ctxsv a => Sys2Proof.Machine.execCtxsv a s
  | .ctxld a => Sys2Proof.Machine.execCtxld a s
  | .scrub a b => Sys2Proof.Machine.execScrub a b s
  | .codeinst d a b => Sys2Proof.Machine.execCodeinst d a b s
  | .codeevict a => Sys2Proof.Machine.execCodeevict a s
  | .quar a => Sys2Proof.Machine.execQuar a s
  | .vifrz a => Sys2Proof.Machine.execVifrz a s
  | .stinv a b => Sys2Proof.Machine.execStinv a b s
  | .atreqAttestation a b => Sys2Proof.Machine.execAtreqAttestation a b s
  | .atreqAllocation a b => Sys2Proof.Machine.execAtreqAllocation a b s
  | .trmark a mark => Sys2Proof.Machine.execTrmark a mark s
  | .trctlFlush a => Sys2Proof.Machine.execTrctlFlush a s
  | .trctlPause a => Sys2Proof.Machine.execTrctlPause a s
  | .trctlResume a => Sys2Proof.Machine.execTrctlResume a s
  | .bkpt code => Sys2Proof.Machine.execBkpt code s
  | .unassignedOpcode w => Sys2Proof.Machine.execUnassignedOpcode w s
  | .sendGrant t => Sys2Proof.Machine.execSendGrant t s
  | .queueWaiterServed blk q => Sys2Proof.Machine.execQueueWaiterServed blk q s
  | .accessAnswer t seq => Sys2Proof.Machine.execAccessAnswer t seq s
  | .serviceOperation t seq => Sys2Proof.Machine.execServiceOperation t seq s
  | .routineAbandon o => Sys2Proof.Machine.execRoutineAbandon o s
  | .barrierBatch cl b => Sys2Proof.Machine.execBarrierBatch cl b s
  | .nak t seq p => Sys2Proof.Machine.execNak t seq p s
  | .call o p => Sys2Proof.Machine.execCall o p s
  | .ticketLapse o => Sys2Proof.Machine.execTicketLapse o s
  | .vectorGrant blk => Sys2Proof.Machine.execVectorGrant blk s
  | .sweepStart blk id => Sys2Proof.Machine.execSweepStart blk id s
  | .sweepComplete blk id => Sys2Proof.Machine.execSweepComplete blk id s
  | .matrixJobStart blk => Sys2Proof.Machine.execMatrixJobStart blk s
  | .matrixOperandsConsumed blk id => Sys2Proof.Machine.execMatrixOperandsConsumed blk id s
  | .matrixJobComplete blk id => Sys2Proof.Machine.execMatrixJobComplete blk id s
  | .gangBarrierFire blk => Sys2Proof.Machine.execGangBarrierFire blk s
  | .gangBreak blk => Sys2Proof.Machine.execGangBreak blk s
  | .drainRow blk id => Sys2Proof.Machine.execDrainRow blk id s
  | .copyJobStart blk id => Sys2Proof.Machine.execCopyJobStart blk id s
  | .copyJobComplete blk id => Sys2Proof.Machine.execCopyJobComplete blk id s
  | .cardOperandsConsumed blk id => Sys2Proof.Machine.execCardOperandsConsumed blk id s
  | .streamElement blk id => Sys2Proof.Machine.execStreamElement blk id s
  | .completionDelivery blk eng => Sys2Proof.Machine.execCompletionDelivery blk eng s
  | .eqEntryWrites blk => Sys2Proof.Machine.execEqEntryWrites blk s
  | .eqHop t => Sys2Proof.Machine.execEqHop t s
  | .eqLink t => Sys2Proof.Machine.execEqLink t s
  | .relabelJobStart blk id => Sys2Proof.Machine.execRelabelJobStart blk id s
  | .relabelJobComplete blk id => Sys2Proof.Machine.execRelabelJobComplete blk id s
  | .doubleFault code tval => Sys2Proof.Machine.execDoubleFault code tval s
  | .channelDelivery ix => Sys2Proof.Machine.execChannelDelivery ix s
  | .queueDelivery ix => Sys2Proof.Machine.execQueueDelivery ix s
  | .joinCellDelivery ix => Sys2Proof.Machine.execJoinCellDelivery ix s
  | .joinContinuationRecruit cl j => Sys2Proof.Machine.execJoinContinuationRecruit cl j s
  | .feWordDelivery ix => Sys2Proof.Machine.execFeWordDelivery ix s
  | .dispatch blk => Sys2Proof.Machine.execDispatch blk s
  | .sendDisplacement t => Sys2Proof.Machine.execSendDisplacement t s
  | .launchHeader cl => Sys2Proof.Machine.execLaunchHeader cl s
  | .launchEnumeration id => Sys2Proof.Machine.execLaunchEnumeration id s
  | .launchComplete id => Sys2Proof.Machine.execLaunchComplete id s
  | .launchReportResend id => Sys2Proof.Machine.execLaunchReportResend id s
  | .teamReplay t => Sys2Proof.Machine.execTeamReplay t s
  | .codeMiss t => Sys2Proof.Machine.execCodeMiss t s
  | .codeSourceTimeout cl h => Sys2Proof.Machine.execCodeSourceTimeout cl h s
  | .codeInstall cl h offer => Sys2Proof.Machine.execCodeInstall cl h offer s
  | .kilnInstallRetry cl => Sys2Proof.Machine.execKilnInstallRetry cl s
  | .kilnInstallTimeout cl => Sys2Proof.Machine.execKilnInstallTimeout cl s
  | .translationParkTimeout t seq => Sys2Proof.Machine.execTranslationParkTimeout t seq s
  | .releaseCountAdvance die => Sys2Proof.Machine.execReleaseCountAdvance die s
  | .stampedWriteApply ix => Sys2Proof.Machine.execStampedWriteApply ix s
  | .rd p => Sys2Proof.Machine.execRd p s
  | .wr p => Sys2Proof.Machine.execWr p s
  | .atm p => Sys2Proof.Machine.execAtm p s
  | .msg p => Sys2Proof.Machine.execMsg p s
  | .mcw p => Sys2Proof.Machine.execMcw p s
  | .rda p => Sys2Proof.Machine.execRda p s
  | .ack p => Sys2Proof.Machine.execAck p s
  | .tnak p => Sys2Proof.Machine.execTnak p s
  | .msga p => Sys2Proof.Machine.execMsga p s
  | .mcack port p => Sys2Proof.Machine.execMcack port p s
  | .mcackTimeout g => Sys2Proof.Machine.execMcackTimeout g s
  | .seqnak p => Sys2Proof.Machine.execSeqnak p s
  | .seqnakTimer src fseq => Sys2Proof.Machine.execSeqnakTimer src fseq s
  | .requestResendTimer fseq dst => Sys2Proof.Machine.execRequestResendTimer fseq dst s
  | .flowletTimeout core rank => Sys2Proof.Machine.execFlowletTimeout core rank s
  | .flitReplay port => Sys2Proof.Machine.execFlitReplay port s
  | .linkRetrain port lane => Sys2Proof.Machine.execLinkRetrain port lane s
  | .portDown port why => Sys2Proof.Machine.execPortDown port why s
  | .notice port p => Sys2Proof.Machine.execNotice port p s
  | .cfreq p => Sys2Proof.Machine.execCfreq p s
  | .cfdat p => Sys2Proof.Machine.execCfdat p s
  | .cfnone p => Sys2Proof.Machine.execCfnone p s
  | .mgw p => Sys2Proof.Machine.execMgw p s
  | .mgr p => Sys2Proof.Machine.execMgr p s
  | .keynextWrite k => Sys2Proof.Machine.execKeynextWrite k s
  | .rankMapBankFlip slot bank => Sys2Proof.Machine.execRankMapBankFlip slot bank s
  | .portEnWrite port en => Sys2Proof.Machine.execPortEnWrite port en s
  | .fgeomWrite w => Sys2Proof.Machine.execFgeomWrite w s
  | .pkaWrite slot w => Sys2Proof.Machine.execPkaWrite slot w s
  | .thermalTrip die temp => Sys2Proof.Machine.execThermalTrip die temp s
  | .thermalThrottle die temp => Sys2Proof.Machine.execThermalThrottle die temp s
  | .powerWindow watts => Sys2Proof.Machine.execPowerWindow watts s
  | .inputVoltageFault volts => Sys2Proof.Machine.execInputVoltageFault volts s
  | .memoryTraining chan => Sys2Proof.Machine.execMemoryTraining chan s
  | .clusterDrain cl monitor => Sys2Proof.Machine.execClusterDrain cl monitor s
  | .partFailure p => Sys2Proof.Machine.execPartFailure p s
  | .housekeepingRead y => Sys2Proof.Machine.execHousekeepingRead y s
  | .pwrlimWrite w => Sys2Proof.Machine.execPwrlimWrite w s
  | .viThaw vi => Sys2Proof.Machine.execViThaw vi s
  | .portHold port => Sys2Proof.Machine.execPortHold port s
  | .portRelease port => Sys2Proof.Machine.execPortRelease port s
  | .debugToken token => Sys2Proof.Machine.execDebugToken token s
  | .debugStop blks => Sys2Proof.Machine.execDebugStop blks s
  | .debugResume blks => Sys2Proof.Machine.execDebugResume blks s
  | .traceIdleRecord t => Sys2Proof.Machine.execTraceIdleRecord t s
  | .serviceOperationTimeout t seq => Sys2Proof.Machine.execServiceOperationTimeout t seq s
  | .linkTrained port => Sys2Proof.Machine.execLinkTrained port s
  | .serviceCoreFirmwareUpdate k fw => Sys2Proof.Machine.execServiceCoreFirmwareUpdate k fw s
  | .stationFirmwareUpdate k fw => Sys2Proof.Machine.execStationFirmwareUpdate k fw s
  | .mcallInstallRoutine => Sys2Proof.Machine.execMcallInstallRoutine s
  | .mcallFormGroup => Sys2Proof.Machine.execMcallFormGroup s
  | .mcallSetCodePeers => Sys2Proof.Machine.execMcallSetCodePeers s
  | .codeIntegrityFault => Sys2Proof.Machine.execCodeIntegrityFault s
  | .deadlineOverrun => Sys2Proof.Machine.execDeadlineOverrun s
  | .retireLimit => Sys2Proof.Machine.execRetireLimit s
  | .moduleReset => Sys2Proof.Machine.execModuleReset s
  | .resetCommand => Sys2Proof.Machine.execResetCommand s
  | .debugChallenge => Sys2Proof.Machine.execDebugChallenge s
  | .fallThroughPastInstance => Sys2Proof.Machine.execFallThroughPastInstance s

end Sys2Proof.Machine
end

