-- ==== Sys2Proof/Machine/Issue.lean ====
section
/-! DEFINITION. The issue of one instruction or pair by a thread: watchdogs, fetch, parity, line and pair
rules, the interlock, error marks (R34–R42, R68, R103, R120, R121, R178, R422), and the passing of time. -/

namespace Sys2Proof.Machine

/-! ## Lines and pairs (R35, R39, R40) -/

def xorBits {n : Nat} (x : BitVec n) : Bool := (List.range n).foldl (fun b i => Bool.xor b (x.getLsbD i)) false

/-- The parity of a line holds (R35). -/
def Line.parityOk (l : Line) : Bool :=
  ((List.range 5).all fun i =>
    let w := l.slots.getD i 0
    l.lw.getLsbD (16 + 2 * i) == xorBits (w.extractLsb' 48 48) && l.lw.getLsbD (17 + 2 * i) == xorBits (w.extractLsb' 0 48)) &&
  l.lw.getLsbD 31 == xorBits (l.lw.extractLsb' 0 31)

/-- PAIR bit of slot i: slots i and i + 1 issue together. -/
def Line.pair (l : Line) (i : Nat) : Bool := decide (i < 4) && l.lw.getLsbD (5 + i)

/-- The pairing kinds of R40. -/
inductive PairKind where
  | x | m | v | e | f | z
  deriving DecidableEq, Repr

def pairKind (w : InstrWord) : PairKind :=
  match (w.extractLsb' 92 4).toNat with
  | 0 | 1 => .x | 4 | 5 => .m | 6 => .v | 3 | 7 | 8 | 9 | 10 | 11 => .e | 2 => .f | _ => .z

/-- Opcodes whose D field names a g register that the instruction writes (R40, R50). -/
def writesGD (op : Nat) : Bool :=
  [(0x001, 0x02C), (0x030, 0x030), (0x040, 0x048), (0x050, 0x05A), (0x091, 0x091), (0x0C2, 0x0C2), (0x0C9, 0x0C9),
   (0x0CB, 0x0D0), (0x100, 0x100), (0x102, 0x102), (0x108, 0x108), (0x140, 0x142), (0x14A, 0x14A), (0x197, 0x197),
   (0x199, 0x199), (0x206, 0x206), (0x243, 0x244), (0x281, 0x284), (0x286, 0x288), (0x2C0, 0x2C0), (0x2C2, 0x2C2),
   (0x303, 0x303), (0x309, 0x309)].any fun p => decide (p.1 ≤ op ∧ op ≤ p.2)

/-- A SETC that names FSTAT, beside a scalar FP32 instruction (R89). -/
def fstatClash (a b : InstrWord) : Bool :=
  let op : InstrWord → Nat := fun w => (w.extractLsb' 86 10).toNat
  op a == 0x0D1 && (a.extractLsb' 0 48).toNat == 8 && decide (0x050 ≤ op b ∧ op b ≤ 0x05A)

/-- Two words may issue as a pair (R40, R89). -/
def pairLegal (a b : InstrWord) : Bool :=
  let ka := pairKind a
  let kb := pairKind b
  let d : InstrWord → Nat := fun w => (w.extractLsb' 81 5).toNat
  let op : InstrWord → Nat := fun w => (w.extractLsb' 86 10).toNat
  ka != .z && kb != .z && (ka == .x || kb == .x) && ka != .f && !fstatClash a b && !fstatClash b a &&
  !(writesGD (op a) && writesGD (op b) && d a == d b && d a != 0)

/-- The line raises the illegal-line fault (R39). -/
def Line.illegal (l : Line) : Bool :=
  l.lw.extractLsb' 26 5 != 0 || l.lw.extractLsb' 9 7 != 0 ||
  (List.range 4).any fun i =>
    l.pair i && (l.pair (i + 1) || l.lw.getLsbD (i + 1) || !pairLegal (l.slots.getD i 0) (l.slots.getD (i + 1) 0))

/-! ## One instruction -/

/-- The row of an instruction that shares its word with others: TRCTL by gA[1:0] (R419), ATREQ by the KIND
byte of its request (R411). -/
def State.select (s : State) (i : Instr) : Instr :=
  match i with
  | .trctlFlush a =>
    match (s.g a).toNat % 4 with | 1 => .trctlPause a | 2 => .trctlResume a | _ => .trctlFlush a
  | .atreqAttestation a b =>
    match flatAddr s.cur .s (s.g a) 1 with
    | some pa => if s.mem.byte pa = 2 then .atreqAllocation a b else .atreqAttestation a b
    | none => .atreqAttestation a b
  | i => i

/-- YIELD and END always retire (R120). A RET with g31 = 0 ends the activation as END does, and is not one of the two
instructions that the rule names (log 82). -/
def endsInterval : Instr → Bool | .yield _ _ _ | .endAct => true | _ => false
/-- What n instructions, of which i is the last, add to the count that a limit bounds: R120 leaves YIELD and END out of
RETIRE, and nothing leaves them out of the monitor's or a routine's count (R392, R213). -/
def State.counted (s : State) (i : Instr) (n : Nat) : Nat :=
  if endsInterval i && isAct s.cur && s.me.mode == .context then n - 1 else n

/-- Retiring n more instructions would pass a limit: RETIRE (R120), WDCFG (R392) or the routine's (R213). -/
def State.limitHit (s : State) (n : Nat) : Option (State → Out State) :=
  let x := s.me
  if !isAct s.cur then
    match x.serve with
    | some v => if 256 < v.retired + n then some (exec (.routineAbandon (ownerOf s.cur))) else none
    | none => none
  else if x.mode = .monitor then
    let lim := if x.wdcfg = 0 then 65536 else x.wdcfg.toNat
    if lim < x.mretire + n then some fun s =>
      let r := s.takeFree
      let q := r.2.takeFree
      exec (.doubleFault (r.1.setWidth 8) q.1) q.2
    else none
  else if 4096 < x.act.retire + n then some (exec .retireLimit) else none

/-- An instruction waits for a register, and so does not issue yet (R68). -/
def State.heldBack (s : State) (is : List Instr) : Bool := is.any s.me.interlocked

/-- What stands before an instruction's own effect: the interlock (R68), bad parity (R70), error marks (R178), limits.
R42 places none of these against its steps: they come before what the instruction itself raises (log 82). -/
def State.before (s : State) (is : List Instr) (n : Nat) : Option (Out State) :=
  let x := s.me
  if s.heldBack is then some (.next (s.stall .access))
  else if is.any x.readsBad then some (raiseOpen 0x16 (s.modMe fun x => { x with latchBad := false }))
  else if is.any x.readsMarked && x.act.deferred.isSome then
    x.act.deferred.map fun tr => .next (s.takeDeferred tr)
  else if n = 0 then none
  else (s.limitHit n).map fun f => f s

/-- Notes the issue from an instance, for evictions (R109). -/
def State.issued (s : State) (t : Nat) (h : BitVec 32) : State :=
  if isAct t then s.modCluster (clusterOf t) fun c =>
    { c.modEntry h fun e => { e with last := c.issues + 1 } with issues := c.issues + 1 } else s

/-- Where a trap stands in R42's order of defects, from its step 3 on: a lower number is raised first. -/
def defectRank (tr : Trap) : Nat :=
  if tr.code = 0x01 ∧ !tr.own then 0 else if tr.code = 0x06 then 1 else if tr.code = 0x15 then 2 else 3

/-- Issues one instruction. s0 is the state before the issue was noted (R109): what the interlock holds back has not issued. -/
def State.issueOne (s0 s : State) (w : InstrWord) : Out State :=
  match decode w with
  | .error _ => raise 0x01 (w.extractLsb' 32 64) s
  | .ok i0 =>
    let i := s.select i0
    match s.before [i] (s.counted i 1) with
    | some o => if s.heldBack [i] then .next (s0.stall .access) else o
    | none => exec i s

/-- The state a pair's members read (R38). -/
def Thread.snapshot (x : Thread) : View :=
  { pc := x.act.pc, g := x.act.g, mg := x.mg, v := x.act.v, gErr := x.act.gErr, vErr := x.act.vErr
    drm := x.act.drm, flags := x.act.flags }

/-- The running thread stalls with its pair. -/
def State.stallPair (s : State) (pc : Word) : State :=
  s.modMe fun x => { x with act := { x.act with pc }, view := none, paired := true }

def State.stalledNow (s : State) : Bool :=
  s.trap.isNone && (match s.me.status with | .stalled _ => true | _ => false)

/-- The one of two members' traps that R42 raises first; the first member's where they stand equal. -/
def firstTrap (sa sb : State) : Option (Nat × State) :=
  match sa.trap, sb.trap with
  | some ta, some tb => some (if defectRank tb < defectRank ta then (defectRank tb, sb) else (defectRank ta, sa))
  | some ta, none => some (defectRank ta, sa)
  | none, some tb => some (defectRank tb, sb)
  | none, none => none

/-- Issues a pair: both members read before either writes, and where one raises a fault or stalls, neither has acted
(R38). Where the second member's word decodes to nothing and the first member raises 0x01 too, the first member's is taken
(log 11). loopEnd: its first member is the last slot of an active loop's body, and the pair raises the loop fault (R103);
that stands among the members' own faults, before them. s0 is the state before the issue was noted. -/
def State.issuePair (s0 s : State) (wa wb : InstrWord) (loopEnd : Bool) : Out State :=
  match decode wa, decode wb with
  | .error _, _ => raise 0x01 (wa.extractLsb' 32 64) s
  | .ok a, .error _ =>
    match exec (s.select a) s with
    | .next sa => match sa.trap with
      | some tr => if defectRank tr = 0 then .next sa else raise 0x01 (wb.extractLsb' 32 64) s
      | none => raise 0x01 (wb.extractLsb' 32 64) s
    | _ => raise 0x01 (wb.extractLsb' 32 64) s
  | .ok a, .ok b =>
    let ua := usesOf a
    let ub := usesOf b
    if s.haz && ((ub.gr.any fun r => r != 0 && ua.gw.contains r) || ub.vr.any fun r => ua.vw.contains r) then raiseOpen 0x17 s
    else
      match s.before [a, b] (s.counted b 2) with
      | some o => if s.heldBack [a, b] then .next (s0.stall .access) else o
      | none =>
        let x := s.me
        let pc := x.act.pc
        let atB : State := s.modMe fun x => { x with view := some x.snapshot, act := { x.act with pc := codeAddr (handleOf pc) (linearOf pc + 1) } }
        match exec a s, exec b atB with
        | .next sa, .next sb =>
          match firstTrap sa sb with
          | some (k, st) => if loopEnd && decide (2 < k) then raise 0x0D 4 s else .next st
          | none =>
            if loopEnd then raise 0x0D 4 s
            else if sa.stalledNow then .next (sa.stallPair pc)
            else if sb.stalledNow then .next (sb.stallPair pc)
            else match exec b (sa.modMe fun y => { y with view := some x.snapshot }) with
              | .next s2 => .next (s2.modMe fun y => { y with view := none })
              | o => o
        | .next _, o => o
        | o, _ => o

/-! ## The issue of a thread -/

/-- The stalls that end by trying the instruction again. -/
def Wait.retries : Wait → Bool
  | .stream _ | .join _ | .engine | .access | .eqResult | .inbox | .barrier _ => true
  | .codeMiss _ _ | .send | .queue _ _ | .vector | .replay => false

/-- The deadline counter stands still during code-miss stalls, and during no others (R117, R121). -/
def Wait.pausesDeadline : Wait → Bool
  | .codeMiss _ _ => true
  | _ => false

def Status.pausesDeadline : Status → Bool
  | .idle => true
  | .running => false
  | .stalled w => w.pausesDeadline

/-- The deadline of the running thread has run out (R121). -/
def State.overrun (s : State) : Bool :=
  isAct s.cur && s.me.mode == .context && s.me.act.dline == 0 && !s.me.status.pausesDeadline

/-- The running thread issues from its pc. A target that is no branch target (0x03) is found before the line's code
integrity and legality are looked at (log 82). A thread that stands at the second slot of a pair, as MRET may leave it,
issues that slot alone (log 11). -/
def State.issueAt (s : State) : Out State :=
  let t := s.cur
  let pc := s.me.act.pc
  let h := handleOf pc
  let lin := linearOf pc
  match (if isAct t && s.me.mode == .context then s.me.act.due else none), s.me.act.deferred with
  | some epc, some tr => .next ((s.modMyAct fun a => { a with due := none }).takeDeferred { tr with epc := some epc })
  | _, _ =>
  if s.me.act.refetch && isAct t && s.me.mode == .context then
    .next ((s.modMyAct fun a => { a with refetch := false }).miss t h 3)
  else if s.me.act.enter != 0 && (!addrOk pc || (s.entry? (clusterOf t) s.me.act.pid (s.me.mode == .monitor) h).isNone) then
    raise 0x03 pc (s.modMyAct fun a => { a with enter := 0 })
  else match s.instOf t h with
  | none => .next (match s.me.serve with
    | some v => if isAct t then s.miss t h s.me.act.enter else s.missRoutine t v.pid (h.setWidth 6) 0
    | none => if isAct t then s.miss t h s.me.act.enter else s)
  | some inst =>
    if inst.slots ≤ lin then exec .fallThroughPastInstance s
    else if s.me.act.enter != 0 && !inst.tgt lin then
      raise 0x03 pc (s.modMyAct fun a => { a with enter := 0 })
    else
      let s0 := s.modMyAct fun a => { a with enter := 0 }
      let s := s0.issued t h
      match inst.line (lin / 5) with
      | none => .next s
      | some l =>
        if !l.parityOk then exec .codeIntegrityFault s
        else if l.illegal then raise 0x02 (l.lw.setWidth 64) s
        else
          let k := lin % 5
          if l.pair k then
            s0.issuePair s (l.slots.getD k 0) (l.slots.getD (k + 1) 0) ((frameOf s.me.loops).any fun e => e.handle == h && e.last == lin)
          else s0.issueOne s (l.slots.getD k 0)

/-- A transfer that has completed, or raised a fault, needs no more what it kept. -/
def Thread.transferred (x : Thread) : Thread :=
  match x.status with
  | .stalled (.codeMiss _ _) => x
  | _ => { x with transfer := none }
/-- What the issue of thread t leaves behind: what a transfer kept, the age of the next instruction (R22), and the turn
that its core's service operations owed it, unless it stalled (R201). -/
def State.transferred (s : State) (t : Nat) : State :=
  let s1 := s.modTh t fun x => { x.transferred.atHead s.cycle with late := false }
  let stalls := match (s.th t).status with | .stalled _ => true | _ => false
  if isAct t && (s.owner (coreOf t)).turn && !stalls then s1.modOwner (coreOf t) fun o => { o with turn := false } else s1
def afterIssue (t : Nat) : Out State → Out State
  | .next s => .next (s.transferred t)
  | o => o

/-- Thread t issues, if it can. -/
def State.issue (s : State) (t : Nat) : Out State :=
  let s := { s with cur := t, trap := none }
  if s.sys.stage ≠ 8 ∨ s.sys.voltageBad then .next s
  else if s.overrun then exec .deadlineOverrun s
  else match s.me.status with
    | .idle => .next s
    | .running => afterIssue t s.issueAt
    | .stalled w => if w.retries then afterIssue t (s.modMe fun x => { x with status := .running, paired := false }).issueAt
      else .next s

/-! ## Time (R120, R121, R161) -/

/-- n cycles pass, or as many of them as there are until a trace unit's record of an unchanged state is due (R415): CYCLE counts,
deadlines run down, and stalled sends grow older. -/
def State.tick (s : State) (n : Nat) : State :=
  let n := s.threads.foldl (fun n (e : Nat × Thread) => if isAct e.1 then min n ((e.2.traceRoom s.cycle).getD n) else n) n
  { s with
    cycle := s.cycle + BitVec.ofNat 64 n
    threads := List.map (fun e : Nat × Thread =>
      let x := e.2
      let y := if isAct e.1 && x.mode == .context && !x.status.pausesDeadline then
          { x with act := { x.act with dline := BitVec.ofNat 32 (x.act.dline.toNat - n) } } else x
      (e.1, if x.status = .stalled .send then { y with sendWait := y.sendWait + n } else y)) s.threads }

/-- The rows that happen by themselves, when their unit acts; the others happen as a thread issues. -/
def isEvent (i : Instr) : Bool :=
  match i with
  | .unassignedOpcode _ | .doubleFault _ _ | .routineAbandon _ | .codeIntegrityFault | .deadlineOverrun | .retireLimit
  | .fallThroughPastInstance => false
  | i => !i.hasWord

/-- The trace units record what a move changed (R415). -/
def traced : Out State → Out State
  | .next s => .next s.traceChanges
  | o => o

/-- Thread t moves. -/
def State.moveThread (s : State) (t : Nat) : Out State :=
  if isThread t then traced (s.issue t) else .fault .noThread

/-- The event can happen while the package is held in reset (R426). -/
def inReset : Instr → Bool | .inputVoltageFault _ => true | _ => false
/-- The event can happen before bring-up has ended: it is the management controller's, or the package's (R423, R426–R428). -/
def inBringUp : Instr → Bool
  | .moduleReset | .resetCommand | .thermalTrip _ _ | .thermalThrottle _ _ | .powerWindow _ | .inputVoltageFault _ | .housekeepingRead _
  | .pwrlimWrite _ | .portHold _ | .portRelease _ | .debugChallenge | .debugToken _ | .memoryTraining _ | .partFailure _ => true
  | _ => false

/-- An event happens. -/
def State.moveEvent (s : State) (e : Instr) : Out State :=
  if isEvent e && (!s.sys.voltageBad || inReset e) && (s.sys.stage == 8 || inBringUp e) then traced (exec e { s with trap := none }) else .next s

/-! ## Placing one instruction (log 10) -/

/-- The line word of a line of five words with the given TGT bits and no pairs (R35). -/
def lineWord (slots : List InstrWord) (tgt : Nat) : BitVec 32 :=
  let par := bitsOf (fun i =>
    let w := slots.getD (i / 2) 0
    if i % 2 = 0 then xorBits (w.extractLsb' 48 48) else xorBits (w.extractLsb' 0 48)) 10
  let lw : BitVec 32 := BitVec.ofNat 32 (tgt + par * 65536)
  lw ||| (if xorBits (lw.extractLsb' 0 31) then 0x80000000 else 0)

/-- A line that holds one word in slot 0, a branch target, and NOPs after it. -/
def lineFor (w : InstrWord) : Line :=
  let slots := [w, encode .nop, encode .nop, encode .nop, encode .nop]
  { slots, lw := lineWord slots 1 }

/-- The state with a function of that one line in the kiln of cluster 0 under handle 0x100, bring-up ended, and thread 0
running at its first slot in context mode. -/
def State.placeWord (s : State) (w : InstrWord) : State :=
  let c := s.cluster 0
  let e : DirEntry := { pid := 0, digest := 0, handle := 0x100, inst := some { lines := [lineFor w] } }
  let others := c.dir.filter fun x : DirEntry => x.handle != 0x100
  let s1 := s.setCluster 0 { c with dir := e :: others }
  let x := s1.th 0
  let a : Act := { x.act with pc := codeAddr 0x100 0, enter := 0, dline := 0xFFFF00, retire := 0, loops := [], due := none, refetch := false }
  let s2 := s1.setTh 0 { x with mode := .context, status := .running, view := none, act := a }
  { s2 with cur := 0, agenda := [], trap := none, sys := { s2.sys with stage := 8, voltageBad := false } }

end Sys2Proof.Machine
end

