-- ==== Sys2Proof/Machine/Soft.lean ====
section
/-! DEFINITION. Upsets, and the other inputs that choose among what the spec allows: parity of registers and latches (R70,
R263), soft errors of engines (R290, R309, R329, R356), errors that ECC corrects or reports (R182), accesses that are
performed later than they issue (R231), and the monitor's map of channels (R135). -/

namespace Sys2Proof.Machine

/-- ECCCNT counts a corrected error of a bank or of device memory, saturating (R182, R428). -/
def State.countEcc (s : State) (w : Nat) : State :=
  let n := s.sys.eccCount
  let lo := n.toNat % 2 ^ 32
  let hi := n.toNat / 2 ^ 32
  let x := if isBank (8 * w) then hi * 2 ^ 32 + min (2 ^ 32 - 1) (lo + 1) else min (2 ^ 32 - 1) (hi + 1) * 2 ^ 32 + lo
  { s with sys := { s.sys with eccCount := BitVec.ofNat 64 x } }

/-- A member of a job's team, for the replay that its soft error brings: its issuer where that has a thread. -/
def State.replayedBy (s : State) (j : Job) : Option Nat :=
  let mine := List.filter (fun e : Nat × Thread => s.teamOf e.2.act == s.teamOf j.team) s.actives
  ((mine.find? fun e => e.2.act.id == j.issuer).orElse fun _ => mine.head?).map Prod.fst

/-- A soft error of an engine fails the job that it runs: a sweep of a replayable team is replayed with the team (R290), a
matrix job leaves its tile (R309), and a card job says so in its completion (R329, R356). -/
def State.jobUpset (s : State) (blk id : Nat) : State :=
  match s.job? blk id with
  | none => s
  | some j =>
    if j.phase ≠ .started ∧ j.phase ≠ .consumed then s
    else if j.op.isMatrix then (s.haltJob blk j).matrixFailed blk j j.op.tile 0x16 0 0
    else match (if j.eng = .vector ∧ s.replayable j.team then s.replayedBy j else none) with
      | some t => ((s.haltJob blk j).dropJob blk id).loseThread t
      | none => (s.haltJob blk j).finishJob blk j 0x16 0

/-- An upset happens. -/
def State.upset (s : State) : Upset → State
  | .greg t r =>
    if r = 0 ∨ !isThread t then s else s.modTh t fun x =>
      if x.mode = .monitor then { x with mgBad := x.mgBad ||| (1#32 <<< r.toNat) }
      else { x with act := { x.act with gBad := x.act.gBad ||| (1#32 <<< r.toNat) } }
  | .vreg t r => if !isThread t then s else s.modAct t fun a => { a with vBad := a.vBad ||| (1#16 <<< r.toNat) }
  | .latch t => if !isThread t then s else s.modTh t fun x => { x with latchBad := true }
  | .root => s.moduleReset 4
  | .unit blk => s.modBlock blk fun b => { b with unitBad := true }
  | .job blk id => s.jobUpset blk id
  | .corrected w => s.countEcc w
  | .word w => s.modMem fun m => m.setBad w true
  | .tail port => s.stomp port

/-- The next engine's event makes n accesses. -/
def State.setPace (s : State) (n : Nat) : State := { s with pace := some n }
/-- Thread t's next access to its block's banks, or its next EQINIT, acts later than it issues. -/
def State.setLate (s : State) (t : Nat) : State := if isThread t then s.modTh t fun x => { x with late := true } else s

end Sys2Proof.Machine
end

