-- ==== Sys2Proof/Machine/Step.lean ====
section
/-! DEFINITION. One step of the machine: what the agenda says moves next, moves (log 1). -/

namespace Sys2Proof.Machine

/-- The step. With an empty agenda thread cur issues. -/
def step (s : State) : Host.Outcome State Fault Refusal :=
  match s.agenda with
  | [] => s.moveThread s.cur
  | .thread t :: rest => { s with agenda := rest }.moveThread t
  | .event e :: rest => { s with agenda := rest }.moveEvent e
  | .host vi pid seq dest reply payload :: rest => traced (.next ({ s with agenda := rest }.hostMessage vi pid seq dest reply payload))
  | .tick n :: rest => traced (.next ({ s with agenda := rest }.tick n))
  | .upset u :: rest => traced (.next ({ s with agenda := rest }.upset u))
  | .late t :: rest => .next ({ s with agenda := rest }.setLate t)
  | .pace n :: rest => .next ({ s with agenda := rest }.setPace n)
  | .depart port n :: rest => traced (.next ({ s with agenda := rest }.depart port n))
  | .chip c up :: rest => traced (.next ({ s with agenda := rest }.chipDown c up))
  | .group g e :: rest => traced (.next ({ s with agenda := rest }.putGroup g e))
  | .bringUp ok d :: rest => traced (.next ({ s with agenda := rest }.bringUp ok d))
  | .retireFrame a :: rest => traced (.next ({ s with agenda := rest }.retireFrame a))
  | .mapChannel blk pid c d :: rest => traced (.next ({ s with agenda := rest }.mapChannel blk pid c d))

/-- The state with an instruction placed where the next step fetches (log 10). -/
def State.withFetchWord (s : State) (_nbits w : Nat) : State := s.placeWord (BitVec.ofNat 96 w)

end Sys2Proof.Machine
end

