-- ==== Sys2Proof/Laws/Encoding.lean ====
section
/-! SUPPORT. The laws of the encodings: a word of format G or W gives its fields back, and so do the mem, num, scope and
ORD layouts of MOD. -/

namespace Sys2Proof.Decode

variable (op : BitVec 10) (d a b c : BitVec 5) (mod : BitVec 16) (imm : BitVec 48)

@[simp] theorem opOf_encG : opOf (encG op d a b c mod imm) = op := by
  apply BitVec.eq_of_getLsbD_eq
  intro i hi
  simp only [opOf, encG, BitVec.getLsbD_extractLsb', BitVec.getLsbD_append, hi, decide_true, Bool.true_and]
  repeat rw [if_neg (by omega)]
  congr 1; omega

@[simp] theorem reserved_encG : (encG op d a b c mod imm).extractLsb' 48 2 = 0 := by
  apply BitVec.eq_of_getLsbD_eq
  intro i hi
  simp only [encG, BitVec.getLsbD_extractLsb', BitVec.getLsbD_append, hi, decide_true, Bool.true_and]
  rw [if_neg (by omega), if_pos (by omega)]
  simp

@[simp] theorem fieldsOf_encG :
    fieldsOf (encG op d a b c mod imm) = ⟨d, a, b, c, mod, imm, encG op d a b c mod imm⟩ := by
  unfold fieldsOf
  congr 1
  all_goals
    apply BitVec.eq_of_getLsbD_eq
    intro i hi
    simp only [encG, BitVec.getLsbD_extractLsb', BitVec.getLsbD_append, hi, decide_true, Bool.true_and]
    repeat (first | rw [if_pos (by omega)] | rw [if_neg (by omega)])
    congr 1; omega

@[simp] theorem opOf_encW (x : Word) : opOf (encW op d x) = op := by
  apply BitVec.eq_of_getLsbD_eq
  intro i hi
  simp only [opOf, encW, BitVec.getLsbD_extractLsb', BitVec.getLsbD_append, hi, decide_true, Bool.true_and]
  repeat rw [if_neg (by omega)]
  congr 1; omega

theorem fields_encW (x : Word) :
    (encW op d x).extractLsb' 81 5 = d ∧ (encW op d x).extractLsb' 64 17 = 0 ∧ (encW op d x).extractLsb' 0 64 = x := by
  refine ⟨?_, ?_, ?_⟩
  all_goals
    apply BitVec.eq_of_getLsbD_eq
    intro i hi
    simp only [encW, BitVec.getLsbD_extractLsb', BitVec.getLsbD_append, hi, decide_true, Bool.true_and]
    repeat (first | rw [if_pos (by omega)] | rw [if_neg (by omega)])
    congr 1; omega

/-! ## The layouts of MOD -/

@[simp] theorem spaceOf_spaceCode (x : Space) : spaceOf (spaceCode x) = some x := by cases x <;> rfl
@[simp] theorem syncOf_syncCode (x : Sync) : syncOf (syncCode x) = some x := by cases x <;> rfl
@[simp] theorem sizeOf_sizeCode (x : Size) : sizeOf (sizeCode x) = some x := by cases x <;> rfl
@[simp] theorem scopeOf_scopeCode (x : Scope) : scopeOf (scopeCode x) = some x := by cases x <;> rfl
@[simp] theorem rmOf_rmCode (x : Rm) : rmOf (rmCode x) = some x := by cases x <;> rfl

/-- Reading the mem layout gives back what was written. -/
@[simp] theorem memOf_memMod (m : MemF) : memOf (memMod m) = some m := by
  obtain ⟨sp, sy, sz, sx, ord, sc⟩ := m
  have h1 : (memMod ⟨sp, sy, sz, sx, ord, sc⟩).extractLsb' 12 4 = spaceCode sp := by
    apply BitVec.eq_of_getLsbD_eq
    intro i hi
    simp only [memMod, BitVec.getLsbD_extractLsb', BitVec.getLsbD_append, hi, decide_true, Bool.true_and]
    repeat (first | rw [if_pos (by omega)] | rw [if_neg (by omega)])
    congr 1; omega
  have h2 : (memMod ⟨sp, sy, sz, sx, ord, sc⟩).extractLsb' 9 3 = syncCode sy := by
    apply BitVec.eq_of_getLsbD_eq
    intro i hi
    simp only [memMod, BitVec.getLsbD_extractLsb', BitVec.getLsbD_append, hi, decide_true, Bool.true_and]
    repeat (first | rw [if_pos (by omega)] | rw [if_neg (by omega)])
    congr 1; omega
  have h3 : (memMod ⟨sp, sy, sz, sx, ord, sc⟩).extractLsb' 6 3 = sizeCode sz := by
    apply BitVec.eq_of_getLsbD_eq
    intro i hi
    simp only [memMod, BitVec.getLsbD_extractLsb', BitVec.getLsbD_append, hi, decide_true, Bool.true_and]
    repeat (first | rw [if_pos (by omega)] | rw [if_neg (by omega)])
    congr 1; omega
  have h4 : (memMod ⟨sp, sy, sz, sx, ord, sc⟩).extractLsb' 1 3 = scopeCode sc := by
    apply BitVec.eq_of_getLsbD_eq
    intro i hi
    simp only [memMod, BitVec.getLsbD_extractLsb', BitVec.getLsbD_append, hi, decide_true, Bool.true_and]
    repeat (first | rw [if_pos (by omega)] | rw [if_neg (by omega)])
    congr 1; omega
  have h5 : (memMod ⟨sp, sy, sz, sx, ord, sc⟩).getLsbD 5 = sx := by
    simp only [memMod, BitVec.getLsbD_append]
    repeat (first | rw [if_pos (by omega)] | rw [if_neg (by omega)])
    cases sx <;> rfl
  have h6 : (memMod ⟨sp, sy, sz, sx, ord, sc⟩).getLsbD 4 = ord := by
    simp only [memMod, BitVec.getLsbD_append]
    repeat (first | rw [if_pos (by omega)] | rw [if_neg (by omega)])
    cases ord <;> rfl
  have h7 : (memMod ⟨sp, sy, sz, sx, ord, sc⟩).getLsbD 0 = false := by
    simp only [memMod, BitVec.getLsbD_append]
    repeat (first | rw [if_pos (by omega)] | rw [if_neg (by omega)])
    rfl
  unfold memOf
  rw [h1, h2, h3, h4, h5, h6, h7, spaceOf_spaceCode, syncOf_syncCode, sizeOf_sizeCode, scopeOf_scopeCode]
  rfl

/-- Reading the num layout gives back what was written. -/
@[simp] theorem numOf_numMod (n : Num) : numOf (numMod n) = some n := by
  obtain ⟨fmt, rm, ovf, fmt2, opx⟩ := n
  have h1 : (numMod ⟨fmt, rm, ovf, fmt2, opx⟩).extractLsb' 8 3 = rmCode rm := by
    apply BitVec.eq_of_getLsbD_eq
    intro i hi
    simp only [numMod, BitVec.getLsbD_extractLsb', BitVec.getLsbD_append, hi, decide_true, Bool.true_and]
    repeat (first | rw [if_pos (by omega)] | rw [if_neg (by omega)])
    congr 1; omega
  have h2 : (numMod ⟨fmt, rm, ovf, fmt2, opx⟩).extractLsb' 11 5 = fmt := by
    apply BitVec.eq_of_getLsbD_eq
    intro i hi
    simp only [numMod, BitVec.getLsbD_extractLsb', BitVec.getLsbD_append, hi, decide_true, Bool.true_and]
    repeat (first | rw [if_pos (by omega)] | rw [if_neg (by omega)])
    congr 1; omega
  have h3 : (numMod ⟨fmt, rm, ovf, fmt2, opx⟩).extractLsb' 2 5 = fmt2 := by
    apply BitVec.eq_of_getLsbD_eq
    intro i hi
    simp only [numMod, BitVec.getLsbD_extractLsb', BitVec.getLsbD_append, hi, decide_true, Bool.true_and]
    repeat (first | rw [if_pos (by omega)] | rw [if_neg (by omega)])
    congr 1; omega
  have h4 : (numMod ⟨fmt, rm, ovf, fmt2, opx⟩).extractLsb' 0 2 = opx := by
    apply BitVec.eq_of_getLsbD_eq
    intro i hi
    simp only [numMod, BitVec.getLsbD_extractLsb', BitVec.getLsbD_append, hi, decide_true, Bool.true_and]
    rw [if_pos (by omega)]
    congr 1; omega
  have h5 : (numMod ⟨fmt, rm, ovf, fmt2, opx⟩).getLsbD 7 = ovf := by
    simp only [numMod, BitVec.getLsbD_append]
    repeat (first | rw [if_pos (by omega)] | rw [if_neg (by omega)])
    cases ovf <;> rfl
  unfold numOf
  rw [h1, rmOf_rmCode, h2, h3, h4, h5]

theorem ordBit_ordMod (o : Bool) : ordBit (ordMod o) = o := by cases o <;> rfl

end Sys2Proof.Decode
end

