-- ==== Sys2Proof/Laws/PerInstr.lean ====
section
/-! SUPPORT. Statements about every instruction, one lemma for each constructor. ReservedBits: bits [49:48] are zero in
every word of format G that the encoder writes (R43); LI has format W, and an unassigned word is as it came. -/

namespace Sys2Proof.Laws.ReservedBits

open Sys2Proof Sys2Proof.Decode

/-- The reserved bits of the word of an instruction are zero (R43). -/
def Statement : Instr → Prop
  | .li _ _ | .unassignedOpcode _ => True
  | i => (encode i).extractLsb' 48 2 = 0

theorem zeroWord : (0 : InstrWord).extractLsb' 48 2 = 0 := by decide

theorem add (d a b : GReg) : Statement (.add d a b) := reserved_encG _ _ _ _ _ _ _
theorem sub (d a b : GReg) : Statement (.sub d a b) := reserved_encG _ _ _ _ _ _ _
theorem and (d a b : GReg) : Statement (.and d a b) := reserved_encG _ _ _ _ _ _ _
theorem or (d a b : GReg) : Statement (.or d a b) := reserved_encG _ _ _ _ _ _ _
theorem xor (d a b : GReg) : Statement (.xor d a b) := reserved_encG _ _ _ _ _ _ _
theorem andn (d a b : GReg) : Statement (.andn d a b) := reserved_encG _ _ _ _ _ _ _
theorem shl (d a b : GReg) : Statement (.shl d a b) := reserved_encG _ _ _ _ _ _ _
theorem shr (d a b : GReg) : Statement (.shr d a b) := reserved_encG _ _ _ _ _ _ _
theorem sra (d a b : GReg) : Statement (.sra d a b) := reserved_encG _ _ _ _ _ _ _
theorem rol (d a b : GReg) : Statement (.rol d a b) := reserved_encG _ _ _ _ _ _ _
theorem ror (d a b : GReg) : Statement (.ror d a b) := reserved_encG _ _ _ _ _ _ _
theorem min (d a b : GReg) : Statement (.min d a b) := reserved_encG _ _ _ _ _ _ _
theorem max (d a b : GReg) : Statement (.max d a b) := reserved_encG _ _ _ _ _ _ _
theorem minu (d a b : GReg) : Statement (.minu d a b) := reserved_encG _ _ _ _ _ _ _
theorem maxu (d a b : GReg) : Statement (.maxu d a b) := reserved_encG _ _ _ _ _ _ _
theorem seq (d a b : GReg) : Statement (.seq d a b) := reserved_encG _ _ _ _ _ _ _
theorem sne (d a b : GReg) : Statement (.sne d a b) := reserved_encG _ _ _ _ _ _ _
theorem slt (d a b : GReg) : Statement (.slt d a b) := reserved_encG _ _ _ _ _ _ _
theorem sltu (d a b : GReg) : Statement (.sltu d a b) := reserved_encG _ _ _ _ _ _ _
theorem addi (d a : GReg) (imm : BitVec 48) : Statement (.addi d a imm) := reserved_encG _ _ _ _ _ _ _
theorem andi (d a : GReg) (imm : BitVec 48) : Statement (.andi d a imm) := reserved_encG _ _ _ _ _ _ _
theorem ori (d a : GReg) (imm : BitVec 48) : Statement (.ori d a imm) := reserved_encG _ _ _ _ _ _ _
theorem xori (d a : GReg) (imm : BitVec 48) : Statement (.xori d a imm) := reserved_encG _ _ _ _ _ _ _
theorem slti (d a : GReg) (imm : BitVec 48) : Statement (.slti d a imm) := reserved_encG _ _ _ _ _ _ _
theorem shli (d a : GReg) (n : BitVec 6) : Statement (.shli d a n) := reserved_encG _ _ _ _ _ _ _
theorem shri (d a : GReg) (n : BitVec 6) : Statement (.shri d a n) := reserved_encG _ _ _ _ _ _ _
theorem srai (d a : GReg) (n : BitVec 6) : Statement (.srai d a n) := reserved_encG _ _ _ _ _ _ _
theorem mul (d a b : GReg) : Statement (.mul d a b) := reserved_encG _ _ _ _ _ _ _
theorem mulh (d a b : GReg) : Statement (.mulh d a b) := reserved_encG _ _ _ _ _ _ _
theorem mulhu (d a b : GReg) : Statement (.mulhu d a b) := reserved_encG _ _ _ _ _ _ _
theorem div (d a b : GReg) : Statement (.div d a b) := reserved_encG _ _ _ _ _ _ _
theorem divu (d a b : GReg) : Statement (.divu d a b) := reserved_encG _ _ _ _ _ _ _
theorem rem (d a b : GReg) : Statement (.rem d a b) := reserved_encG _ _ _ _ _ _ _
theorem remu (d a b : GReg) : Statement (.remu d a b) := reserved_encG _ _ _ _ _ _ _
theorem sel (d a b c : GReg) : Statement (.sel d a b c) := reserved_encG _ _ _ _ _ _ _
theorem lea (d a b : GReg) (e : BitVec 3) (imm : BitVec 48) : Statement (.lea d a b e imm) := reserved_encG _ _ _ _ _ _ _
theorem widx (d a : GReg) (n : BitVec 3) : Statement (.widx d a n) := reserved_encG _ _ _ _ _ _ _
theorem widc (d a : GReg) (n : BitVec 3) : Statement (.widc d a n) := reserved_encG _ _ _ _ _ _ _
theorem clz (d a : GReg) : Statement (.clz d a) := reserved_encG _ _ _ _ _ _ _
theorem ctz (d a : GReg) : Statement (.ctz d a) := reserved_encG _ _ _ _ _ _ _
theorem popc (d a : GReg) : Statement (.popc d a) := reserved_encG _ _ _ _ _ _ _
theorem bswap (d a : GReg) : Statement (.bswap d a) := reserved_encG _ _ _ _ _ _ _
theorem sext (d a : GReg) (n : BitVec 7) : Statement (.sext d a n) := reserved_encG _ _ _ _ _ _ _
theorem zext (d a : GReg) (n : BitVec 7) : Statement (.zext d a n) := reserved_encG _ _ _ _ _ _ _
theorem li (d : GReg) (imm : Word) : Statement (.li d imm) := trivial
theorem bmm8 (d a b : GReg) : Statement (.bmm8 d a b) := reserved_encG _ _ _ _ _ _ _
theorem bmm8x (d a b : GReg) : Statement (.bmm8x d a b) := reserved_encG _ _ _ _ _ _ _
theorem bmm8t (d a b : GReg) : Statement (.bmm8t d a b) := reserved_encG _ _ _ _ _ _ _
theorem pdep (d a b : GReg) : Statement (.pdep d a b) := reserved_encG _ _ _ _ _ _ _
theorem pext (d a b : GReg) : Statement (.pext d a b) := reserved_encG _ _ _ _ _ _ _
theorem bperm (d a : GReg) (c : VIdx) : Statement (.bperm d a c) := reserved_encG _ _ _ _ _ _ _
theorem bfx (d a : GReg) (pos : BitVec 6) (len : BitVec 7) : Statement (.bfx d a pos len) := reserved_encG _ _ _ _ _ _ _
theorem bfi (d a b : GReg) (pos : BitVec 6) (len : BitVec 7) : Statement (.bfi d a b pos len) := reserved_encG _ _ _ _ _ _ _
theorem brev (d a : GReg) : Statement (.brev d a) := reserved_encG _ _ _ _ _ _ _
theorem fadd (d a b : GReg) (n : Num) : Statement (.fadd d a b n) := reserved_encG _ _ _ _ _ _ _
theorem fsub (d a b : GReg) (n : Num) : Statement (.fsub d a b n) := reserved_encG _ _ _ _ _ _ _
theorem fmul (d a b : GReg) (n : Num) : Statement (.fmul d a b n) := reserved_encG _ _ _ _ _ _ _
theorem fma (d a b c : GReg) (n : Num) : Statement (.fma d a b c n) := reserved_encG _ _ _ _ _ _ _
theorem fmin (d a b : GReg) (n : Num) : Statement (.fmin d a b n) := reserved_encG _ _ _ _ _ _ _
theorem fmax (d a b : GReg) (n : Num) : Statement (.fmax d a b n) := reserved_encG _ _ _ _ _ _ _
theorem feq (d a b : GReg) : Statement (.feq d a b) := reserved_encG _ _ _ _ _ _ _
theorem flt (d a b : GReg) : Statement (.flt d a b) := reserved_encG _ _ _ _ _ _ _
theorem fle (d a b : GReg) : Statement (.fle d a b) := reserved_encG _ _ _ _ _ _ _
theorem fcvtif (d a : GReg) (n : Num) : Statement (.fcvtif d a n) := reserved_encG _ _ _ _ _ _ _
theorem fcvtfi (d a : GReg) (n : Num) : Statement (.fcvtfi d a n) := reserved_encG _ _ _ _ _ _ _
theorem beq (a b : GReg) (off : BitVec 48) : Statement (.beq a b off) := reserved_encG _ _ _ _ _ _ _
theorem bne (a b : GReg) (off : BitVec 48) : Statement (.bne a b off) := reserved_encG _ _ _ _ _ _ _
theorem blt (a b : GReg) (off : BitVec 48) : Statement (.blt a b off) := reserved_encG _ _ _ _ _ _ _
theorem bge (a b : GReg) (off : BitVec 48) : Statement (.bge a b off) := reserved_encG _ _ _ _ _ _ _
theorem bltu (a b : GReg) (off : BitVec 48) : Statement (.bltu a b off) := reserved_encG _ _ _ _ _ _ _
theorem bgeu (a b : GReg) (off : BitVec 48) : Statement (.bgeu a b off) := reserved_encG _ _ _ _ _ _ _
theorem jmp (off : BitVec 48) : Statement (.jmp off) := reserved_encG _ _ _ _ _ _ _
theorem jmpr (a : GReg) : Statement (.jmpr a) := reserved_encG _ _ _ _ _ _ _
theorem leac (d : GReg) (off : BitVec 48) : Statement (.leac d off) := reserved_encG _ _ _ _ _ _ _
theorem loop (a : GReg) (len : BitVec 16) : Statement (.loop a len) := reserved_encG _ _ _ _ _ _ _
theorem loopi (len : BitVec 16) (count : BitVec 32) : Statement (.loopi len count) := reserved_encG _ _ _ _ _ _ _
theorem calld (k : BitVec 32) : Statement (.calld k) := reserved_encG _ _ _ _ _ _ _
theorem calldr (a : GReg) : Statement (.calldr a) := reserved_encG _ _ _ _ _ _ _
theorem ret : Statement .ret := reserved_encG _ _ _ _ _ _ _
theorem yield (vmask : BitVec 16) (deadline : BitVec 16) (gmask : BitVec 32) : Statement (.yield vmask deadline gmask) := reserved_encG _ _ _ _ _ _ _
theorem endAct : Statement .endAct := reserved_encG _ _ _ _ _ _ _
theorem trap (code : BitVec 48) : Statement (.trap code) := reserved_encG _ _ _ _ _ _ _
theorem nop : Statement .nop := reserved_encG _ _ _ _ _ _ _
theorem send (a b c : GReg) (n : BitVec 4) (ord : Bool) : Statement (.send a b c n ord) := reserved_encG _ _ _ _ _ _ _
theorem sendnb (d a b c : GReg) (n : BitVec 4) (ord : Bool) : Statement (.sendnb d a b c n ord) := reserved_encG _ _ _ _ _ _ _
theorem sendv (a : GReg) (b : VIdx) (c : GReg) (ord : Bool) : Statement (.sendv a b c ord) := reserved_encG _ _ _ _ _ _ _
theorem reply (b : GReg) (n : BitVec 4) (ord : Bool) : Statement (.reply b n ord) := reserved_encG _ _ _ _ _ _ _
theorem fork (a b : GReg) (j : JIdx) (off : BitVec 48) : Statement (.fork a b j off) := reserved_encG _ _ _ _ _ _ _
theorem join (j : JIdx) : Statement (.join j) := reserved_encG _ _ _ _ _ _ _
theorem jinit (a : GReg) (j : JIdx) (count : Bool) : Statement (.jinit a j count) := reserved_encG _ _ _ _ _ _ _
theorem launch (a b : GReg) : Statement (.launch a b) := reserved_encG _ _ _ _ _ _ _
theorem trigger : Statement .trigger := reserved_encG _ _ _ _ _ _ _
theorem chbind (c : CIdx) (a b : GReg) (keep : Bool) : Statement (.chbind c a b keep) := reserved_encG _ _ _ _ _ _ _
theorem chinfo (d : GReg) (c : CIdx) : Statement (.chinfo d c) := reserved_encG _ _ _ _ _ _ _
theorem qpush (q : QIdx) (a : GReg) : Statement (.qpush q a) := reserved_encG _ _ _ _ _ _ _
theorem qpop (d : GReg) (q : QIdx) : Statement (.qpop d q) := reserved_encG _ _ _ _ _ _ _
theorem qpeek (d : GReg) (q : QIdx) : Statement (.qpeek d q) := reserved_encG _ _ _ _ _ _ _
theorem qtry (d : GReg) (q : QIdx) (b : GReg) : Statement (.qtry d q b) := reserved_encG _ _ _ _ _ _ _
theorem spop (d : GReg) (x : SIdx) : Statement (.spop d x) := reserved_encG _ _ _ _ _ _ _
theorem stry (d : GReg) (x : SIdx) (b : GReg) : Statement (.stry d x b) := reserved_encG _ _ _ _ _ _ _
theorem getc (d : GReg) (n : BitVec 12) : Statement (.getc d n) := reserved_encG _ _ _ _ _ _ _
theorem setc (a : GReg) (n : BitVec 12) : Statement (.setc a n) := reserved_encG _ _ _ _ _ _ _
theorem ld (d a b : GReg) (m : MemF) (imm : BitVec 48) : Statement (.ld d a b m imm) := reserved_encG _ _ _ _ _ _ _
theorem ldx (d a b : GReg) (m : MemF) (imm : BitVec 48) : Statement (.ldx d a b m imm) := reserved_encG _ _ _ _ _ _ _
theorem st (a b c : GReg) (m : MemF) (imm : BitVec 48) : Statement (.st a b c m imm) := reserved_encG _ _ _ _ _ _ _
theorem stx (a b c : GReg) (m : MemF) (imm : BitVec 48) : Statement (.stx a b c m imm) := reserved_encG _ _ _ _ _ _ _
theorem vld (d : VIdx) (a b : GReg) (m : MemF) (imm : BitVec 48) : Statement (.vld d a b m imm) := reserved_encG _ _ _ _ _ _ _
theorem vst (a b : GReg) (c : VIdx) (m : MemF) (imm : BitVec 48) : Statement (.vst a b c m imm) := reserved_encG _ _ _ _ _ _ _
theorem vldx (d : VIdx) (a : GReg) (b : VIdx) (m : MemF) (imm : BitVec 48) : Statement (.vldx d a b m imm) := reserved_encG _ _ _ _ _ _ _
theorem vstx (a : GReg) (b c : VIdx) (m : MemF) (imm : BitVec 48) : Statement (.vstx a b c m imm) := reserved_encG _ _ _ _ _ _ _
theorem tagrd (d a b : GReg) (m : MemF) (imm : BitVec 48) : Statement (.tagrd d a b m imm) := reserved_encG _ _ _ _ _ _ _
theorem tagwr (a b c : GReg) (m : MemF) (imm : BitVec 48) : Statement (.tagwr a b c m imm) := reserved_encG _ _ _ _ _ _ _
theorem amo (d a b c : GReg) (m : MemF) (op : BitVec 8) : Statement (.amo d a b c m op) := reserved_encG _ _ _ _ _ _ _
theorem amof (d a b c : GReg) (m : MemF) (op : BitVec 8) : Statement (.amof d a b c m op) := reserved_encG _ _ _ _ _ _ _
theorem cas (d a b c : GReg) (m : MemF) (imm : BitVec 48) : Statement (.cas d a b c m imm) := reserved_encG _ _ _ _ _ _ _
theorem vamo (d : VIdx) (a : GReg) (b c : VIdx) (m : MemF) (op : BitVec 8) : Statement (.vamo d a b c m op) := reserved_encG _ _ _ _ _ _ _
theorem ams (d a b c : GReg) (m : MemF) (op : BitVec 8) : Statement (.ams d a b c m op) := reserved_encG _ _ _ _ _ _ _
theorem fence (sc : Scope) : Statement (.fence sc) := reserved_encG _ _ _ _ _ _ _
theorem binit (b : BIdx) (a : GReg) : Statement (.binit b a) := reserved_encG _ _ _ _ _ _ _
theorem barr (b : BIdx) (sc : Scope) (chk : Bool) : Statement (.barr b sc chk) := reserved_encG _ _ _ _ _ _ _
theorem bsync (b : BIdx) (sc : Scope) (chk : Bool) : Statement (.bsync b sc chk) := reserved_encG _ _ _ _ _ _ _
theorem bwait (b : BIdx) : Statement (.bwait b) := reserved_encG _ _ _ _ _ _ _
theorem bdrop (b : BIdx) : Statement (.bdrop b) := reserved_encG _ _ _ _ _ _ _
theorem vadd (d a b : VIdx) (n : Num) : Statement (.vadd d a b n) := reserved_encG _ _ _ _ _ _ _
theorem vsub (d a b : VIdx) (n : Num) : Statement (.vsub d a b n) := reserved_encG _ _ _ _ _ _ _
theorem vmul (d a b : VIdx) (n : Num) : Statement (.vmul d a b n) := reserved_encG _ _ _ _ _ _ _
theorem vfma (d a b c : VIdx) (n : Num) : Statement (.vfma d a b c n) := reserved_encG _ _ _ _ _ _ _
theorem vmin (d a b : VIdx) (n : Num) : Statement (.vmin d a b n) := reserved_encG _ _ _ _ _ _ _
theorem vmax (d a b : VIdx) (n : Num) : Statement (.vmax d a b n) := reserved_encG _ _ _ _ _ _ _
theorem vabs (d a : VIdx) (n : Num) : Statement (.vabs d a n) := reserved_encG _ _ _ _ _ _ _
theorem vneg (d a : VIdx) (n : Num) : Statement (.vneg d a n) := reserved_encG _ _ _ _ _ _ _
theorem vcmp (d a b : VIdx) (n : Num) : Statement (.vcmp d a b n) := reserved_encG _ _ _ _ _ _ _
theorem vsel (d a b c : VIdx) (n : Num) : Statement (.vsel d a b c n) := reserved_encG _ _ _ _ _ _ _
theorem vand (d a b : VIdx) (n : Num) : Statement (.vand d a b n) := reserved_encG _ _ _ _ _ _ _
theorem vor (d a b : VIdx) (n : Num) : Statement (.vor d a b n) := reserved_encG _ _ _ _ _ _ _
theorem vxor (d a b : VIdx) (n : Num) : Statement (.vxor d a b n) := reserved_encG _ _ _ _ _ _ _
theorem vmov (d a : VIdx) (n : Num) : Statement (.vmov d a n) := reserved_encG _ _ _ _ _ _ _
theorem vtag (d : VIdx) (n : Num) : Statement (.vtag d n) := reserved_encG _ _ _ _ _ _ _
theorem vshl (d a b : VIdx) (n : Num) : Statement (.vshl d a b n) := reserved_encG _ _ _ _ _ _ _
theorem vshr (d a b : VIdx) (n : Num) : Statement (.vshr d a b n) := reserved_encG _ _ _ _ _ _ _
theorem vsra (d a b : VIdx) (n : Num) : Statement (.vsra d a b n) := reserved_encG _ _ _ _ _ _ _
theorem vcvt (d a : VIdx) (n : Num) : Statement (.vcvt d a n) := reserved_encG _ _ _ _ _ _ _
theorem vexp2 (d a : VIdx) (n : Num) : Statement (.vexp2 d a n) := reserved_encG _ _ _ _ _ _ _
theorem vlog2 (d a : VIdx) (n : Num) : Statement (.vlog2 d a n) := reserved_encG _ _ _ _ _ _ _
theorem vrcp (d a : VIdx) (n : Num) : Statement (.vrcp d a n) := reserved_encG _ _ _ _ _ _ _
theorem vrsq (d a : VIdx) (n : Num) : Statement (.vrsq d a n) := reserved_encG _ _ _ _ _ _ _
theorem vsqrt (d a : VIdx) (n : Num) : Statement (.vsqrt d a n) := reserved_encG _ _ _ _ _ _ _
theorem vdiv (d a b : VIdx) (n : Num) : Statement (.vdiv d a b n) := reserved_encG _ _ _ _ _ _ _
theorem vscl (d a : VIdx) (b : GReg) (n : Num) : Statement (.vscl d a b n) := reserved_encG _ _ _ _ _ _ _
theorem vred (d : GReg) (a : VIdx) (n : Num) : Statement (.vred d a n) := reserved_encG _ _ _ _ _ _ _
theorem vbcast (d : VIdx) (a : GReg) (n : Num) : Statement (.vbcast d a n) := reserved_encG _ _ _ _ _ _ _
theorem vext (d : GReg) (a : VIdx) (b : GReg) (n : Num) : Statement (.vext d a b n) := reserved_encG _ _ _ _ _ _ _
theorem vins (d : VIdx) (a b : GReg) (n : Num) : Statement (.vins d a b n) := reserved_encG _ _ _ _ _ _ _
theorem viota (d : VIdx) (n : Num) : Statement (.viota d n) := reserved_encG _ _ _ _ _ _ _
theorem vperm (d a b : VIdx) (n : Num) : Statement (.vperm d a b n) := reserved_encG _ _ _ _ _ _ _
theorem vbmm8 (d a b : VIdx) (n : Num) : Statement (.vbmm8 d a b n) := reserved_encG _ _ _ _ _ _ _
theorem vpdep (d a b : VIdx) (n : Num) : Statement (.vpdep d a b n) := reserved_encG _ _ _ _ _ _ _
theorem vpext (d a b : VIdx) (n : Num) : Statement (.vpext d a b n) := reserved_encG _ _ _ _ _ _ _
theorem vbperm (d a b : VIdx) (n : Num) : Statement (.vbperm d a b n) := reserved_encG _ _ _ _ _ _ _
theorem swmap (a b : GReg) (n : Num) : Statement (.swmap a b n) := reserved_encG _ _ _ _ _ _ _
theorem swred (a b : GReg) (n : Num) : Statement (.swred a b n) := reserved_encG _ _ _ _ _ _ _
theorem swcvt (a b : GReg) (n : Num) : Statement (.swcvt a b n) := reserved_encG _ _ _ _ _ _ _
theorem mma (d : TIdx) (a b : GReg) (n : Num) : Statement (.mma d a b n) := reserved_encG _ _ _ _ _ _ _
theorem mmab (d : TIdx) (a b : GReg) (n : Num) : Statement (.mmab d a b n) := reserved_encG _ _ _ _ _ _ _
theorem mzero (d : TIdx) : Statement (.mzero d) := reserved_encG _ _ _ _ _ _ _
theorem mload (d : TIdx) (a : GReg) (n : Num) : Statement (.mload d a n) := reserved_encG _ _ _ _ _ _ _
theorem mdrain (a : TIdx) (b : GReg) (n : Num) : Statement (.mdrain a b n) := reserved_encG _ _ _ _ _ _ _
theorem mwait (a : TIdx) : Statement (.mwait a) := reserved_encG _ _ _ _ _ _ _
theorem mstat (d : GReg) : Statement (.mstat d) := reserved_encG _ _ _ _ _ _ _
theorem cpy (a b : GReg) : Statement (.cpy a b) := reserved_encG _ _ _ _ _ _ _
theorem cpys (d : SIdx) (a : GReg) : Statement (.cpys d a) := reserved_encG _ _ _ _ _ _ _
theorem jwait (a : GReg) : Statement (.jwait a) := reserved_encG _ _ _ _ _ _ _
theorem jpoll (d a : GReg) : Statement (.jpoll d a) := reserved_encG _ _ _ _ _ _ _
theorem jcancel (d a : GReg) : Statement (.jcancel d a) := reserved_encG _ _ _ _ _ _ _
theorem eqinit (a : GReg) (size : Bool) (lg : BitVec 2) : Statement (.eqinit a size lg) := reserved_encG _ _ _ _ _ _ _
theorem equnite (d a b : GReg) : Statement (.equnite d a b) := reserved_encG _ _ _ _ _ _ _
theorem eqfind (d a : GReg) : Statement (.eqfind d a) := reserved_encG _ _ _ _ _ _ _
theorem eqsame (d a b : GReg) : Statement (.eqsame d a b) := reserved_encG _ _ _ _ _ _ _
theorem eqsize (d a : GReg) : Statement (.eqsize d a) := reserved_encG _ _ _ _ _ _ _
theorem eqsnap (d : GReg) : Statement (.eqsnap d) := reserved_encG _ _ _ _ _ _ _
theorem equndo (d : GReg) : Statement (.equndo d) := reserved_encG _ _ _ _ _ _ _
theorem eqcommit (d : GReg) : Statement (.eqcommit d) := reserved_encG _ _ _ _ _ _ _
theorem eqrelabel (a b : GReg) (dense : Bool) (red : BitVec 3) : Statement (.eqrelabel a b dense red) := reserved_encG _ _ _ _ _ _ _
theorem mcwait (d a : GReg) : Statement (.mcwait d a) := reserved_encG _ _ _ _ _ _ _
theorem flowend (a : GReg) : Statement (.flowend a) := reserved_encG _ _ _ _ _ _ _
theorem rankc (d a : GReg) : Statement (.rankc d a) := reserved_encG _ _ _ _ _ _ _
theorem mcall (n : BitVec 48) : Statement (.mcall n) := reserved_encG _ _ _ _ _ _ _
theorem mret : Statement .mret := reserved_encG _ _ _ _ _ _ _
theorem mext (a : GReg) : Statement (.mext a) := reserved_encG _ _ _ _ _ _ _
theorem pent (a b : GReg) : Statement (.pent a b) := reserved_encG _ _ _ _ _ _ _
theorem pentr (d a : GReg) : Statement (.pentr d a) := reserved_encG _ _ _ _ _ _ _
theorem keyslot (a b : GReg) : Statement (.keyslot a b) := reserved_encG _ _ _ _ _ _ _
theorem ctxsv (a : GReg) : Statement (.ctxsv a) := reserved_encG _ _ _ _ _ _ _
theorem ctxld (a : GReg) : Statement (.ctxld a) := reserved_encG _ _ _ _ _ _ _
theorem scrub (a b : GReg) : Statement (.scrub a b) := reserved_encG _ _ _ _ _ _ _
theorem codeinst (d a b : GReg) : Statement (.codeinst d a b) := reserved_encG _ _ _ _ _ _ _
theorem codeevict (a : GReg) : Statement (.codeevict a) := reserved_encG _ _ _ _ _ _ _
theorem quar (a : GReg) : Statement (.quar a) := reserved_encG _ _ _ _ _ _ _
theorem vifrz (a : GReg) : Statement (.vifrz a) := reserved_encG _ _ _ _ _ _ _
theorem stinv (a b : GReg) : Statement (.stinv a b) := reserved_encG _ _ _ _ _ _ _
theorem atreqAttestation (a b : GReg) : Statement (.atreqAttestation a b) := reserved_encG _ _ _ _ _ _ _
theorem atreqAllocation (a b : GReg) : Statement (.atreqAllocation a b) := reserved_encG _ _ _ _ _ _ _
theorem trmark (a : GReg) (mark : BitVec 48) : Statement (.trmark a mark) := reserved_encG _ _ _ _ _ _ _
theorem trctlFlush (a : GReg) : Statement (.trctlFlush a) := reserved_encG _ _ _ _ _ _ _
theorem trctlPause (a : GReg) : Statement (.trctlPause a) := reserved_encG _ _ _ _ _ _ _
theorem trctlResume (a : GReg) : Statement (.trctlResume a) := reserved_encG _ _ _ _ _ _ _
theorem bkpt (code : BitVec 48) : Statement (.bkpt code) := reserved_encG _ _ _ _ _ _ _
theorem unassignedOpcode (w : InstrWord) : Statement (.unassignedOpcode w) := trivial
theorem sendGrant (t : Nat) : Statement (.sendGrant t) := zeroWord
theorem queueWaiterServed (blk : Nat) (q : QIdx) : Statement (.queueWaiterServed blk q) := zeroWord
theorem accessAnswer (t seq : Nat) : Statement (.accessAnswer t seq) := zeroWord
theorem serviceOperation (t seq : Nat) : Statement (.serviceOperation t seq) := zeroWord
theorem routineAbandon (o : Nat) : Statement (.routineAbandon o) := zeroWord
theorem barrierBatch (cl : Nat) (b : BIdx) : Statement (.barrierBatch cl b) := zeroWord
theorem nak (t seq : Nat) (p : Option Packet) : Statement (.nak t seq p) := zeroWord
theorem call (o : Nat) (p : Option Packet) : Statement (.call o p) := zeroWord
theorem ticketLapse (o : Nat) : Statement (.ticketLapse o) := zeroWord
theorem vectorGrant (blk : Nat) : Statement (.vectorGrant blk) := zeroWord
theorem sweepStart (blk id : Nat) : Statement (.sweepStart blk id) := zeroWord
theorem sweepComplete (blk id : Nat) : Statement (.sweepComplete blk id) := zeroWord
theorem matrixJobStart (blk : Nat) : Statement (.matrixJobStart blk) := zeroWord
theorem matrixOperandsConsumed (blk id : Nat) : Statement (.matrixOperandsConsumed blk id) := zeroWord
theorem matrixJobComplete (blk id : Nat) : Statement (.matrixJobComplete blk id) := zeroWord
theorem gangBarrierFire (blk : Nat) : Statement (.gangBarrierFire blk) := zeroWord
theorem gangBreak (blk : Nat) : Statement (.gangBreak blk) := zeroWord
theorem drainRow (blk id : Nat) : Statement (.drainRow blk id) := zeroWord
theorem copyJobStart (blk id : Nat) : Statement (.copyJobStart blk id) := zeroWord
theorem copyJobComplete (blk id : Nat) : Statement (.copyJobComplete blk id) := zeroWord
theorem cardOperandsConsumed (blk id : Nat) : Statement (.cardOperandsConsumed blk id) := zeroWord
theorem streamElement (blk id : Nat) : Statement (.streamElement blk id) := zeroWord
theorem completionDelivery (blk eng : Nat) : Statement (.completionDelivery blk eng) := zeroWord
theorem eqEntryWrites (blk : Nat) : Statement (.eqEntryWrites blk) := zeroWord
theorem eqHop (t : Nat) : Statement (.eqHop t) := zeroWord
theorem eqLink (t : Nat) : Statement (.eqLink t) := zeroWord
theorem relabelJobStart (blk id : Nat) : Statement (.relabelJobStart blk id) := zeroWord
theorem relabelJobComplete (blk id : Nat) : Statement (.relabelJobComplete blk id) := zeroWord
theorem doubleFault (code : Byte) (tval : Word) : Statement (.doubleFault code tval) := zeroWord
theorem channelDelivery (i : Nat) : Statement (.channelDelivery i) := zeroWord
theorem queueDelivery (i : Nat) : Statement (.queueDelivery i) := zeroWord
theorem joinCellDelivery (i : Nat) : Statement (.joinCellDelivery i) := zeroWord
theorem joinContinuationRecruit (cl : Nat) (j : JIdx) : Statement (.joinContinuationRecruit cl j) := zeroWord
theorem feWordDelivery (i : Nat) : Statement (.feWordDelivery i) := zeroWord
theorem dispatch (blk : Nat) : Statement (.dispatch blk) := zeroWord
theorem sendDisplacement (t : Nat) : Statement (.sendDisplacement t) := zeroWord
theorem launchHeader (cl : Nat) : Statement (.launchHeader cl) := zeroWord
theorem launchEnumeration (id : Word) : Statement (.launchEnumeration id) := zeroWord
theorem launchComplete (id : Word) : Statement (.launchComplete id) := zeroWord
theorem launchReportResend (id : Word) : Statement (.launchReportResend id) := zeroWord
theorem teamReplay (t : Nat) : Statement (.teamReplay t) := zeroWord
theorem codeMiss (t : Nat) : Statement (.codeMiss t) := zeroWord
theorem codeSourceTimeout (cl : Nat) (h : BitVec 32) : Statement (.codeSourceTimeout cl h) := zeroWord
theorem codeInstall (cl : Nat) (h : BitVec 32) (offer : List Byte) : Statement (.codeInstall cl h offer) := zeroWord
theorem kilnInstallRetry (cl : Nat) : Statement (.kilnInstallRetry cl) := zeroWord
theorem kilnInstallTimeout (cl : Nat) : Statement (.kilnInstallTimeout cl) := zeroWord
theorem translationParkTimeout (t seq : Nat) : Statement (.translationParkTimeout t seq) := zeroWord
theorem releaseCountAdvance (die : Nat) : Statement (.releaseCountAdvance die) := zeroWord
theorem stampedWriteApply (i : Nat) : Statement (.stampedWriteApply i) := zeroWord
theorem rd (p : Packet) : Statement (.rd p) := zeroWord
theorem wr (p : Packet) : Statement (.wr p) := zeroWord
theorem atm (p : Packet) : Statement (.atm p) := zeroWord
theorem msg (p : Packet) : Statement (.msg p) := zeroWord
theorem mcw (p : Packet) : Statement (.mcw p) := zeroWord
theorem rda (p : Packet) : Statement (.rda p) := zeroWord
theorem ack (p : Packet) : Statement (.ack p) := zeroWord
theorem tnak (p : Packet) : Statement (.tnak p) := zeroWord
theorem msga (p : Packet) : Statement (.msga p) := zeroWord
theorem mcack (port : Nat) (p : Packet) : Statement (.mcack port p) := zeroWord
theorem mcackTimeout (g : Nat) : Statement (.mcackTimeout g) := zeroWord
theorem seqnak (p : Packet) : Statement (.seqnak p) := zeroWord
theorem seqnakTimer (src : BitVec 22) (fseq : BitVec 24) : Statement (.seqnakTimer src fseq) := zeroWord
theorem requestResendTimer (fseq : BitVec 24) (dst : BitVec 22) : Statement (.requestResendTimer fseq dst) := zeroWord
theorem flowletTimeout (core : Nat) (rank : BitVec 22) : Statement (.flowletTimeout core rank) := zeroWord
theorem flitReplay (port : Nat) : Statement (.flitReplay port) := zeroWord
theorem linkRetrain (port : Nat) (lane : Option (BitVec 3)) : Statement (.linkRetrain port lane) := zeroWord
theorem portDown (port : Nat) (why : Byte) : Statement (.portDown port why) := zeroWord
theorem notice (port : Nat) (p : Packet) : Statement (.notice port p) := zeroWord
theorem cfreq (p : Packet) : Statement (.cfreq p) := zeroWord
theorem cfdat (p : Packet) : Statement (.cfdat p) := zeroWord
theorem cfnone (p : Packet) : Statement (.cfnone p) := zeroWord
theorem mgw (p : Packet) : Statement (.mgw p) := zeroWord
theorem mgr (p : Packet) : Statement (.mgr p) := zeroWord
theorem keynextWrite (k : Digest) : Statement (.keynextWrite k) := zeroWord
theorem rankMapBankFlip (slot : BitVec 6) (bank : Bool) : Statement (.rankMapBankFlip slot bank) := zeroWord
theorem portEnWrite (port : Nat) (en : Bool) : Statement (.portEnWrite port en) := zeroWord
theorem fgeomWrite (w : Word) : Statement (.fgeomWrite w) := zeroWord
theorem pkaWrite (slot : BitVec 6) (w : Word) : Statement (.pkaWrite slot w) := zeroWord
theorem thermalTrip (die : Nat) (temp : Byte) : Statement (.thermalTrip die temp) := zeroWord
theorem thermalThrottle (die : Nat) (temp : Byte) : Statement (.thermalThrottle die temp) := zeroWord
theorem powerWindow (watts : BitVec 16) : Statement (.powerWindow watts) := zeroWord
theorem inputVoltageFault (volts : Nat) : Statement (.inputVoltageFault volts) := zeroWord
theorem memoryTraining (chan : Nat) : Statement (.memoryTraining chan) := zeroWord
theorem clusterDrain (cl : Nat) (monitor : Digest) : Statement (.clusterDrain cl monitor) := zeroWord
theorem partFailure (p : Part) : Statement (.partFailure p) := zeroWord
theorem housekeepingRead (y : Word) : Statement (.housekeepingRead y) := zeroWord
theorem pwrlimWrite (w : Word) : Statement (.pwrlimWrite w) := zeroWord
theorem viThaw (vi : BitVec 6) : Statement (.viThaw vi) := zeroWord
theorem portHold (port : Nat) : Statement (.portHold port) := zeroWord
theorem portRelease (port : Nat) : Statement (.portRelease port) := zeroWord
theorem debugToken (token : List Byte) : Statement (.debugToken token) := zeroWord
theorem debugStop (blks : List Nat) : Statement (.debugStop blks) := zeroWord
theorem debugResume (blks : List Nat) : Statement (.debugResume blks) := zeroWord
theorem traceIdleRecord (t : Nat) : Statement (.traceIdleRecord t) := zeroWord
theorem serviceOperationTimeout (t seq : Nat) : Statement (.serviceOperationTimeout t seq) := zeroWord
theorem linkTrained (port : Nat) : Statement (.linkTrained port) := zeroWord
theorem serviceCoreFirmwareUpdate (k : Nat) (fw : Digest) : Statement (.serviceCoreFirmwareUpdate k fw) := zeroWord
theorem stationFirmwareUpdate (k : Nat) (fw : Digest) : Statement (.stationFirmwareUpdate k fw) := zeroWord
theorem mcallInstallRoutine : Statement .mcallInstallRoutine := zeroWord
theorem mcallFormGroup : Statement .mcallFormGroup := zeroWord
theorem mcallSetCodePeers : Statement .mcallSetCodePeers := zeroWord
theorem codeIntegrityFault : Statement .codeIntegrityFault := zeroWord
theorem deadlineOverrun : Statement .deadlineOverrun := zeroWord
theorem retireLimit : Statement .retireLimit := zeroWord
theorem moduleReset : Statement .moduleReset := zeroWord
theorem resetCommand : Statement .resetCommand := zeroWord
theorem debugChallenge : Statement .debugChallenge := zeroWord
theorem fallThroughPastInstance : Statement .fallThroughPastInstance := zeroWord

end Sys2Proof.Laws.ReservedBits
end

