-- ==== Sys2Proof/Safety.lean ====
section
/-! DEFINITION. What counts as a safe run: the invariant of the state, and the vocabulary of the
statements: what a register holds, and the frames of instructions that change one thing and retire. -/

namespace Sys2Proof.Machine

/-- The bytes of memory are in canonical form: the invariant that every step keeps. -/
def State.Inv (s : State) : Prop := s.mem.wf

/-! ## What a thread holds -/

/-- What a g register of the mode's bank holds (R44, R390). g0 holds zero. -/
def Thread.reg (x : Thread) (r : GReg) : Word :=
  if r = 0 then 0 else Map.get 0 (if x.mode = .monitor then x.mg else x.act.g) r.toNat
def State.reg (s : State) (r : GReg) : Word := s.me.reg r
/-- What a v register holds. -/
def State.vreg (s : State) (r : VIdx) : VReg := Map.get {} s.me.act.v r.toNat
/-- The error marks of the mode's bank (R178). -/
def Thread.marks (x : Thread) : BitVec 32 := if x.mode = .monitor then x.mgErr else x.act.gErr
/-- The registers of the mode's bank that a soft error has struck (R70). -/
def Thread.struck (x : Thread) : BitVec 32 := if x.mode = .monitor then x.mgBad else x.act.gBad
/-- The count of retirements that applies: the routine's, the monitor entry's or the interval's (R120, R213, R392). -/
def Thread.retired (t : Nat) (x : Thread) : Nat :=
  if isAct t then (if x.mode = .monitor then x.mretire else x.act.retire)
  else match x.serve with | some v => v.retired | none => 0

/-- A thread but for what an instruction that only writes registers may change: the bank of the mode with its error and
soft-error marks, the v registers and theirs, the flags, the pc, and the loop stack and retirement count of the mode. -/
def Thread.rest (t : Nat) (x : Thread) : Thread :=
  let y : Thread := if x.mode = .monitor then { x with mg := [], mgErr := 0, mgBad := 0, mloops := [] }
    else { x with act := { x.act with g := [], gErr := 0, gBad := 0, loops := [] } }
  let z : Thread := if isAct t then
      if x.mode = .monitor then { y with mretire := 0 } else { y with act := { y.act with retire := 0 } }
    else { y with serve := y.serve.map fun v => { v with retired := 0 } }
  { z with act := { z.act with v := [], vErr := 0, vBad := 0, flags := 0, pc := 0 } }

/-! ## Where control goes -/

/-- The linear slot and the function that the running thread stands at. -/
def State.here (s : State) : BitVec 32 × Nat := (handleOf s.me.act.pc, linearOf s.me.act.pc)
/-- The code address that a fall-through continues at (R36, R102): the slot after, or the start of a loop that goes on. -/
def State.fallPc (s : State) : Word :=
  codeAddr s.here.1 ((loopFall s.here.1 s.here.2 s.me.loops).2.getD (s.here.2 + 1))

/-! ## Frames -/

/-- Everything but the running thread is unchanged: every other thread, every byte of memory, every channel, queue,
cell, engine and system register. -/
structure OnlyThread (s t : State) : Prop where
  others : ∀ u, u ≠ s.cur → t.th u = s.th u
  elsewhere : t = { s with threads := t.threads }
  bytes : ∀ a, t.mem.byte a = s.mem.byte a

/-- The running thread went to pc, with loop stack loops, and counted one retirement; the rest of it is unchanged
but for registers, error marks and flags. -/
structure Goes (s t : State) (pc : Word) (loops : List Loop) : Prop extends OnlyThread s t where
  at' : t.me.act.pc = pc
  stack : t.me.loops = loops
  counted : isAct s.cur = true ∨ s.me.serve.isSome → t.me.retired s.cur = s.me.retired s.cur + 1
  rest : t.me.rest s.cur = s.me.rest s.cur

/-- No register, error mark or flag changes. -/
structure KeepsRegs (s t : State) : Prop where
  g : ∀ r, t.reg r = s.reg r
  v : ∀ r, t.vreg r = s.vreg r
  marks : t.me.marks = s.me.marks
  vmarks : t.me.act.vErr = s.me.act.vErr
  struck : t.me.struck = s.me.struck
  vstruck : t.me.act.vBad = s.me.act.vBad
  flags : t.me.act.flags = s.me.act.flags

/-- Register d takes w, unless d is g0, which discards writes; its error and soft-error marks are cleared; the activation's flags
collect fl. No other register, mark or flag changes. -/
structure SetsG (s t : State) (d : GReg) (w : Word) (fl : BitVec 5) : Prop where
  g : ∀ r, t.reg r = if r = d ∧ r ≠ 0 then w else s.reg r
  v : ∀ r, t.vreg r = s.vreg r
  marks : t.me.marks = if d = 0 then s.me.marks else s.me.marks &&& ~~~(1#32 <<< d.toNat)
  vmarks : t.me.act.vErr = s.me.act.vErr
  struck : t.me.struck = if d = 0 then s.me.struck else s.me.struck &&& ~~~(1#32 <<< d.toNat)
  vstruck : t.me.act.vBad = s.me.act.vBad
  flags : t.me.act.flags = if isAct s.cur then s.me.act.flags ||| fl else s.me.act.flags

/-- v register d takes w, and its error and soft-error marks are cleared; the activation's flags collect fl. -/
structure SetsV (s t : State) (d : VIdx) (w : VReg) (fl : BitVec 5) : Prop where
  g : ∀ r, t.reg r = s.reg r
  v : ∀ r, t.vreg r = if r = d then w else s.vreg r
  marks : t.me.marks = s.me.marks
  vmarks : t.me.act.vErr = s.me.act.vErr &&& ~~~(1#16 <<< d.toNat)
  struck : t.me.struck = s.me.struck
  vstruck : t.me.act.vBad = s.me.act.vBad &&& ~~~(1#16 <<< d.toNat)
  flags : t.me.act.flags = if isAct s.cur then s.me.act.flags ||| fl else s.me.act.flags

/-- The instruction falls through (R36, R102). -/
def FallsThrough (s t : State) : Prop :=
  Goes s t s.fallPc (loopFall s.here.1 s.here.2 s.me.loops).1

/-- The instruction transfers control within its function to a linear slot (R102). -/
def Jumps (s t : State) (slot : Nat) : Prop :=
  Goes s t (codeAddr s.here.1 slot) (popTo s.here.1 slot s.me.loops)

/-! ## Runs -/

/-- s reaches t in n steps, each of them a next state. -/
def Reaches : Nat → State → State → Prop
  | 0, s, t => s = t
  | n + 1, s, t => ∃ u, step s = .next u ∧ Reaches n u t

end Sys2Proof.Machine
end

