-- ==== Sys2Proof/Certificates/Slice0/Obligations.lean ====
section
/-! DEFINITION. The statements for the provers, and the tables they are written with. Each statement's docstring says
which rule of spec/ it formalises. Where a statement is about every instruction of a table, the table names them. -/

open Sys2Proof Sys2Proof.Machine

/-! ## Classes 0 and 1: integer instructions (R71–R86) -/

namespace Sys2Proof.Claims

/-- What the arithmetic, logical, shift and comparison instructions of R74 and R75 write, and where. -/
def basicResult (s : State) : Instr → Option (GReg × Word)
  | .add d a b => some (d, s.g a + s.g b)
  | .sub d a b => some (d, s.g a - s.g b)
  | .and d a b => some (d, s.g a &&& s.g b)
  | .or d a b => some (d, s.g a ||| s.g b)
  | .xor d a b => some (d, s.g a ^^^ s.g b)
  | .andn d a b => some (d, s.g a &&& ~~~(s.g b))
  | .shl d a b => some (d, s.g a <<< ((s.g b).toNat % 64))
  | .shr d a b => some (d, s.g a >>> ((s.g b).toNat % 64))
  | .sra d a b => some (d, (s.g a).sshiftRight ((s.g b).toNat % 64))
  | .rol d a b => some (d, (s.g a).rotateLeft (s.g b).toNat)
  | .ror d a b => some (d, (s.g a).rotateRight (s.g b).toNat)
  | .min d a b => some (d, if (s.g a).slt (s.g b) then s.g a else s.g b)
  | .max d a b => some (d, if (s.g a).slt (s.g b) then s.g b else s.g a)
  | .minu d a b => some (d, if s.g a < s.g b then s.g a else s.g b)
  | .maxu d a b => some (d, if s.g a < s.g b then s.g b else s.g a)
  | .seq d a b => some (d, if s.g a = s.g b then 1 else 0)
  | .sne d a b => some (d, if s.g a = s.g b then 0 else 1)
  | .slt d a b => some (d, if (s.g a).slt (s.g b) then 1 else 0)
  | .sltu d a b => some (d, if s.g a < s.g b then 1 else 0)
  | .addi d a imm => some (d, s.g a + imm.signExtend 64)
  | .andi d a imm => some (d, s.g a &&& imm.signExtend 64)
  | .ori d a imm => some (d, s.g a ||| imm.signExtend 64)
  | .xori d a imm => some (d, s.g a ^^^ imm.signExtend 64)
  | .slti d a imm => some (d, if (s.g a).slt (imm.signExtend 64) then 1 else 0)
  | .shli d a n => some (d, s.g a <<< n.toNat)
  | .shri d a n => some (d, s.g a >>> n.toNat)
  | .srai d a n => some (d, (s.g a).sshiftRight n.toNat)
  | .li d imm => some (d, imm)
  | _ => none

/-- What the multiplications, divisions and remaining class 0 instructions write (R76–R81). -/
def wideResult (s : State) : Instr → Option (GReg × Word)
  | .mul d a b => some (d, s.g a * s.g b)
  | .mulh d a b => some (d, ((s.g a).signExtend 128 * (s.g b).signExtend 128).extractLsb' 64 64)
  | .mulhu d a b => some (d, ((s.g a).setWidth 128 * (s.g b).setWidth 128).extractLsb' 64 64)
  | .div d a b => some (d, if s.g b = 0 then BitVec.allOnes 64 else (s.g a).sdiv (s.g b))
  | .divu d a b => some (d, if s.g b = 0 then BitVec.allOnes 64 else s.g a / s.g b)
  | .rem d a b => some (d, if s.g b = 0 then s.g a else (s.g a).srem (s.g b))
  | .remu d a b => some (d, if s.g b = 0 then s.g a else s.g a % s.g b)
  | .sel d a b c => some (d, if s.g a ≠ 0 then s.g b else s.g c)
  | .lea d a b e imm => some (d, s.g a + (s.g b <<< e.toNat) + imm.signExtend 64)
  | .sext d a n => some (d, ((s.g a).setWidth n.toNat).signExtend 64)
  | .zext d a n => some (d, ((s.g a).setWidth n.toNat).setWidth 64)
  | .bfx d a pos len => some (d, ((s.g a >>> pos.toNat).setWidth len.toNat).setWidth 64)
  | .brev d a => some (d, (s.g a).reverse)
  | .clz d a => some (d, (s.g a).clz)
  | .ctz d a => some (d, (s.g a).ctz)
  | .popc d a => some (d, BitVec.ofNat 64 ((List.range 64).countP fun i => (s.g a).getLsbD i))
  | _ => none

/-- Ones of x below bit i. -/
def onesBelow (x : Word) (i : Nat) : Nat := (List.range i).countP fun k => x.getLsbD k

/-- The destination and bit i of what the bit-manipulation instructions of R81 and R83–R86 write. -/
def bitResult (s : State) (i : Nat) : Instr → Option (GReg × Bool)
  | .bmm8 d a b => some (d, (List.range 8).foldl (fun acc k =>
      Bool.xor acc ((s.g a).getLsbD (8 * (i / 8) + k) && (s.g b).getLsbD (8 * k + i % 8))) false)
  | .bmm8x d a b => some (d, (List.range 8).any fun k =>
      (s.g a).getLsbD (8 * (i / 8) + k) && (s.g b).getLsbD (8 * k + i % 8))
  | .bmm8t d a b => some (d, (List.range 8).foldl (fun acc k =>
      Bool.xor acc ((s.g a).getLsbD (8 * k + i / 8) && (s.g b).getLsbD (8 * k + i % 8))) false)
  | .pdep d a b => some (d, (s.g b).getLsbD i && (s.g a).getLsbD (onesBelow (s.g b) i))
  | .pext d a b => some (d, (List.range 64).any fun k =>
      (s.g b).getLsbD k && (s.g a).getLsbD k && onesBelow (s.g b) k == i)
  | .bfi d a b pos len => some (d,
      if pos.toNat ≤ i ∧ i < pos.toNat + len.toNat then (s.g b).getLsbD (i - pos.toNat) else (s.g a).getLsbD i)
  | .bswap d a => some (d, (s.g a).getLsbD (8 * (7 - i / 8) + i % 8))
  | _ => none

end Sys2Proof.Claims

open Sys2Proof.Claims in
/-- R74, R75, R82, with R36, R44 and R71: each of these instructions completes with the value of its row in gD, and
changes nothing else but what a fall-through changes. -/
def Obligations.BasicIntegerInstructionsWriteTheirResult : Prop :=
  ∀ (s : State) (i : Instr) (d : GReg) (w : Word), basicResult s i = some (d, w) →
    ∃ t, exec i s = .next t ∧ FallsThrough s t ∧ SetsG s t d w 0

open Sys2Proof.Claims in
/-- R76–R78, R81, R86: multiplication, division with its corners, selection, address arithmetic, extension, counts
and bit fields complete with the value of their row in gD, and change nothing else but what a fall-through changes. -/
def Obligations.WideIntegerInstructionsWriteTheirResult : Prop :=
  ∀ (s : State) (i : Instr) (d : GReg) (w : Word), wideResult s i = some (d, w) → i.wellFormed = true →
    ∃ t, exec i s = .next t ∧ FallsThrough s t ∧ SetsG s t d w 0

open Sys2Proof.Claims in
/-- R81, R83, R84, R86: the bit-matrix products, deposit, extract, insert and byte reversal, bit by bit. -/
def Sys2Proof.Claims.BitInstructionsWriteEachBit : Prop :=
  ∀ (s : State) (i : Instr) (d : GReg) (b : Bool), bitResult s 0 i = some (d, b) → i.wellFormed = true →
    ∃ t w, exec i s = .next t ∧ FallsThrough s t ∧ SetsG s t d w 0 ∧
      ∀ n, n < 64 → bitResult s n i = some (d, w.getLsbD n)

/-- R85: in an activation thread bit k of BPERM's result is the bit of gA that byte k of the control names, or 0
where that byte is 128 or more; a service thread, which has no v registers, raises the illegal-instruction fault. -/
def Sys2Proof.Claims.BpermSelectsBits : Prop :=
  ∀ (s : State) (d a : GReg) (c : VIdx),
    (isAct s.cur = true → ∃ t w, exec (.bperm d a c) s = .next t ∧ FallsThrough s t ∧ SetsG s t d w 0 ∧
      ∀ k, k < 64 → w.getLsbD k = (!((s.v c).bits.getLsbD (8 * k + 7)) &&
        (s.g a).getLsbD (((s.v c).bits.extractLsb' (8 * k) 6).toNat))) ∧
    (isAct s.cur = false → exec (.bperm d a c) s =
      .next (s.takeFault { code := 0x01, val := (encode (.bperm d a c)).extractLsb' 32 64 }))

/-- R79, R80: the fields of WIDSPEC have their widths from bit 0 of the specification up, and field n of an identifier
lies above the fields after it. WIDX writes field n of gA, and WIDC gA with the bits below field n cleared. In a
service thread WIDSPEC is zero. -/
def Sys2Proof.Claims.WidxAndWidcReadFields : Prop :=
  ∀ (s : State) (d a : GReg) (n : BitVec 3), n.toNat ≤ 5 →
    let spec : BitVec 36 := if isAct s.cur then s.me.act.widspec else 0
    let width : Nat → Nat := fun k => (spec.extractLsb' (6 * k) 6).toNat
    let low : Nat := ((List.range 6).map fun k => if n.toNat < k then width k else 0).sum
    (∃ t, exec (.widx d a n) s = .next t ∧ FallsThrough s t ∧
      SetsG s t d (((s.g a >>> low).setWidth (width n.toNat)).setWidth 64) 0) ∧
    (∃ t, exec (.widc d a n) s = .next t ∧ FallsThrough s t ∧ SetsG s t d ((s.g a >>> low) <<< low) 0)


/-- The instructions whose result is given bit by bit or field by field: the bit-matrix products, deposit, extract,
insert and byte reversal (R81, R83, R84, R86); BPERM (R85); WIDX and WIDC (R79, R80). -/
def Obligations.BitInstructionsWriteTheirResult : Prop :=
  Sys2Proof.Claims.BitInstructionsWriteEachBit ∧
  Sys2Proof.Claims.BpermSelectsBits ∧
  Sys2Proof.Claims.WidxAndWidcReadFields
/-! ## Class 1: scalar FP32 (R87–R95) -/

namespace Sys2Proof.Claims

/-- The mode that RM names; DYN takes DRM of FSTAT, whose values 0, 6 and 7 name none, and RNE in a service thread (R49, R88). -/
def roundMode (s : State) (rm : Rm) : Option Rm :=
  if rm ≠ .dyn then some rm
  else if isAct s.cur = false then some .rne
  else match Decode.rmOf s.me.drm with
    | some .dyn => none
    | o => o

/-- The FP32 datum in bits [31:0] of gA (R87, R243). -/
def fpOf (s : State) (r : GReg) : Fp := fpDecode 8 ((s.g r).toNat % 2 ^ 32)

/-- Destination, num field, result bits and flags of the instructions that round to FP32 (R90, R91, R93). -/
def fpResult (s : State) (rm : Rm) : Instr → Option (GReg × Num × Nat × FFlags)
  | .fadd d a b n => some (d, n, roundWith 8 rm false (fpAdd rm (fpOf s a) (fpOf s b)))
  | .fsub d a b n => some (d, n, roundWith 8 rm false (fpSub rm (fpOf s a) (fpOf s b)))
  | .fmul d a b n => some (d, n, roundWith 8 rm false (fpMul (fpOf s a) (fpOf s b)))
  | .fma d a b c n => some (d, n, roundWith 8 rm false (fpFma rm (fpOf s a) (fpOf s b) (fpOf s c)))
  | .fmin d a b n => some (d, n, fpMinMax 8 false ((s.g a).toNat % 2 ^ 32) ((s.g b).toNat % 2 ^ 32))
  | .fmax d a b n => some (d, n, fpMinMax 8 true ((s.g a).toNat % 2 ^ 32) ((s.g b).toNat % 2 ^ 32))
  | .fcvtif d a n => some (d, n, fpRound 8 rm n.ovf (exactOfInt (intDecode n.fmt (s.g a).toNat)))
  | _ => none

/-- Operands and operation of the comparisons (R92). -/
def fpTestOf : Instr → Option (GReg × GReg × GReg × Nat)
  | .feq d a b => some (d, a, b, 0)
  | .flt d a b => some (d, a, b, 1)
  | .fle d a b => some (d, a, b, 2)
  | _ => none

/-- The place of a number on the line from −∞ to +∞: the infinities before and after every finite value. -/
def fpPlace : Fp → Option (Int × ℚ)
  | .nan _ _ => none
  | .inf neg => some (if neg then -1 else 1, 0)
  | .fin neg m e => some (0, (if neg then -1 else 1) * (m : ℚ) * (2 : ℚ) ^ e)
def fpBelow (x y : Int × ℚ) : Prop := x.1 < y.1 ∨ x.1 = y.1 ∧ x.2 < y.2
/-- The datum is a NaN, and a signalling one. -/
def fpNan (x : Fp) : Prop := ∃ neg sig, x = .nan neg sig
def fpSignalling (x : Fp) : Prop := ∃ neg, x = .nan neg true

/-- The value of a finite datum. -/
def finValue (neg : Bool) (m : Nat) (e : Int) : ℚ := (if neg then -1 else 1) * (m : ℚ) * (2 : ℚ) ^ e
/-- v is the integer that q rounds to under rm (R253). -/
def RoundsToInt (rm : Rm) (q : ℚ) (v : Int) : Prop :=
  match rm with
  | .rne => |q - v| < 1 / 2 ∨ |q - v| = 1 / 2 ∧ v % 2 = 0
  | .rtz => v = if q < 0 then ⌈q⌉ else ⌊q⌋
  | .rdn => v = ⌊q⌋
  | .rup => v = ⌈q⌉
  | .rna => |q - v| < 1 / 2 ∨ |q - v| = 1 / 2 ∧ |q| < |(v : ℚ)|
  | .dyn => False

/-- The instructions with an RM field in class 1, by their num field (R90, R91, R93, R94). -/
def fpNum : Instr → Option Num
  | .fadd _ _ _ n | .fsub _ _ _ n | .fmul _ _ _ n | .fma _ _ _ _ n | .fmin _ _ _ n | .fmax _ _ _ n
  | .fcvtif _ _ n | .fcvtfi _ _ n => some n
  | _ => none

end Sys2Proof.Claims

open Sys2Proof.Claims in
/-- R87, R88, R90, R91, R93: with a rounding mode, FADD, FSUB, FMUL, FMA, FMIN, FMAX and FCVTIF write their FP32 result
to bits [31:0] of gD and zero above, OR their flags into FSTAT, and change nothing else but what a fall-through changes. -/
def Sys2Proof.Claims.ScalarFpWritesItsRoundedResult : Prop :=
  ∀ (s : State) (i : Instr) (rm : Rm) (d : GReg) (n : Sys2Proof.Num) (x : Nat) (fl : FFlags),
    fpResult s rm i = some (d, n, x, fl) → roundMode s n.rm = some rm → i.wellFormed = true → Sys2Proof.Num.reserved n.fmt = false →
    ∃ t, exec i s = .next t ∧ FallsThrough s t ∧ SetsG s t d (BitVec.ofNat 64 x) fl ∧ x < 2 ^ 32

open Sys2Proof.Claims in
/-- R92: FEQ, FLT and FLE write 1 or 0. -0 equals +0, a NaN compares false, and NV is raised by a NaN operand of FLT
or FLE and by a signalling NaN of FEQ; they raise no other flag. -/
def Obligations.ScalarFpComparisonsWriteOneOrZero : Prop :=
  ∀ (s : State) (i : Instr) (d a b : GReg) (op : Nat), fpTestOf i = some (d, a, b, op) →
    ∃ t w fl, exec i s = .next t ∧ FallsThrough s t ∧ SetsG s t d w fl ∧ (w = 0 ∨ w = 1) ∧ (fl = 0 ∨ fl = flNV) ∧
      (fl = flNV ↔ if op = 0 then fpSignalling (fpOf s a) ∨ fpSignalling (fpOf s b) else fpNan (fpOf s a) ∨ fpNan (fpOf s b)) ∧
      (w = 1 ↔ ∃ x y, fpPlace (fpOf s a) = some x ∧ fpPlace (fpOf s b) = some y ∧
        if op = 0 then x = y else if op = 1 then fpBelow x y else fpBelow x y ∨ x = y)

/-- R94, R95, R253: with a rounding mode and an integer format, FCVTFI rounds the FP32 datum to an integer v. In range gD
receives v with the sign or zeros above, and NX is raised where v is not the datum. Out of range, and for a NaN or an infinity,
NV alone is raised, and gD receives what OVF says. -/
def Sys2Proof.Claims.FcvtfiWritesTheRoundedInteger : Prop :=
  ∀ (s : State) (d a : GReg) (n : Sys2Proof.Num) (rm : Rm), Claims.roundMode s n.rm = some rm → Sys2Proof.Num.isI n.fmt = true →
    ∃ t w fl, exec (.fcvtfi d a n) s = .next t ∧ FallsThrough s t ∧ SetsG s t d w fl ∧
      (∃ v : Int, w = BitVec.ofInt 64 v ∧ intMin n.fmt ≤ v ∧ v ≤ intMax n.fmt) ∧
      (∀ neg sig, Claims.fpOf s a = .nan neg sig → fl = flNV ∧
        w = BitVec.ofInt 64 (if n.ovf then 0 else if fmtSigned n.fmt then intMin n.fmt else intMax n.fmt)) ∧
      (∀ neg, Claims.fpOf s a = .inf neg → fl = flNV ∧
        w = BitVec.ofInt 64 (if n.ovf then (if neg then intMin n.fmt else intMax n.fmt)
          else if fmtSigned n.fmt then intMin n.fmt else intMax n.fmt)) ∧
      (∀ (neg : Bool) (m : Nat) (e v : Int), Claims.fpOf s a = .fin neg m e → RoundsToInt rm (finValue neg m e) v →
        if intMin n.fmt ≤ v ∧ v ≤ intMax n.fmt then
          w = BitVec.ofInt 64 v ∧ fl = if (v : ℚ) = finValue neg m e then 0 else flNX
        else fl = flNV ∧ w = BitVec.ofInt 64 (if n.ovf then (if neg then intMin n.fmt else intMax n.fmt)
          else if fmtSigned n.fmt then intMin n.fmt else intMax n.fmt))

open Sys2Proof.Claims in
/-- R49, R88, R95: where DYN finds no mode, an instruction with an RM field raises the illegal-instruction fault; with a
mode, a reserved format code of a conversion raises the format fault. -/
def Sys2Proof.Claims.ScalarFpWithoutModeIsIllegal : Prop :=
  ∀ (s : State) (i : Instr) (n : Sys2Proof.Num), fpNum i = some n →
    (roundMode s n.rm = none → exec i s = .next (s.takeFault { code := 0x01, val := (encode i).extractLsb' 32 64 })) ∧
    (roundMode s n.rm ≠ none → Sys2Proof.Num.reserved n.fmt = true → ((∃ d a, i = .fcvtif d a n) ∨ ∃ d a, i = .fcvtfi d a n) →
      ∃ val, exec i s = .next (s.takeFault { code := 0x06, val }))

/-- R243, R253, R254: rounding is exact where it can be. In every floating-point format and mode the datum that a code
of it reads as, when it is not zero, rounds to that code and raises no flag. -/
def Obligations.RepresentableNumbersRoundToThemselves : Prop :=
  ∀ (f : BitVec 5) (rm : Rm) (ovf neg : Bool) (x m : Nat) (e : Int),
    8 ≤ f.toNat → f.toNat ≤ 15 → x < 2 ^ fmtBits f → fpDecode f x = .fin neg m e → m ≠ 0 →
    fpRoundNum f rm ovf neg m e false = (x, 0)


/-- R87, R88, R90, R91, R93–R95, R253: with a rounding mode the scalar FP32 instructions and conversions write their
rounded result and OR their flags into FSTAT; without one they raise the illegal-instruction fault, and a conversion
with a reserved format the format fault (R49). -/
def Obligations.ScalarFpIsRoundedAsItsModeSays : Prop :=
  Sys2Proof.Claims.ScalarFpWritesItsRoundedResult ∧
  Sys2Proof.Claims.FcvtfiWritesTheRoundedInteger ∧
  Sys2Proof.Claims.ScalarFpWithoutModeIsIllegal
/-! ## Class 2: control flow (R36–R37, R97–R124) -/

namespace Sys2Proof.Claims

/-- The TGT bit of a linear slot of the running thread's function is set (R35, R37). -/
def isTarget (s : State) (slot : Int) : Prop :=
  0 ≤ slot ∧ ∃ f l, s.myInst = some f ∧ f.lines[slot.toNat / 5]? = some l ∧ l.lw.getLsbD (slot.toNat % 5) = true

/-- Whether a branch or JMP is taken, and its offset (R97, R98). -/
def branchOf (s : State) : Instr → Option (Prop × BitVec 48)
  | .beq a b off => some (s.g a = s.g b, off)
  | .bne a b off => some (s.g a ≠ s.g b, off)
  | .blt a b off => some ((s.g a).slt (s.g b) = true, off)
  | .bge a b off => some ((s.g b).sle (s.g a) = true, off)
  | .bltu a b off => some (s.g a < s.g b, off)
  | .bgeu a b off => some (s.g b ≤ s.g a, off)
  | .jmp off => some (True, off)
  | _ => none

/-- The slot that an offset names (R36). -/
def slotOfOffset (s : State) (off : BitVec 48) : Int := (s.here.2 : Int) + off.toInt

/-- Slots of the running thread's function. -/
def slotsHere (s : State) : Nat := match s.myInst with | some f => 5 * f.lines.length | none => 0

/-- The trip count of LOOP or LOOPI, the body's length, and whether bits [63:32] of a LOOP's gA are zero (R101). -/
def loopOf (s : State) : Instr → Option (BitVec 32 × Nat × Bool)
  | .loop a len => some ((s.g a).extractLsb' 0 32, len.toNat, (s.g a).extractLsb' 32 32 == 0)
  | .loopi len count => some (count, len.toNat, true)
  | _ => none

/-- The state in which the running instruction has taken the branch-target fault for a slot (R37, R42). -/
def slotFault (s : State) (slot : Int) : State :=
  s.takeFault { code := 0x03, val := BitVec.ofInt 64 ((s.here.1.toNat : Int) * 2 ^ 32 + slot / 5 * 64 + slot % 5) }

end Sys2Proof.Claims

open Sys2Proof.Claims in
/-- R36, R37, R97, R98, R102: a branch whose condition does not hold falls through and checks nothing; one whose
condition holds, and JMP, go to the slot that their offset names, when its TGT bit is set. No register changes. -/
def Sys2Proof.Claims.BranchesGoToTheirSlot : Prop :=
  ∀ (s : State) (i : Instr) (c : Prop) (off : BitVec 48), branchOf s i = some (c, off) →
    (¬ c → ∃ t, exec i s = .next t ∧ FallsThrough s t ∧ KeepsRegs s t) ∧
    (c → isTarget s (slotOfOffset s off) →
      ∃ t, exec i s = .next t ∧ Jumps s t (slotOfOffset s off).toNat ∧ KeepsRegs s t) ∧
    (c → ¬ isTarget s (slotOfOffset s off) → exec i s = .next (slotFault s (slotOfOffset s off)))

open Sys2Proof.Claims in
/-- R37, R98: JMPR goes to a slot of its own function whose TGT bit is set; any other address raises the branch-target
fault with MTVAL = gA. -/
def Sys2Proof.Claims.JmprStaysInItsFunction : Prop :=
  ∀ (s : State) (a : GReg),
    let w := s.g a
    let ok := handleOf w = s.here.1 ∧ w.extractLsb' 3 3 = 0 ∧ (w.extractLsb' 0 3).toNat ≤ 4 ∧
      isTarget s ((w.extractLsb' 6 26).toNat * 5 + (w.extractLsb' 0 3).toNat : Nat)
    (ok → ∃ t, exec (.jmpr a) s = .next t ∧ KeepsRegs s t ∧
      Jumps s t ((w.extractLsb' 6 26).toNat * 5 + (w.extractLsb' 0 3).toNat)) ∧
    (¬ ok → exec (.jmpr a) s = .next (s.takeFault { code := 0x03, val := w }))

open Sys2Proof.Claims in
/-- R99: LEAC writes the code address of the slot that its offset names, whatever its TGT bit, and raises the
branch-target fault with MTVAL = the offset where that slot is no slot of the function. -/
def Sys2Proof.Claims.LeacWritesASlotAddress : Prop :=
  ∀ (s : State) (d : GReg) (off : BitVec 48),
    let slot := slotOfOffset s off
    (0 ≤ slot → slot < slotsHere s →
      ∃ t, exec (.leac d off) s = .next t ∧ FallsThrough s t ∧
        SetsG s t d (BitVec.ofNat 64 (s.here.1.toNat * 2 ^ 32 + slot.toNat / 5 * 64 + slot.toNat % 5)) 0) ∧
    (slot < 0 ∨ slotsHere s ≤ slot → exec (.leac d off) s = .next (s.takeFault { code := 0x03, val := off.signExtend 64 }))

open Sys2Proof.Claims in
/-- R100, R101: LOOP and LOOPI with fewer than four entries, a body within the function and within the body of the top
entry of the frame, push their loop when the count is not 0 and go on at its first slot; the first check that fails
raises the loop fault with its MTVAL. -/
def Sys2Proof.Claims.LoopsAreCheckedInOrderAndPushed : Prop :=
  ∀ (s : State) (i : Instr) (n : BitVec 32) (len : Nat) (fits : Bool), loopOf s i = some (n, len, fits) →
    let first := s.here.2 + 1
    let last := s.here.2 + len
    let nested := ∀ e rest, frameOf s.me.loops = e :: rest → last ≤ e.last
    (s.me.loops.length < 4 → fits = true → last < slotsHere s → nested → n ≠ 0 →
      ∃ t, exec i s = .next t ∧ KeepsRegs s t ∧ Goes s t (codeAddr s.here.1 first)
        ({ handle := s.here.1, first, last, count := n } :: s.me.loops)) ∧
    (s.me.loops.length < 4 → fits = true → last < slotsHere s → n = 0 →
      (∀ e rest, frameOf s.me.loops = e :: rest → last < e.last) →
      ∃ t, exec i s = .next t ∧ KeepsRegs s t ∧ Jumps s t (last + 1)) ∧
    (4 ≤ s.me.loops.length → exec i s = .next (s.takeFault { code := 0x0D, val := 2 })) ∧
    (s.me.loops.length < 4 → fits = false → exec i s = .next (s.takeFault { code := 0x0D, val := 1 })) ∧
    (s.me.loops.length < 4 → fits = true → slotsHere s ≤ last → exec i s = .next (s.takeFault { code := 0x0D, val := 5 })) ∧
    (s.me.loops.length < 4 → fits = true → last < slotsHere s → ¬ nested →
      exec i s = .next (s.takeFault { code := 0x0D, val := 3 }))

/-- R102: at a fall-through from the last slot of the top entry of the frame, an entry whose count is above 1 sends
control back to its first slot with the count one less, and one whose count is 1 is popped; where no entry of the frame
ends, control goes on at the next slot and the stack stays. NOP does this and nothing else (R124). -/
def Sys2Proof.Claims.IterationsEndAtTheLastSlot : Prop :=
  ∀ (s : State), ∃ t, exec .nop s = .next t ∧ KeepsRegs s t ∧ OnlyThread s t ∧ t.me.rest s.cur = s.me.rest s.cur ∧
    (∀ e rest, s.me.loops = e :: rest → e.calls = 0 → e.handle = s.here.1 → e.last = s.here.2 → 1 < e.count.toNat →
      t.me.act.pc = codeAddr s.here.1 e.first ∧ t.me.loops = { e with count := e.count - 1 } :: rest) ∧
    (∀ e rest, s.me.loops = e :: rest → e.calls = 0 → e.handle = s.here.1 → e.last = s.here.2 → e.count = 1 →
      (∀ e' r', rest = e' :: r' → e'.calls ≠ 0 ∨ e'.handle ≠ s.here.1 ∨ e'.last ≠ s.here.2) →
      t.me.act.pc = codeAddr s.here.1 (s.here.2 + 1) ∧ t.me.loops = rest) ∧
    ((∀ e rest, s.me.loops = e :: rest → e.calls ≠ 0 ∨ e.handle ≠ s.here.1 ∨ e.last ≠ s.here.2) →
      t.me.act.pc = codeAddr s.here.1 (s.here.2 + 1) ∧ t.me.loops = s.me.loops)


/-- R36, R37, R97–R99, R102: branches, JMP and JMPR go to slots of their function whose TGT bit is set, and raise the
branch-target fault elsewhere; LEAC writes the code address of a slot. -/
def Obligations.JumpsGoToCheckedSlots : Prop :=
  Sys2Proof.Claims.BranchesGoToTheirSlot ∧
  Sys2Proof.Claims.JmprStaysInItsFunction ∧
  Sys2Proof.Claims.LeacWritesASlotAddress

/-- R100–R102, R124: LOOP and LOOPI check and push their loop, and a fall-through from the last slot of its body
iterates it or pops it. -/
def Obligations.LoopsArePushedAndIterated : Prop :=
  Sys2Proof.Claims.LoopsAreCheckedInOrderAndPushed ∧
  Sys2Proof.Claims.IterationsEndAtTheLastSlot
/-! ## Class 2: calls, YIELD, END and faults (R105, R111–R123, R391, R392) -/

namespace Sys2Proof.Claims

/-- The directory entry of a handle that the running thread may name: the monitor's own in monitor mode, its context's
in context mode (R107, R390). -/
def mayName (s : State) (h : BitVec 32) (e : DirEntry) : Prop :=
  (s.cluster (clusterOf s.cur)).entry h = some e ∧
  (if s.me.mode = .monitor then h.toNat < 256 else 256 ≤ h.toNat ∧ e.pid = s.me.act.pid)

/-- Call site i of the running function is the slot it stands at (R105). -/
def callSiteIs (s : State) (f : Inst) (i : Nat) : Prop :=
  f.calls.findIdx (fun c => c.1 == s.here.2) = i

/-- No answer of an access, and no forest operation, is outstanding (R68, R178). -/
def settled (s : State) : Prop := s.quietAt s.cur = true ∧ s.me.eqops = []
/-- Every message is delivered as well (R226, R227). -/
def finished (s : State) : Prop := s.allDone s.cur = true ∧ s.me.eqops = []

/-- Everything of the state but its threads and what counts activations is unchanged: memory, queues, messages in
channels, engine jobs, kilns, owners, fabric. -/
structure KeepsUnits (s t : State) : Prop where
  others : ∀ u, u ≠ s.cur → t.th u = s.th u
  bytes : ∀ a, t.mem.byte a = s.mem.byte a
  mem : t.mem = s.mem
  jobs : ∀ b, (t.block b).jobs = (s.block b).jobs
  queues : ∀ b, (t.block b).queues = (s.block b).queues
  slots : ∀ b c, ((t.block b).chan c).slots = ((s.block b).chan c).slots
  dirs : ∀ c, (t.cluster c).dir = (s.cluster c).dir
  owners : ∀ o, (t.owner o).pents = (s.owner o).pents
  cycle : t.cycle = s.cycle

end Sys2Proof.Claims

open Sys2Proof.Claims in
/-- R102, R105, R111: CALLD and CALLDR with an index into the digest table, whose function has an entry of the context
and a resident instance, write the link to g31, raise the CALLS of the top loop entry and go to slot 0 of line 0. -/
def Sys2Proof.Claims.CallsEnterTheResidentFunction : Prop :=
  ∀ (s : State) (i : Instr) (k : Nat) (f callee : Inst) (dig : Digest) (e : DirEntry) (site : Nat),
    ((∃ n : BitVec 32, i = .calld n ∧ n.toNat = k) ∨ ∃ a, i = .calldr a ∧ (s.g a).toNat = k ∧ k < 2 ^ 32) →
    isAct s.cur = true → s.myInst = some f → f.digs[k]? = some dig → callSiteIs s f site →
    s.lookup (clusterOf s.cur) s.me.act.pid (s.me.mode == .monitor) dig = some e →
    (s.cluster (clusterOf s.cur)).inst e.handle = some callee → callee.tgt 0 = true →
    (∀ l rest, s.me.loops = l :: rest → l.calls ≠ BitVec.allOnes 32) →
    ∃ t, exec i s = .next t ∧
      SetsG s t 31 (BitVec.ofNat 64 (s.here.1.toNat * 2 ^ 32 + site)) 0 ∧
      Goes s t (codeAddr e.handle 0)
        (match s.me.loops with | [] => [] | l :: rest => { l with calls := l.calls + 1 } :: rest)

/-- R111, R125: an index beyond the digest table, or a CALLDR whose gA[63:32] is not 0, raises the branch-target fault;
a service thread raises the illegal-instruction fault. -/
def Sys2Proof.Claims.BadCallsFault : Prop :=
  ∀ (s : State) (k : BitVec 32) (a : GReg) (f : Inst),
    (isAct s.cur = true → s.myInst = some f → f.digs.length ≤ k.toNat →
      exec (.calld k) s = .next (s.takeFault { code := 0x03, val := BitVec.ofNat 64 k.toNat })) ∧
    (isAct s.cur = true → (s.g a).extractLsb' 32 32 ≠ 0 →
      exec (.calldr a) s = .next (s.takeFault { code := 0x03, val := s.g a })) ∧
    (isAct s.cur = false →
      exec (.calld k) s = .next (s.takeFault { code := 0x01, val := (encode (.calld k)).extractLsb' 32 64 }) ∧
      exec (.calldr a) s = .next (s.takeFault { code := 0x01, val := (encode (.calldr a)).extractLsb' 32 64 }))

open Sys2Proof.Claims in
/-- R112: RET with a link to a resident function of the context goes to the slot after the call site that g31 names,
with no TGT check, pops the loops of the frame it leaves, and lowers the CALLS of the entry below. g31 stays. A link
that names no entry, or no call site of the instance, raises the branch-target fault with MTVAL = g31; a link of 0 does
what END does. -/
def Sys2Proof.Claims.RetReturnsToTheCallSite : Prop :=
  ∀ (s : State), isAct s.cur = true →
    let link := s.g 31
    let h : BitVec 32 := link.extractLsb' 32 32
    let n := (link.extractLsb' 0 32).toNat
    (∀ e f site, link ≠ 0 → mayName s h e → e.inst = some f → f.calls[n]? = some site →
      ∃ t, exec .ret s = .next t ∧ KeepsRegs s t ∧
        Goes s t (codeAddr h (site.1 + 1))
          (match s.me.loops.dropWhile fun l => l.calls == 0 with
            | [] => [] | l :: rest => { l with calls := l.calls - 1 } :: rest)) ∧
    (∀ e f, link ≠ 0 → mayName s h e → e.inst = some f → f.calls.length ≤ n →
      exec .ret s = .next (s.takeFault { code := 0x03, val := link })) ∧
    (link ≠ 0 → (∀ e, ¬ mayName s h e) → exec .ret s = .next (s.takeFault { code := 0x03, val := link })) ∧
    (link = 0 → exec .ret s = exec .endAct s)

open Sys2Proof.Claims in
/-- R119, R162, R400: YIELD, with every access answered and no error recorded, opens a new interval: RETIRE is 0, DLINE is the
deadline or the channel's default times 256, and the registers that its masks do not name read as zero, the v registers
with tag NONE. Where no candidate pre-empts it and its cluster does not drain (R425), nothing else changes but what a fall-through changes; else the
activation is kept in one of the block's records 0 to 63, outside of which no byte changes, and its core is free. Monitor mode is never pre-empted. -/
def Sys2Proof.Claims.YieldOpensAnInterval : Prop :=
  ∀ (s : State) (vmask deadline : BitVec 16) (gmask : BitVec 32), isAct s.cur = true → settled s →
    s.me.act.deferred = none →
    ∃ t a, exec (.yield vmask deadline gmask) s = .next t ∧
      a.pc = s.fallPc ∧ a.retire = 0 ∧
      a.dline.toNat = 256 * (if deadline = 0 then s.me.act.deadline else deadline).toNat ∧
      (∀ r : VIdx, Map.get {} a.v r.toNat = if vmask.getLsbD r.toNat = true then s.vreg r else {}) ∧
      (s.me.mode = .context → ∀ r : GReg, Map.get 0 a.g r.toNat =
        if gmask.getLsbD r.toNat = true then Map.get 0 s.me.act.g r.toNat else 0) ∧
      (s.me.mode = .monitor → a.g = s.me.act.g) ∧
      a.flags = s.me.act.flags ∧ a.reply = s.me.act.reply ∧ a.wid = s.me.act.wid ∧ a.streams = s.me.act.streams ∧
      (∀ u, u ≠ s.cur → t.th u = s.th u) ∧ t.me.mg = (if s.me.mode = .monitor then t.me.mg else s.me.mg) ∧
      (s.me.mode = .monitor ∨ (s.retire.preempts = false ∧ s.drains = false) →
        t.me.act = a ∧ OnlyThread s t ∧ t.mem = s.mem ∧ t.me.mode = s.me.mode ∧ t.me.status = s.me.status ∧
        (∀ r, t.reg r = if gmask.getLsbD r.toNat = true then s.reg r else 0)) ∧
      (s.me.mode = .context → s.retire.preempts = true ∨ s.drains = true →
        let blk := blockOf s.cur
        t.me.status = .idle ∧ ∃ d ∈ (t.block blk).displaced, d.act = a ∧ d.atSend = none ∧ (∀ n, d.place = some n → n < 64) ∧
          ∀ x, (∀ n, d.place = some n → x < s.recordAt blk n ∨ s.recordAt blk n + 0x1300 ≤ x) → t.mem.byte x = s.mem.byte x)

open Sys2Proof.Claims in
/-- R122, R227: END, with every access answered, every message delivered and no failure recorded, ends the activation: its registers and loop stack are
discarded and its core is free. Memory, queued messages and the engine jobs it issued stay. A recorded access error is
taken first, then a matrix failure, then a card-job failure, and taking one clears its record. -/
def Sys2Proof.Claims.EndFreesTheCore : Prop :=
  ∀ (s : State), isAct s.cur = true → finished s →
    (s.me.act.deferred = none → s.me.act.matrixFail = none → s.me.act.cardFail = none →
      ∃ t, exec .endAct s = .next t ∧ KeepsUnits s t ∧ t.me.status = .idle ∧ t.me.mode = .context ∧
        (∀ r, t.reg r = 0) ∧ (∀ r, t.vreg r = {}) ∧ t.me.loops = [] ∧ t.me.act.pid = s.me.act.pid) ∧
    (∀ tr, s.me.act.deferred = some tr → exec .endAct s = .next (s.takeDeferred tr)) ∧
    (∀ tr, s.me.act.deferred = none → s.me.act.matrixFail = some tr →
      exec .endAct s = .next ((s.modMyAct fun a => { a with mstat := a.mstat &&& 0x0000FF000000001F }).takeFault tr)) ∧
    (∀ tr, s.me.act.deferred = none → s.me.act.matrixFail = none → s.me.act.cardFail = some tr →
      exec .endAct s = .next ((s.modMyAct fun a => { a with jstat := a.jstat &&& 0x0000FFFF00000000 }).takeFault tr))

/-- R391: a fault of an activation in context mode that no replay answers enters the monitor: MEPC is the slot's code
address, the next slot's after TRAP and MCALL, or the address of the release access whose error is taken late, MCAUSE and MTVAL are the fault's, the mode is monitor, and the pc is
slot 0 of the vector function's line of the cause. An MCALL copies g1 to g8 to the monitor bank. The context's
registers, its RETIRE, memory and every other thread stay. -/
def Obligations.FaultsEnterTheMonitor : Prop :=
  ∀ (s : State) (tr : Trap), isAct s.cur = true → s.me.mode = .context →
    ((tr.code = 0x16 ∨ tr.code = 0x0A) → s.replayable s.me.act = false) →
    (∀ f, (s.cluster (clusterOf s.cur)).inst 1 = some f → f.tgt (5 * tr.code.toNat) = true) →
    let t := s.takeFault tr
    t.me.mode = .monitor ∧ t.me.status = .running ∧ t.me.mcause = tr.code ∧ t.me.mtval = tr.val ∧
    t.me.mepc = (match tr.epc with
      | some a => a
      | none => if tr.nextSlot then codeAddr s.here.1 (s.here.2 + 1) else match s.me.view with | some w => w.pc | none => s.me.act.pc) ∧
    t.me.act.pc = BitVec.ofNat 64 (2 ^ 32 + 64 * tr.code.toNat) ∧
    (∀ r : GReg, t.reg r = if tr.code = 0 ∧ 1 ≤ r.toNat ∧ r.toNat ≤ 8 then Map.get 0 s.me.act.g r.toNat
      else if r = 0 then 0 else Map.get 0 s.me.mg r.toNat) ∧
    t.me.act.g = s.me.act.g ∧ t.me.act.v = s.me.act.v ∧ t.me.act.retire = s.me.act.retire ∧
    t.me.act.dline = s.me.act.dline ∧ t.me.act.flags = s.me.act.flags ∧ t.me.act.loops = s.me.act.loops ∧
    t.mem = s.mem ∧ (∀ u, u ≠ s.cur → t.th u = s.th u) ∧ t.trap = some tr

/-- R392: a fault in monitor mode is a double fault. The thread leaves monitor mode, its activation ends, its core is
withdrawn from dispatch, and the chip log receives a record of the cause with sub-reason 0xFF. -/
def Sys2Proof.Claims.FaultsInMonitorModeAreDouble : Prop :=
  ∀ (s : State) (tr : Trap), isAct s.cur = true → s.me.mode = .monitor →
    let t := s.takeFault tr
    t.me.mode = .context ∧ t.me.status = .idle ∧ (t.owner (coreOf s.cur)).withdrawn = true ∧ t.mem = s.mem ∧
    ∃ r ∈ t.sys.log, r.cause = tr.code ∧ r.sub = 0xFF ∧ r.mtval = tr.val ∧ r.src = sourceOf s.cur

/-- R32, R50, R123: the instructions and events whose effect is a fault take it: TRAP the software trap with its code,
resumed at the slot after; a word of an unassigned opcode the illegal-instruction fault; a fall-through past the
instance the branch-target fault; the deadline and the retirement limit the watchdog fault. -/
def Obligations.TrapsAndWatchdogsTakeTheirFault : Prop :=
  ∀ (s : State) (code : BitVec 48) (w : InstrWord),
    exec (.trap code) s = .next (s.takeFault { code := 0x13, val := code.setWidth 64, nextSlot := true }) ∧
    exec (.unassignedOpcode w) s = .next (s.takeFault { code := 0x01, val := w.extractLsb' 32 64 }) ∧
    exec .fallThroughPastInstance s = .next (s.takeFault { code := 0x03, val := s.me.act.pc }) ∧
    exec .deadlineOverrun s = .next (s.takeFault { code := 0x0C, val := 1 }) ∧
    exec .retireLimit s = .next (s.takeFault { code := 0x0C, val := 0 })

/-- R392: the event of a double fault ends the activation of the running thread, withdraws its core, and logs it. -/
def Sys2Proof.Claims.DoubleFaultWithdrawsTheCore : Prop :=
  ∀ (s : State) (code : Byte) (val : Word), isAct s.cur = true →
    ∃ t, exec (.doubleFault code val) s = .next t ∧ t.me.mode = .context ∧ t.me.status = .idle ∧
      (t.owner (coreOf s.cur)).withdrawn = true ∧ t.mem = s.mem ∧
      ∃ r ∈ t.sys.log, r.cause = code ∧ r.sub = 0xFF ∧ r.mtval = val ∧ r.src = sourceOf s.cur


/-- R102, R105, R111, R112, R125: a call by digest enters its resident function and leaves the link in g31; RET goes
to the call site that g31 names; a bad index or link raises the branch-target fault. -/
def Obligations.CallsEnterAndReturn : Prop :=
  Sys2Proof.Claims.CallsEnterTheResidentFunction ∧
  Sys2Proof.Claims.BadCallsFault ∧
  Sys2Proof.Claims.RetReturnsToTheCallSite

/-- R119, R122, R162, R400: YIELD opens a new interval and keeps the registers it names; END ends the activation once
its accesses are answered, after the recorded failures. -/
def Obligations.IntervalsAndActivationsEnd : Prop :=
  Sys2Proof.Claims.YieldOpensAnInterval ∧
  Sys2Proof.Claims.EndFreesTheCore

/-- R392: a fault in monitor mode, and the event of a double fault, end the activation, withdraw its core from
dispatch and append a record to the chip log. -/
def Obligations.DoubleFaultsWithdrawTheCore : Prop :=
  Sys2Proof.Claims.FaultsInMonitorModeAreDouble ∧
  Sys2Proof.Claims.DoubleFaultWithdrawsTheCore
/-! ## Class 3: messages, channels, queues, joins (R128–R161) -/

namespace Sys2Proof.Claims

/-- The running instruction has retired by falling through; other threads stay. Registers, memory and units are
said apart. -/
structure Moved (s t : State) : Prop where
  at' : t.me.act.pc = s.fallPc
  stack : t.me.loops = (loopFall s.here.1 s.here.2 s.me.loops).1
  cur : t.cur = s.cur
  mode : t.me.mode = s.me.mode
  status : t.me.status = s.me.status
  others : ∀ u, u ≠ s.cur → t.th u = s.th u
  trap : t.trap = s.trap

/-- As Moved, and every byte of memory stays. -/
structure Retired (s t : State) : Prop extends Moved s t where
  bytes : ∀ a, t.mem.byte a = s.mem.byte a

/-- Destination, reply address, payload, vector and status register of a sending instruction (R141). -/
def sendOf (s : State) : Instr → Option (Word × Word × List Word × Option VReg × Option GReg)
  | .send a b c n _ => some (s.g a, s.g c, (payload b n).map s.g, none, none)
  | .sendnb d a b c n _ => some (s.g a, s.g c, (payload b n).map s.g, none, some d)
  | .sendv a b c _ => some (s.g a, s.g c, [], some (s.v b), none)
  | .reply b n _ => if s.me.act.reply = 0 then none else some (s.me.act.reply, 0, (payload b n).map s.g, none, none)
  | _ => none

/-- A send on the thread's own die whose release may complete: every earlier access is performed and every earlier message
delivered, no error is recorded and no answer of another chip waits. -/
structure MaySend (s : State) (dst : Word) : Prop where
  act : isAct s.cur = true
  here : s.maHere s.me.act.pid dst = true
  die : s.maHome s.cur s.me.act.pid dst = dieOf s.cur
  quiet : s.settled s.cur = true
  clean : s.me.act.deferred = none
  fresh : s.me.sendAns = none
  hazards : s.haz = false

/-- No register but d changes, and d takes w. -/
def OnlyReg (s t : State) (d : GReg) (w : Word) : Prop :=
  (∀ r, t.reg r = if r = d ∧ r ≠ 0 then w else s.reg r) ∧ ∀ r, t.vreg r = s.vreg r
/-- No register changes. -/
def NoReg (s t : State) : Prop := (∀ r, t.reg r = s.reg r) ∧ ∀ r, t.vreg r = s.vreg r

/-- The fault of a code is taken, with an MTVAL that the spec does not state: a free value (log 8). -/
def RaisesOpen (s : State) (code : Byte) (o : Host.Outcome State Fault Refusal) : Prop :=
  ∃ (u : State) (val : Word), o = .next (u.takeFault { code, val }) ∧ u = { s with free := u.free }

/-- The state in which the running instruction has stalled at its slot. -/
def Stalls (s t : State) (w : Wait) : Prop :=
  t.me.status = .stalled w ∧ t.me.act.pc = s.me.act.pc ∧ NoReg s t ∧ t.flight = s.flight ∧ t.mem = s.mem ∧
  ∀ u, u ≠ s.cur → t.th u = s.th u

end Sys2Proof.Claims

open Sys2Proof.Claims in
/-- R128, R134, R141: SEND, SENDNB, SENDV and REPLY to a destination of the own die that grants put one message in
flight: its destination, reply address, payload or vector, source value, work identifier, launch and context are the
sender's. SENDNB writes status 0. -/
def Sys2Proof.Claims.GrantedSendsPutAMessageInFlight : Prop :=
  ∀ (s : State) (i : Instr) (dst reply : Word) (words : List Word) (vec : Option VReg) (nb : Option GReg),
    sendOf s i = some (dst, reply, words, vec, nb) → MaySend s dst → malformed dst = false → 1 ≤ maKind dst → maKind dst ≤ 4 →
    (vec.isSome = true → maKind dst = 2) → s.me.resent = [] → s.answerTo s.cur s.me.act.pid dst words.length = .grant →
    ∃ t m, exec i s = .next t ∧ Retired s t ∧ t.flight = s.flight ++ [m] ∧
      m.dest = dst ∧ m.reply = reply ∧ m.payload = words ∧ m.vec = vec ∧ m.src = sourceOf s.cur ∧
      m.wid = s.me.act.wid ∧ m.launch = s.me.act.launch ∧ m.pid = s.me.act.pid ∧ m.applied = true ∧
      (match nb with | some d => OnlyReg s t d 0 | none => NoReg s t)

open Sys2Proof.Claims in
/-- R129, R141: a malformed destination, or one of a KIND that no send reaches, raises the send-refused fault with MTVAL the
destination; so does a SENDV to a well-formed address of KIND 1, 3 or 4, which is the model's choice (log 17): R141 says that
SENDV names only a channel, and names no fault for another KIND. A destination that is full stalls a blocking send and gives SENDNB
status 1; one that is unbound or refuses gives SENDNB status 2 or 3, and raises the send-refused fault in the others. No
message is in flight then. -/
def Sys2Proof.Claims.SendsThatAreNotGranted : Prop :=
  ∀ (s : State) (i : Instr) (dst reply : Word) (words : List Word) (vec : Option VReg) (nb : Option GReg),
    sendOf s i = some (dst, reply, words, vec, nb) → isAct s.cur = true →
    let bad := malformed dst = true ∨ maKind dst = 0 ∨ 5 ≤ maKind dst ∨ (vec.isSome = true ∧ maKind dst ≠ 2)
    (bad → exec i s = .next (s.takeFault { code := 0x0F, val := dst })) ∧
    (¬ bad → MaySend s dst → ∀ a, s.answerTo s.cur s.me.act.pid dst words.length = a →
      (a = .full → nb = none → ∃ t, exec i s = .next t ∧ Stalls s t .send) ∧
      (∀ d, nb = some d → a = .full ∨ a = .unbound ∨ a = .refused →
        ∃ t, exec i s = .next t ∧ Retired s t ∧ t.flight = s.flight ∧ OnlyReg s t d a.status) ∧
      (nb = none → a = .unbound ∨ a = .refused → exec i s = .next (s.takeFault { code := 0x0F, val := dst })))

open Sys2Proof.Claims in
/-- R141: a REPLY whose latched reply address is 0 has no effect but to retire. -/
def Sys2Proof.Claims.ReplyWithoutAddressHasNoEffect : Prop :=
  ∀ (s : State) (b : GReg) (n : BitVec 4) (ord : Bool), isAct s.cur = true → s.me.act.reply = 0 →
    ∃ t, exec (.reply b n ord) s = .next t ∧ FallsThrough s t ∧ KeepsRegs s t

open Sys2Proof.Claims in
/-- R148: LAUNCH reads the 128-byte header from S at gA and puts it into the inbox that gB names, with the sender's
source value, context and work identifier, when gB is an inbox of the own die, whatever the
inbox holds: that it has room for every header is the model's choice (log 54), where R148 stalls LAUNCH until a slot is granted. No
earlier access of the thread to those bytes, and no earlier acquire, may still be to be performed. -/
def Sys2Proof.Claims.LaunchPutsTheHeaderIntoTheInbox : Prop :=
  ∀ (s s1 : State) (a b : GReg) (bs : List Byte), MaySend s (s.g b) → malformed (s.g b) = false → maKind (s.g b) = 6 →
    s.readWaits (s.g a) 128 = false → s.readS (s.g a) 128 64 = .ok (bs, s1) →
    ∃ t h, exec (.launch a b) s = .next t ∧ Retired s t ∧ NoReg s t ∧
      (t.cluster (maCluster (s.g b))).inbox = (s.cluster (maCluster (s.g b))).inbox ++ [h] ∧
      h.bytes = bs ∧ h.src = sourceOf s.cur ∧ h.pid = s.me.act.pid ∧ h.wid = s.me.act.wid ∧ h.vi = s.me.act.vi

open Sys2Proof.Claims in
/-- R149: TRIGGER, with every earlier access performed and every earlier message delivered, of an enumerated activation that has
not triggered counts one release of its launch; of an activation
that has, or of a recruit, or above stage 0, it only retires. -/
def Sys2Proof.Claims.TriggerReleasesOnce : Prop :=
  ∀ (s : State), isAct s.cur = true → s.settled s.cur = true →
    let a := s.me.act
    let idle := a.triggered = true ∨ a.recruit = true ∨ (a.stage ≠ 0xFF ∧ 1 ≤ a.stage.toNat)
    ∃ t, exec .trigger s = .next t ∧ Retired s t ∧ NoReg s t ∧
      (idle → t.sys = s.sys) ∧
      (¬ idle → t.me.act.triggered = true ∧ ∀ l, s.launch? a.launch = some l →
        ∃ l', t.launch? a.launch = some l' ∧ l'.released = l.released + (if a.enumNo.isSome then 1 else 0))

open Sys2Proof.Claims in
/-- R157, R228: a queue register holds at most eight words. With no acquire to be performed first, and, for QPUSH, every
earlier access performed and message delivered: with no older waiter QPUSH appends gA where there is room and stalls where there is none; QPOP takes the oldest word, QPEEK reads it and leaves it, and both stall on an empty one; QTRY takes
it and writes 1 to gB, or writes 0 to gB on an empty one. -/
def Sys2Proof.Claims.QueueRegistersAreFirstInFirstOut : Prop :=
  ∀ (s : State) (q : QIdx) (d a : GReg), isAct s.cur = true → s.acqWaits = false →
    let blk := blockOf s.cur
    let items := ((s.block blk).queue q).items
    let after : State → List Word := fun t => ((t.block blk).queue q).items
    (s.settled s.cur = true → items.length + ((s.block blk).queue q).reserved < 8 → s.myTurn q false = true →
      ∃ t, exec (.qpush q a) s = .next t ∧ Retired s t ∧ NoReg s t ∧ after t = items ++ [s.g a]) ∧
    (s.settled s.cur = true → 8 ≤ items.length + ((s.block blk).queue q).reserved →
      ∃ t, exec (.qpush q a) s = .next t ∧ Stalls s t (.queue q false) ∧ after t = items) ∧
    (∀ w rest, items = w :: rest → s.myTurn q true = true →
      ∃ t, exec (.qpop d q) s = .next t ∧ Retired s t ∧ OnlyReg s t d w ∧ after t = rest) ∧
    (∀ w rest, items = w :: rest → ∃ t, exec (.qpeek d q) s = .next t ∧ Retired s t ∧ OnlyReg s t d w ∧ after t = items) ∧
    (items = [] → (∃ t, exec (.qpop d q) s = .next t ∧ Stalls s t (.queue q true)) ∧
      ∃ t, exec (.qpeek d q) s = .next t ∧ Stalls s t (.queue q true)) ∧
    (∀ w rest, items = w :: rest → ∃ t, exec (.qtry d q a) s = .next t ∧ Retired s t ∧ after t = rest ∧
      ∀ r, t.reg r = if r = a ∧ r ≠ 0 then 1 else if r = d ∧ r ≠ 0 then w else s.reg r) ∧
    (items = [] → ∃ t, exec (.qtry d q a) s = .next t ∧ Retired s t ∧ OnlyReg s t a 0 ∧ after t = [])

open Sys2Proof.Claims in
/-- R158: SPOP takes the next element of a bound stream and stalls while there is none; STRY takes it and writes 1 to gB,
writes 0 where there is none yet and 2 where the register is not bound. The binding ends with the last element. -/
def Sys2Proof.Claims.StreamRegistersGiveTheirElements : Prop :=
  ∀ (s : State) (x : SIdx) (d b : GReg), isAct s.cur = true → s.acqWaits = false →
    (∀ st w rest, s.me.act.stream x = some st → st.buf = w :: rest →
      let left : Option Stream := if rest = [] ∧ st.ended = true then none else some { st with buf := rest }
      (∃ t, exec (.spop d x) s = .next t ∧ Retired s t ∧ OnlyReg s t d w ∧ t.me.act.stream x = left) ∧
      ∃ t, exec (.stry d x b) s = .next t ∧ Retired s t ∧ t.me.act.stream x = left ∧
        ∀ r, t.reg r = if r = b ∧ r ≠ 0 then 1 else if r = d ∧ r ≠ 0 then w else s.reg r) ∧
    (∀ st, s.me.act.stream x = some st → st.buf = [] → st.ended = false →
      (∃ t, exec (.spop d x) s = .next t ∧ Stalls s t (.stream x)) ∧
      ∃ t, exec (.stry d x b) s = .next t ∧ Retired s t ∧ OnlyReg s t b 0) ∧
    (s.me.act.stream x = none → ∃ t, exec (.stry d x b) s = .next t ∧ Retired s t ∧ OnlyReg s t b 2)

open Sys2Proof.Claims in
/-- R26, R135–R137: CHBIND binds the channel of the block that the context's number is mapped to, when it belongs to the context and is idle, to the function that its index
names, with the priority, stage and deadline of the 16 bytes at gA; CHINFO reads handle, BOUND, priority, stage and the
counts of waiting and running messages of a bound channel. -/
def Obligations.ChannelsAreBoundAndReported : Prop :=
  ∀ (s : State) (c : CIdx) (d a b : GReg) (keep : Bool), isAct s.cur = true →
    let blk := blockOf s.cur
    let no := s.chanNo blk s.me.act.pid c
    let ch := (s.block blk).chan no
    (s.readWaits (s.g a) 16 = false → ∀ f dig e bs s1, s.myInst = some f → (s.g b).toNat < 2 ^ 32 →
      f.digs[(s.g b).toNat]? = some dig → s.readS (s.g a) 16 16 = .ok (bs, s1) →
      s1.lookup (clusterOf s.cur) s.me.act.pid (s.me.mode == .monitor) dig = some e →
      field bs 1 1 ≤ 7 → (field bs 2 1 ≤ 7 ∨ field bs 2 1 = 0xFF) → field bs 3 1 = 0 → field bs 6 2 = 0 → field bs 12 4 = 0 →
      ch.ownedBy s.me.act.pid = true → (keep = true ∨ (ch.slots = [] ∧ ch.reserved = 0 ∧ ch.running = 0)) →
      ∃ t n, exec (.chbind c a b keep) s = .next t ∧ Retired s t ∧ NoReg s t ∧ ((t.block blk).chan no).bind = some n ∧
        n.handle = e.handle ∧ n.prio.toNat = field bs 1 1 ∧ n.stage.toNat = field bs 2 1 ∧ n.pid = s.me.act.pid ∧
        n.deadline.toNat = (if field bs 4 2 = 0 then 0xFFFF else field bs 4 2)) ∧
    (∀ n, ch.bind = some n → n.pid = s.me.act.pid →
      ∃ t w, exec (.chinfo d c) s = .next t ∧ FallsThrough s t ∧ SetsG s t d w 0 ∧
        w.extractLsb' 32 32 = n.handle ∧ w.getLsbD 31 = true ∧ w.extractLsb' 28 3 = n.prio ∧ w.extractLsb' 20 8 = n.stage ∧
        (w.extractLsb' 15 5).toNat = min 16 ch.slots.length ∧ (w.extractLsb' 10 5).toNat = min 16 ch.running ∧
        w.extractLsb' 0 10 = 0)

open Sys2Proof.Claims in
/-- R154–R156: JINIT sets up a cell of the context, or a free one, whose count is 0: COUNT mode with gA[31:0], or FORK mode
with gA as the continuation; that a continuation which the cell still owes stays owed is the model's choice (log 100). JOIN on a COUNT cell goes on when the count is 0 and stalls until then; on a FORK cell with
more than one participant left it lowers the count and ends the activation. -/
def Sys2Proof.Claims.JoinCellsCountDown : Prop :=
  ∀ (s : State) (a : GReg) (j : JIdx) (count : Bool), isAct s.cur = true →
    let cell := (s.cluster (clusterOf s.cur)).join j
    let after : State → JoinCell := fun t => (t.cluster (clusterOf s.cur)).join j
    (cell.foreign s.me.act.pid = false → cell.count = 0 → (count = true → (s.g a).toNat < 2 ^ 32) →
      ∃ t, exec (.jinit a j count) s = .next t ∧ Retired s t ∧ NoReg s t ∧ (after t).mode = some count ∧
        (after t).owed = cell.owed ∧ (after t).pid = s.me.act.pid ∧ (count = true → (after t).count = (s.g a).setWidth 32) ∧
        (count = false → (after t).count = 0 ∧ (after t).cont = s.g a)) ∧
    (cell.mode = some true → cell.pid = s.me.act.pid →
      (cell.count = 0 → ∃ t, exec (.join j) s = .next t ∧ FallsThrough s t ∧ KeepsRegs s t) ∧
      (cell.count ≠ 0 → ∃ t, exec (.join j) s = .next t ∧ Stalls s t (.join j))) ∧
    (cell.mode = some false → cell.pid = s.me.act.pid → 1 < cell.count.toNat → s.settled s.cur = true →
      s.quietAt s.cur = true → s.me.eqops = [] → s.me.act.deferred = none → s.me.act.matrixFail = none → s.me.act.cardFail = none →
      ∃ t, exec (.join j) s = .next t ∧ t.me.status = .idle ∧ (after t).count = cell.count - 1 ∧ t.mem = s.mem)

open Sys2Proof.Claims in
/-- R155: FORK with no idle core of the launch's blocks makes the running activation the one participant: the cell counts
1, g1 to g11 stay, g12 and g13 are 0 and T, every other register is 0, and control goes to the body. With idle cores
it recruits the lowest ones (the model's choice: R155 does not say which, log 100), at most one for each chunk of G items, and
goes on after the FORK; the cell counts them. -/
def Sys2Proof.Claims.ForkRecruitsIdleCores : Prop :=
  ∀ (s : State) (a b : GReg) (j : JIdx) (off : BitVec 48), isAct s.cur = true →
    let cell := (s.cluster (clusterOf s.cur)).join j
    let after : State → JoinCell := fun t => (t.cluster (clusterOf s.cur)).join j
    let chunks := ((s.g a).toNat + (s.g b).toNat - 1) / (s.g b).toNat
    let idle := (s.idleOf (s.blocksIn (clusterOf s.cur) s.me.act.launch)).take chunks
    cell.mode = some false → cell.pid = s.me.act.pid → cell.count = 0 → s.g b ≠ 0 → isTarget s (slotOfOffset s off) →
    (idle = [] → ∃ t, exec (.fork a b j off) s = .next t ∧ t.me.act.pc = codeAddr s.here.1 (slotOfOffset s off).toNat ∧
      t.me.loops = popTo s.here.1 (slotOfOffset s off).toNat s.me.loops ∧ (after t).count = 1 ∧ t.mem = s.mem ∧
      (∀ r : GReg, t.reg r = if 1 ≤ r.toNat ∧ r.toNat ≤ 11 then s.g r else if r = 13 then s.g a else 0) ∧
      (∀ r, t.vreg r = {}) ∧ ∀ u, u ≠ s.cur → t.th u = s.th u) ∧
    (idle ≠ [] → idle.Nodup → idle.length ≤ 128 → s.me.status = .running → ∃ t, exec (.fork a b j off) s = .next t ∧ t.me.act.pc = s.fallPc ∧ NoReg s t ∧
      (after t).count.toNat = idle.length ∧
      ∀ k u, idle[k]? = some u → (t.th u).status = .running ∧ (t.th u).mode = .context ∧
        (t.th u).act.pc = codeAddr s.here.1 (slotOfOffset s off).toNat ∧ (t.th u).act.recruit = true ∧
        (t.th u).reg 14 = BitVec.ofNat 64 k ∧ (t.th u).reg 12 = BitVec.ofNat 64 (k * chunks / idle.length * (s.g b).toNat))

open Sys2Proof.Claims in
/-- R79, R88, R100, R120, R121, R127, R159–R161, R177, R217, R351: GETC reads the registers of an activation thread, by
number: CHAN with the stage, PRIO, WID, WIDSPEC, CYCLE, DLINE, RETIRE, FSTAT, CODEFLT, LC0 to LC3, EQLAST, RFAULT, TICKET,
MCACK, MODEL and TTLMASK. -/
def Sys2Proof.Claims.GetcReadsTheActivationRegisters : Prop :=
  ∀ (s : State) (d : GReg) (n : BitVec 12) (w : Word), isAct s.cur = true →
    (let x := s.me
     let a := x.act
     let level : Nat → Word := fun k => match x.loops.reverse[k]? with
       | some l => BitVec.ofNat 64 (l.calls.toNat * 2 ^ 32 + l.count.toNat)
       | none => 0
     [(0x000, BitVec.ofNat 64 s.cur), (0x001, BitVec.ofNat 64 (a.stage.toNat * 256 + a.chan.toNat)),
      (0x002, BitVec.ofNat 64 a.prio.toNat), (0x003, a.wid), (0x004, BitVec.ofNat 64 a.widspec.toNat), (0x005, s.cycle),
      (0x006, BitVec.ofNat 64 a.dline.toNat), (0x007, BitVec.ofNat 64 a.retire),
      (0x008, BitVec.ofNat 64 (x.drm.toNat * 256 + x.flagsRead.toNat)), (0x00A, a.codeflt),
      (0x00B, level 0), (0x00C, level 1), (0x00D, level 2), (0x00E, level 3),
      (0x012, BitVec.ofNat 64 a.eqlast.toNat), (0x016, a.rfault), (0x017, a.ticket), (0x018, a.mcack),
      (0x019, 0x00030001), (0x01A, BitVec.ofNat 64 a.ttlmask.toNat)].any fun p => decide (p = (n.toNat, w))) = true →
    ∃ t, exec (.getc d n) s = .next t ∧ FallsThrough s t ∧ SetsG s t d w 0

open Sys2Proof.Claims in
/-- R88, R159, R161: SETC lowers PRIO, writes DRM and the flags of FSTAT, and writes CODEFLT; a PRIO above the present one
raises the illegal-instruction fault, as do a read-only register and one that does not exist. -/
def Sys2Proof.Claims.SetcWritesWhatItMay : Prop :=
  ∀ (s : State) (a : GReg), isAct s.cur = true →
    let w := s.g a
    ((w.extractLsb' 0 3).toNat ≤ s.me.act.prio.toNat →
      ∃ t, exec (.setc a 0x002) s = .next t ∧ Retired s t ∧ NoReg s t ∧ t.me.act.prio = w.extractLsb' 0 3) ∧
    (s.me.act.prio.toNat < (w.extractLsb' 0 3).toNat →
      exec (.setc a 0x002) s = .next (s.takeFault { code := 0x01, val := (encode (.setc a 0x002)).extractLsb' 32 64 })) ∧
    (∃ t, exec (.setc a 0x008) s = .next t ∧ Retired s t ∧ NoReg s t ∧ t.me.act.drm = w.extractLsb' 8 3 ∧
      t.me.act.flags = w.extractLsb' 0 5) ∧
    (∃ t, exec (.setc a 0x00A) s = .next t ∧ Retired s t ∧ NoReg s t ∧ t.me.act.codeflt = w) ∧
    (∀ n : BitVec 12, n ∈ [0x000, 0x001, 0x003, 0x004, 0x005, 0x006, 0x007, 0x00F, 0x019, 0x7FF] →
      exec (.setc a n) s = .next (s.takeFault { code := 0x01, val := (encode (.setc a n)).extractLsb' 32 64 }))

open Sys2Proof.Claims in
/-- R159, R393: numbers 0x800 and above are the monitor's: outside monitor mode GETC and SETC of them raise the
monitor-only fault; in monitor mode GETC reads MCAUSE, MEPC, MTVAL, PID, ENCL, VIFID, WDCFG and SAVEBASE, and SETC
writes MCAUSE, MEPC, MTVAL, PID, ENCL, VIFID and WDCFG. -/
def Sys2Proof.Claims.MonitorRegistersAreTheMonitors : Prop :=
  ∀ (s : State) (r : GReg) (n : BitVec 12), 0x800 ≤ n.toNat →
    (isAct s.cur = false ∨ s.me.mode = .context →
      RaisesOpen s 0x15 (exec (.getc r n) s) ∧ RaisesOpen s 0x15 (exec (.setc r n) s)) ∧
    (isAct s.cur = true → s.me.mode = .monitor →
      (∀ w, (n.toNat, w) ∈ [(0x801, BitVec.ofNat 64 s.me.mcause.toNat), (0x802, s.me.mepc), (0x803, s.me.mtval),
          (0x804, BitVec.ofNat 64 s.me.act.pid.toNat), (0x805, BitVec.ofNat 64 s.me.act.encl.toNat),
          (0x808, BitVec.ofNat 64 s.me.act.vi.toNat), (0x80A, BitVec.ofNat 64 s.me.wdcfg.toNat),
          (0x80B, (s.block (blockOf s.cur)).savebase)] →
        ∃ t, exec (.getc r n) s = .next t ∧ FallsThrough s t ∧ SetsG s t r w 0) ∧
      (n.toNat ∈ [0x801, 0x802, 0x803, 0x804, 0x805, 0x808, 0x80A] →
        ∃ t, exec (.setc r n) s = .next t ∧ Retired s t ∧ NoReg s t ∧
          (n.toNat = 0x801 → t.me.mcause = (s.g r).extractLsb' 0 8) ∧ (n.toNat = 0x802 → t.me.mepc = s.g r) ∧
          (n.toNat = 0x803 → t.me.mtval = s.g r) ∧ (n.toNat = 0x804 → t.me.act.pid = (s.g r).extractLsb' 0 16) ∧
          (n.toNat = 0x805 → t.me.act.encl = (s.g r).extractLsb' 0 8) ∧
          (n.toNat = 0x808 → t.me.act.vi = (s.g r).extractLsb' 0 6) ∧
          (n.toNat = 0x80A → t.me.wdcfg = (s.g r).extractLsb' 0 16)))


/-- R128, R129, R134, R141: a send whose destination grants puts one message in flight; one that does not stalls,
answers a status, or raises the send-refused fault; a REPLY with no address has no effect. -/
def Obligations.SendsAreGrantedOrRefused : Prop :=
  Sys2Proof.Claims.GrantedSendsPutAMessageInFlight ∧
  Sys2Proof.Claims.SendsThatAreNotGranted ∧
  Sys2Proof.Claims.ReplyWithoutAddressHasNoEffect

/-- R148, R149: LAUNCH puts the header at S:[gA] into the inbox that gB names; TRIGGER releases its launch once. -/
def Obligations.LaunchAndTriggerAct : Prop :=
  Sys2Proof.Claims.LaunchPutsTheHeaderIntoTheInbox ∧
  Sys2Proof.Claims.TriggerReleasesOnce

/-- R157, R158, R228: queue registers hold up to eight words, first in first out; stream registers give the elements
of their copy job in order. -/
def Obligations.QueuesAndStreamsAreFirstInFirstOut : Prop :=
  Sys2Proof.Claims.QueueRegistersAreFirstInFirstOut ∧
  Sys2Proof.Claims.StreamRegistersGiveTheirElements

/-- R154–R156: JINIT and JOIN on COUNT and FORK cells, and FORK with and without idle cores. -/
def Obligations.JoinsAndForksCountTheirParticipants : Prop :=
  Sys2Proof.Claims.JoinCellsCountDown ∧
  Sys2Proof.Claims.ForkRecruitsIdleCores

/-- R79, R88, R100, R120, R121, R127, R159–R161, R177, R217, R351, R393: GETC reads, and SETC writes, the control
registers of an activation thread and, in monitor mode, those of the monitor; elsewhere they fault. -/
def Obligations.ControlRegistersAreReadAndWritten : Prop :=
  Sys2Proof.Claims.GetcReadsTheActivationRegisters ∧
  Sys2Proof.Claims.SetcWritesWhatItMay ∧
  Sys2Proof.Claims.MonitorRegistersAreTheMonitors

/-! ## Classes 4 and 5: accesses to memory (R168–R217) -/

namespace Sys2Proof.Claims

/-- The addresses of n-byte lanes from a base on, in a vector register's 256 bytes (R196). -/
def lanesFrom (base : Word) (n : Nat) : List Word := (List.range (256 / n)).map fun k => base + BitVec.ofNat 64 (n * k)
/-- Lane k, of n bytes, of a vector register. -/
def laneOf (v : VReg) (n k : Nat) : Nat := (v.bits.extractLsb' (8 * n * k) (8 * n)).toNat
/-- The addresses of a gather or scatter: base plus n times the index lane, an unsigned integer of n bytes (R197). -/
def lanesBy (base : Word) (n : Nat) (ix : VReg) : List Word :=
  (List.range (256 / n)).map fun k => base + BitVec.ofNat 64 (laneOf ix n k * n)
/-- Lanes with their data. -/
def withData (as : List Word) (n : Nat) (v : VReg) : List (Word × Nat × Nat × Word) :=
  as.zipIdx.map fun p => (p.1, n, laneOf v n p.2, 0)
def noData (as : List Word) (n : Nat) : List (Word × Nat × Nat × Word) := as.map fun a => (a, n, 0, 0)

/-- What a class 4 or 5 instruction accesses: what it does, its MOD, its destination, and its elements: address, bytes,
operand and second operand (R194–R198, R207–R212). -/
def accessOf (s : State) : Instr → Option (Access × MemF × Dest × List (Word × Nat × Nat × Word))
  | .ld d a b m imm => some (.load, m, .g d, [(s.g a + s.g b + imm.signExtend 64, sizeBytes m.sz, 0, 0)])
  | .ldx d a b m imm => some (.load, m, .g d, [(s.g a + (s.g b <<< sizeNo m.sz) + imm.signExtend 64, sizeBytes m.sz, 0, 0)])
  | .st a b c m imm =>
    some (.store, m, .none, [(s.g a + s.g b + imm.signExtend 64, sizeBytes m.sz, (s.g c).toNat % 2 ^ (8 * sizeBytes m.sz), 0)])
  | .stx a b c m imm =>
    some (.store, m, .none, [(s.g a + (s.g b <<< sizeNo m.sz) + imm.signExtend 64, sizeBytes m.sz, (s.g c).toNat % 2 ^ (8 * sizeBytes m.sz), 0)])
  | .vld d a b m imm => some (.load, m, .v d, noData (lanesFrom (s.g a + s.g b + imm.signExtend 64) (sizeBytes m.sz)) (sizeBytes m.sz))
  | .vst a b c m imm =>
    some (.store, m, .none, withData (lanesFrom (s.g a + s.g b + imm.signExtend 64) (sizeBytes m.sz)) (sizeBytes m.sz) (s.v c))
  | .vldx d a b m imm => some (.load, m, .v d, noData (lanesBy (s.g a + imm.signExtend 64) (sizeBytes m.sz) (s.v b)) (sizeBytes m.sz))
  | .vstx a b c m imm =>
    some (.store, m, .none, withData (lanesBy (s.g a + imm.signExtend 64) (sizeBytes m.sz) (s.v b)) (sizeBytes m.sz) (s.v c))
  | .tagrd d a b m imm => some (.tagRead, m, .g d, [(s.g a + s.g b + imm.signExtend 64, sizeBytes m.sz, 0, 0)])
  | .tagwr a b c m imm =>
    some (.tagWrite, m, .none, [(s.g a + s.g b + imm.signExtend 64, sizeBytes m.sz, (s.g c).toNat % 2 ^ (8 * sizeBytes m.sz), 0)])
  | .amo d a b c m op =>
    some (.amo (op.extractLsb' 0 6), m, .g d, [(s.g a + s.g b, sizeBytes m.sz, (s.g c).toNat % 2 ^ (8 * sizeBytes m.sz), 0)])
  | .amof d a b c m op => some (.amof (op.extractLsb' 0 6), m, .g d, [(s.g a + s.g b, 4, (s.g c).toNat % 2 ^ 32, 0)])
  | .cas d a b c m imm =>
    some (.cas, m, .g d, [(s.g a + imm.signExtend 64, sizeBytes m.sz, (s.g c).toNat % 2 ^ (8 * sizeBytes m.sz), s.g b)])
  | .vamo d a b c m op =>
    let o : BitVec 6 := op.extractLsb' 0 6
    some (if o.toNat < 16 then .amo o else .amof (o - 16), m, .v d,
      withData (lanesBy (s.g a) (sizeBytes m.sz) (s.v b)) (sizeBytes m.sz) (s.v c))
  | .ams d a b c m op => some (.ams (op.extractLsb' 0 6), m, .g d, [(s.g a, 8, (s.g b).toNat, s.g c)])
  | _ => none

/-- The space allows the access (R169, R198, R199). -/
def spaceFor (what : Access) (sp : Space) : Prop :=
  match what with
  | .load => sp ≠ .c ∧ sp ≠ .y
  | .store => sp = .s ∨ sp = .a ∨ sp = .xs ∨ sp = .xa ∨ sp = .d
  | _ => sp = .s ∨ sp = .xs ∨ sp = .d

/-- A protection entry grants the access, and a key slot holds its enclave's key (R170, R399). -/
def granted (s : State) (what : Access) (sp : Space) (ea : Word) (n : Nat) : Prop :=
  ∃ p k, s.pentFor s.cur sp ea n = some p ∧ (what.isStore = true ∨ p.r = true) ∧ (what.isLoad = true ∨ p.w = true) ∧
    (s.block (blockOf s.cur)).stampFor p.encl = some k

/-- Every check of R189 holds for an element; one in D lies on this chip. -/
def mayAccess (s : State) (what : Access) (sp : Space) (ea : Word) (n : Nat) : Prop :=
  spaceFor what sp ∧ ea.toNat % n = 0 ∧
  (sp = .d → s.onChip s.me.act.pid ea = true ∧ (dKind ea = 0 → dChip ea = 0) ∧
    (dKind ea = 1 → (dChip ea).toNat < s.jobSize s.me.act.pid)) ∧
  (sp ≠ .d → (flatAddr s.cur sp ea n).isSome ∧ granted s what sp ea n)

/-- An AMS finds its routine installed (R211). -/
def routineThere (s : State) (what : Access) : Prop :=
  ∀ k, what = .ams k → ∃ i, (s.me.act.pid, k, i) ∈ s.sys.routines

/-- A thread with no access outstanding, every message of which is delivered, accesses one word of a typed buffer of its own
block, and the model lets it act at once (log 3): the address is aligned and in range, the entry and the key are there, the
word is readable, no routine holds it, and nothing waits at its owner. -/
structure LocalWord (s : State) (what : Access) (sp : Space) (ea : Word) (n pa key : Nat) : Prop where
  act : isAct s.cur = true
  running : s.me.status = .running
  prompt : s.me.late = false
  delivered : s.delivered s.cur = true
  space : sp = .s ∨ sp = .a ∨ sp = .w ∧ what = .load
  aligned : ea.toNat % n = 0
  place : flatAddr s.cur sp ea n = some pa
  grant : ∃ p, s.pentFor s.cur sp ea n = some p ∧ (what.isStore = true ∨ p.r = true) ∧ (what.isLoad = true ∨ p.w = true) ∧
    (s.block (blockOf s.cur)).stampFor p.encl = some key
  stamp : s.mem.stamp (pa / 8) = 0 ∨ s.mem.stamp (pa / 8) = key
  sound : s.mem.bad (pa / 8) = false
  free : s.held pa = false
  calm : (s.owner (ownerAt pa)).retry = []
  alone : s.me.outst = []
  noTeam : s.teamOf s.me.act = none
  noHazards : s.haz = false
  clean : s.me.act.deferred = none

/-- The same of an outstanding access of thread t, as it is performed: it is the only one, of one whole element, and names
a typed buffer. -/
structure AtHome (s : State) (t : Nat) (r : Req) (e : Elem) : Prop where
  act : isAct t = true
  alone : (s.th t).outst = [r]
  sent : r.phase = .sent
  elems : r.elems = [e]
  fresh : e.done = false ∧ e.hold = .free ∧ e.loc = none ∧ e.mask = none
  delivered : s.delivered t = true
  whole : r.whole = false
  space : r.sp ≠ .d
  bank : 2 ^ 42 ≤ e.pa
  aligned : e.pa % e.size = 0
  size : e.size = 1 ∨ e.size = 2 ∨ e.size = 4 ∨ e.size = 8
  stamp : s.mem.stamp (e.pa / 8) = 0 ∨ s.mem.stamp (e.pa / 8) = e.key
  sound : s.mem.bad (e.pa / 8) = false
  free : s.held e.pa = false
  calm : (s.owner (ownerAt e.pa)).retry = []
  noTeam : s.teamOf (s.th t).act = none
  noHazards : (s.th t).trcfg.getLsbD 0 = false

/-- What the tag of a word must be for an access to go on (R185, R204). -/
def tagMeets (sy : Sync) (tag : Bool) : Prop :=
  ((sy = .wf ∨ sy = .wfe) → tag = true) ∧ (sy = .wef → tag = false)
/-- The tag that a store leaves (R185). -/
def tagStored (sy : Sync) (old : Bool) : Bool :=
  match sy with | .wef | .sf => true | .se => false | _ => old
/-- The tag that an atomic leaves after a write (R204). -/
def tagAtomic (sy : Sync) (old : Bool) : Bool :=
  match sy with | .plain => old | .wf | .wef | .sf => true | .wfe | .se => false

/-- Bytes pa to pa + n − 1 hold x, little-endian, and every other byte stays. -/
def Stores (s t : State) (pa n x : Nat) : Prop :=
  ∀ a, t.mem.byte a = if pa ≤ a ∧ a < pa + n then BitVec.ofNat 8 (x / 256 ^ (a - pa)) else s.mem.byte a
/-- Word w has tag b, and every other tag stays. -/
def SetsTag (s t : State) (w : Nat) (b : Bool) : Prop := ∀ v, t.mem.tag v = if v = w then b else s.mem.tag v

/-- What an integer atomic writes over old, as numbers of w bits (R207). -/
def amoResult (opn w old c : Nat) : Option Nat :=
  let x : BitVec w := BitVec.ofNat w old
  let y : BitVec w := BitVec.ofNat w c
  match opn with
  | 0 => some y.toNat
  | 1 => some (x + y).toNat
  | 2 => some (x &&& y).toNat
  | 3 => some (x ||| y).toNat
  | 4 => some (x ^^^ y).toNat
  | 5 => some (if x.slt y then x else y).toNat
  | 6 => some (if x.slt y then y else x).toNat
  | 7 => some (min old c)
  | 8 => some (max old c)
  | 9 => some (if c ≤ old then 0 else old + 1)
  | _ => none

end Sys2Proof.Claims

open Sys2Proof.Claims in
/-- R168, R185, R190, R194: LD and LDX of one word of S, A or W of the own block, whose tag lets the access go on, write
the bytes there to gD, with their sign or zeros above, and retire. WFE leaves the word empty; no other tag, and no byte
of memory, changes. -/
def Sys2Proof.Claims.LocalLoadsReadTheirBytes : Prop :=
  ∀ (s : State) (i : Instr) (m : MemF) (d : GReg) (ea : Word) (pa key : Nat),
    (∃ a b imm, i = .ld d a b m imm ∧ ea = s.g a + s.g b + imm.signExtend 64 ∨
      i = .ldx d a b m imm ∧ ea = s.g a + (s.g b <<< sizeNo m.sz) + imm.signExtend 64) →
    m.sz ≠ .l → m.sy = .plain ∨ m.sy = .wf ∨ m.sy = .wfe → m.sp = .s ∨ m.sy = .plain →
    LocalWord s .load m.sp ea (sizeBytes m.sz) pa key → tagMeets m.sy (s.mem.tag (pa / 8)) →
    let x : BitVec (8 * sizeBytes m.sz) := BitVec.ofNat _ (s.mem.read pa (sizeBytes m.sz))
    ∃ t, exec i s = .next t ∧ Retired s t ∧ SetsG s t d (if m.sx then x.signExtend 64 else x.setWidth 64) 0 ∧
      t.me.outst = [] ∧ SetsTag s t (pa / 8) (if m.sy = .wfe then false else s.mem.tag (pa / 8))

open Sys2Proof.Claims in
/-- R168, R185, R190, R195: ST and STX to one word of S or A of the own block, whose tag lets the access go on, write the
low bytes of gC there and retire; the word's tag is as R185 says. Every other byte and tag, and every register, stays. -/
def Sys2Proof.Claims.LocalStoresWriteTheirBytes : Prop :=
  ∀ (s : State) (i : Instr) (m : MemF) (c : GReg) (ea : Word) (pa key : Nat),
    (∃ a b imm, i = .st a b c m imm ∧ ea = s.g a + s.g b + imm.signExtend 64 ∨
      i = .stx a b c m imm ∧ ea = s.g a + (s.g b <<< sizeNo m.sz) + imm.signExtend 64) →
    m.sz ≠ .l → m.sy = .plain ∨ m.sy = .wef ∨ m.sy = .sf ∨ m.sy = .se → m.sp = .s ∨ m.sy = .plain →
    LocalWord s .store m.sp ea (sizeBytes m.sz) pa key → tagMeets m.sy (s.mem.tag (pa / 8)) →
    ∃ t, exec i s = .next t ∧ Moved s t ∧ NoReg s t ∧ t.me.outst = [] ∧
      Stores s t pa (sizeBytes m.sz) (s.g c).toNat ∧ SetsTag s t (pa / 8) (tagStored m.sy (s.mem.tag (pa / 8)))

open Sys2Proof.Claims in
/-- R168, R178, R193–R198, R203, R207–R212: an access that passes its checks, to another block or to device memory of
this chip, or an atomic, or any that does not act at once (log 3), retires once it is accepted. It is the thread's youngest outstanding access, with the elements
that its addressing and operands give, none of them performed yet; no register and no byte of memory changes. -/
def Obligations.AccessesRetireWhenAccepted : Prop :=
  ∀ (s : State) (i : Instr) (what : Access) (m : MemF) (dst : Dest) (es : List (Word × Nat × Nat × Word)),
    accessOf s i = some (what, m, dst, es) → isAct s.cur = true → es ≠ [] →
    (∀ e ∈ es, mayAccess s what m.sp e.1 e.2.1) → routineThere s what →
    what.isAtom = true ∨ m.sp = .xs ∨ m.sp = .xa ∨ m.sp = .xw ∨ m.sp = .d ∨ s.me.late = true →
    s.haz = false → s.me.act.deferred = none → (m.sp = .d → s.releaseStalls (dieOf s.cur) = false) →
    ∃ t q, exec i s = .next t ∧ Moved s t ∧ NoReg s t ∧ t.mem = s.mem ∧ t.me.outst = s.me.outst ++ [q] ∧
      q.what = what ∧ q.sp = m.sp ∧ q.sync = m.sy ∧ q.sx = m.sx ∧ q.dst = dst ∧ q.phase = .sent ∧ q.seq = s.me.nextSeq ∧
      q.pid = s.me.act.pid ∧ q.src = sourceOf s.cur ∧ q.elems.map (fun e => (e.ea, e.size)) = es.map (fun e => (e.1, e.2.1)) ∧
      (what.isLoad = false → q.elems.map (fun e => (e.data.toNat % 2 ^ (8 * e.size), e.data2)) = es.map fun e => e.2.2) ∧
      ∀ e ∈ q.elems, e.done = false ∧ e.hold = .free

open Sys2Proof.Claims in
/-- R169, R170, R189: the checks of an access to a local or cross-block space come in order, each over every element
before the next (the model's reading of R189, log 45): a space the access may not name raises the space-access fault with the first address, then the first
misaligned address the alignment fault, the first out of range the space-access fault, and the first without protection
the protection fault. That an atomic needs both R and W is the model's reading of R170 (log 46). -/
def Obligations.AccessChecksComeInOrder : Prop :=
  ∀ (s : State) (i : Instr) (what : Access) (m : MemF) (dst : Dest) (es : List (Word × Nat × Nat × Word)),
    accessOf s i = some (what, m, dst, es) → isAct s.cur = true → m.sp ≠ .y → m.sp ≠ .d → routineThere s what →
    let fine : Word × Nat × Nat × Word → Prop := fun e => e.1.toNat % e.2.1 = 0
    let inRange : Word × Nat × Nat × Word → Prop := fun e => (flatAddr s.cur m.sp e.1 e.2.1).isSome
    ∀ before e after, es = before ++ e :: after →
      (¬ spaceFor what m.sp → before = [] → exec i s = .next (s.takeFault { code := 0x08, val := e.1 })) ∧
      (spaceFor what m.sp → (∀ x ∈ before, fine x) → ¬ fine e → exec i s = .next (s.takeFault { code := 0x09, val := e.1 })) ∧
      (spaceFor what m.sp → (∀ x ∈ es, fine x) → (∀ x ∈ before, inRange x) → ¬ inRange e →
        exec i s = .next (s.takeFault { code := 0x08, val := e.1 })) ∧
      (spaceFor what m.sp → (∀ x ∈ es, fine x ∧ inRange x) → (∀ x ∈ before, granted s what m.sp x.1 x.2.1) →
        ¬ granted s what m.sp e.1 e.2.1 → exec i s = .next (s.takeFault { code := 0x07, val := e.1 }))

open Sys2Proof.Claims in
/-- R168, R183, R185, R190: when an outstanding load or store of one word is performed at its home, the load has the
bytes there as its result, and the store changes those bytes and no other; the tag is as R185 says, and the access is
done. Where the tag keeps the access waiting, no byte changes. -/
def Sys2Proof.Claims.OutstandingAccessesArePerformedAtHome : Prop :=
  ∀ (s : State) (t : Nat) (r : Req) (e : Elem), AtHome s t r e →
    (r.what = .load → r.sync = .plain ∨ r.sync = .wf ∨ r.sync = .wfe → tagMeets r.sync (s.mem.tag (e.pa / 8)) →
      ∃ u q, exec (.accessAnswer t r.seq) s = .next u ∧ (u.th t).outst = [q] ∧ q.phase = .done ∧ q.err = r.err ∧ q.dst = r.dst ∧
        q.elems = [{ e with done := true, res := BitVec.ofNat 1024 (s.mem.read e.pa e.size) }] ∧
        (∀ a, u.mem.byte a = s.mem.byte a) ∧ SetsTag s u (e.pa / 8) (if r.sync = .wfe then false else s.mem.tag (e.pa / 8))) ∧
    (r.what = .store → r.sync = .plain ∨ r.sync = .wef ∨ r.sync = .sf ∨ r.sync = .se → tagMeets r.sync (s.mem.tag (e.pa / 8)) →
      ∃ u q, exec (.accessAnswer t r.seq) s = .next u ∧ (u.th t).outst = [q] ∧ q.phase = .done ∧ q.err = r.err ∧
        Stores s u e.pa e.size e.data.toNat ∧ SetsTag s u (e.pa / 8) (tagStored r.sync (s.mem.tag (e.pa / 8)))) ∧
    ((r.what = .load ∧ (r.sync = .wf ∨ r.sync = .wfe) ∨ r.what = .store ∧ r.sync = .wef) → ¬ tagMeets r.sync (s.mem.tag (e.pa / 8)) →
      ∃ u q, exec (.accessAnswer t r.seq) s = .next u ∧ (u.th t).outst = [q] ∧ q.phase = .waiting ∧ u.mem = s.mem)

open Sys2Proof.Claims in
/-- R177, R178, R194, R208: the answer of a performed access of a thread takes it off the outstanding ones. Without an
error its register gets the value, in the bank of the mode it was issued in, with the sign or zeros, and the mark is
cleared; with one, the register stays and is marked, and RFAULT records the first error. An answer to an activation that
has ended goes nowhere. -/
def Sys2Proof.Claims.AnswersReachTheirRegister : Prop :=
  ∀ (s : State) (t : Nat) (r : Req) (e : Elem), isAct t = true → s.req? t r.seq = some r → r.phase = .done → r.elems = [e] →
    e.size = 1 ∨ e.size = 2 ∨ e.size = 4 ∨ e.size = 8 → e.res.toNat < 2 ^ (8 * e.size) →
    let x : BitVec (8 * e.size) := BitVec.ofNat _ e.res.toNat
    let w : Word := if r.sx then x.signExtend 64 else x.setWidth 64
    ∃ u, exec (.accessAnswer t r.seq) s = .next u ∧ u.mem = s.mem ∧ (∀ v, v ≠ t → u.th v = s.th v) ∧
      (u.th t).outst = (s.th t).outst.filter (fun q => q.seq != r.seq) ∧
      (r.orphan = true → (u.th t).act = (s.th t).act ∧ (u.th t).mg = (s.th t).mg) ∧
      (∀ d : GReg, r.orphan = false → r.dst = .g d → d ≠ 0 → r.err = 0 →
        (r.mon = false → (∀ k, Map.get 0 (u.th t).act.g k = if k = d.toNat then w else Map.get 0 (s.th t).act.g k) ∧
          (u.th t).act.gErr.getLsbD d.toNat = false ∧ (u.th t).mg = (s.th t).mg) ∧
        (r.mon = true → (∀ k, Map.get 0 (u.th t).mg k = if k = d.toNat then w else Map.get 0 (s.th t).mg k) ∧
          (u.th t).act.g = (s.th t).act.g) ∧
        (u.th t).act.flags = (s.th t).act.flags ||| r.flags ∧ (u.th t).act.rfault = (s.th t).act.rfault) ∧
      (∀ d : GReg, r.orphan = false → r.dst = .g d → d ≠ 0 → r.mon = false → r.err ≠ 0 → r.err.toNat < 16 →
        (u.th t).act.g = (s.th t).act.g ∧ (u.th t).act.gErr.getLsbD d.toNat = true ∧
        ((s.th t).act.rfault.extractLsb' 60 4 = 0 → (u.th t).act.rfault.extractLsb' 60 4 = r.err.setWidth 4 ∧
          (u.th t).act.rfault.extractLsb' 0 40 = r.errAddr.extractLsb' 0 40))

open Sys2Proof.Claims in
/-- R200, R201, R204, R207–R209: the owner of a word performs an AMO, AMOF or CAS in one step, when it serves nothing else,
owes its core no turn, and the tag lets it: the result
is the old value; the word takes the operation's value and the tag that R204 gives, or, after a comparison that fails,
neither changes. No other byte or tag changes. -/
def Obligations.AtomicsReadAndWriteInOneStep : Prop :=
  ∀ (s : State) (t : Nat) (r : Req) (e : Elem), AtHome s t r e → e.size = 4 ∨ e.size = 8 → s.occupied (ownerAt e.pa) = false → tagMeets r.sync (s.mem.tag (e.pa / 8)) →
    let old := s.mem.read e.pa e.size
    let c := e.data.toNat % 2 ^ (8 * e.size)
    let tag := tagAtomic r.sync (s.mem.tag (e.pa / 8))
    (∀ opn new, r.what = .amo opn → amoResult opn.toNat (8 * e.size) old c = some new →
      ∃ u q, exec (.serviceOperation t r.seq) s = .next u ∧ (u.th t).outst = [q] ∧ q.phase = .done ∧
        q.elems = [{ e with done := true, res := BitVec.ofNat 1024 old }] ∧ Stores s u e.pa e.size new ∧ SetsTag s u (e.pa / 8) tag) ∧
    (∀ opn, r.what = .amof opn → e.size = 4 → opn.toNat < 3 →
      ∃ u q, exec (.serviceOperation t r.seq) s = .next u ∧ (u.th t).outst = [q] ∧ q.phase = .done ∧
        q.elems = [{ e with done := true, res := BitVec.ofNat 1024 old }] ∧ SetsTag s u (e.pa / 8) tag ∧
        let new := if opn = 0 then roundWith 8 .rne false (fpAdd .rne (fpDecode 8 old) (fpDecode 8 c)) else fpMinMax 8 (opn == 2) old c
        q.flags = r.flags ||| new.2 ∧ Stores s u e.pa 4 new.1) ∧
    (r.what = .cas →
      ∃ u q, exec (.serviceOperation t r.seq) s = .next u ∧ (u.th t).outst = [q] ∧ q.phase = .done ∧
        q.elems = [{ e with done := true, res := BitVec.ofNat 1024 old }] ∧
        (old = e.data2.toNat % 2 ^ (8 * e.size) → Stores s u e.pa e.size c ∧ SetsTag s u (e.pa / 8) tag) ∧
        (old ≠ e.data2.toNat % 2 ^ (8 * e.size) → u.mem = s.mem))

open Sys2Proof.Claims in
/-- R201, R211–R213: the owner of an AMS's word, when it serves nothing else and owes its core no turn, starts the installed routine there: g1 to g4
are the address, the two operands and the requester's source value, and it runs from slot 0 of its function in its
granule. A routine that passes its limit is abandoned: its stores are dropped, its thread is free, the requester is
answered with all-ones and cause 0x0C in the low byte, and the chip log has it. -/
def Sys2Proof.Claims.RoutinesServeTheirGranule : Prop :=
  ∀ (s : State) (t : Nat) (r : Req) (e : Elem) (k : BitVec 6),
    (AtHome s t r e → r.what = .ams k → e.size = 8 → s.occupied (ownerAt e.pa) = false → serviceOf (ownerAt e.pa) ≠ t →
      (∃ i, (r.pid, k, i) ∈ s.sys.routines) →
      ∃ u v, exec (.serviceOperation t r.seq) s = .next u ∧ u.mem = s.mem ∧
        let x := u.th (serviceOf (ownerAt e.pa))
        x.status = .running ∧ x.act.pc = codeAddr (k.setWidth 32) 0 ∧ x.serve = some v ∧
        x.reg 1 = e.ea ∧ x.reg 2 = e.data.setWidth 64 ∧ x.reg 3 = e.data2 ∧ x.reg 4 = r.src ∧
        v.thread = t ∧ v.seq = r.seq ∧ v.pid = r.pid ∧ v.stores = [] ∧ v.base ≤ e.pa ∧ e.pa < v.base + v.size ∧ v.retired = 0) ∧
    (∀ o v, (s.th (serviceOf o)).serve = some v → v.thread ≠ serviceOf o → s.req? v.thread v.seq = some r →
      (∀ q ∈ (s.th v.thread).outst, q.seq = r.seq → q = r) →
      ∃ u q, exec (.routineAbandon o) s = .next u ∧ u.mem = s.mem ∧ (u.th (serviceOf o)).serve = none ∧
        (u.th (serviceOf o)).status = .idle ∧ u.req? v.thread v.seq = some q ∧ q.phase = .done ∧
        (∀ x ∈ q.elems, x.res = 0xFFFFFFFFFFFFFF0C) ∧
        ∃ l ∈ u.sys.log, l.cause = 0x0C ∧ l.src = sourceOf (serviceOf o) ∧ l.mtval = v.addr)

open Sys2Proof.Claims in
/-- R192, R213: a routine's LD, LDX, ST and STX inside its granule retire: a load sees the routine's own buffered stores
before memory, and a store is buffered and reaches no byte of memory yet. An address outside the granule raises the
space-access fault, and WF, WFE and WEF the illegal-instruction fault. -/
def Sys2Proof.Claims.RoutinesBufferTheirStores : Prop :=
  ∀ (s : State) (i : Instr) (v : Service) (what : Access) (m : MemF) (dst : Dest) (ea : Word) (n x : Nat) (y : Word),
    accessOf s i = some (what, m, dst, [(ea, n, x, y)]) →
    ((∃ d a b imm, i = .ld d a b m imm ∨ i = .ldx d a b m imm) ∨ ∃ a b c imm, i = .st a b c m imm ∨ i = .stx a b c m imm) →
    isAct s.cur = false → s.me.serve = some v → v.size = 64 ∨ v.size = 128 → v.base % v.size = 0 → m.sz ≠ .l →
    let low := v.addr.toNat / v.size * v.size
    let inside := m.sp = v.sp ∧ ea.toNat % n = 0 ∧ low ≤ ea.toNat ∧ ea.toNat + n ≤ low + v.size
    let pa := v.base + (ea.toNat - low)
    (m.sy = .wf ∨ m.sy = .wfe ∨ m.sy = .wef → exec i s = .next (s.takeFault { code := 0x01, val := (encode i).extractLsb' 32 64 })) ∧
    (m.sy = .plain → ¬ inside → exec i s = .next (s.takeFault { code := 0x08, val := ea })) ∧
    (m.sy = .plain → inside → s.mem.bad (pa / 8) = false → s.mem.stamp (pa / 8) = 0 ∨ s.mem.stamp (pa / 8) = v.key →
      (∀ d, what = .load → dst = .g d → m.sx = false →
        ∃ t, exec i s = .next t ∧ FallsThrough s t ∧ SetsG s t d (BitVec.ofNat 64 (((List.range n).map fun k =>
          (match v.stores.find? fun p : Nat × Byte => p.1 == pa + k with | some p => p.2 | none => s.mem.byte (pa + k)).toNat * 256 ^ k).sum)) 0) ∧
      (what = .store → ∃ t v', exec i s = .next t ∧ Moved s t ∧ NoReg s t ∧ t.mem = s.mem ∧ t.me.serve = some v' ∧ v'.tags = v.tags ∧
        ∀ a, (v'.stores.find? fun p : Nat × Byte => p.1 == a).map (·.2) = if pa ≤ a ∧ a < pa + n then some (BitVec.ofNat 8 (x / 256 ^ (a - pa)))
          else (v.stores.find? fun p : Nat × Byte => p.1 == a).map (·.2)))

open Sys2Proof.Claims in
/-- R6, R171, R372, R402: LD and ST in Y are for monitor mode: outside it they raise the monitor-only fault. In it, an 8-byte LD of a
mapped register reads it, an ST to a group entry or a context table entry is what an LD reads back but for reserved
bits, which read zero, and the two bits that show FROZEN and QUAR, and an unmapped address, or a size that is not 8 bytes, raises the space-access fault. -/
def Obligations.SystemRegistersAreTheMonitors : Prop :=
  ∀ (s : State) (a b c d : GReg) (m : MemF) (imm : BitVec 48), m.sp = .y → isAct s.cur = true →
    let ea := s.g a + s.g b + imm.signExtend 64
    (s.me.mode = .context → RaisesOpen s 0x15 (exec (.ld d a b m imm) s) ∧ RaisesOpen s 0x15 (exec (.st a b c m imm) s)) ∧
    (s.me.mode = .monitor → m.sy = .plain → m.sz ≠ .d → exec (.ld d a b m imm) s = .next (s.takeFault { code := 0x08, val := ea }) ∧
      exec (.st a b c m imm) s = .next (s.takeFault { code := 0x08, val := ea })) ∧
    (s.me.mode = .monitor → m.sy = .plain → m.sz = .d → ea.toNat % 8 ≠ 0 → exec (.ld d a b m imm) s = .next (s.takeFault { code := 0x09, val := ea })) ∧
    (s.me.mode = .monitor → m.sy = .plain → m.sz = .d → ea.toNat % 8 = 0 →
      (∀ w, s.yRead ea = some w → ∃ t, exec (.ld d a b m imm) s = .next t ∧ FallsThrough s t ∧ SetsG s t d w 0) ∧
      (ea = 0x120000000 → ∃ t, exec (.ld d a b m imm) s = .next t ∧ FallsThrough s t ∧ SetsG s t d s.sys.logcnt 0) ∧
      (s.yRead ea = none → exec (.ld d a b m imm) s = .next (s.takeFault { code := 0x08, val := ea })) ∧
      (0x100000000 ≤ ea.toNat → ea.toNat < 0x100040000 → ∃ t, exec (.st a b c m imm) s = .next t ∧ Moved s t ∧ NoReg s t ∧
        t.yRead ea = some (s.g c &&& grpMask (ea.toNat % 64)) ∧ ∀ k, k < 2 ^ 50 → t.mem.byte k = s.mem.byte k) ∧
      (0x110000000 ≤ ea.toNat → ea.toNat < 0x110200000 → ea.toNat % 0x2000 ≠ 0 → ∃ t, exec (.st a b c m imm) s = .next t ∧ Moved s t ∧
        NoReg s t ∧ t.yRead ea = some (s.g c &&& ctxMask (ea.toNat % 0x2000)) ∧
        ∀ off, off = ea.toNat % 0x2000 → (off = 0x18 ∨ (0x60 ≤ off ∧ off < 0x100) ∨ 0x1900 ≤ off) → t.yRead ea = some 0) ∧
      (ea.toNat < 0xC0000000 → exec (.st a b c m imm) s = .next (s.takeFault { code := 0x08, val := ea })))

/-! ## FENCE, barrier cells, tickets and time-outs (R165, R176, R213, R216–R225, R237) -/

namespace Sys2Proof.Claims

/-- The barrier cell b of the running thread's cluster, and of another cluster. -/
def cellAt (s : State) (cl : Nat) (b : BIdx) : BarCell := (s.cluster cl).bar b
/-- The record of thread t for a cell. -/
def recordAt (s : State) (t : Nat) (b : BIdx) : Arrival := Map.get .none (s.th t).act.arrivals b.toNat

/-- The event that an instruction sends to its cell, and the cell (R221, R222). -/
def barrierEvent (s : State) : Instr → Option (BIdx × BarEvent)
  | .binit b a => some (b, .init s.cur (s.g a))
  | .barr b _ chk => some (b, .arrive s.cur chk)
  | .bsync b _ chk => some (b, .arrive s.cur chk)
  | .bdrop b =>
    some (b, .drop s.cur (match recordAt s s.cur b with
      | .arrived p => p == Map.get 0 (s.block (blockOf s.cur)).phases b.toNat | _ => false))
  | _ => none

end Sys2Proof.Claims

open Sys2Proof.Claims in
/-- R218, R226: FENCE retires when every access of the thread is performed and answered and every message of it delivered, but
that at DIE and CHIP scope one that is stamped for another die counts; until then it stalls. With an error recorded, it takes it. -/
def Sys2Proof.Claims.FenceWaitsForEveryAccess : Prop :=
  ∀ (s : State) (sc : Scope), isAct s.cur = true →
    let still := s.quietAt s.cur = true ∧ ∀ m ∈ s.flight, m.origin ≠ .thread s.cur ∨ ((sc = .die ∨ sc = .chip) ∧ m.stamp ≠ [])
    (still → s.me.act.deferred = none → ∃ t, exec (.fence sc) s = .next t ∧ FallsThrough s t ∧ KeepsRegs s t) ∧
    (still → ∀ tr, s.me.act.deferred = some tr → exec (.fence sc) s = .next (s.takeDeferred tr)) ∧
    (¬ still → ∃ t, exec (.fence sc) s = .next t ∧ Stalls s t .access)

open Sys2Proof.Claims in
/-- R219–R223: BINIT, BARR, BSYNC and BDROP send their event to the cell once, the last three when the thread's earlier
writes are performed, and stall until it answers. Answered without a
fault, BINIT, BARR and BDROP retire, and BSYNC goes on as BWAIT does; an answer with a fault is taken. BWAIT waits while
the cell's phase is the one the thread arrived in, and then retires with no record; without an arrival it faults. -/
def Sys2Proof.Claims.BarrierInstructionsWaitForTheirCell : Prop :=
  ∀ (s : State) (i : Instr) (b : BIdx) (ev : BarEvent), isAct s.cur = true →
    let cl := clusterOf s.cur
    let phase := Map.get 0 (s.block (blockOf s.cur)).phases b.toNat
    (barrierEvent s i = some (b, ev) → s.teamOf s.me.act = none →
      (∃ a, i = .binit b a) ∨ s.settled s.cur = true →
      (∀ a ∈ (cellAt s cl b).answers, a.1 ≠ s.cur) → (∀ e ∈ (cellAt s cl b).events, e.of s.cur = false) →
      ∃ t, exec i s = .next t ∧ Stalls s t (.barrier b) ∧ (cellAt t cl b).events = (cellAt s cl b).events ++ [ev]) ∧
    (barrierEvent s i = some (b, ev) → (∀ b' sc chk, i ≠ .bsync b' sc chk) →
      (cellAt s cl b).answers.find? (fun a => a.1 == s.cur) = some (s.cur, 0) →
      ∃ t, exec i s = .next t ∧ Retired s t ∧ NoReg s t ∧ recordAt t s.cur b = recordAt s s.cur b ∧ ∀ a ∈ (cellAt t cl b).answers, a.1 ≠ s.cur) ∧
    (barrierEvent s i = some (b, ev) → ∀ code, code ≠ 0 → (cellAt s cl b).answers.find? (fun a => a.1 == s.cur) = some (s.cur, code) →
      ∃ (u : State) (val : Word), exec i s = .next (u.takeFault { code, val }) ∧ u.mem = s.mem ∧
        u.me = { s.me with act := { s.me.act with count := s.me.act.count + 1 } }) ∧
    (∀ p sc chk, recordAt s s.cur b = .arrived p → p ≠ phase →
      (∃ t, exec (.bwait b) s = .next t ∧ Retired s t ∧ NoReg s t ∧ recordAt t s.cur b = .none) ∧
      ((cellAt s cl b).answers.find? (fun a => a.1 == s.cur) = some (s.cur, 0) →
        ∃ t, exec (.bsync b sc chk) s = .next t ∧ Retired s t ∧ NoReg s t ∧ recordAt t s.cur b = .none)) ∧
    (recordAt s s.cur b = .arrived phase → ∃ t, exec (.bwait b) s = .next t ∧ Stalls s t (.barrier b)) ∧
    ((∀ p, recordAt s s.cur b ≠ .arrived p) → RaisesOpen s 0x12 (exec (.bwait b) s))

open Sys2Proof.Claims in
/-- R220, R221, R223: a batch with one BINIT of an idle cell sets it up; one with one plain ARRIVE counts the party and
records its arrival; and the last party's ARRIVE completes the phase: PHASE rises, the count starts again, and the eight
blocks of the cluster get the new phase. An arrival of another context is answered with 0x07, and one of a thread that has
dropped, or arrived in this phase, with 0x12; neither counts. -/
def Sys2Proof.Claims.BarrierCellsCountTheirParties : Prop :=
  ∀ (s : State) (cl : Nat) (b : BIdx) (t : Nat), isAct t = true → clusterOf t = cl → s.teamOf (s.th t).act = none →
    (s.th t).status = .stalled (.barrier b) →
    let c := cellAt s cl b
    (∀ w : Word, c.events = [.init t w] → c.owner = none → c.arrived = 0 → 1 ≤ w.toNat → w.toNat ≤ 128 →
      ∃ u, exec (.barrierBatch cl b) s = .next u ∧ (cellAt u cl b).expect = w.toNat ∧ (cellAt u cl b).arrived = 0 ∧
        (cellAt u cl b).phase = c.phase ∧ (cellAt u cl b).owner = some ((s.th t).act.pid, (s.th t).act.launch) ∧
        (t, 0) ∈ (cellAt u cl b).answers ∧ (cellAt u cl b).events = [] ∧ u.mem = s.mem) ∧
    (c.events = [.arrive t false] → (∀ o, c.owner = some o → o.1 = (s.th t).act.pid) → c.chkp ≠ some true → c.arrived < c.expect →
      recordAt s t b ≠ .dropped → recordAt s t b ≠ .arrived c.phase →
      ∃ u, exec (.barrierBatch cl b) s = .next u ∧ recordAt u t b = .arrived c.phase ∧ (t, 0) ∈ (cellAt u cl b).answers ∧
        (cellAt u cl b).events = [] ∧ u.mem = s.mem ∧
        (c.arrived + 1 < c.expect → (cellAt u cl b).arrived = c.arrived + 1 ∧ (cellAt u cl b).phase = c.phase) ∧
        (c.arrived + 1 = c.expect → (cellAt u cl b).arrived = 0 ∧ (cellAt u cl b).phase = c.phase + 1 ∧ (cellAt u cl b).expect = c.nextExp ∧
          ∀ k, k < 8 → Map.get 0 (u.block (8 * cl + k)).phases b.toNat = c.phase + 1)) ∧
    (∀ chk, c.events = [.arrive t chk] → c.arrived ≠ c.expect ∨ c.arrived = 0 →
      (∀ o, c.owner = some o → o.1 ≠ (s.th t).act.pid → ∃ u, exec (.barrierBatch cl b) s = .next u ∧
        (t, 0x07) ∈ (cellAt u cl b).answers ∧ recordAt u t b = recordAt s t b ∧ (cellAt u cl b).arrived = c.arrived ∧ u.mem = s.mem) ∧
      ((∀ o, c.owner = some o → o.1 = (s.th t).act.pid) → recordAt s t b = .dropped ∨ recordAt s t b = .arrived c.phase →
        ∃ u, exec (.barrierBatch cl b) s = .next u ∧ (t, 0x12) ∈ (cellAt u cl b).answers ∧ recordAt u t b = recordAt s t b ∧
          (cellAt u cl b).arrived = c.arrived ∧ u.mem = s.mem))

open Sys2Proof.Claims in
/-- R216, R217: a refusal reaches the thread as TICKET: the kind of owner, the owner, one refusal more, and the ticket. The
owner calls the first refused ticket whose turn has come, and the requester may try again. A reservation that
lapses frees its entry for the next ticket in turn, if one waits. -/
def Sys2Proof.Claims.TicketsAreToldAndCalled : Prop :=
  ∀ (s : State) (t : Nat) (r : Req) (e : Elem) (o : Nat) (tk : BitVec 32), isAct t = true → s.req? t r.seq = some r →
    r.elems = [e] → r.orphan = false → o < 16384 → (∀ q ∈ (s.th t).outst, q.seq = r.seq → q = r) →
    (e.hold = .refused o tk false →
      ∃ u q, exec (.nak t r.seq none) s = .next u ∧ u.mem = s.mem ∧ u.req? t r.seq = some q ∧ q.elems = [{ e with hold := .refused o tk true }] ∧
        (u.th t).act.ticket.extractLsb' 0 32 = tk ∧ ((u.th t).act.ticket.extractLsb' 48 14).toNat = o ∧
        (u.th t).act.ticket.extractLsb' 62 2 = 1 ∧
        ((u.th t).act.ticket.extractLsb' 32 16).toNat = min 65535 (((s.th t).act.ticket.extractLsb' 32 16).toNat + 1)) ∧
    (e.hold = .refused o tk true → (∀ x rest, (s.owner o).tickets = x :: rest → x = (tk, t, r.seq)) → (s.owner o).tickets ≠ [] →
      (s.owner o).serve ≠ tk → ((s.owner o).serve - tk).toNat < 2 ^ 31 →
      ∃ u q, exec (.call o none) s = .next u ∧ u.mem = s.mem ∧ u.req? t r.seq = some q ∧ q.elems = [{ e with hold := .called o tk }] ∧
        (∀ x ∈ (u.owner o).tickets, x.1 ≠ tk)) ∧
    (∀ rest, (s.owner o).reserved = tk :: rest →
      ∃ u, exec (.ticketLapse o) s = .next u ∧ u.mem = s.mem ∧ (∀ v, u.th v = s.th v) ∧
        ((s.owner o).serve = (s.owner o).next → (u.owner o).reserved = rest) ∧
        ((s.owner o).serve ≠ (s.owner o).next → (u.owner o).reserved = rest ++ [(s.owner o).serve] ∧ (u.owner o).serve = (s.owner o).serve + 1))

open Sys2Proof.Claims in
/-- R165, R176: an atomic that stays unanswered ends with error cause 5; a request parked on a page ends with cause 1 when
the page is not mapped, and goes on when it is. -/
def Sys2Proof.Claims.WaitingRequestsTimeOut : Prop :=
  ∀ (s : State) (t : Nat) (r : Req) (e : Elem), s.req? t r.seq = some r → (∀ q ∈ (s.th t).outst, q.seq = r.seq → q = r) →
    r.elems = [e] → r.err = 0 →
    (r.what.isAtom = true → r.phase = .sent ∨ r.phase = .waiting ∨ r.phase = .parked →
      ∃ u q, exec (.serviceOperationTimeout t r.seq) s = .next u ∧ u.mem = s.mem ∧ u.req? t r.seq = some q ∧ q.phase = .done ∧ q.err = 5 ∧ q.errAddr = e.ea) ∧
    (r.phase = .parked → e.done = false → r.whole = false →
      let leaf := s.leaf? t r.pid (dLva e.ea)
      ∃ u q, exec (.translationParkTimeout t r.seq) s = .next u ∧ u.mem = s.mem ∧ u.req? t r.seq = some q ∧
        (leaf = none → q.phase = .done ∧ q.err = 1 ∧ q.errAddr = e.ea) ∧ (leaf.isSome → q = { r with phase := .sent }))

open Sys2Proof.Claims in
/-- R237: a die whose cross-die writes are all applied broadcasts its own count: every compute die and edge die sees it. -/
def Sys2Proof.Claims.ReleaseCountsAdvance : Prop :=
  ∀ (s : State) (d : Nat), d < 4 → s.unapplied d = [] →
    ∃ u, exec (.releaseCountAdvance d) s = .next u ∧ u.mem = s.mem ∧ (∀ v, u.th v = s.th v) ∧
      ∀ k, k < 6 → (u.die k).a.getD d 0 = (s.die d).own ∧ (u.die k).own = (s.die k).own ∧
        ∀ j, j < 4 → j ≠ d → (u.die k).a.getD j 0 = (s.die k).a.getD j 0

/-- R168, R185, R190, R194, R195: loads and stores of one word of the own block, whose tag lets them go on. -/
def Obligations.LocalAccessesActAtOnce : Prop :=
  Sys2Proof.Claims.LocalLoadsReadTheirBytes ∧
  Sys2Proof.Claims.LocalStoresWriteTheirBytes

/-- R168, R177, R178, R183, R185, R190, R194, R208: outstanding accesses are performed at their home, and their
answers reach their registers, or mark them. -/
def Obligations.OutstandingAccessesEnd : Prop :=
  Sys2Proof.Claims.OutstandingAccessesArePerformedAtHome ∧
  Sys2Proof.Claims.AnswersReachTheirRegister

/-- R192, R201, R211–R213: the owner of an AMS word starts the routine there, the routine loads and stores in its
granule, and one that passes its limit is abandoned. -/
def Obligations.ServiceRoutinesServeTheirGranule : Prop :=
  Sys2Proof.Claims.RoutinesServeTheirGranule ∧
  Sys2Proof.Claims.RoutinesBufferTheirStores

/-- R218–R223, R226: FENCE waits for every access of its thread; the barrier instructions wait for their cell, and the
cell counts its parties and completes its phase. -/
def Obligations.FencesAndBarriersWait : Prop :=
  Sys2Proof.Claims.FenceWaitsForEveryAccess ∧
  Sys2Proof.Claims.BarrierInstructionsWaitForTheirCell ∧
  Sys2Proof.Claims.BarrierCellsCountTheirParties

/-- R165, R176, R216, R217, R237: tickets and their calls, the time-outs of requests that wait, and the counts of
cross-die releases. -/
def Obligations.RequestsAreRefusedCalledAndTimedOut : Prop :=
  Sys2Proof.Claims.TicketsAreToldAndCalled ∧
  Sys2Proof.Claims.WaitingRequestsTimeOut ∧
  Sys2Proof.Claims.ReleaseCountsAdvance

/-! ## Class 6: the vector unit's register forms (R263–R281) -/

namespace Sys2Proof.Claims

/-- The raw bits of lane k of a format (R246, R266). -/
def laneAt (f : BitVec 5) (v : BitVec 2048) (k : Nat) : Nat := (v.extractLsb' (fmtSlot f * k) (fmtSlot f)).toNat
/-- The element in lane k: where its slot is wider, the bits above it are ignored (R246). -/
def elemAt (f : BitVec 5) (v : BitVec 2048) (k : Nat) : Nat := laneAt f v k % 2 ^ fmtBits f
/-- An exact integer as a lane: clamped to the format's range, or modulo 2^w (R268). -/
def intResult (f : BitVec 5) (ovf : Bool) (v : Int) : Nat :=
  ((if ovf then (if v < intMin f then intMin f else if intMax f < v then intMax f else v) else v) % 2 ^ fmtBits f).toNat
/-- Where a lane-wise instruction writes, its num field, the sources it reads as FMT, the result's tag, whether it uses RM,
and lane k of its result with its flags (R267–R280). -/
def vecLane (s : State) (rm : Rm) : Instr → Option (VIdx × Sys2Proof.Num × List VIdx × BitVec 5 × Bool × (Nat → Nat × FFlags))
  | .vadd d a b n => some (d, n, [a, b], n.fmt, Sys2Proof.Num.isF n.fmt, fun k =>
      if Sys2Proof.Num.isI n.fmt then (intResult n.fmt n.ovf (i n a k + i n b k), 0)
      else roundWith n.fmt rm n.ovf (fpAdd rm (p n a k) (p n b k)))
  | .vsub d a b n => some (d, n, [a, b], n.fmt, Sys2Proof.Num.isF n.fmt, fun k =>
      if Sys2Proof.Num.isI n.fmt then (intResult n.fmt n.ovf (i n a k - i n b k), 0)
      else roundWith n.fmt rm n.ovf (fpSub rm (p n a k) (p n b k)))
  | .vmul d a b n => some (d, n, [a, b], n.fmt, Sys2Proof.Num.isF n.fmt, fun k =>
      if Sys2Proof.Num.isI n.fmt then (intResult n.fmt n.ovf (i n a k * i n b k), 0)
      else roundWith n.fmt rm n.ovf (fpMul (p n a k) (p n b k)))
  | .vfma d a b c n => some (d, n, [a, b, c], n.fmt, Sys2Proof.Num.isF n.fmt, fun k =>
      if Sys2Proof.Num.isI n.fmt then (intResult n.fmt n.ovf (i n a k * i n b k + i n c k), 0)
      else roundWith n.fmt rm n.ovf (fpFma rm (p n a k) (p n b k) (p n c k)))
  | .vmin d a b n => some (d, n, [a, b], n.fmt, false, fun k =>
      if Sys2Proof.Num.isI n.fmt then (if i n a k ≤ i n b k then x n a k else x n b k, 0) else fpMinMax n.fmt false (x n a k) (x n b k))
  | .vmax d a b n => some (d, n, [a, b], n.fmt, false, fun k =>
      if Sys2Proof.Num.isI n.fmt then (if i n b k ≤ i n a k then x n a k else x n b k, 0) else fpMinMax n.fmt true (x n a k) (x n b k))
  | .vabs d a n => some (d, n, [a], n.fmt, false, fun k =>
      if Sys2Proof.Num.isI n.fmt then (intResult n.fmt n.ovf (i n a k).natAbs, 0)
      else if (p n a k).isNan then (fmtNan n.fmt, flIf (p n a k).isSig flNV) else (x n a k % 2 ^ (fmtBits n.fmt - 1), 0))
  | .vneg d a n => some (d, n, [a], n.fmt, false, fun k =>
      if Sys2Proof.Num.isI n.fmt then (intResult n.fmt n.ovf (-(i n a k)), 0)
      else if (p n a k).isNan then (fmtNan n.fmt, flIf (p n a k).isSig flNV)
      else ((x n a k + 2 ^ (fmtBits n.fmt - 1)) % 2 ^ fmtBits n.fmt, 0))
  | .vcmp d a b n => some (d, n, [a, b], (if fmtSlot n.fmt = 8 then 1 else if fmtSlot n.fmt = 16 then 3 else if fmtSlot n.fmt = 32 then 5 else 7), false,
      fun k =>
        let op := if n.opx = 3 then 0 else n.opx.toNat
        let r : Bool × FFlags := if Sys2Proof.Num.isI n.fmt
          then (if op = 0 then i n a k == i n b k else if op = 1 then decide (i n a k < i n b k) else decide (i n a k ≤ i n b k), 0)
          else fpCompare op (p n a k) (p n b k)
        (if r.1 = (n.opx != 3) then 2 ^ fmtSlot n.fmt - 1 else 0, r.2))
  | .vsel d a b c n => some (d, n, [b, c], n.fmt, false, fun k => (if laneAt n.fmt (s.v a).bits k ≠ 0 then x n b k else x n c k, 0))
  | .vshl d a b n => some (d, n, [a, b], n.fmt, false, fun k => (x n a k * 2 ^ (x n b k % fmtSlot n.fmt), 0))
  | .vshr d a b n => some (d, n, [a, b], n.fmt, false, fun k => (x n a k / 2 ^ (x n b k % fmtSlot n.fmt), 0))
  | .vsra d a b n => some (d, n, [a, b], n.fmt, false, fun k =>
      (((BitVec.ofNat (fmtSlot n.fmt) (x n a k)).sshiftRight (x n b k % fmtSlot n.fmt)).toNat, 0))
  | .vexp2 d a n => some (d, n, [a], n.fmt, true, fun k => roundWith n.fmt rm n.ovf (specialExact 0 (p n a k)))
  | .vlog2 d a n => some (d, n, [a], n.fmt, true, fun k => roundWith n.fmt rm n.ovf (specialExact 1 (p n a k)))
  | .vrcp d a n => some (d, n, [a], n.fmt, true, fun k => roundWith n.fmt rm n.ovf (specialExact 2 (p n a k)))
  | .vrsq d a n => some (d, n, [a], n.fmt, true, fun k => roundWith n.fmt rm n.ovf (specialExact 3 (p n a k)))
  | .vsqrt d a n => some (d, n, [a], n.fmt, true, fun k => roundWith n.fmt rm n.ovf (specialExact 4 (p n a k)))
  | .vdiv d a b n => some (d, n, [a, b], n.fmt, true, fun k => roundWith n.fmt rm n.ovf (divExact (p n a k) (p n b k)))
  | .vscl d a b n => some (d, n, [a], n.fmt, true, fun k => roundWith n.fmt rm n.ovf (scaleExact (p n a k) (s.g b).toInt))
  | .vbcast d a n => some (d, n, [], n.fmt, false, fun _ => ((s.g a).toNat % 2 ^ fmtBits n.fmt, 0))
  | .vins d a b n => some (d, n, [], n.fmt, false, fun k =>
      (if k = (s.g b).toNat % Sys2Proof.Num.lanes n.fmt then (s.g a).toNat % 2 ^ fmtBits n.fmt else laneAt n.fmt (s.v d).bits k, 0))
  | .viota d n => some (d, n, [], n.fmt, false, fun k =>
      (if Sys2Proof.Num.isI n.fmt then k % 2 ^ fmtBits n.fmt else (fpRound n.fmt .rne false (.num false k 0 false)).1, 0))
  | .vperm d a b n => some (d, n, [a], n.fmt, false, fun k =>
      (x n a (laneAt n.fmt (s.v b).bits k % Sys2Proof.Num.lanes n.fmt), 0))
  | _ => none
where
  x (n : Sys2Proof.Num) (r : VIdx) (k : Nat) : Nat := elemAt n.fmt (s.v r).bits k
  i (n : Sys2Proof.Num) (r : VIdx) (k : Nat) : Int := intDecode n.fmt (x n r k)
  p (n : Sys2Proof.Num) (r : VIdx) (k : Nat) : Fp := fpDecode n.fmt (x n r k)

/-- What the instructions on raw bits write, bit by bit: the destination, the source whose tag the result takes, and bit q
(R272, R281). -/
def rawBit (s : State) (q : Nat) : Instr → Option (VIdx × VIdx × Bool)
  | .vand d a b _ => some (d, a, bit a q && bit b q)
  | .vor d a b _ => some (d, a, bit a q || bit b q)
  | .vxor d a b _ => some (d, a, Bool.xor (bit a q) (bit b q))
  | .vmov d a _ => some (d, a, bit a q)
  | .vbmm8 d a b n => some (d, a,
      let l := 64 * (q / 64)
      let r := q % 64 / 8
      let c := q % 8
      if n.opx = 0 then (List.range 8).foldl (fun acc k => Bool.xor acc (bit a (l + 8 * r + k) && bit b (l + 8 * k + c))) false
      else if n.opx = 1 then (List.range 8).any fun k => bit a (l + 8 * r + k) && bit b (l + 8 * k + c)
      else (List.range 8).foldl (fun acc k => Bool.xor acc (bit a (l + 8 * k + r) && bit b (l + 8 * k + c))) false)
  | .vpdep d a b _ => some (d, a, bit b q && bit a (64 * (q / 64) + onesBelow (lane b (q / 64)) (q % 64)))
  | .vpext d a b _ => some (d, a, (List.range 64).any fun k =>
      bit b (64 * (q / 64) + k) && bit a (64 * (q / 64) + k) && onesBelow (lane b (q / 64)) k == q % 64)
  | .vbperm d a b _ => some (d, a, !bit b (8 * (q % 64) + 7) &&
      bit a (64 * (q / 64) + ((s.v b).bits.extractLsb' (8 * (q % 64)) 6).toNat))
  | _ => none
where
  bit (r : VIdx) (k : Nat) : Bool := (s.v r).bits.getLsbD k
  lane (r : VIdx) (k : Nat) : Word := (s.v r).bits.extractLsb' (64 * k) 64

/-- The num field of a class 6 instruction. -/
def vectorNum : Instr → Option Sys2Proof.Num
  | .vadd _ _ _ n | .vsub _ _ _ n | .vmul _ _ _ n | .vfma _ _ _ _ n | .vmin _ _ _ n | .vmax _ _ _ n | .vabs _ _ n | .vneg _ _ n
  | .vcmp _ _ _ n | .vsel _ _ _ _ n | .vand _ _ _ n | .vor _ _ _ n | .vxor _ _ _ n | .vmov _ _ n | .vtag _ n | .vshl _ _ _ n
  | .vshr _ _ _ n | .vsra _ _ _ n | .vcvt _ _ n | .vexp2 _ _ n | .vlog2 _ _ n | .vrcp _ _ n | .vrsq _ _ n | .vsqrt _ _ n
  | .vdiv _ _ _ n | .vscl _ _ _ n | .vred _ _ n | .vbcast _ _ n | .vext _ _ _ n | .vins _ _ _ n | .viota _ n | .vperm _ _ _ n
  | .vbmm8 _ _ _ n | .vpdep _ _ _ n | .vpext _ _ _ n | .vbperm _ _ _ n => some n
  | _ => none

/-- The reduction of 2 ^ k lanes as a tree (R259): the lane half the list away first. -/
def treeFold (op : Nat → Nat → Nat × FFlags) : Nat → (Nat → Nat) → FFlags → Nat × FFlags
  | 0, x, fl => (x 0, fl)
  | k + 1, x, fl => treeFold op k (fun i => (op (x i) (x (i + 2 ^ k))).1)
      ((List.range (2 ^ k)).foldl (fun f i => f ||| (op (x i) (x (i + 2 ^ k))).2) fl)
/-- One step of VRED on two elements: OPX 0 sums, 1 takes the smaller, 2 the larger (R278). -/
def redStep (n : Sys2Proof.Num) (rm : Rm) (x y : Nat) : Nat × FFlags :=
  if Sys2Proof.Num.isI n.fmt then
    let i := intDecode n.fmt
    (if n.opx = 0 then intResult n.fmt n.ovf (i x + i y)
      else if n.opx = 1 then (if i x ≤ i y then x else y) else if i y ≤ i x then x else y, 0)
  else if n.opx = 0 then roundWith n.fmt rm n.ovf (fpAdd rm (fpDecode n.fmt x) (fpDecode n.fmt y))
  else fpMinMax n.fmt (n.opx == 2) x y
/-- An element in a g register: a signed integer with its sign, every other with zeros above (R278, R279). -/
def elemWord (f : BitVec 5) (x : Nat) : Word := if fmtSigned f then BitVec.ofInt 64 (intDecode f x) else BitVec.ofNat 64 x

/-- Thread t goes before u in the line of the vector unit: its instruction is at the head of its queue for longer, or as long
and of the lower core (R22). -/
def GoesBefore (s : State) (t u : Nat) : Prop :=
  let age : Nat → Nat := fun v => (s.cycle - (s.th v).headSince s.cycle).toNat
  age u < age t ∨ age t = age u ∧ t < u

/-- The thread has its block's vector unit, whose latches are sound (R263). -/
structure HasUnit (s : State) : Prop where
  act : isAct s.cur = true
  grant : (s.block (blockOf s.cur)).vgrant = some s.cur
  sound : (s.block (blockOf s.cur)).unitBad = false

end Sys2Proof.Claims

open Sys2Proof.Claims in
/-- R42, R246, R251, R263, R267–R271, R273, R275–R277, R279, R280: with the unit, its mode, a format and the tags it asks for,
a lane-wise instruction retires with each lane of vD as its row gives it, vD's tag, and the flags of all lanes ORed into
FSTAT. No other register and no byte of memory changes. -/
def Obligations.VectorInstructionsWriteEveryLane : Prop :=
  ∀ (s : State) (rm : Rm) (i : Instr) (d : VIdx) (n : Sys2Proof.Num) (srcs : List VIdx) (tag : BitVec 5) (useRm : Bool)
    (f : Nat → Nat × FFlags),
    vecLane s rm i = some (d, n, srcs, tag, useRm, f) → i.wellFormed = true → Sys2Proof.Num.reserved n.fmt = false → HasUnit s →
    (useRm = true → roundMode s n.rm = some rm) → (∀ r ∈ srcs, (s.v r).tag = n.fmt) →
    ∃ t w, exec i s = .next t ∧ Retired s t ∧ t.mem = s.mem ∧ (t.block (blockOf s.cur)).vgrant = none ∧ w.tag = tag ∧
      SetsV s t d w ((List.range (Sys2Proof.Num.lanes n.fmt)).foldl (fun fl k => fl ||| (f k).2) 0) ∧
      ∀ k, k < Sys2Proof.Num.lanes n.fmt → laneAt n.fmt w.bits k = (f k).1 % 2 ^ fmtSlot n.fmt

open Sys2Proof.Claims in
/-- R272, R281: VAND, VOR, VXOR, VMOV, VBMM8, VPDEP, VPEXT and VBPERM ignore tags: each bit of vD is as its row gives it, and
vD takes the tag of vA. VTAG changes the tag of vD and neither its bits nor its mark. -/
def Sys2Proof.Claims.VectorBitInstructionsWriteEachBit : Prop :=
  ∀ (s : State) (i : Instr) (d a : VIdx) (b : Bool), HasUnit s → i.wellFormed = true →
    (rawBit s 0 i = some (d, a, b) →
      ∃ t w, exec i s = .next t ∧ Retired s t ∧ SetsV s t d w 0 ∧ w.tag = (s.v a).tag ∧
        ∀ q, q < 2048 → rawBit s q i = some (d, a, w.bits.getLsbD q)) ∧
    (∀ n, i = .vtag d n →
      ∃ t, exec i s = .next t ∧ Retired s t ∧ (∀ r, t.reg r = s.reg r) ∧ t.me.act.vErr = s.me.act.vErr ∧
        ∀ r, t.vreg r = if r = d then { s.vreg d with tag := n.fmt } else s.vreg r)

open Sys2Proof.Claims in
/-- R259, R274, R278, R279: VCVT converts lanes of FMT2 to FMT, those of the part that OPX names of vA where FMT has the fewer
lanes, else into that part of vD, whose other lanes keep their bits; the flags of all conversions go to FSTAT. VEXT writes
the element that gB names to gD. VRED writes the last element of the tree, with the flags of its steps; an unsaturated integer
sum is the sum modulo 2^w, and MIN and MAX of integers are an element that no other passes. -/
def Sys2Proof.Claims.VectorConversionsAndReductions : Prop :=
  ∀ (s : State) (n : Sys2Proof.Num) (rm : Rm) (d a : VIdx) (g b : GReg), HasUnit s → Sys2Proof.Num.reserved n.fmt = false →
    let lanes := Sys2Proof.Num.lanes
    (∀ m, (Instr.vcvt d a n).wellFormed = true → Sys2Proof.Num.reserved n.fmt2 = false → roundMode s n.rm = some rm → (s.v a).tag = n.fmt2 →
      m = min (lanes n.fmt) (lanes n.fmt2) →
      let cvt := fun k => convert n.fmt n.fmt2 rm n.ovf (elemAt n.fmt2 (s.v a).bits k)
      let base := if lanes n.fmt < lanes n.fmt2 then n.opx.toNat * m else 0
      let fl := (List.range m).foldl (fun f k => f ||| (cvt (base + k)).2) 0
      ∃ t w, exec (.vcvt d a n) s = .next t ∧ Retired s t ∧ SetsV s t d w fl ∧ w.tag = n.fmt ∧
        (lanes n.fmt < lanes n.fmt2 → ∀ k, k < m → laneAt n.fmt w.bits k = (cvt (n.opx.toNat * m + k)).1 % 2 ^ fmtSlot n.fmt) ∧
        (lanes n.fmt2 ≤ lanes n.fmt → ∀ k, k < lanes n.fmt → laneAt n.fmt w.bits k =
          if n.opx.toNat * m ≤ k ∧ k < n.opx.toNat * m + m then (cvt (k - n.opx.toNat * m)).1 % 2 ^ fmtSlot n.fmt
          else laneAt n.fmt (s.v d).bits k)) ∧
    ((s.v a).tag = n.fmt → (Instr.vext g a b n).wellFormed = true →
      ∃ t, exec (.vext g a b n) s = .next t ∧ Retired s t ∧
        SetsG s t g (elemWord n.fmt (elemAt n.fmt (s.v a).bits ((s.g b).toNat % lanes n.fmt))) 0) ∧
    ((s.v a).tag = n.fmt → (Instr.vred g a n).wellFormed = true → (Sys2Proof.Num.isF n.fmt = true → roundMode s n.rm = some rm) →
      let val := fun k => intDecode n.fmt (elemAt n.fmt (s.v a).bits k)
      ∃ t w fl, exec (.vred g a n) s = .next t ∧ Retired s t ∧ SetsG s t g w fl ∧
        (∀ k, lanes n.fmt = 2 ^ k → (w, fl) = (let r := treeFold (redStep n rm) k (elemAt n.fmt (s.v a).bits) 0; (elemWord n.fmt r.1, r.2))) ∧
        (Sys2Proof.Num.isI n.fmt = true → n.opx = 0 → n.ovf = false → fl = 0 ∧
          w = BitVec.ofInt 64 (intDecode n.fmt (((List.range (lanes n.fmt)).map val).sum % 2 ^ fmtBits n.fmt).toNat)) ∧
        (Sys2Proof.Num.isI n.fmt = true → n.opx = 1 → fl = 0 ∧ ∃ k, k < lanes n.fmt ∧ w = BitVec.ofInt 64 (val k) ∧
          ∀ j, j < lanes n.fmt → val k ≤ val j) ∧
        (Sys2Proof.Num.isI n.fmt = true → n.opx = 2 → fl = 0 ∧ ∃ k, k < lanes n.fmt ∧ w = BitVec.ofInt 64 (val k) ∧
          ∀ j, j < lanes n.fmt → val j ≤ val k))

open Sys2Proof.Claims in
/-- R22, R49, R252, R263: without the unit a class 6 instruction joins its block's line once, behind those that no age or
lower core puts after it, and stalls. The grant goes to the first thread in line, which may then issue; the others stay in line. With the unit, a source whose tag is not FMT
raises the format fault with the register, the format and the tag; bad parity in the unit's latches raises the hardware-error
fault, with an MTVAL that the spec does not state (log 8), and is gone. A service thread raises the illegal-instruction fault. -/
def Obligations.TheVectorUnitIsGrantedInOrder : Prop :=
  ∀ (s : State) (i : Instr) (n : Sys2Proof.Num), vectorNum i = some n →
    let blk := blockOf s.cur
    (isAct s.cur = true → (s.block blk).vgrant ≠ some s.cur →
      ∃ t, exec i s = .next t ∧ Stalls s t .vector ∧ (t.block blk).vgrant = (s.block blk).vgrant ∧
        (s.cur ∈ (s.block blk).vwait → (t.block blk).vwait = (s.block blk).vwait) ∧
        (s.cur ∉ (s.block blk).vwait → ∃ before after, (s.block blk).vwait = before ++ after ∧
          (t.block blk).vwait = before ++ s.cur :: after ∧ (∀ u ∈ before, ¬GoesBefore s s.cur u) ∧
          ∀ u, after.head? = some u → GoesBefore s s.cur u)) ∧
    (∀ k t rest, (s.block k).vgrant = none → (s.block k).vwait = t :: rest → (s.th t).status = .stalled .vector → t ∉ rest →
      ∃ u, exec (.vectorGrant k) s = .next u ∧ (u.block k).vgrant = some t ∧ (u.block k).vwait = rest ∧ (u.th t).status = .running ∧
        u.mem = s.mem ∧ (u.th t).act = (s.th t).act ∧ ∀ v, v ≠ t → u.th v = s.th v) ∧
    (isAct s.cur = true → (s.block blk).vgrant = some s.cur → (s.block blk).unitBad = true →
      ∃ (u : State) (val : Word), exec i s = .next (u.takeFault { code := 0x16, val }) ∧ u.me = s.me ∧ u.mem = s.mem ∧
        (u.block blk).unitBad = false) ∧
    (isAct s.cur = false → exec i s = .next (s.takeFault { code := 0x01, val := (encode i).extractLsb' 32 64 })) ∧
    (∀ rm d srcs tag useRm f r before after, vecLane s rm i = some (d, n, srcs, tag, useRm, f) → HasUnit s →
      (useRm = true → roundMode s n.rm = some rm) → Sys2Proof.Num.reserved n.fmt = false → srcs = before ++ r :: after →
      (∀ q ∈ before, (s.v q).tag = n.fmt) → (s.v r).tag ≠ n.fmt →
      let val : Word := BitVec.ofNat 64 (r.toNat * 2 ^ 16 + n.fmt.toNat * 2 ^ 8 + (s.v r).tag.toNat)
      ∃ u : State, exec i s = .next (u.takeFault { code := 0x06, val }) ∧ u.me = s.me ∧ u.mem = s.mem)

/-- R259, R272, R274, R278, R279, R281: the vector instructions on raw bits and on the tag, conversions, the
extraction of a lane, and reductions, with the conditions under which each of them completes. -/
def Obligations.VectorBitsConversionsAndReductions : Prop :=
  Sys2Proof.Claims.VectorBitInstructionsWriteEachBit ∧
  Sys2Proof.Claims.VectorConversionsAndReductions

/-! ## Classes 7 to 10: engine jobs (R282–R357) -/

namespace Sys2Proof.Claims

/-- Job id of block blk is j, and no other job of the block has its number. -/
def IsJob (s : State) (blk id : Nat) (j : Job) : Prop := s.job? blk id = some j
/-- The job is gone from its scheduler. -/
def JobGone (s : State) (blk id : Nat) : Prop := s.job? blk id = none

/-- Job j was accepted at the end of block blk's queue, as an accepted job of the running thread's activation; nothing
else of the machine changed but what a fall-through changes. -/
structure Accepted (s t : State) (blk : Nat) (j : Job) : Prop extends Moved s t where
  queue : (t.block blk).jobs = (s.block blk).jobs ++ [j]
  id : j.id = (s.block blk).nextJob
  phase : j.phase = .pending
  issuer : j.issuer = s.me.act.id
  thread : j.thread = s.cur
  pid : j.pid = s.me.act.pid
  launch : j.launch = s.me.act.launch
  mem : t.mem = s.mem
  g : ∀ r, t.reg r = s.reg r
  v : ∀ r, t.vreg r = s.vreg r
  elsewhere : ∀ b, b ≠ blk → (t.block b).jobs = (s.block b).jobs

/-- The stamp under which an engine accesses a word of a typed buffer, of those of the blocks of its operand. -/
def keyIn (keys : List (Nat × Nat)) (w : Nat) : Nat := match keys.find? fun e => e.1 == bankBlock w with | some e => e.2 | none => 0
/-- Words with their stamps. -/
def keyed (keys : List (Nat × Nat)) (ws : List Nat) : List (Nat × Nat) := ws.map fun w => (w, keyIn keys w)
/-- An engine's job can access words of typed buffers, each under its stamp: no access of the engine is outstanding, it is to make
them all, every word is sound, under no foreign key and held by no routine, and the issuer's epoch has kept no answer. -/
structure EngineReads (s : State) (blk : Nat) (j : Job) (ws : List (Nat × Nat)) : Prop where
  whole : s.pace = none
  fresh : ∀ team p, (s.block (blockOf j.thread)).epoch team = some p → p.acc = []
  idle : (s.th (engineThread blk (engineNo j.eng))).outst = []
  bank : ∀ w ∈ ws, 2 ^ 42 ≤ w.1 ∧ w.1 < devBase ∧ w.1 % 8 = 0
  sound : ∀ w ∈ ws, s.mem.bad (w.1 / 8) = false ∧ (s.mem.stamp (w.1 / 8) = 0 ∨ s.mem.stamp (w.1 / 8) = w.2)
  free : ∀ w ∈ ws, s.held w.1 = false
  calm : ∀ o, (s.owner o).retry = []
/-- The words with their contents. -/
def contents (s : State) (ws : List Nat) : List (Nat × Word) := ws.map fun w => (w, s.mem.word (w / 8))

/-- The one activation on a thread of its block that issued the job. -/
structure Issuer (s : State) (j : Job) (t : Nat) : Prop where
  act : isAct t = true
  place : blockOf t = blockOf j.thread
  id : (s.th t).act.id = j.issuer
  some : j.issuer ≠ 0
  only : ∀ u, isAct u = true → blockOf u = blockOf t → u ≠ t → (s.th u).act.id ≠ j.issuer

/-- The operation of a matrix instruction, and the tiles it reads and writes (R304–R313). -/
def matrixOp (s : State) : Instr → Option (JobOp × BitVec 16 × BitVec 16)
  | .mma d a b n => some (.mma d (s.g a) (s.g b) n false, if n.opx.getLsbD 0 then 0 else 1#16 <<< d.toNat, 1#16 <<< d.toNat)
  | .mmab d a b n => some (.mma d (s.g a) (s.g b) n true, if n.opx.getLsbD 0 then 0 else 1#16 <<< d.toNat, 1#16 <<< d.toNat)
  | .mzero d => some (.mzero d, 0, 1#16 <<< d.toNat)
  | .mload d a n => some (.mload d (s.g a) n, 0, 1#16 <<< d.toNat)
  | .mdrain a b n => some (.mdrain a (s.g b) n, 1#16 <<< a.toNat, if n.opx.getLsbD 0 then 1#16 <<< a.toNat else 0)
  | _ => none

/-- The checks of R305 and R312 that a matrix instruction passes: reserved bits, alignment, range and protection of its
operands, or a channel of the own block (R313). -/
def matrixOk (s : State) : Instr → Prop
  | .mma _ a b n | .mmab _ a b n =>
    Sys2Proof.Num.reserved n.fmt = false ∧ Sys2Proof.Num.reserved n.fmt2 = false ∧ n.opx.getLsbD 1 = false ∧
    okA (s.g a) = true ∧ okB (s.g b) = true ∧
    ∃ ks, s.operandCheck 16 [(operandA (s.g a) n.fmt, s.g a), (operandB (s.g a) (s.g b) n.fmt2, s.g b)] = .ok ks
  | .mload _ a n => Sys2Proof.Num.reserved n.fmt = false ∧ okLoad (s.g a) = true ∧
    ∃ ks, s.operandCheck 64 [(loadOperand (s.g a) n.fmt, s.g a)] = .ok ks
  | .mdrain _ b n => Sys2Proof.Num.reserved n.fmt = false ∧ malformed (s.g b) = false ∧ maKind (s.g b) = 2 ∧
    maLocal (s.g b) = true ∧ maBlock (s.g b) = blockOf s.cur
  | _ => True

/-- What a card instruction needs of its card: the KIND, whether the card names DST, what its shapes must be, the spaces they
may lie in, and the operation and engine of its job (R282–R287, R331). -/
def cardOf (s : State) : Instr → Option (GReg × GReg × Nat × (Shape → Shape → Nat → Bool) × List Nat × List Nat × Bool × Engine × (Nat → JobOp))
  | .swmap a b n => some (a, b, 0x10, fun x y _ => x.sp != 7 && y.sp != 7 && x.fmt == n.fmt && y.fmt == n.fmt && x.rank == y.rank && x.sizes == y.sizes,
      [0, 1, 2], [0, 1], true, .vector,
      fun _ => .swmap { n with rm := if Sys2Proof.Num.isF n.fmt && decide (n.opx.toNat < 2) then (roundMode s n.rm).getD .rne else .rne })
  | .swred a b n => some (a, b, 0x11, fun x y _ => x.sp != 7 && y.sp != 7 && x.fmt == n.fmt2 && y.fmt == n.fmt && y.rank == max 1 (x.rank - 1) &&
        (List.range 3).all fun d => y.size d == x.size (d + 1),
      [0, 1, 2], [0, 1], false, .vector, fun _ => .swred { n with rm := if n.fmt = 8 then (roundMode s n.rm).getD .rne else .rne })
  | .swcvt a b n => some (a, b, 0x12, fun x y _ => x.sp != 7 && y.sp != 7 && x.fmt == n.fmt2 && y.fmt == n.fmt && x.rank == y.rank && x.sizes == y.sizes,
      [0, 1, 2], [0, 1], false, .vector, fun _ => .swcvt { n with rm := (roundMode s n.rm).getD .rne })
  | .cpy a b => some (a, b, 1, fun x y fl => x.fmt == y.fmt && x.rank == y.rank && x.sizes == y.sizes && (fl == 0 || y.sp == 0 || y.sp == 4 || y.sp == 7),
      [0, 1, 4, 5, 7], [0, 1, 2, 4, 5, 6, 7], false, .copy, fun fl => .copy (BitVec.ofNat 2 fl))
  | _ => none

/-- A rounding mode and formats that an instruction of sweeps may issue with. -/
def sweepNumOk (s : State) : Instr → Prop
  | .swmap _ _ n | .swred _ _ n | .swcvt _ _ n =>
    (roundMode s n.rm).isSome ∧ Sys2Proof.Num.reserved n.fmt = false ∧ Sys2Proof.Num.reserved n.fmt2 = false
  | _ => True

end Sys2Proof.Claims

open Sys2Proof.Claims in
/-- R295, R298, R304, R305, R311–R313: a matrix instruction that passes its checks, with every access of its thread performed, every
message of it delivered, and a place free, retires as the slice accepts its job at the end of the block's queue, with the tiles it reads and writes.
With no place free it stalls. Tiles and memory stay until the job runs. -/
def Sys2Proof.Claims.MatrixInstructionsQueueTheirJob : Prop :=
  ∀ (s : State) (i : Instr) (op : JobOp) (rd wr : BitVec 16), matrixOp s i = some (op, rd, wr) → isAct s.cur = true →
    matrixOk s i → s.settled s.cur = true →
    let blk := blockOf s.cur
    ((s.block blk).jobs.length < 64 →
      ∃ t j, exec i s = .next t ∧ Accepted s t blk j ∧ j.op = op ∧ j.eng = .matrix ∧ j.rdTiles = rd ∧ j.wrTiles = wr ∧ j.joint = none) ∧
    (64 ≤ (s.block blk).jobs.length → ∃ t, exec i s = .next t ∧ Stalls s t .engine)

open Sys2Proof.Claims in
/-- R62, R282–R287, R321, R322, R331: CPY and the sweeps read their card and its two shape records from S; when the selector,
the card, the shapes, their places and their protection pass, and a place is free, the scheduler of the selected block accepts
the job, with the card's TAG and REPLY, and the instruction retires. CPYS binds its stream register to its job as well. -/
def Sys2Proof.Claims.CardInstructionsQueueTheirJob : Prop :=
  (∀ (s s1 : State) (i : Instr) (a b : GReg) (kind : Nat) (ok : Shape → Shape → Nat → Bool) (ins outs : List Nat) (rd : Bool) (eng : Engine)
      (op : Nat → JobOp) (k : CardRead) (blk : Nat) (src dst : Shape),
    cardOf s i = some (a, b, kind, ok, ins, outs, rd, eng, op) → sweepNumOk s i → isAct s.cur = true → s.settled s.cur = true →
    s.readCard (s.g a) true = .ok (k, s1) → s1.engineBlock (s.g b) = some blk → k.card.ok kind = true → k.srcOk = true → k.dstOk = true →
    ok { k.src with blk } { k.dst with blk } k.card.flags = true → replyOk k.card.reply = true →
    s1.placeCheck [({ k.src with blk }, ins), ({ k.dst with blk }, outs)] = none → s1.shapeCheck { k.src with blk } true false = .ok src →
    s1.shapeCheck { k.dst with blk } rd true = .ok dst →
    (eng = .vector → k.src.noSpace = false ∧ k.dst.noSpace = false) → (eng = .copy → s1.xCheck blk k.card.xregions = none) → (s.block blk).jobs.length < 64 →
    ∃ t j, exec i s = .next t ∧ Accepted s t blk j ∧ j.op = op k.card.flags ∧ j.eng = eng ∧ j.tag = k.card.tag ∧
      j.reply = k.card.reply ∧ j.src = some src ∧ j.dst = some dst) ∧
  ∀ (s s1 : State) (d : SIdx) (a : GReg) (k : CardRead) (src : Shape), isAct s.cur = true → s.settled s.cur = true →
    s.readCard (s.g a) false = .ok (k, s1) → s.me.act.stream d = none → k.card.ok 2 = true → k.srcOk = true → k.card.dst = 0 →
    k.src.fmt.toNat ≤ 14 → replyOk k.card.reply = true → s1.placeCheck [({ k.src with blk := blockOf s.cur }, [0, 1, 4, 5, 7])] = none →
    s1.shapeCheck { k.src with blk := blockOf s.cur } true false = .ok src → s1.xCheck (blockOf s.cur) k.card.xregions = none →
    (s.block (blockOf s.cur)).jobs.length < 64 →
    ∃ t j, exec (.cpys d a) s = .next t ∧ Accepted s t (blockOf s.cur) j ∧ j.op = .stream d ∧ j.eng = .copy ∧ j.tag = k.card.tag ∧
      j.reply = k.card.reply ∧ j.src = some src ∧ t.me.act.stream d = some { blk := blockOf s.cur, job := j.id }

open Sys2Proof.Claims in
/-- R354–R356: EQRELABEL reads its card and its shape records from S: the labels, and for a reduction the values and the outputs.
When the card, the shapes, the selector, their places and their protection pass, no message of the thread is on its way, no forest operation of the thread is open and
a place is free, the equivalence scheduler of the selected block accepts the job, and the instruction retires. -/
def Sys2Proof.Claims.RelabelsQueueTheirJob : Prop :=
  ∀ (s s1 s2 s3 s4 : State) (a b : GReg) (dense : Bool) (red : BitVec 3) (bs : List Byte) (lab lab' : Shape) (val out val' out' : Option Shape) (blk : Nat),
    let w := fun o => BitVec.ofNat 64 (field bs o 8)
    let at' := fun h : Shape => { h with blk }
    isAct s.cur = true → s.settled s.cur = true → s.me.eqops = [] → s.readS (s.g a) 64 16 = .ok (bs, s1) →
    s1.readShape 0 (w 8) = .ok (lab, true, s2) → s2.readMaybe 0 (w 0x10) = .ok (val, true, s3) → s3.readMaybe 0 (w 0x18) = .ok (out, true, s4) →
    s4.engineBlock (s.g b) = some blk → field bs 4 4 = 0 → zeroBytes ((bs.drop 0x20).take 24) = true →
    relabelOk red.toNat (at' lab) (val.map at') (out.map at') = true → replyOk (w 0x38) = true →
    s4.placeCheck ([(at' lab, [0, 1, 7])] ++ (val.map at').toList.map (fun h => (h, [0, 1, 2, 7])) ++ (out.map at').toList.map (fun h => (h, [0, 1, 7]))) = none →
    s4.shapeCheck (at' lab) false true = .ok lab' → s4.maybeCheck (val.map at') true false = .ok val' →
    s4.maybeCheck (out.map at') false true = .ok out' →
    ((s.block blk).jobs.length < 64 →
      ∃ t j, exec (.eqrelabel a b dense red) s = .next t ∧ Accepted s t blk j ∧ j.op = .relabel dense red ∧ j.eng = .equiv ∧
        j.tag.toNat = field bs 0 4 ∧ j.reply = w 0x38 ∧ j.dst = some lab' ∧ j.src = val' ∧ j.out = out') ∧
    (64 ≤ (s.block blk).jobs.length → ∃ t, exec (.eqrelabel a b dense red) s = .next t ∧ Stalls s t .engine)

open Sys2Proof.Claims in
/-- R133, R291, R307, R309, R325, R332, R355: an engine starts its oldest accepted job when the jobs it waits for have let it,
no job of the engine runs, and fewer than 16 of its completions wait; otherwise nothing changes. A matrix job starts when its
tile has the tag it needs, and ends with a failure when it has not. A relabel job holds every engine of its forest. -/
def Sys2Proof.Claims.EnginesStartTheirOldestJob : Prop :=
  ∀ (s : State) (blk id : Nat) (j : Job), s.job? blk id = some j →
    (∀ i e, (i, e) ∈ [(Instr.sweepStart blk id, Engine.vector), (Instr.copyJobStart blk id, Engine.copy)] →
      (s.nextJobOf blk e = some j → j.waits.all s.waitMet = true → s.engineFree blk e = true →
        ∃ t, exec i s = .next t ∧ t.job? blk id = some { j with phase := .started } ∧ t.mem = s.mem ∧ t.threads = s.threads) ∧
      (s.nextJobOf blk e ≠ some j ∨ j.waits.all s.waitMet = false ∨ s.engineFree blk e = false → exec i s = .next s)) ∧
    (s.nextJobOf blk .matrix = some j → j.waits.all s.waitMet = true → s.sliceFree blk = true → j.joint = none → j.eng = .matrix →
      ((∀ f, j.op.needs = some f → s.tileTag blk j.op.tile = f ∧ s.tilePoisoned blk j.op.tile 0 64 = false) →
        ∃ t, exec (.matrixJobStart blk) s = .next t ∧ t.job? blk id = some { j with phase := .started } ∧ t.mem = s.mem) ∧
      (∀ f τ, j.op.needs = some f → s.tileTag blk j.op.tile ≠ f → Issuer s j τ → blockOf τ = blk → (s.th τ).act.mstat = 0 →
        ∃ t, exec (.matrixJobStart blk) s = .next t ∧ JobGone t blk id ∧ t.mem = s.mem ∧
          (t.th τ).act.mstat.extractLsb' 56 8 = 0x06 ∧ (t.th τ).act.mstat.extractLsb' 52 4 = j.op.tile ∧
          (t.th τ).act.mstat.extractLsb' 26 5 = f ∧ (t.th τ).act.mstat.extractLsb' 21 5 = s.tileTag blk j.op.tile)) ∧
    (∀ dense red q, j.op = .relabel dense red → s.nextJobOf blk .equiv = some j → j.waits.all s.waitMet = true → s.engineFree blk .equiv = true →
      s.relabelForest blk j dense = .ok q →
      (∀ b ∈ groupOfBlocks blk q.lg, (s.quern b).due = false ∧ (s.quern b).held = false) →
      (∀ e ∈ s.threads, isAct e.1 = true → blockOf e.1 ∈ groupOfBlocks blk q.lg → ∀ o os, e.2.eqops = o :: os → o.begun = false) →
      ∃ t, exec (.relabelJobStart blk id) s = .next t ∧ t.job? blk id = some { j with phase := .started } ∧ t.mem = s.mem ∧
        ∀ b ∈ groupOfBlocks blk q.lg, (t.quern b).held = true)

open Sys2Proof.Claims in
/-- R297, R303, R309, R326, R328, R355: a started job reads its operands, each word once: when the last is read, the job's image
holds every word it named and its read regions are released. Of a joint job the lowest member that has not read A reads it. A
relabel job reads every entry of its forest, and has its labels from them. A stream reads its next element when its buffer has
room, and places it, widened to 64 bits, at the buffer's end. Reading changes no byte. -/
def Sys2Proof.Claims.EnginesReadTheirOperands : Prop :=
  ∀ (s : State) (blk id : Nat) (j : Job), s.job? blk id = some j → j.phase = .started → j.failAt = none →
    (∀ h, j.op.isCard = true → j.op.isStream = false → j.eng = .vector ∨ j.eng = .copy → j.src = some h → j.readsDst = false → j.pos = 0 →
      [j.src, j.dst, j.out].any (fun h => h.any (·.noSpace)) = false → EngineReads s blk j (keyed h.keys h.words) →
      ∃ t k, exec (.cardOperandsConsumed blk id) s = .next t ∧ t.job? blk id = some k ∧ k.phase = .consumed ∧ k.op = j.op ∧
        k.image = j.image ++ contents s h.words ∧ k.status = j.status ∧ t.mem = s.mem) ∧
    (j.eng = .matrix → j.pos = 0 → j.operands blk ≠ [] → (s.castTo blk j).head?.all (fun e => e.1 == blk) = true →
      let ws := (j.operands blk).flatMap fun o => o.1.words blk o.2.2.2
      EngineReads s blk j ((j.operands blk).flatMap fun o => keyed [(o.2.1, o.2.2.1)] (o.1.words blk o.2.2.2)) → ({ j with image := j.image ++ contents s ws } : Job).badBfp blk = none →
      ∃ t k, exec (.matrixOperandsConsumed blk id) s = .next t ∧ t.job? blk id = some k ∧ k.phase = .consumed ∧ k.op = j.op ∧
        k.image = j.image ++ contents s ws ∧ t.mem = s.mem) ∧
    (∀ dense red q r, j.op = .relabel dense red → j.eng = .equiv → j.src = none → j.pos = 0 → j.status = 0 → s.forest? blk j.pid = some q →
      [j.dst, j.out].any (fun h => h.any (·.noSpace)) = false →
      let ws := (List.range q.n).map (eqKey blk q)
      EngineReads s blk j (keyed ((groupOfBlocks blk q.lg).map fun b => (b, (s.quern b).key)) ws) → relabelResult { j with image := j.image ++ contents s ws } blk q dense red.toNat = some r →
      ∃ t k, exec (.cardOperandsConsumed blk id) s = .next t ∧ t.job? blk id = some k ∧ k.phase = .consumed ∧ k.op = j.op ∧
        k.labels = r.1 ∧ k.outs = r.2.1 ∧ k.flags = r.2.2 ∧ k.status = 0 ∧ t.mem = s.mem ∧
        ∀ b ∈ groupOfBlocks blk q.lg, (t.quern b).held = false) ∧
    (∀ x h b τ st v, j.op = .stream x → j.src = some h → h.noSpace = false → h.units[j.pos]? = some b → Issuer s j τ → (s.th τ).act.stream x = some st →
      st.blk = blk → st.job = id → st.buf.length < 16 → EngineReads s blk j (keyed h.keys (bitWords (h.flatBit b) h.unitBits)) →
      imageBits (contents s (bitWords (h.flatBit b) h.unitBits)) (h.flatBit b) h.unitBits = some v →
      ∃ t k, exec (.streamElement blk id) s = .next t ∧ t.job? blk id = some k ∧ k.pos = j.pos + 1 ∧ t.mem = s.mem ∧
        k.phase = (if h.units.length ≤ j.pos + 1 then .consumed else .started) ∧
        (t.th τ).act.stream x = some { st with
          buf := st.buf ++ [if fmtSigned h.fmt then BitVec.ofInt 64 (intDecode h.fmt v)
            else BitVec.ofNat 64 (if h.fmt = 0 then v else v % 2 ^ fmtBits h.fmt)]
          ended := decide (h.units.length ≤ j.pos + 1) })

open Sys2Proof.Claims in
/-- R261, R262, R307, R311–R314: MZERO's job makes every cell of its tile 0 with tag FP32. MLOAD's and MMA's write every cell: the
element of the row, or the products added to the cell, or to 0, with the tag of the format. A drained row is one message to
its channel: 64 cells with the tile's tag, and CLR leaves zeros. No byte outside the tile changes. -/
def Sys2Proof.Claims.MatrixJobsWriteTheirTile : Prop :=
  ∀ (s : State) (blk id : Nat) (j : Job) (t : TIdx), s.job? blk id = some j →
    let frame := fun u : State => ∀ a, a < tileBase blk t ∨ tileBase blk t + 16384 ≤ a → u.mem.byte a = s.mem.byte a
    (j.op = .mzero t → j.phase = .started →
      ∃ u, exec (.matrixJobComplete blk id) s = .next u ∧ JobGone u blk id ∧ u.tileTag blk t = 8 ∧ frame u ∧
        ∀ i c, i < 64 → c < 64 → u.cell blk t i c = 0) ∧
    (∀ a n, j.op = .mload t a n → j.phase = .consumed → fmtBits n.fmt = 32 ∨ fmtBits n.fmt = 16 →
      ∃ u, exec (.matrixJobComplete blk id) s = .next u ∧ JobGone u blk id ∧ u.tileTag blk t = (if n.fmt = 5 then 5 else 8) ∧ frame u ∧
        ∀ i c, i < 64 → c < 64 →
          let x := ((loadOperand a n.fmt).rows blk j.image).getD i 0 / 2 ^ (fmtBits n.fmt * c) % 2 ^ fmtBits n.fmt
          u.cell blk t i c = (if fmtBits n.fmt = 16 then (convert 8 n.fmt .rne false x).1 else x) % 2 ^ 32) ∧
    (∀ a b n bfp, j.op = .mma t a b n bfp → j.phase = .consumed →
      ∃ u, exec (.matrixJobComplete blk id) s = .next u ∧ JobGone u blk id ∧ u.tileTag blk t = (if Sys2Proof.Num.isI n.fmt then 5 else 8) ∧ frame u ∧
        ∀ i c, i < 64 → c < 64 → u.cell blk t i c = (mmaCell n bfp (descK a) (((operandA a n.fmt).rows blk j.image).getD i 0)
          (((operandB a b n.fmt2).rows blk j.image).getD c 0) (if n.opx.getLsbD 0 then 0 else s.cell blk t i c)).1 % 2 ^ 32) ∧
    (∀ dest n, j.op = .mdrain t dest n → j.phase = .started → j.pos < 64 → maKind dest = 2 → maBlock dest = blk →
      s.answerHere j.pid dest 0 = .grant → s.tilePoisoned blk t j.pos 1 = false →
      let c := s.chanOf j.pid dest
      ∃ u m v, exec (.drainRow blk id) s = .next u ∧ ((u.block blk).chan c).slots = ((s.block blk).chan c).slots ++ [m] ∧
        m.vec = some v ∧ v.tag = n.fmt ∧ m.wid = j.wid ∧ m.pid = j.pid ∧ frame u ∧
        (∀ c, c < 64 → laneAt 8 v.bits c = s.cell blk t j.pos c ∧ u.cell blk t j.pos c = if n.opx.getLsbD 0 then 0 else s.cell blk t j.pos c) ∧
        (j.pos = 63 → JobGone u blk id) ∧ (j.pos < 63 → u.job? blk id = some { j with pos := j.pos + 1 }))

open Sys2Proof.Claims in
/-- R133, R248, R289, R327, R329, R355: when a job's writes are performed, its completion waits for delivery: one word with STATUS,
the flags and TAG, from the engine to REPLY. The writes are the sweep's results, the elements copied, or the labels and then the
results of the relabelling. COMPLETION_DELIVERY puts it into a queue register that has room, when nobody older waits there, and
the job is gone; into a full one it does not go, and the job stays. -/
def Sys2Proof.Claims.CompletionsReachTheirReply : Prop :=
  ∀ (s s1 : State) (blk id : Nat) (j : Job) (src dst : Shape) (fl : BitVec 5), s.job? blk id = some j → j.phase = .consumed → j.reply ≠ 0 →
    j.status = 0 → s.pace = none → (s1.job? blk id).any (fun k => k.haz == some true) = false →
    let reports := fun (i : Instr) => ∃ t k m, exec i s = .next t ∧ t.mem = s1.mem ∧ t.job? blk id = some k ∧ k.phase = .held ∧ k.msg = some m ∧
      m.dest = j.reply ∧ m.payload = [BitVec.ofNat 64 (fl.toNat * 2 ^ 48 + j.tag.toNat)] ∧ m.wid = j.wid ∧ m.pid = j.pid
    (∀ xs, j.eng = .vector → j.src = some src → j.dst = some dst → sweepResult j src dst = (xs, fl, 0) → dst.mayWrite s j = true →
      s.engineWrite blk j dst .plain xs = (some 0, s1) → reports (.sweepComplete blk id)) ∧
    (∀ dsy, j.op = .copy dsy → j.src = some src → j.dst = some dst → src.badExponent j.image = false → fl = 0 →
      s.engineWrite blk j dst (if dsy = 1 then .sf else if dsy = 2 then .se else .plain) ((src.values j.image).map src.padded) = (some 0, s1) →
      reports (.copyJobComplete blk id)) ∧
    (∀ x, j.op = .stream x → fl = 0 → s1 = s → reports (.copyJobComplete blk id)) ∧
    (∀ dense red, j.op = .relabel dense red → j.dst = some dst → j.flags = fl → j.pos < 3 →
      (j.out = none → s.engineWrite blk j dst .plain j.labels = (some 0, s1) → reports (.relabelJobComplete blk id)) ∧
      (∀ h s0, j.out = some h → s.engineWrite blk j dst .plain j.labels = (some 0, s0) →
        (s0.modJob blk id fun k => { k with pos := 3 }).engineWriteAt blk j h .plain j.outs 1 false = (some 0, s1) →
        reports (.relabelJobComplete blk id))) ∧
    (∀ k m rest n, n < 4 → s.heldOf blk (engineAt n) = k :: rest → k.msg = some m → k.away = false → maLocal m.dest = true → malformed m.dest = false →
      maKind m.dest = 1 → maDie m.dest = m.die → s.refuses m.pid = false → m.payload.length = 1 →
      let q : State → Queue := fun u => (u.block (maBlock m.dest)).queue (maQueue m.dest)
      (1 ≤ (q s).room → s.turn (maBlock m.dest) (maQueue m.dest) false (engineThread blk n) = true →
        ∃ t, exec (.completionDelivery blk n) s = .next t ∧ (q t).items = (q s).items ++ m.payload ∧ JobGone t blk k.id ∧ t.mem = s.mem) ∧
      ((q s).room = 0 → rest = [] → ∃ t, exec (.completionDelivery blk n) s = .next t ∧ (q t).items = (q s).items ∧ t.mem = s.mem ∧
        (t.block blk).jobs = (s.block blk).jobs))

namespace Sys2Proof.Claims

/-- Bit q of memory. -/
def bitAt (s : State) (q : Nat) : Bool := (s.mem.byte (q / 8)).getLsbD (q % 8)
/-- Units of a shape as bits in memory: where they begin, how many they are, and their value. -/
def unitsOf (h : Shape) (ps : List (Int × Nat)) : List (Nat × Nat × Nat) := ps.map fun p => (h.flatBit p.1, h.unitBits, p.2)
/-- Of memory exactly the bits of these units are written, each as the last unit that holds it says. -/
def WritesUnits (s t : State) (us : List (Nat × Nat × Nat)) : Prop :=
  ∀ q, bitAt t q = match us.reverse.find? fun u => decide (u.1 ≤ q ∧ q < u.1 + u.2.1) with
    | some u => u.2.2.testBit (q - u.1)
    | none => bitAt s q

end Sys2Proof.Claims

open Sys2Proof.Claims in
/-- R285–R287, R290, R322, R327, R355: a completing sweep writes its results, a copy the elements read and a relabel job its labels and then
its reduced values, each to its unit of the destination, in a typed buffer that the engine can write: where units share bits, the
later one's stand, and no other bit of memory changes. A copy that sets or clears tags does so for the words of its
destination; no other tag changes. -/
def Sys2Proof.Claims.JobsWriteTheirDestination : Prop :=
  ∀ (s : State) (blk id : Nat) (j : Job) (dst : Shape), s.job? blk id = some j → j.phase = .consumed → j.status = 0 → j.dst = some dst →
    dst.sp ≤ 6 → EngineReads s blk j (keyed dst.keys dst.words) →
    (∀ src xs fl, j.eng = .vector → j.op.isCard = true → j.op.isStream = false → j.src = some src → sweepResult j src dst = (xs, fl, 0) →
      dst.mayWrite s j = true →
      ∃ t, exec (.sweepComplete blk id) s = .next t ∧ WritesUnits s t (unitsOf dst (dst.units.zip xs)) ∧ ∀ w, t.mem.tag w = s.mem.tag w) ∧
    (∀ dsy src, j.eng = .copy → j.op = .copy dsy → j.src = some src → src.badExponent j.image = false → (∀ b ∈ dst.units, 0 ≤ b) →
      ∃ t, exec (.copyJobComplete blk id) s = .next t ∧
        WritesUnits s t (unitsOf dst (dst.units.zip ((src.values j.image).map src.padded))) ∧
        (dst.units.length = (src.values j.image).length → ∀ w, t.mem.tag w =
          if dst.words.contains (8 * w) then (if dsy = 1 then true else if dsy = 2 then false else s.mem.tag w) else s.mem.tag w)) ∧
    (∀ dense red, j.eng = .equiv → j.op = .relabel dense red → j.pos < 3 →
      (∀ h, j.out = some h → h.sp ≤ 6 ∧ EngineReads s blk j (keyed h.keys h.words) ∧ (∀ p ∈ j.outs, p.1 ∈ h.units) ∧
        ∀ w ∈ h.words, w ∈ dst.words → keyIn h.keys w = keyIn dst.keys w) →
      ∃ t, exec (.relabelJobComplete blk id) s = .next t ∧
        WritesUnits s t (unitsOf dst (dst.units.zip j.labels) ++ match j.out with | some h => unitsOf h j.outs | none => []) ∧
        ∀ w, t.mem.tag w = s.mem.tag w)

open Sys2Proof.Claims in
/-- R300, R301: when every part of a joint job is the next job of its slice, with the same word and descriptor, and every tile has its tag, all of
them start in one step. A part that has waited too long for the others breaks the gang: it ends with cause 0x12. -/
def Sys2Proof.Claims.GangsStartTogether : Prop :=
  ∀ (s : State) (blk : Nat) (p : Nat × Job) (ps : List (Nat × Job)), s.gangParts blk = p :: ps →
    s.gangBroken blk p.2.launch = false →
    ((p :: ps).length = s.gangOf p.2.launch → (∀ q ∈ p :: ps, q.2.word = p.2.word ∧ q.2.op.descA = p.2.op.descA) →
      (∀ q ∈ p :: ps, (∀ f, q.2.op.needs = some f → s.tileTag q.1 q.2.op.tile = f) ∧ s.tilePoisoned q.1 q.2.op.tile 0 64 = false ∧
        s.job? q.1 q.2.id = some q.2) →
      ∃ t, exec (.gangBarrierFire blk) s = .next t ∧ t.mem = s.mem ∧ ∀ q ∈ p :: ps, t.job? q.1 q.2.id = some { q.2 with phase := .started }) ∧
    ((p :: ps).length < s.gangOf p.2.launch → exec (.gangBarrierFire blk) s = .next s) ∧
    (∀ τ, ps = [] → 2 ≤ s.gangOf p.2.launch → Issuer s p.2 τ → blockOf τ = p.1 → p.1 = blk → (s.th τ).act.mstat = 0 →
      ∃ t, exec (.gangBreak blk) s = .next t ∧ t.mem = s.mem ∧ JobGone t blk p.2.id ∧ t.gangBroken blk p.2.launch = true ∧
        (t.th τ).act.mstat.extractLsb' 56 8 = 0x12)

open Sys2Proof.Claims in
/-- R316, R317, R326, R330, R333, R334: MWAIT waits for the matrix jobs on its tile, MSTAT for those of the activation, and JWAIT for the selected card jobs that
were accepted before; then they take a recorded failure, or retire. JPOLL counts the selected jobs. JCANCEL counts those that it cancels: a job
that has not started ends at once, with a completion of status 0xFF, and one whose completion waits for delivery has that status in it. -/
def Sys2Proof.Claims.WaitingEndsWithItsJobs : Prop :=
  ∀ (s : State) (a d : GReg) (x : TIdx), isAct s.cur = true →
    let jobs := (s.block (blockOf s.cur)).jobs
    ((∀ j ∈ jobs, j.op.isMatrix = true → j.op.tile ≠ x) → s.me.act.matrixFail = none → ∃ t, exec (.mwait x) s = .next t ∧ Retired s t ∧ NoReg s t) ∧
    ((∃ j ∈ jobs, j.op.isMatrix = true ∧ j.op.tile = x ∧ j.id < (s.block (blockOf s.cur)).nextJob) → s.me.bound = none →
      ∃ t, exec (.mwait x) s = .next t ∧ Stalls s t .engine) ∧
    (∀ tr, s.me.act.matrixFail = some tr → (∀ j ∈ jobs, j.op.isMatrix = true → j.op.tile ≠ x) →
      ∃ u : State, exec (.mwait x) s = .next (u.takeFault tr) ∧ u.mem = s.mem ∧ u.me.act.matrixFail = none) ∧
    (s.pendOf s.cur true = 0 → s.me.act.matrixFail = none →
      ∃ t, exec (.mstat d) s = .next t ∧ Retired s t ∧ OnlyReg s t d (s.me.act.mstat &&& 0xFFFF00FFFFFFFFFF)) ∧
    (∀ sel, s.jobSel (s.g a) = some sel →
      (s.selected sel = [] → s.me.act.cardFail = none → ∃ t, exec (.jwait a) s = .next t ∧ Retired s t ∧ NoReg s t) ∧
      ((∃ j ∈ s.selected sel, j.id < (s.block sel.1).nextJob) → s.me.bound = none → ∃ t, exec (.jwait a) s = .next t ∧ Stalls s t .engine) ∧
      (∃ t, exec (.jpoll d a) s = .next t ∧ FallsThrough s t ∧ SetsG s t d (BitVec.ofNat 64 (s.selected sel).length) 0) ∧
      (s.selected sel = [] → ∃ t, exec (.jcancel d a) s = .next t ∧ FallsThrough s t ∧ SetsG s t d 0 0) ∧
      (∀ j, s.selected sel = [j] → j.cancelled = false → j.reply ≠ 0 → s.job? sel.1 j.id = some j →
        (j.phase = .pending ∧ j.op.isStream = false) ∨ (j.phase = .held ∧ ∃ m, j.msg = some m ∧ m.dest = j.reply) →
        ∃ t k m, exec (.jcancel d a) s = .next t ∧ Retired s t ∧ OnlyReg s t d 1 ∧ t.job? sel.1 j.id = some k ∧ k.phase = .held ∧ k.cancelled = true ∧
          k.msg = some m ∧ m.dest = j.reply ∧ m.payload = [BitVec.ofNat 64 (0xFF * 2 ^ 56 + j.tag.toNat)])) ∧
    (s.jobSel (s.g a) = none → ∀ i ∈ [Instr.jwait a, .jpoll d a, .jcancel d a],
      exec i s = .next (s.takeFault { code := 0x01, val := s.g a, own := true }))

/-! ### Class 10: the equivalence engines (R338–R357) -/

namespace Sys2Proof.Claims

/-- The kind, destination and operands of a forest operation (R342, R352). -/
def forestOp (s : State) : Instr → Option (Nat × GReg × Word × Word)
  | .equnite d a b => some (0, d, s.g a, s.g b)
  | .eqfind d a => some (1, d, s.g a, 0)
  | .eqsame d a b => some (2, d, s.g a, s.g b)
  | .eqsize d a => some (3, d, s.g a, 0)
  | .eqsnap d => some (4, d, 0, 0)
  | .equndo d => some (5, d, 0, 0)
  | .eqcommit d => some (6, d, 0, 0)
  | _ => none

/-- The word in S that holds element i's entry (R339). -/
def entryWord (blk : Nat) (q : Quern) (i : Nat) : Nat := (bufBase (eqOwner blk q i) 0 + q.base.toNat + 8 * (i / 2 ^ q.lg)) / 8
/-- An entry of a forest in S reads soundly. -/
def entryReads (s : State) (blk : Nat) (q : Quern) (i : Nat) : Prop :=
  s.mem.bad (entryWord blk q i) = false ∧
  (s.mem.stamp (entryWord blk q i) = 0 ∨ s.mem.stamp (entryWord blk q i) = (s.quern (eqOwner blk q i)).key)
/-- Parent and size of an entry. -/
def parentAt (s : State) (blk : Nat) (q : Quern) (i : Nat) : Nat := (s.mem.word (entryWord blk q i)).toNat % 2 ^ 32
def sizeAt (s : State) (blk : Nat) (q : Quern) (i : Nat) : Nat := (s.mem.word (entryWord blk q i)).toNat / 2 ^ 32

/-- Thread t's oldest operation o, on a forest in S of its context that no relabel job holds and whose entries are written. -/
structure OnForest (s : State) (t : Nat) (o : EqOp) (os : List EqOp) (q : Quern) : Prop where
  act : isAct t = true
  ops : (s.th t).eqops = o :: os
  forest : s.forest? (blockOf t) (s.th t).act.pid = some q
  inS : q.dev = false
  written : q.due = false

end Sys2Proof.Claims

open Sys2Proof.Claims in
/-- R341–R344, R352: the seven forest instructions retire as their operation joins those of their thread, with its operands and destination; the
answer comes later. EQINIT of a forest in S or device memory that passes its checks, with no earlier access to its descriptor to be performed, the engines idle, their entries written, not claimed by another EQINIT and nobody
else's, binds every engine of the group to the new forest of n elements, whose entries are still to be written; each engine then writes those
it owns in S: parent itself, size 1. -/
def Sys2Proof.Claims.ForestsAreSetUpAndAsked : Prop :=
  ∀ (s : State),
    (∀ i kind d x y, forestOp s i = some (kind, d, x, y) → isAct s.cur = true →
      ∃ t o, exec i s = .next t ∧ Moved s t ∧ NoReg s t ∧ t.mem = s.mem ∧ t.me.eqops = s.me.eqops ++ [o] ∧ o.kind = kind ∧ o.dst = d ∧
        o.x = x ∧ o.y = y ∧ o.begun = false ∧ o.mon = (s.me.mode == .monitor)) ∧
    (∀ a size (lg : BitVec 2) bs s1 n base, isAct s.cur = true → s.readWaits (s.g a) 16 = false → s.readS (s.g a) 16 16 = .ok (bs, s1) → field bs 8 4 = n → field bs 0xC 4 = 0 → 1 ≤ n → n ≤ 2 ^ 24 →
      let raw : Word := BitVec.ofNat 64 (field bs 0 8)
      ∀ dev : Bool, baseForm raw = (if dev then 7 else 0, base) → base.toNat % 8 = 0 →
      let len := 8 * ((n + 2 ^ lg.toNat - 1) / 2 ^ lg.toNat)
      let grp := groupOfBlocks (blockOf s.cur) lg.toNat
      (if dev then dKind raw = 0 ∧ dChip raw = 0 else base.toNat + len ≤ 0x40000 ∧ ∃ ks, s1.eqKeys base.toNat len grp = .ok ks) →
      s1.eqBusy (s1.eqOld grp s.me.act.pid) = false → s1.eqClaimed grp = false → s.me.late = false →
      (∀ b ∈ s.eqOld grp s.me.act.pid, (s.quern b).due = false ∧ (s.quern b).held = false) →
      (∀ b ∈ grp, (s.quern b).bound = true → (s.quern b).pid = s.me.act.pid) →
      ∃ t, exec (.eqinit a size lg) s = .next t ∧ Moved s t ∧ NoReg s t ∧ t.mem = s.mem ∧
        ∀ b ∈ grp, (t.quern b).bound = true ∧ (t.quern b).pid = s.me.act.pid ∧ (t.quern b).n = n ∧ (t.quern b).base = base ∧
          (t.quern b).lg = lg.toNat ∧ (t.quern b).sizeRule = size ∧ (t.quern b).due = true ∧ (t.quern b).dev = dev) ∧
    (∀ blk q, s.quern blk = q → q.bound = true → q.due = true → q.dev = false → q.base.toNat % 8 = 0 → q.n ≤ 2 ^ 24 →
      (∀ i, i < q.n → eqOwner blk q i = blk → s.held (8 * entryWord blk q i) = false) →
      ∃ t, exec (.eqEntryWrites blk) s = .next t ∧ (t.quern blk).due = false ∧ (∀ v, t.th v = s.th v) ∧
        (∀ i, i < q.n → eqOwner blk q i = blk → (t.mem.word (entryWord blk q i)).toNat = 2 ^ 32 + i) ∧
        ∀ w, (∀ i, i < q.n → eqOwner blk q i = blk → w ≠ entryWord blk q i) → t.mem.word w = s.mem.word w)

open Sys2Proof.Claims in
/-- R345–R347: a hop reads one entry: it goes on at the parent, or finds a root, with its size. An operation of an unbound context is answered with
status 7, and one with a result writes it to its register. The link of two different roots is one step: the lower element, or under the size rule
the root of the larger set, wins; the loser points at it, and it holds the sum of the sizes. No other word changes. -/
def Sys2Proof.Claims.ForestsAreWalkedAndLinked : Prop :=
  ∀ (s : State) (t : Nat) (o : EqOp) (os : List EqOp), isAct t = true → (s.th t).eqops = o :: os →
    let blk := blockOf t
    (s.forest? blk (s.th t).act.pid = none → o.mon = false →
      ∃ u, exec (.eqHop t) s = .next u ∧ u.mem = s.mem ∧ (u.th t).eqops = os ∧ (o.dst ≠ 0 → Map.get 0 (u.th t).act.g o.dst.toNat = 7 * 2 ^ 60)) ∧
    (∀ q, OnForest s t o os q → o.kind = 1 ∨ o.kind = 3 → o.begun = true → o.result = none → o.rootX = none → o.compress = [] → entryReads s blk q o.atX →
      parentAt s blk q o.atX < q.n → o.steps ≤ q.n →
      ∃ u p, exec (.eqHop t) s = .next u ∧ u.mem = s.mem ∧ (u.th t).eqops = p :: os ∧
        (parentAt s blk q o.atX = o.atX → p.rootX = some (o.atX, sizeAt s blk q o.atX)) ∧
        (parentAt s blk q o.atX ≠ o.atX → p.atX = parentAt s blk q o.atX ∧ p.rootX = none ∧ p.pathX = o.pathX ++ [o.atX])) ∧
    (∀ q w, OnForest s t o os q → o.kind ≤ 3 → o.begun = true → o.result = some w → o.compress = [] → o.mon = false →
      ∃ u, exec (.eqHop t) s = .next u ∧ u.mem = s.mem ∧ (u.th t).eqops = os ∧ (o.dst ≠ 0 → Map.get 0 (u.th t).act.g o.dst.toNat = w)) ∧
    (∀ q x y, OnForest s t o os q → o.kind = 0 → o.result = none → o.rootX.map (·.1) = some x → o.rootY.map (·.1) = some y → x ≠ y →
      entryReads s blk q x → entryReads s blk q y → parentAt s blk q x = x → parentAt s blk q y = y → (s.home blk q).snap = none →
      x < q.n → y < q.n → q.n ≤ 2 ^ 24 → q.base.toNat % 8 = 0 → q.base.toNat + 8 * q.n ≤ 0x40000 → sizeAt s blk q x + sizeAt s blk q y ≤ 2 ^ 24 →
      s.held (8 * entryWord blk q x) = false → s.held (8 * entryWord blk q y) = false →
      let xWins := if q.sizeRule = true ∧ sizeAt s blk q x ≠ sizeAt s blk q y then sizeAt s blk q y < sizeAt s blk q x else x < y
      ∃ u win lose, exec (.eqLink t) s = .next u ∧ (xWins → win = x ∧ lose = y) ∧ (¬ xWins → win = y ∧ lose = x) ∧
        parentAt u blk q lose = win ∧ sizeAt u blk q lose = sizeAt s blk q lose ∧
        parentAt u blk q win = win ∧ sizeAt u blk q win = sizeAt s blk q x + sizeAt s blk q y ∧
        (u.home blk q).classes = (s.home blk q).classes - 1 ∧
        ∀ w, w ≠ entryWord blk q x → w ≠ entryWord blk q y → u.mem.word w = s.mem.word w)

/-- R62, R282–R287, R295, R298, R304, R305, R311–R313, R321, R322, R331, R354–R356: an instruction of an engine that
passes its checks retires as the scheduler of its block accepts its job. -/
def Obligations.EngineInstructionsQueueTheirJob : Prop :=
  Sys2Proof.Claims.MatrixInstructionsQueueTheirJob ∧
  Sys2Proof.Claims.CardInstructionsQueueTheirJob ∧
  Sys2Proof.Claims.RelabelsQueueTheirJob

/-- R261, R262, R297, R303, R307, R309, R311–R314, R326, R328, R355: started jobs read their operands, and matrix jobs
write their tile. -/
def Obligations.EnginesReadAndWrite : Prop :=
  Sys2Proof.Claims.EnginesReadTheirOperands ∧
  Sys2Proof.Claims.MatrixJobsWriteTheirTile

/-- R133, R291, R300, R301, R307, R309, R325, R332, R355: an engine starts its oldest job when it may, and the parts
of a joint job start in one step or break. -/
def Obligations.EnginesStartTheirJobs : Prop :=
  Sys2Proof.Claims.EnginesStartTheirOldestJob ∧
  Sys2Proof.Claims.GangsStartTogether

/-- R133, R248, R285–R287, R289, R290, R316, R317, R322, R326, R327, R329, R330, R333, R334, R355: completions of
jobs, what jobs write to memory and what they leave, and the instructions that wait for jobs, count or cancel them. -/
def Obligations.JobsEndAndAreWaitedFor : Prop :=
  Sys2Proof.Claims.CompletionsReachTheirReply ∧
  Sys2Proof.Claims.JobsWriteTheirDestination ∧
  Sys2Proof.Claims.WaitingEndsWithItsJobs

/-- R341–R347, R352: forests are set up, asked, walked and linked. -/
def Obligations.ForestsAreKept : Prop :=
  Sys2Proof.Claims.ForestsAreSetUpAndAsked ∧
  Sys2Proof.Claims.ForestsAreWalkedAndLinked

/-! ## Deliveries, the dispatcher, launches and code misses (R113–R118, R130–R152, R157, R165, R237) -/

namespace Sys2Proof.Claims

/-- Message i of the flight is the oldest of its source to its destination, and its stamp has been applied. -/
structure Arrives (s : State) (i : Nat) (m : Msg) : Prop where
  here : s.flight[i]? = some m
  applied : m.applied = true
  oldest : ∀ j, j < i → ∀ o, s.flight[j]? = some o → o.src = m.src → o.dest ≠ m.dest
  granted : m.ungranted = false

/-- The thread runs the activation that a message starts (R139). -/
structure Starts (u : State) (t : Nat) (m : Msg) (handle : BitVec 32) : Prop where
  status : (u.th t).status = .running
  mode : (u.th t).mode = .context
  pc : (u.th t).act.pc = codeAddr handle 0
  regs : ∀ k, Map.get 0 (u.th t).act.g k = if 1 ≤ k ∧ k ≤ 8 then (m.payload.take 8).getD (k - 1) 0
    else if k = 9 then m.reply else if k = 10 then m.wid else if k = 11 then m.src else 0
  vecs : ∀ k, Map.get {} (u.th t).act.v k = if k = 0 then m.vec.getD {} else {}
  reply : (u.th t).act.reply = m.reply
  wid : (u.th t).act.wid = m.wid
  loops : (u.th t).act.loops = []
  fresh : (u.th t).act.drm = 1 ∧ (u.th t).act.flags = 0 ∧ (u.th t).act.retire = 0 ∧ (u.th t).act.codeflt = 0

/-- A report of a launch inbox with these words is in flight, and nothing else is new there. -/
def Reports (s u : State) (dest : Word) (pid : BitVec 16) (words : List Word) : Prop :=
  ∃ m, u.flight = s.flight ++ [m] ∧ m.dest = dest ∧ m.pid = pid ∧ m.payload = words ++ List.replicate (8 - words.length) 0
/-- A report can be sent to the address (R145). -/
def reportable (w : Word) : Prop := w ≠ 0 ∧ malformed w = false ∧ maKind w ≤ 4

/-- A waiter of a code miss takes the code-unavailable fault, with CODEFLT saying why (R116, R117). -/
def CodeUnavailable (u : State) (t : Nat) (reason : Byte) (trig rjsrc : BitVec 4) (nrej : Byte) (h : BitVec 32) : Prop :=
  (u.th t).mode = .monitor ∧ (u.th t).mcause = 0x10 ∧ (u.th t).act.codeflt = codefltWord reason 0 trig 3 rjsrc nrej h

/-- One thread, in context mode, waits for the resolution of handle h. -/
structure OneWaits (s : State) (cl t : Nat) (trig : BitVec 4) (h : BitVec 32) (f : Fetch) : Prop where
  fetch : s.fetch? cl h = some f
  only : f.waiters = [(t, trig)]
  act : isAct t = true
  here : clusterOf t = cl
  status : (s.th t).status = .stalled (.codeMiss h trig)
  mode : (s.th t).mode = .context
  vector : s.badVector t 0x10 = false

/-- The launch's channel in a block, by the number of its context: the first stage's. -/
def firstChan (l : Launch) : CIdx := match l.stages with | k :: _ => k.1 | [] => 0
/-- What a FORK cell owes when its count reaches 0: its continuation, for the completion of source src (R156). -/
def owedBy (c : JoinCell) (src : Word) : Owed :=
  { cont := c.cont, pid := c.pid, wid := c.wid, prio := c.prio, deadline := c.deadline, chan := c.chan, stage := c.stage
    launch := c.launch, blocks := c.blocks, src, member := c.member }

end Sys2Proof.Claims

open Sys2Proof.Claims in
/-- R130–R133, R135, R153, R156, R157: a message that arrives leaves the flight. A channel takes it at the end of its slots; a
queue register takes its payload words in order, one zero word for an empty payload; a join cell of its context counts
down, owes its continuation when a FORK cell reaches 0, and an event that the cell refuses is only logged; an FE word of S,
empty or full, takes the first payload word and is full. That the delivery to a poisoned word of S writes the word, marks it full and leaves the
poison is the model's choice between R132 and R183 (log 86). -/
def Sys2Proof.Claims.MessagesAreDelivered : Prop :=
  ∀ (s : State) (i : Nat) (m : Msg), Arrives s i m →
    let blk := maBlock m.dest
    let c := s.chanOf m.pid m.dest
    (maKind m.dest = 2 → ((s.block blk).chan c).bind.isSome = true →
      ∃ u, exec (.channelDelivery i) s = .next u ∧ u.flight = s.flight.eraseIdx i ∧ u.mem = s.mem ∧ u.threads = s.threads ∧
        ((u.block blk).chan c).slots = ((s.block blk).chan c).slots ++ [m] ∧
        ((u.block blk).chan c).reserved = ((s.block blk).chan c).reserved - 1) ∧
    (maKind m.dest = 1 →
      let q := (s.block blk).queue (maQueue m.dest)
      ∃ u, exec (.queueDelivery i) s = .next u ∧ u.flight = s.flight.eraseIdx i ∧ u.mem = s.mem ∧ u.threads = s.threads ∧
        ((u.block blk).queue (maQueue m.dest)).items = q.items ++ (if m.payload = [] then [0] else m.payload) ∧
        ((u.block blk).queue (maQueue m.dest)).reserved = q.reserved - max 1 m.payload.length) ∧
    (maKind m.dest = 3 →
      let c := (s.cluster (maCluster m.dest)).join (maJoin m.dest)
      ∃ u, exec (.joinCellDelivery i) s = .next u ∧ u.flight = s.flight.eraseIdx i ∧ u.mem = s.mem ∧ u.threads = s.threads ∧
        let d := (u.cluster (maCluster m.dest)).join (maJoin m.dest)
        (c.mode.isSome = true ∧ c.pid = m.pid ∧ c.count ≠ 0 → d.count = c.count - 1 ∧ d.mode = c.mode ∧ d.cont = c.cont ∧
          d.owed = if c.mode = some false ∧ c.count = 1 then c.owed ++ [owedBy c m.src] else c.owed) ∧
        (¬ (c.mode.isSome = true ∧ c.pid = m.pid ∧ c.count ≠ 0) → d = c ∧
          ∃ l ∈ u.sys.log, l.cause = 0x12 ∧ l.sub = 0x01 ∧ l.src = m.src)) ∧
    (maKind m.dest = 4 → maDevice m.dest = false → (m.dest.extractLsb' 0 18).toNat % 8 = 0 →
      let pa := bufBase blk 0 + (m.dest.extractLsb' 0 18).toNat
      s.held pa = false → (s.owner (ownerAt pa)).retry = [] →
      ∃ u, exec (.feWordDelivery i) s = .next u ∧ u.flight = s.flight.eraseIdx i ∧ Stores s u pa 8 (m.payload.headD 0).toNat ∧
        SetsTag s u (pa / 8) true ∧ ∀ w, u.mem.bad w = s.mem.bad w)

open Sys2Proof.Claims in
/-- R141, R157, R228, R237: a blocking SEND that stalls delivers once its destination grants: its message is in flight and its
thread goes on behind it. The oldest POP waiter takes the oldest word once there is one, and the oldest PUSH waiter
appends its word once there is room. A stamped message may be delivered once all that its stamp counts is applied. -/
def Sys2Proof.Claims.WaitersAreServed : Prop :=
  ∀ (s : State) (t : Nat), isAct t = true →
    let r : State := { s with cur := t }
    (∀ a b c n ord, (s.th t).status = .stalled .send → (s.th t).paired = false → s.instrAt t = some (.send a b c n ord) →
      (∀ v ∈ s.fab.unacked, v.thread = t → v.msg = none) → MaySend r (r.g a) → malformed (r.g a) = false →
      1 ≤ maKind (r.g a) → maKind (r.g a) ≤ 4 → (s.th t).resent = [] →
      (s.th t).sendDst = some { dst := r.g a, words := n.toNat } → s.answerTo t (s.th t).act.pid (r.g a) n.toNat = .grant →
      ∃ u m, exec (.sendGrant t) s = .next u ∧ u.flight = s.flight ++ [m] ∧ m.dest = r.g a ∧ m.reply = r.g c ∧
        m.payload = (payload b n).map r.g ∧ m.src = sourceOf t ∧ u.cur = s.cur ∧ u.mem = s.mem ∧
        (u.th t).status = .running ∧ (u.th t).act.pc = r.fallPc ∧ ∀ v, v ≠ t → u.th v = s.th v) ∧
    (∀ q more, ((s.block (blockOf t)).queue q).waiters = t :: more → (s.th t).paired = false → r.acqWaits = false →
      let items := ((s.block (blockOf t)).queue q).items
      (∀ d w rest, (s.th t).status = .stalled (.queue q true) → s.instrAt t = some (.qpop d q) → items = w :: rest →
        ∃ u, exec (.queueWaiterServed (blockOf t) q) s = .next u ∧ u.cur = s.cur ∧ u.mem = s.mem ∧
          ((u.block (blockOf t)).queue q).items = rest ∧ (u.th t).status = .running ∧ (u.th t).act.pc = r.fallPc ∧
          ∀ k, ({ u with cur := t } : State).reg k = if k = d ∧ k ≠ 0 then w else r.reg k) ∧
      (∀ a, (s.th t).status = .stalled (.queue q false) → s.instrAt t = some (.qpush q a) → 1 ≤ ((s.block (blockOf t)).queue q).room →
        s.settled t = true → (∀ v ∈ more, (s.th v).status ≠ .stalled (.queue q true)) →
        ∃ u, exec (.queueWaiterServed (blockOf t) q) s = .next u ∧ u.cur = s.cur ∧ u.mem = s.mem ∧
          ((u.block (blockOf t)).queue q).items = items ++ [r.g a] ∧ (u.th t).status = .running ∧ (u.th t).act.pc = r.fallPc)) ∧
    (∀ i m, s.flight[i]? = some m → m.applied = false →
      let d := s.maHome 0 m.pid m.dest
      let met := m.stamp = [] ∨ ∀ k, k < 4 → (((s.die d).a.getD k 0) - m.stamp.getD k 0).toNat < 2 ^ 15
      ∃ u, exec (.stampedWriteApply i) s = .next u ∧ (¬ met → u = s) ∧
        (met → u = { s with flight := s.flight.set i { m with applied := true } }))

open Sys2Proof.Claims in
/-- R138, R139, R150, R152, R156: a dispatch takes a candidate of the highest effective priority to the lowest free core of
the block: the head message of a channel starts its activation with the registers R139 gives it, and a displaced
activation goes on as it was; a replayed member that waits for its thread goes on there. A FORK cell that owes its continuation starts it on an idle core, with the cell's work
identifier and the last completion's source in g10 and g11. A sender that has waited too long for a full higher stage
leaves its core to a message of a higher stage. -/
def Obligations.DispatchStartsActivations : Prop :=
  ∀ (s : State) (blk t : Nat),
    (blk < 1024 → s.freeCore blk = some t → blockOf t = blk ∧ s.coreFree t = true ∧ ∀ v, blockOf v = blk → isAct v = true → v < t → s.coreFree v = false) ∧
    (∀ c p, bestOf (s.candidates blk) = some (c, p) → (c, p) ∈ s.candidates blk ∧ ∀ e ∈ s.candidates blk, e.2 ≤ p) ∧
    (∀ c p n m rest, s.freeCore blk = some t → bestOf (s.candidates blk) = some (.chan c, p) →
      ((s.block blk).chan c).bind = some n → ((s.block blk).chan c).slots = m :: rest →
      ∃ u, exec (.dispatch blk) s = .next u ∧ Starts u t m n.handle ∧ (u.th t).act.launch = n.launch ∧ (u.th t).act.stage = n.stage ∧
        (u.th t).act.home = c ∧ (u.th t).act.chan = maChan m.dest ∧ (u.th t).act.pid = n.pid ∧ (u.th t).act.dline.toNat = n.deadline.toNat * 256 ∧
        ((u.block blk).chan c).slots = rest ∧ ((u.block blk).chan c).running = ((s.block blk).chan c).running + 1 ∧
        (u.block blk).lastChan = c ∧ (traceTen (s.th t) = false → u.mem = s.mem) ∧ ∀ v, v ≠ t → u.th v = s.th v) ∧
    (∀ ix p d, s.freeCore blk = some t → bestOf (s.candidates blk) = some (.displaced ix, p) → (s.block blk).displaced[ix]? = some d →
      ∃ u, exec (.dispatch blk) s = .next u ∧ (u.th (d.again.getD t)).status = .running ∧ (u.th (d.again.getD t)).act = d.act ∧
        (u.block blk).displaced = (s.block blk).displaced.eraseIdx ix) ∧
    (∀ cl j c rest more, ((s.cluster cl).join j).owed = c :: rest → s.idleOf c.blocks = t :: more →
      ∃ u, exec (.joinContinuationRecruit cl j) s = .next u ∧ ((u.cluster cl).join j).owed = rest ∧ (u.th t).status = .running ∧
        (u.th t).act.pc = c.cont ∧ (u.th t).act.wid = c.wid ∧ (u.th t).act.prio = c.prio ∧ (u.th t).act.stage = c.stage ∧
        (u.th t).act.launch = c.launch ∧ ∀ k, Map.get 0 (u.th t).act.g k = if k = 10 then c.wid else if k = 11 then c.src else 0) ∧
    (∀ w k, (s.th t).sendDst = some { dst := w, words := k } → (s.th t).status = .stalled .send → (s.th t).mode = .context →
      256 ≤ (s.th t).sendWait → (s.th t).sendAns = none → (s.th t).eqops = [] → s.quietAt t = true → s.freeCore (blockOf t) = none →
      let target := (s.block (maBlock w)).chan (s.chanOf (s.th t).act.pid w)
      let above : Option Binding → Prop := fun o => ∃ k, o = some k ∧ k.stage ≠ 0xFF ∧ (s.th t).act.stage ≠ 0xFF ∧ (s.th t).act.stage.toNat < k.stage.toNat
      maKind w = 2 → s.maHere (s.th t).act.pid w = true → target.full = true → above target.bind → (s.block (blockOf t)).sendRecords < 128 →
      (∃ e ∈ (s.block (blockOf t)).chans, s.dispatchable (blockOf t) e.2 = true ∧ above e.2.bind) →
      ∃ u d, exec (.sendDisplacement t) s = .next u ∧ (u.th t).status = .idle ∧
        (u.block (blockOf t)).displaced = (s.block (blockOf t)).displaced ++ [d] ∧ d.act = (s.th t).act ∧ d.atSend = some w ∧
        (∀ n, d.place = some n → 64 ≤ n ∧ n < 192) ∧
        ∀ x, (∀ n, d.place = some n → x < s.recordAt (blockOf t) n ∨ s.recordAt (blockOf t) n + 0x1300 ≤ x) → u.mem.byte x = s.mem.byte x)

open Sys2Proof.Claims in
/-- R143–R145, R404: an inbox serves its oldest header. An accepted launch has its entry, with the header's fields, the
placed blocks and the number of its activations; its channel is bound in every placed block, and ACCEPTED is on its way.
A header that R144 refuses, with the reason of its first failing check, or whose launch is there already, changes no
launch and no block: REFUSED, or ACCEPTED once more, is on its way. -/
def Sys2Proof.Claims.HeadersAreAcceptedOrRefused : Prop :=
  ∀ (s : State) (cl : Nat) (h : Header) (rest : List Header), (s.cluster cl).inbox = h :: rest → s.stampOk (cl / 32) h.stamp = true →
    let p := parseHead h.bytes
    let s0 := (s.modCluster cl fun c => { c with inbox := rest }).acquireStamp (cl / 32) h.stamp
    let id := s.launchId h
    (∀ l, s.launch? id = some l → reportable l.reply →
      ∃ u, exec (.launchHeader cl) s = .next u ∧ (u.cluster cl).inbox = rest ∧ u.sys.launches = s.sys.launches ∧ u.blocks = s.blocks ∧
        Reports s u l.reply l.pid [1, id]) ∧
    (s.launch? id = none → (∀ r ∈ s.sys.retired, r.1 ≠ id) → s0.refuses h.pid = true → reportable p.reply →
      ∃ u, exec (.launchHeader cl) s = .next u ∧ (u.cluster cl).inbox = rest ∧ u.sys.launches = s.sys.launches ∧ u.blocks = s.blocks ∧
        Reports s u p.reply h.pid [2, 0, 0x0C]) ∧
    (s.launch? id = none → (∀ r ∈ s.sys.retired, r.1 ≠ id) → s0.refuses h.pid = false → p.nstage = 0 →
      ∀ s2 dig, s0.readDigests (128 * cl) h.pid p.entry [p.index] = some ([dig], s2) →
      (p.zero = false → s2.refusal p h.pid (some []) (some [dig]) = some 0x01) ∧
      (∀ c, s2.refusal p h.pid (some []) (some [dig]) = some c → reportable p.reply →
        ∃ u, exec (.launchHeader cl) s = .next u ∧ (u.cluster cl).inbox = rest ∧ u.sys.launches = s.sys.launches ∧ u.blocks = s.blocks ∧
          Reports s u p.reply h.pid [2, 0, c.setWidth 64]) ∧
      (s2.refusal p h.pid (some []) (some [dig]) = none → reportable p.reply → (∀ c, (s.cluster c).dir.length + 8 ≤ 4096) →
        ∃ u l, exec (.launchHeader cl) s = .next u ∧ (u.cluster cl).inbox = rest ∧ u.sys.launches = s.sys.launches ++ [l] ∧
          Reports s u p.reply h.pid [1, id] ∧ l.id = id ∧ l.pid = h.pid ∧ l.base = p.base ∧ l.exts = p.exts ∧ l.param = p.param ∧
          l.reply = p.reply ∧ l.chk = p.chk ∧ l.gang = p.gang ∧ l.blocks = s.placed p.place ∧ l.nextEnum = 0 ∧ l.running = 0 ∧ l.dispatched = 0 ∧
          l.total = (p.exts.map (max 1)).prod ∧ l.noComp = p.fl.testBit 1 ∧ l.errStop = p.fl.testBit 2 ∧ l.conf = p.fl.testBit 0 ∧
          ∀ b ∈ l.blocks, ∃ n, ((u.block b).chan (s.chanNo b h.pid (p.place.extractLsb' 48 5))).bind = some n ∧ n.launch = id ∧ n.pid = h.pid ∧
            n.stage = 0xFF ∧ n.prio.toNat = p.prio ∧ n.deadline.toNat = if p.deadline = 0 then 0xFFFF else p.deadline % 2 ^ 16))

open Sys2Proof.Claims in
/-- R132, R146, R147, R149, R404: enumeration sends the next activation's message, with PARAM and the launch id as its
payload, to the block that its number gives, when the channel has room and, for a block of another die, the stamp may leave (R237). A launch whose activations are all dispatched and ended, whose channels are
empty and whose jobs are done completes: its channels are unbound and COMPLETE, with the number of its errors, is on its
way, or, where none is wanted, the launch leaves the journal. Reports that failed are sent again. An activation of a team that a
fault has ended is counted and never starts (R166). -/
def Sys2Proof.Claims.LaunchesAreEnumeratedAndComplete : Prop :=
  ∀ (s : State) (id : Word) (l : Launch), s.launch? id = some l →
    let m := l.nextEnum
    let blk := l.blocks.getD (m % l.blocks.length) 0
    let c := s.chanNo blk l.pid (firstChan l)
    let chan := (s.block blk).chan c
    let passes := blk / 256 ≠ l.inbox / 32 → s.releaseStalls (l.inbox / 32) = false
    let dead := l.chk ≠ 0xFF ∧ l.deadTeams.contains (teamKey l.widspec l.chk.toNat (l.widOf m)) = true
    (l.stopped = false → l.finished = false → m < l.total → chan.full = false → s.refuses l.pid = false → passes → dead →
      ∃ u, exec (.launchEnumeration id) s = .next u ∧ u.flight = s.flight ∧
        u.launch? id = some { l with nextEnum := m + 1, dispatched := l.dispatched + 1, released := l.released + 1 }) ∧
    (l.stopped = false → l.finished = false → m < l.total → chan.full = false → s.refuses l.pid = false → passes → ¬ dead →
      ∃ u k l', exec (.launchEnumeration id) s = .next u ∧ u.flight = s.flight ++ [k] ∧ k.dest = chanAddr blk (firstChan l) ∧
        k.payload = [l.param, id] ∧ k.reply = l.reply ∧ k.src = l.src ∧ k.pid = l.pid ∧ k.launch = id ∧ k.wid = l.widOf m ∧
        u.launch? id = some l' ∧ l' = { l with nextEnum := m + 1 } ∧ ((u.block blk).chan c).reserved = chan.reserved + 1) ∧
    (l.finished = false → l.stopped = true ∨ (l.dispatched = l.total ∧ l.running = 0 ∧ s.channelsEmpty id = true ∧ s.jobsDone id = true ∧ s.owes id = false) →
      ∃ u, exec (.launchComplete id) s = .next u ∧ u.mem = s.mem ∧
        (∀ b c n, ((u.block b).chan c).bind = some n → n.launch ≠ id) ∧
        (l.noComp = false → reportable l.reply → Reports s u l.reply l.pid [3, id, l.errors] ∧
          ∃ l', u.launch? id = some l' ∧ l'.finished = true) ∧
        (l.noComp = true → u.launch? id = none ∧ u.flight = s.flight)) ∧
    (∃ u l', exec (.launchReportResend id) s = .next u ∧ u.flight = s.flight ++ l.unsent ∧ u.launch? id = some l' ∧ l'.unsent = [])

open Sys2Proof.Claims in
/-- R79, R80, R146: activation m of a launch whose extents fit its widths has the work identifier BASE with field i raised by
its index, the indexes of m being those of a mixed radix count in which the last field changes fastest. -/
def Obligations.EnumerationCountsInMixedRadix : Prop :=
  ∀ (l : Launch) (m i : Nat), l.exts.length = 6 → i < 6 → ((List.range 6).map (widthOf l.widspec)).sum ≤ 64 →
    (∀ k, k < 6 → if widthOf l.widspec k = 0 then l.exts.getD k 0 ≤ 1
      else fieldOf l.widspec l.base k + max 1 (l.exts.getD k 0) ≤ 2 ^ widthOf l.widspec k) →
    fieldOf l.widspec (l.widOf m) i = fieldOf l.widspec l.base i +
      m / ((l.exts.drop (i + 1)).map (max 1)).prod % max 1 (l.exts.getD i 0)

open Sys2Proof.Claims in
/-- R163–R165, R186: when a replay may happen, the words that the team's epoch journalled have their old values and tags again, and
a member saved at the epoch's opening goes on from there, with the count of its requests; the epoch has one more replay. When it may not, the stalled
activation enters the monitor with the fault's cause and MTVAL. -/
def Obligations.TeamsAreReplayed : Prop :=
  ∀ (s : State) (t : Nat) (team : Word × Word), isAct t = true → (s.th t).status = .stalled .replay → s.teamOf (s.th t).act = some team →
    (s.mayReplay t = false → exec (.teamReplay t) s = .next (s.monitorEntry t { code := (s.th t).mcause, val := (s.th t).mtval })) ∧
    (∀ p a, s.mayReplay t = true → (∀ e ∈ s.actives, s.teamOf e.2.act = some team → e.1 = t) → (s.th t).outst.any (·.busy) = false →
      (List.map Prod.fst s.blocks).Pairwise (· < ·) → (List.map Prod.fst s.threads).Pairwise (· < ·) →
      (∀ b, (s.block b).jobs = [] ∧ (s.block b).displaced = [] ∧ (b ≠ blockOf t → (s.block b).epoch team = none)) →
      (s.block (blockOf t)).epoch team = some p → p.saved = [(t, a)] → p.rested = [] → p.msgs = [] → p.sends = [] →
      (∀ o, (s.owner o).retry = []) →
      (p.olds.map (·.1)).Nodup → traceTen (s.th t) = false →
      ∃ u p', exec (.teamReplay t) s = .next u ∧ (u.th t).status = .running ∧ (u.th t).act = a ∧
        (∀ o ∈ p.olds, u.mem.word o.1 = o.2.1 ∧ u.mem.tag o.1 = o.2.2) ∧
        (∀ w, (∀ o ∈ p.olds, o.1 ≠ w) → u.mem.word w = s.mem.word w ∧ u.mem.tag w = s.mem.tag w) ∧
        (u.block (blockOf t)).epoch team = some p' ∧ p'.olds = [] ∧ p'.replays = p.replays + 1)

open Sys2Proof.Claims in
/-- R109, R110, R113–R118: a code miss goes on at once when its function is resident, joins a resolution under way, and opens
one otherwise. The depot's image installs where its digest is the function's and room can be made, and the waiters go
on; while another install of the cluster waits for room it waits behind that one; a wrong one, or a source's silence, passes to the next source and, after the last, gives the waiters the
code-unavailable fault, as the end of the wait for room does. -/
def Obligations.CodeMissesAreResolved : Prop :=
  ∀ (s : State) (cl t : Nat) (trig : BitVec 4) (h : BitVec 32),
    (∀ e i, isAct t = true → (s.th t).status = .stalled (.codeMiss h trig) → (s.cluster (clusterOf t)).entry h = some e → e.inst = some i →
      ∃ u, exec (.codeMiss t) s = .next u ∧ (u.th t).status = .running ∧ u.mem = s.mem) ∧
    (∀ e f, isAct t = true → (s.th t).status = .stalled (.codeMiss h trig) → (s.cluster (clusterOf t)).entry h = some e → e.inst = none →
      s.fetch? (clusterOf t) h = some f → (∀ w ∈ f.waiters, w.1 ≠ t) →
      ∃ u f', exec (.codeMiss t) s = .next u ∧ u.fetch? (clusterOf t) h = some f' ∧ f'.waiters = f.waiters ++ [(t, trig)] ∧ f'.digest = f.digest) ∧
    (∀ e, isAct t = true → (s.th t).status = .stalled (.codeMiss h trig) → (s.cluster (clusterOf t)).entry h = some e → e.inst = none →
      s.fetch? (clusterOf t) h = none → s.peers e.pid = [] →
      ∃ u f', exec (.codeMiss t) s = .next u ∧ u.fetch? (clusterOf t) h = some f' ∧ f'.waiters = [(t, trig)] ∧ f'.digest = e.digest ∧
        f'.pid = e.pid ∧ f'.source = 4 ∧ (f'.askTrans = true ↔ f'.mask ≠ 0) ∧ (trig ≠ 4 → f'.mask = (s.th t).act.ttlmask)) ∧
    (∀ f i e bs, s.fetch? cl h = some f → f.waiting = none → f.svc = none → f.source = 4 → f.askTrans = false → (s.cluster cl).entry h = some e →
      bs ≠ [] → checkPortable f.digest bs = .ok i →
      (s.installWaits cl = false → (∃ s1, s.install cl f.pid h i = (s1, true)) →
        ∃ u, exec (.codeInstall cl h bs) s = .next u ∧ (u.cluster cl).inst h = some i ∧ u.fetch? cl h = none ∧
          ∀ w ∈ f.waiters, (∃ g, (s.th w.1).status = .stalled (.codeMiss h g)) → (u.th w.1).status = .running) ∧
      (s.installWaits cl = true → ∃ u, exec (.codeInstall cl h bs) s = .next u ∧ (u.cluster cl).dir = (s.cluster cl).dir ∧
        u.fetch? cl h = some { f with waiting := some i } ∧
        ∀ g, (s.cluster cl).firstWaiting = some g → g.1.handle ≠ h → (u.cluster cl).firstWaiting = some g)) ∧
    (∀ f bs, OneWaits s cl t trig h f → f.waiting = none → f.source = 4 → f.askTrans = false → f.nrej ≠ 255 → bs ≠ [] → sha256 bs ≠ f.digest →
      ∃ u, exec (.codeInstall cl h bs) s = .next u ∧ CodeUnavailable u t 0x11 trig 4 (f.nrej + 1) h) ∧
    (∀ f, OneWaits s cl t trig h f → f.waiting = none → f.source = 4 →
      ∃ u, exec (.codeSourceTimeout cl h) s = .next u ∧ u.fetch? cl h = none ∧ CodeUnavailable u t 0x11 trig f.rjsrc f.nrej h) ∧
    (∀ f r, s.fetch? cl h = some f → f.waiting = none → f.source = 3 → f.peers = [r] →
      ∃ u f', exec (.codeSourceTimeout cl h) s = .next u ∧ u.fetch? cl h = some f' ∧ f'.source = 4 ∧ f'.peers = [] ∧ f'.waiters = f.waiters) ∧
    (∀ f i s1 e, (s.cluster cl).firstWaiting = some (f, i) → s.fetch? cl h = some f → (s.cluster cl).entry h = some e →
      s.install cl f.pid h i = (s1, true) →
      ∃ u, exec (.kilnInstallRetry cl) s = .next u ∧ (u.cluster cl).inst h = some i ∧ u.fetch? cl h = none ∧
        ∀ w ∈ f.waiters, (∃ g, (s.th w.1).status = .stalled (.codeMiss h g)) → (u.th w.1).status = .running) ∧
    (∀ f i, OneWaits s cl t trig h f → (s.cluster cl).firstWaiting = some (f, i) →
      ∃ u, exec (.kilnInstallTimeout cl) s = .next u ∧ u.fetch? cl h = none ∧ CodeUnavailable u t 0x15 trig f.rjsrc f.nrej h)

/-- R130–R133, R135, R141, R153, R156, R157, R228, R237: messages are delivered to their targets, and those that wait
for room are served. -/
def Obligations.MessagesReachTheirTarget : Prop :=
  Sys2Proof.Claims.MessagesAreDelivered ∧
  Sys2Proof.Claims.WaitersAreServed

/-- R132, R143–R147, R149, R166, R404: a launch from its header in the inbox to its last report. -/
def Obligations.LaunchesRunFromHeaderToCompletion : Prop :=
  Sys2Proof.Claims.HeadersAreAcceptedOrRefused ∧
  Sys2Proof.Claims.LaunchesAreEnumeratedAndComplete

/-! ## The fabric and class 11 (R168, R363–R389) -/

namespace Sys2Proof.Claims

/-- A packet of a kind whose flits are as R363 requires, that no stomp tail ends (R365), and, where a partition guards the kind,
whose key and context a valid slot holds (R368). -/
structure WellSent (s : State) (p : Packet) (kind : Byte) : Prop where
  is : p.pkind = kind
  flits : flitsOk kind p.ndata.toNat = true
  tail : p.ftype ≠ 3
  key : keyless kind = true ∨ s.keyOk p = true
/-- It is for this chip. -/
structure Comes (s : State) (p : Packet) (kind : Byte) : Prop extends WellSent s p kind where
  mine : p.dst = s.coord ∧ (p.val = true → p.ph = true ∨ p.mid = s.coord)

/-- Its data, as whole flits; and the packet with them. -/
def flitData (p : Packet) : List Byte := padTo (64 * p.ndata.toNat) p.data
def whole (p : Packet) : Packet := { p with data := flitData p }

/-- One packet more is on its way to a chip, at a port that takes it: its kind, its FSEQ, the low byte of AUX, and its data. -/
def Leaves (s u : State) (dst : BitVec 22) (kind : Byte) (fseq : BitVec 24) (status : Byte) (data : List Byte) : Prop :=
  ∃ port k, u.fab.out = s.fab.out ++ [(port, k)] ∧ s.takes port = true ∧ k.pkind = kind ∧ k.dst = dst ∧ k.fseq = fseq ∧
    k.aux.extractLsb' 0 8 = status ∧ k.data = data
/-- A packet can leave for a chip (R369, R370). -/
def reachable (s : State) (dst : BitVec 22) : Prop := ∃ k : Packet, k.dst = dst ∧ k.val = false ∧ (s.egress k []).isSome = true

/-- The bytes that the SIZE of a request names (R363). -/
def sizeNamed (p : Packet) : Nat := if p.lo.toNat % 8 < 4 then 2 ^ (p.lo.toNat % 8) else 128
/-- What a request packet does at its word (R363). -/
def deedOf (p : Packet) (kind : Byte) : Option Access :=
  let opn : BitVec 6 := p.lo.extractLsb' 6 6
  if kind = 0x01 then some (if p.opkind = 1 then .tagRead else .load)
  else if kind = 0x02 then some (if p.opkind = 1 then .tagWrite else .store)
  else match p.opkind.toNat with
    | 2 => some (.amo opn) | 3 => some (.amof opn) | 4 => some .cas | 5 => some (.ams opn) | _ => none

/-- An unanswered request of one element of a thread's access, the only one of that access. -/
structure Awaits (s : State) (u : Unacked) (r : Req) (e : Elem) : Prop where
  noMsg : u.msg = none
  noCopy : u.pkt.pkind ≠ 0x05
  notCode : u.thread ≠ codeThread
  req : s.req? u.thread u.seq = some r
  elems : r.elems = [e]
  first : u.ixs = [0]
  clean : r.err = 0

/-- A copy that waits for its children's answers, the first of its store; its parent's port takes packets. -/
structure CopyWaits (s : State) (w : McWait) : Prop where
  there : s.mcWait? w.pkt = some w
  parent : ∃ q, w.parent = some q ∧ s.portOpen q = true

/-- Two bits of STATE of a port (R382). -/
def stateOf (s : State) (port : Nat) : Nat := ((s.port port).reg.extractLsb' 62 2).toNat

end Sys2Proof.Claims

open Sys2Proof.Claims in
/-- R168, R363, R365, R366, R368, R370: an RD, WR or ATM packet for this chip becomes an access of the context at the address it
names, with its operation, size and operand. One that breaks the table of kinds is discarded and counted, as is one that ends
with a stomp tail; one that no partition slot admits is discarded and counted apart, and one for another chip goes on with one more hop. When the
access has been performed, RDA with the bytes, ACK with the old value, ACK, or TNAK with the cause leaves for the source. How a packet tells the
operations apart, and the flags of an AMOF in STATUS of ACK, are the model's choices (log 18). -/
def Sys2Proof.Claims.RequestPacketsBecomeAccesses : Prop :=
  ∀ (s : State) (p : Packet) (kind : Byte) (i : Instr), (kind, i) ∈ [((0x01 : Byte), Instr.rd p), (0x02, .wr p), (0x03, .atm p)] →
    let n := s.fab.nextIn
    (∀ what, Comes s p kind → p.lanes = [] → deedOf p kind = some what → s.inboundOf p = none → s.keptAnswer p = none →
      ∃ u q, exec i s = .next u ∧ u.mem = s.mem ∧ u.fab.out = s.fab.out ∧ u.fab.inbound = s.fab.inbound ++ [(n, whole p)] ∧
        (u.th (65536 + n)).outst = [q] ∧ q.what = what ∧ q.sp = .d ∧ q.pid = p.pid ∧ q.src = p.srcv ∧ q.ord = p.ord ∧ q.phase = .sent ∧
        (kind ≠ 0x02 → q.elems.map (fun e => (e.ea, e.size)) = [(p.addr, sizeNamed p)]) ∧
        (kind = 0x02 → (∀ k, k < 16 → p.hi.getLsbD k = true) → q.elems.map (fun e => (e.ea, e.size)) = [(p.addr, sizeNamed p)] ∧
          q.elems.map (fun e => e.data) = [BitVec.ofNat 1024 (leNat ((flitData p).take (sizeNamed p)))]) ∧
        (kind = 0x02 → (∀ k, k < 16 → p.hi.getLsbD k = false) → q.elems.map (fun e => e.size) = [0])) ∧
    (p.pkind = kind → flitsOk kind p.ndata.toNat = false → exec i s = .next { s with fab := { s.fab with cntDrop := bumpLow s.fab.cntDrop } }) ∧
    (p.pkind = kind → flitsOk kind p.ndata.toNat = true → p.ftype = 3 →
      exec i s = .next { s with fab := { s.fab with cntLink := bumpLow s.fab.cntLink } }) ∧
    (p.pkind = kind → flitsOk kind p.ndata.toNat = true → p.ftype ≠ 3 → p.dst = s.coord → p.val = false → s.keyOk p = false →
      ∃ u, exec i s = .next u ∧ u.mem = s.mem ∧ u.threads = s.threads ∧ u.fab.inbound = s.fab.inbound ∧
        u.fab.cntDrop = s.fab.cntDrop + 0x100000000) ∧
    (p.pkind = kind → flitsOk kind p.ndata.toNat = true → p.ftype ≠ 3 → p.dst ≠ s.coord → p.val = false → reachable s p.dst →
      ∃ u, exec i s = .next u ∧ u.mem = s.mem ∧ u.threads = s.threads ∧ ∃ port k, u.fab.out = s.fab.out ++ [(port, k)] ∧
        k.dst = p.dst ∧ k.fseq = p.fseq ∧ k.data = flitData p ∧ k.hops.toNat = min 255 (p.hops.toNat + 1)) ∧
    (∀ m rq r, s.fab.inbound.find? (fun e => e.1 == m) = some (m, rq) → rq.pkind = kind → reachable s rq.src →
      s.req? (65536 + m) 0 = some r → r.phase = .done →
      let bytes := r.elems.flatMap fun e => leBytes e.size e.res.toNat
      ∃ u, exec (.accessAnswer (65536 + m) 0) s = .next u ∧ u.mem = s.mem ∧ (∀ e ∈ u.fab.inbound, e.1 ≠ m) ∧
        (r.err ≠ 0 → Leaves s u rq.src 0x0A rq.fseq r.err []) ∧
        (r.err = 0 → kind = 0x01 → Leaves s u rq.src 0x08 rq.fseq 0 bytes) ∧
        (r.err = 0 → kind = 0x02 → Leaves s u rq.src 0x09 rq.fseq 0 []) ∧
        (r.err = 0 → kind = 0x03 → Leaves s u rq.src 0x09 rq.fseq (r.flags.setWidth 8) (bytes.take 8)))

open Sys2Proof.Claims in
/-- R141, R148, R363, R367: a MSG for a channel is answered by MSGA with the status of R141: it takes a slot, waits for its
CALL where there is none, but for a SENDNB's, or is refused. A launch header, which a MSG brings (log 74), goes to its inbox, which always takes it: both are the model's
choices (log 54). An ORD message waits for its turn. -/
def Sys2Proof.Claims.MessagePacketsAreAnswered : Prop :=
  ∀ (s : State) (p : Packet), Comes s p 0x04 → s.keptAnswer p = none → malformed p.addr = false → reachable s p.src →
    let blk := maBlock p.addr
    let c := s.chanOf p.pid p.addr
    let ch := (s.block blk).chan c
    (p.ord = true → s.ordTurn p = false → exec (.msg p) s = .next s) ∧
    (p.ord = false ∨ s.ordTurn p = true →
      (maKind p.addr = 2 → s.answerHere p.pid p.addr 0 = .grant →
        ∃ u m, exec (.msg p) s = .next u ∧ ((u.block blk).chan c).slots = ch.slots ++ [m] ∧ m.dest = p.addr ∧ m.reply = p.aux ∧
          m.src = p.srcv ∧ m.wid = p.lo ∧ m.seq = p.seq ∧ m.pid = p.pid ∧ (p.ndata ≠ 4 → m.payload = wordsOfBytes (flitData p) ∧ m.vec = none) ∧
          (p.ndata = 4 → m.payload = [] ∧ ∃ v, m.vec = some v ∧ v.bits.toNat = leNat (flitData p)) ∧ Leaves s u p.src 0x0D p.fseq 0 []) ∧
      (maKind p.addr = 2 → s.answerHere p.pid p.addr 0 = .full → (∀ e ∈ s.fab.fullWait, e.2.src ≠ p.src) →
        ∃ u, exec (.msg p) s = .next u ∧ u.blocks = s.blocks ∧ Leaves s u p.src 0x0D p.fseq 1 [] ∧
          u.fab.fullWait = s.fab.fullWait ++ if p.nb then [] else [(32 * blk + c.toNat, whole p)]) ∧
      (∀ a, maKind p.addr = 2 → s.answerHere p.pid p.addr 0 = a → a = .unbound ∨ a = .refused →
        ∃ u, exec (.msg p) s = .next u ∧ u.blocks = s.blocks ∧ Leaves s u p.src 0x0D p.fseq (if a = .unbound then 2 else 3) []) ∧
      (maKind p.addr = 6 →
        ∃ u h, exec (.msg p) s = .next u ∧ (u.cluster (maCluster p.addr)).inbox = (s.cluster (maCluster p.addr)).inbox ++ [h] ∧
          h.bytes = (flitData p).take 128 ∧ h.src = p.srcv ∧ h.seq = p.seq ∧ h.pid = p.pid ∧ Leaves s u p.src 0x0D p.fseq 0 []))

open Sys2Proof.Claims in
/-- R141, R178, R363, R366, R371: an answer ends its request. RDA gives a read its bytes, ACK an atomic its old value, and
TNAK the access its cause; MSGA gives a send its status, and FULL keeps a blocking one waiting. SEQNAK, for a request
that still waits, and the resend timer, up to four times, send it again; then it ends with cause 5. A missing FSEQ is
reported to its source, and a quiet flowlet's entry goes; by what a flowlet is named is the model's choice (log 71), as are the
flags of an AMOF in STATUS of ACK (log 18). -/
def Sys2Proof.Claims.AnswersEndTheirRequests : Prop :=
  ∀ (s : State),
    (∀ (p : Packet) (u : Unacked), s.answered? p = some u →
    let gone : State → Prop := fun v => v.fab.unacked = s.fab.unacked.filter fun x => !(x.pkt.dst == u.pkt.dst && x.pkt.fseq == u.pkt.fseq)
    (∀ r e, Awaits s u r e →
      (Comes s p 0x08 → ∃ v q, exec (.rda p) s = .next v ∧ gone v ∧ v.mem = s.mem ∧ v.req? u.thread u.seq = some q ∧ q.phase = .done ∧ q.err = 0 ∧
        q.elems = [{ e with done := true, res := BitVec.ofNat 1024 (leNat ((flitData p).take (sizeNamed u.pkt))) }]) ∧
      (Comes s p 0x09 → p.lanes = [] → ∃ v q, exec (.ack p) s = .next v ∧ gone v ∧ v.mem = s.mem ∧ v.req? u.thread u.seq = some q ∧ q.phase = .done ∧ q.err = 0 ∧
        q.flags = r.flags ||| p.aux.extractLsb' 0 5 ∧ q.elems = [{ e with done := true, res := BitVec.ofNat 1024 (leNat ((flitData p).take 8)) }]) ∧
      (Comes s p 0x0A → p.lanes = [] → p.aux.extractLsb' 0 8 ≠ 0 → ∃ v q, exec (.tnak p) s = .next v ∧ gone v ∧ v.req? u.thread u.seq = some q ∧ q.phase = .done ∧
        q.err = p.aux.extractLsb' 0 8 ∧ q.errAddr = u.pkt.addr) ∧
      (u.refused = false → 4 ≤ u.resends → s.fab.unacked.find? (fun x => x.pkt.dst == u.pkt.dst && x.pkt.fseq == u.pkt.fseq && !x.refused) = some u →
        ∃ v q, exec (.requestResendTimer u.pkt.fseq u.pkt.dst) s = .next v ∧ gone v ∧ v.req? u.thread u.seq = some q ∧ q.phase = .done ∧ q.err = 5)) ∧
    (∀ m, u.msg = some m → m.origin = .thread u.thread → u.thread < 16384 → Comes s p 0x0D →
      let st := p.aux &&& 0xFF
      (st ≠ 1 → ∃ v, exec (.msga p) s = .next v ∧ gone v ∧ (v.th u.thread).sendAns = some st ∧
        ((s.th u.thread).status = .stalled .send → (v.th u.thread).status = .running)) ∧
      (st = 1 → (s.th u.thread).sendDst.any (·.nb) = false → ∃ v, exec (.msga p) s = .next v ∧ v.threads = s.threads ∧
        ∀ x ∈ v.fab.unacked, x.pkt.dst = u.pkt.dst → x.pkt.fseq = u.pkt.fseq → x.refused = true)) ∧
    (Comes s p 0x0F → u.refused = false → u.pkt.pkind ≠ 0x05 → u.pkt.val = false → reachable s u.pkt.dst →
      ∃ v, exec (.seqnak p) s = .next v ∧ v.fab.unacked = s.fab.unacked ∧ Leaves s v u.pkt.dst u.pkt.pkind u.pkt.fseq (u.pkt.aux.extractLsb' 0 8) u.pkt.data) ∧
    (u.refused = false → u.resends < 4 → u.pkt.pkind ≠ 0x05 → u.pkt.val = false → reachable s u.pkt.dst →
      s.fab.unacked.find? (fun x => x.pkt.dst == u.pkt.dst && x.pkt.fseq == u.pkt.fseq && !x.refused) = some u →
      ∃ v, exec (.requestResendTimer u.pkt.fseq u.pkt.dst) s = .next v ∧
        Leaves s v u.pkt.dst u.pkt.pkind u.pkt.fseq (u.pkt.aux.extractLsb' 0 8) u.pkt.data ∧ v.threads = s.threads ∧
        ∀ x ∈ s.fab.unacked, x.pkt.dst = u.pkt.dst → x.pkt.fseq = u.pkt.fseq → { x with resends := x.resends + 1 } ∈ v.fab.unacked)) ∧
    (∀ src fseq past, (s.seenOf src).has fseq = false → past ∈ (s.seenOf src).past → before24 fseq past = true → reachable s src →
      ∃ v, exec (.seqnakTimer src fseq) s = .next v ∧ Leaves s v src 0x0F fseq 0 [] ∧ v.threads = s.threads) ∧
    (∀ core rank f, f ∈ s.fab.flowlets → ∃ v, exec (.flowletTimeout core rank) s = .next v ∧ v.mem = s.mem ∧
      (f ∈ v.fab.flowlets ↔ ¬ (f.core = core ∧ (∃ n ∈ f.names, n.2 = rank) ∧ ∀ x ∈ s.fab.unacked, ¬ (x.pkt.ord = true ∧ x.pkt.dst = f.dst ∧ coreOf x.thread = core))))

open Sys2Proof.Claims in
/-- R366, R373, R374, R388, R389: a copy of a multicast store goes on to every port of its group's entry that takes packets, with
SRC and DST the chips at the two ends of each link (the model's choice, log 18), is kept until it is answered, and waits for its children; it is applied here where the entry has a local member whose measurement is as expected. That without a valid entry of
its key nothing is sent is the model's choice (log 48). An ORD copy waits for its turn. A child's answer is merged; with the last one, or at the time-out, which ends the wait for the own result too, the copy's own
answer leaves for the parent. -/
def Obligations.MulticastCopiesAreAnswered : Prop :=
  ∀ (s : State) (p : Packet),
    (WellSent s p 0x05 → p.ord = true → s.ordTurn p = false → exec (.mcw p) s = .next s) ∧
    (WellSent s p 0x05 → p.ord = false ∨ s.ordTurn p = true → let e := s.grp (mcGroup p)
      let ps := grpPorts e
      (s.mcWait? p = none → s.keptAnswer p = none → grpValid e = true → grpKey e = p.pkey → ps ≠ [] →
        ∃ u w cs, exec (.mcw p) s = .next u ∧ u.mem = s.mem ∧ u.fab.out = s.fab.out ++ cs ∧ cs.map Prod.fst = ps.filter s.takes ∧
          (∀ e ∈ cs, e.2 = { whole p with hops := if p.hops = 255 then 255 else p.hops + 1
                                          dst := (s.across e.1).getD 0, src := s.coord, fseq := e.2.fseq }) ∧
          (∀ q ∈ ps, ∃ x ∈ u.fab.unacked, x.ix = q ∧ x.pkt.pkind = 0x05 ∧ x.pkt.seq = p.seq ∧ x.pkt.data = flitData p) ∧
          u.fab.mcwaits = s.fab.mcwaits ++ [w] ∧ w.pkt = whole p ∧ w.parent = some (grpParent e) ∧ w.children = ps ∧ w.bitmap = 0 ∧
          (grpLocal e = false → w.here = false ∧ w.report = none ∧ u.threads = s.threads) ∧
          (grpLocal e = true → grpMeas e ≠ s.measurement → w.here = false ∧ w.report = some (grpMember e, 7) ∧ u.threads = s.threads) ∧
          (grpLocal e = true → grpMeas e = s.measurement → w.here = true ∧ w.report = none ∧
            ∃ q, (u.th (65536 + s.fab.nextIn)).outst = [q] ∧ q.what = .store ∧ q.whole = true ∧ q.ord = p.ord ∧ q.pid = p.pid ∧ q.phase = .sent ∧ q.elems = copyElems (whole p))) ∧
      (grpValid e = false ∨ grpKey e ≠ p.pkey → ∃ u, exec (.mcw p) s = .next u ∧ u.mem = s.mem ∧ u.threads = s.threads ∧
        u.fab.out = s.fab.out ∧ u.fab.mcwaits = s.fab.mcwaits ∧ u.fab.unacked = s.fab.unacked)) ∧
    (∀ w x port, CopyWaits s w → WellSent s p 0x0E → s.answered? p = some x → x.pkt.pkind = 0x05 → x.ix = port → repeats w.pkt x.pkt = true →
      port ∈ w.children →
      let rest := w.children.filter (· != port)
      let bits := w.bitmap ||| mcBitmap (whole p)
      (rest ≠ [] ∨ w.here = true → ∃ u v, exec (.mcack port p) s = .next u ∧ u.fab.out = s.fab.out ∧ u.mcWait? w.pkt = some v ∧
        v.children = rest ∧ v.bitmap = bits ∧ v.here = w.here ∧ v.report = lowest w.report (mcReport (whole p))) ∧
      (rest = [] → w.here = false → ∃ u q k, exec (.mcack port p) s = .next u ∧ u.mcWait? w.pkt = none ∧ w.parent = some q ∧
        u.fab.out = s.fab.out ++ [(q, k)] ∧ k.pkind = 0x0E ∧ k.data = leBytes 64 bits.toNat ∧ k.srcv = w.pkt.srcv ∧ k.seq = w.pkt.seq)) ∧
    (∀ w g, CopyWaits s w → s.fab.mcwaits.find? (fun v => mcGroup v.pkt == g && (v.children != [] || v.here)) = some w →
      ∃ u q k, exec (.mcackTimeout g) s = .next u ∧ u.mcWait? w.pkt = none ∧ w.parent = some q ∧
        u.fab.out = s.fab.out ++ [(q, k)] ∧ k.pkind = 0x0E ∧ k.data = leBytes 64 w.bitmap.toNat)

open Sys2Proof.Claims in
/-- R378–R380: MCWAIT waits for the answers of the tracks that its selector covers; then gD and MCACK have the same word, and the
tracks are free. Of one group it has the group, the counts of members that failed and did not, and the lowest failed member;
with LIST the 64 bytes at S:[ADDR] hold the members that stored. FLOWEND closes the core's flowlets to the rank
that gA names: which ones those are is the model's choice (log 71). RANKC reads whether a rank is in the live map, its number, its distance and its coordinates. -/
def Sys2Proof.Claims.FabricInstructionsAnswer : Prop :=
  ∀ (s : State) (d a : GReg), isAct s.cur = true →
    let w := s.g a
    (selectorOk w = true → w.getLsbD 30 = false → (∃ q ∈ s.me.act.tracksOf w, q.waiting ≠ []) →
      ∃ t, exec (.mcwait d a) s = .next t ∧ Stalls s t .engine) ∧
    (selectorOk w = true → w.getLsbD 30 = false → (∀ q ∈ s.me.act.tracksOf w, q.waiting = [] ∧ q.nmem ≤ 512) →
      ∃ t v, exec (.mcwait d a) s = .next t ∧ Retired s t ∧ OnlyReg s t d v ∧ t.me.act.mcack = v ∧ t.me.act.tracksOf w = [] ∧
        (v.extractLsb' 18 10).toNat = min 1023 ((s.me.act.tracksOf w).map (·.nmem)).sum) ∧
    (∀ q pa key, selectorOk w = true → w.getLsbD 30 = true → s.me.act.tracksOf w = [q] → q.waiting = [] → q.nmem ≤ 512 →
      s.checkLocal s.cur .s true ((w.extractLsb' 0 18).setWidth 64) 64 64 = .ok (pa, key) → s.held pa = false →
      (∀ r ∈ s.me.outst, r.performed = true ∨ r.sp ≠ .s) →
      ∃ t, exec (.mcwait d a) s = .next t ∧ Moved s t ∧ t.me.act.tracksOf w = [] ∧
        Stores s t pa 64 (q.bitmap &&& BitVec.ofNat 512 (2 ^ q.nmem - 1)).toNat) ∧
    (∀ q, w.getLsbD 31 = false → w.getLsbD 30 = false → w.extractLsb' 44 20 = 0 → w.extractLsb' 18 12 = 0 → s.me.act.tracksOf w = [q] →
      let failed := (List.range q.nmem).filter fun k => !q.bitmap.getLsbD k
      (q.waiting = [] → q.nmem ≤ 512 → ∃ t v, exec (.mcwait d a) s = .next t ∧ Retired s t ∧ OnlyReg s t d v ∧ t.me.act.mcack = v ∧ t.me.act.tracksOf w = [] ∧
        v.extractLsb' 48 12 = w.extractLsb' 32 12 ∧ (v.extractLsb' 38 10).toNat = failed.length ∧
        (v.extractLsb' 28 10).toNat = q.nmem - failed.length ∧ (v.extractLsb' 18 10).toNat = q.nmem ∧
        ∀ k more, failed = k :: more → (v.extractLsb' 9 9).toNat = k ∧ ((∀ r ∈ q.reports, r.1.toNat ≠ k) → (v.extractLsb' 5 4).toNat = 5))) ∧
    (selectorOk w = false → exec (.mcwait d a) s = .next (s.takeFault { code := 0x01, val := w, own := true })) ∧
    (w = BitVec.allOnes 64 ∨ w.extractLsb' 22 42 = 0 →
      (∃ t, exec (.flowend a) s = .next t ∧ Retired s t ∧ NoReg s t ∧ t.fab.flowlets = s.fab.flowlets.map fun f =>
        if f.core = coreOf s.cur ∧ (w = BitVec.allOnes 64 ∨ (s.me.act.pid, w.extractLsb' 0 22) ∈ f.names ∨
            s.coordOf s.me.act.pid (w.extractLsb' 0 22) = some f.dst) then { f with closed := true } else f) ∧
      ∃ t v, exec (.rankc d a) s = .next t ∧ FallsThrough s t ∧ SetsG s t d v 0 ∧
        (w = BitVec.allOnes 64 → v.getLsbD 63 = true ∧ v.extractLsb' 32 22 = s.ownRank s.me.act.pid ∧ v.extractLsb' 22 10 = 0 ∧ v.extractLsb' 0 22 = s.coord) ∧
        (w ≠ BitVec.allOnes 64 → v.extractLsb' 32 22 = w.extractLsb' 0 22 ∧
          (∀ c, s.coordOf s.me.act.pid (w.extractLsb' 0 22) = some c → v.getLsbD 63 = true ∧ v.extractLsb' 0 22 = c ∧
            (v.extractLsb' 22 10).toNat = min 1023 (s.hopCount s.coord c)) ∧
          (s.coordOf s.me.act.pid (w.extractLsb' 0 22) = none → v.getLsbD 63 = false ∧ v.extractLsb' 0 32 = 0))) ∧
    (¬ (w = BitVec.allOnes 64 ∨ w.extractLsb' 22 42 = 0) →
      exec (.flowend a) s = .next (s.takeFault { code := 0x01, val := (encode (.flowend a)).extractLsb' 32 64 }) ∧
      exec (.rankc d a) s = .next (s.takeFault { code := 0x01, val := (encode (.rankc d a)).extractLsb' 32 64 }))

open Sys2Proof.Claims in
/-- R364, R382–R384, R428: a port's STATE. Writing EN 1 begins training where nothing holds the port, EN 0 takes it down;
training ends up, on the spare lane once one is bad. A replay is counted, and the sixteenth refusal of a flit trains the
link again; there a bad lane moves to the spare, and a link that cannot train goes down. A port that goes down is told to every
neighbour on a port that is up, and a notice that has been seen is not told again. PORTHOLD holds a port down. Nothing waits
at the port, of what goes another way when it goes down. The states 2 and 3 after training, and what resets STATUS of a port's
notice and the count of refusals, are the model's choices (log 73); so is how refusals are counted (log 72). -/
def Obligations.PortsGoUpAndDown : Prop :=
  ∀ (s : State) (port : Nat), port < 12 → (∀ e ∈ s.fab.out, e.1 ≠ port) →
    (∀ en, ∃ u, exec (.portEnWrite port en) s = .next u ∧ (u.port port).reg.getLsbD 0 = en ∧ (en = false → stateOf u port = 0) ∧
      (en = true → (s.port port).held = false → stateOf s port = 0 → stateOf u port = 1) ∧ ∀ q, q ≠ port → u.port q = s.port q) ∧
    (stateOf s port = 1 → (s.port port).reg.getLsbD 0 = true → (s.port port).held = false →
      ∃ u, exec (.linkTrained port) s = .next u ∧ stateOf u port = if (s.port port).badLane = 15 then 2 else 3) ∧
    (2 ≤ stateOf s port → ∃ u, exec (.flitReplay port) s = .next u ∧ u.fab.cntLink = s.fab.cntLink + 0x100000000 ∧
      ((s.port port).refusals < 15 → (u.port port).refusals = (s.port port).refusals + 1 ∧ stateOf u port = stateOf s port) ∧
      (15 ≤ (s.port port).refusals → (u.port port).refusals = 0 ∧ stateOf u port = 1)) ∧
    (stateOf s port = 1 → (∀ n, (s.port port).badLane = 15 → ∃ u, exec (.linkRetrain port (some n)) s = .next u ∧ stateOf u port = 3 ∧
      (u.port port).badLane = n.setWidth 4) ∧ ∃ u, exec (.linkRetrain port none) s = .next u ∧ stateOf u port = 0) ∧
    (∀ why, stateOf s port ≠ 0 → ∃ u, exec (.portDown port why) s = .next u ∧ stateOf u port = 0 ∧ u.fab.noticeSeq = s.fab.noticeSeq + 1 ∧
      ∀ q, q < 12 → q ≠ port → s.portUp q = true → ∃ k, (q, k) ∈ u.fab.out ∧ k.pkind = 0x1B ∧ k.addr.extractLsb' 0 22 = s.coord ∧
        (k.addr.extractLsb' 24 4).toNat = port ∧ k.aux.extractLsb' 0 8 = why ∧ k.aux.extractLsb' 8 32 = s.fab.noticeSeq) ∧
    (∀ p, p.pkind = 0x1B → p.ndata = 0 → p.ph = false → p.ftype ≠ 3 →
      let key : BitVec 22 × BitVec 32 := (p.addr.extractLsb' 0 22, p.aux.extractLsb' 8 32)
      (key ∈ s.fab.notices → exec (.notice port p) s = .next s) ∧
      (key ∉ s.fab.notices → ∃ u, exec (.notice port p) s = .next u ∧ key ∈ u.fab.notices ∧
        ∀ q k, (q, k) ∈ u.fab.out ↔ (q, k) ∈ s.fab.out ∨ (q < 12 ∧ q ≠ port ∧ s.portUp q = true ∧
          k = { whole p with hops := if p.hops = 255 then 255 else p.hops + 1 }))) ∧
    (∃ u, exec (.portHold port) s = .next u ∧ (u.port port).held = true ∧ stateOf u port = 0) ∧
    (∃ u, exec (.portRelease port) s = .next u ∧ (u.port port).held = false ∧
      ((s.port port).reg.getLsbD 0 = true → stateOf s port = 0 → stateOf u port = 1))

open Sys2Proof.Claims in
/-- R361, R381, R382: the management registers. FGEOM is written while no port is up, a partition slot while no other valid slot
has its key; else the write is dropped and counted. The bank flip changes LIVE of its slot, and KEYNEXT the management key.
An authentic MGW takes the nonce, writes, and is answered; one that is not changes no register and is counted. MGR answers
with the register's bytes. Where the count of bytes of MGR and MGW stands is the model's choice (log 60). -/
def Sys2Proof.Claims.ManagementWritesRegisters : Prop :=
  ∀ (s : State),
    (∀ w, ((∃ q, q < 12 ∧ s.portUp q = true) → exec (.fgeomWrite w) s = .next { s with fab := { s.fab with cntDrop := bumpLow s.fab.cntDrop } }) ∧
      ((∀ q, q < 12 → s.portUp q = false) → exec (.fgeomWrite w) s = .next { s with fab := { s.fab with fgeom := w &&& 0x03FFFFF0003FFFFF } })) ∧
    (∀ (n : BitVec 6) (w : Word),
      let twice := ∃ m, m < 64 ∧ m ≠ n.toNat ∧ (s.pka m).getLsbD 63 = true ∧ (s.pka m).extractLsb' 0 16 = w.extractLsb' 0 16
      (w.getLsbD 63 = true ∧ twice → exec (.pkaWrite n w) s = .next { s with fab := { s.fab with cntDrop := bumpLow s.fab.cntDrop } }) ∧
      (¬ (w.getLsbD 63 = true ∧ twice) → ∃ u, exec (.pkaWrite n w) s = .next u ∧ u.mem = s.mem ∧
        ∀ m, u.pka m = if m = n.toNat then w &&& 0x807FFFFFFFFFFFFF else s.pka m)) ∧
    (∀ (n : BitVec 6) (bank : Bool), ∃ u, exec (.rankMapBankFlip n bank) s = .next u ∧ (u.pkb n.toNat).getLsbD 63 = bank ∧
      (u.pkb n.toNat).extractLsb' 40 22 = (s.pkb n.toNat).extractLsb' 40 22 ∧ ∀ m, m ≠ n.toNat → u.pkb m = s.pkb m) ∧
    (∀ k, exec (.keynextWrite k) s = .next { s with fab := { s.fab with mkey := k } }) ∧
    (∀ p k, Comes s p 0x18 → s.authentic (whole p) = true → p.aux = 8 → 2 ≤ p.ndata.toNat → reachable s p.src → k < 4 → p.addr.toNat = 0x10 + 8 * k →
      ∃ u, exec (.mgw p) s = .next u ∧ u.mem = s.mem ∧ u.fab.mnonce.toNat = field (flitData p) 0 8 ∧ (∃ x, Leaves s u p.src 0x1A p.fseq x []) ∧
        Map.get 0 u.fab.fmep k = BitVec.ofNat 64 (field (flitData p) 64 8) &&& 0x80000000003FFFFF) ∧
    (∀ p, Comes s p 0x18 → s.authentic (whole p) = false →
      ∃ u, exec (.mgw p) s = .next u ∧ u.fab.cntDrop = bumpLow s.fab.cntDrop ∧ u.fab.mnonce = s.fab.mnonce ∧ u.fab.fmep = s.fab.fmep ∧ u.fab.pka = s.fab.pka) ∧
    (∀ p w, Comes s p 0x19 → s.authentic (whole p) = true → p.aux = 8 → p.addr.toNat % 8 = 0 → s.mgmtRead p.addr.toNat = some w → reachable s p.src →
      ∃ u bs, exec (.mgr p) s = .next u ∧ u.fab.mnonce.toNat = field (flitData p) 0 8 ∧ (∃ x, Leaves s u p.src 0x1A p.fseq x bs) ∧ bs.take 8 = leBytes 8 w.toNat)

open Sys2Proof.Claims in
/-- R385: a CFREQ for an image that any kiln of the chip holds (the model's choice, log 62) is answered by CFDAT, one packet for each
256 bytes, and otherwise by CFNONE. A CFDAT that makes the image whole gives it to the resolution that asked; a CFNONE for the last peer's portable
image passes on to the depot. -/
def Sys2Proof.Claims.CodeIsFetched : Prop :=
  ∀ (s : State) (p : Packet),
    (Comes s p 0x10 → reachable s p.src → let image := s.imageFor p.pid (digestOf (flitData p)) (field (flitData p) 32 1 == 1)
      (image = none → ∃ u, exec (.cfreq p) s = .next u ∧ u.mem = s.mem ∧ ∃ x, Leaves s u p.src 0x12 p.fseq x []) ∧
      (∀ bs, image = some bs → p.addr = 0 → ∃ u, exec (.cfreq p) s = .next u ∧ u.mem = s.mem ∧
        u.fab.out.length = s.fab.out.length + (bs.length + 255) / 256 ∧
        (bs ≠ [] → bs.length ≤ 256 → ∃ port k, u.fab.out = s.fab.out ++ [(port, k)] ∧ k.pkind = 0x11 ∧ k.dst = p.src ∧ k.fseq = p.fseq ∧ k.addr = 0 ∧
          k.aux.toNat = bs.length ∧ k.data.take bs.length = bs))) ∧
    (∀ v f r h, s.answered? p = some v → v.thread = codeThread → h = BitVec.ofNat 32 v.ix → s.fetch? v.seq h = some f →
      (Comes s p 0x11 → p.addr = 0 → 1 ≤ p.aux.toNat → p.aux.toNat ≤ 256 → 1 ≤ p.ndata.toNat →
        ∃ u f', exec (.cfdat p) s = .next u ∧ u.fetch? v.seq h = some f' ∧ f'.data = (flitData p).take p.aux.toNat ∧ f'.parts = []) ∧
      (Comes s p 0x12 → f.askTrans = false → f.source = 3 → f.peers = [r] →
        ∃ u f', exec (.cfnone p) s = .next u ∧ u.fetch? v.seq h = some f' ∧ f'.source = 4 ∧ f'.peers = []))

/-- R141, R148, R168, R363, R365–R368, R370: what arrives from other chips becomes an access or a message, and is
answered. -/
def Obligations.FabricRequestsArriveAndAreAnswered : Prop :=
  Sys2Proof.Claims.RequestPacketsBecomeAccesses ∧
  Sys2Proof.Claims.MessagePacketsAreAnswered

/-- R361, R378–R382: the instructions of the fabric, and the management registers. -/
def Obligations.FabricRegistersAreManaged : Prop :=
  Sys2Proof.Claims.FabricInstructionsAnswer ∧
  Sys2Proof.Claims.ManagementWritesRegisters

/-- R141, R178, R363, R366, R371, R385: answers from other chips end the requests they answer; images are fetched. -/
def Obligations.FabricAnswersEndTheirRequests : Prop :=
  Sys2Proof.Claims.AnswersEndTheirRequests ∧
  Sys2Proof.Claims.CodeIsFetched

/-! ## Class 12, the monitor (R390–R412), and class 13, trace (R413–R420) -/

namespace Sys2Proof.Claims

/-- The instructions that only monitor mode may execute (R394). -/
def monitors : Instr → Bool
  | .mret | .mext _ | .pent _ _ | .pentr _ _ | .keyslot _ _ | .ctxsv _ | .ctxld _ | .scrub _ _ | .vifrz _ | .quar _
  | .codeinst _ _ _ | .codeevict _ | .stinv _ _ | .atreqAttestation _ _ | .atreqAllocation _ _ => true
  | _ => false
/-- The running thread is an activation thread in monitor mode. -/
def InMonitor (s : State) : Prop := isAct s.cur = true ∧ s.me.mode = .monitor
/-- The fault of an operand or encoding that the instruction does not admit (R42). -/
def Illegal (s : State) (i : Instr) : Prop := exec i s = .next (s.takeFault { code := 0x01, val := (encode i).extractLsb' 32 64 })
/-- Bits outside a mask are zero. -/
def within (w mask : Word) : Prop := w &&& ~~~mask = 0

/-- No launch that p holds of goes on. -/
def Closed (t : State) (p : Launch → Prop) : Prop := ∀ l ∈ t.sys.launches, p l → l.finished = true
/-- The MCALL of the running thread waits for the monitor's service of number n. -/
structure Calls (s : State) (n : Nat) : Prop where
  mon : InMonitor s
  call : s.me.mcall = true
  fresh : s.me.served = false
  number : s.me.mtval.toNat = n
/-- No byte outside record n of a block's save area changes. -/
def OutsideRecord (s t : State) (blk n : Nat) : Prop :=
  ∀ x, x < s.recordAt blk n ∨ s.recordAt blk n + 0x1300 ≤ x → t.mem.byte x = s.mem.byte x
/-- No byte outside the save areas changes (R400: 2 MiB at a block's SAVEBASE). -/
def OutsideSaves (s t : State) : Prop :=
  ∀ x, (∀ blk n, n < 431 → x < s.recordAt blk n ∨ s.recordAt blk n + 0x1300 ≤ x) → t.mem.byte x = s.mem.byte x
/-- The monitor has answered: the status stands in its g1, and nothing else of the thread changes. -/
def Served (s t : State) (st : Word) : Prop :=
  t.me.served = true ∧ t.reg 1 = st ∧ (∀ r : GReg, r ≠ 1 → t.reg r = s.reg r) ∧ t.me.act = s.me.act ∧ t.me.mode = .monitor ∧
  ∀ u, u ≠ s.cur → t.th u = s.th u
/-- Bytes at a flat address are these, and every other byte stays. -/
def PutsBytes (s t : State) (a : Nat) (bs : List Byte) : Prop :=
  ∀ b, t.mem.byte b = if a ≤ b ∧ b < a + bs.length then bs.getD (b - a) 0 else s.mem.byte b

end Sys2Proof.Claims

open Sys2Proof.Claims in
/-- R51, R394: the instructions of the monitor raise the monitor-only fault in context mode, with an MTVAL that the spec does
not state (log 8), and the illegal-instruction fault on a service thread; nothing else of them happens. -/
def Sys2Proof.Claims.MonitorInstructionsAreGuarded : Prop :=
  ∀ (s : State) (i : Instr), monitors i = true →
    (isAct s.cur = true → s.me.mode = .context → RaisesOpen s 0x15 (exec i s)) ∧ (isAct s.cur = false → Illegal s i)

open Sys2Proof.Claims in
/-- R395–R397: MCALL enters the monitor with MTVAL its number and MEPC the slot after it; g1 to g8 are the caller's. MRET goes
back to MEPC in context mode with every register as the monitor found it, but for g1 after an MCALL, which the monitor
gives; after a cause that ends the activation it ends it. MEXT ends the activation with one ERROR report of its cause. -/
def Sys2Proof.Claims.MonitorCallsReturnAndExit : Prop :=
  ∀ (s : State), isAct s.cur = true →
    (∀ n, s.me.mode = .context → s.badVector s.cur 0 = false →
      ∃ t, exec (.mcall n) s = .next t ∧ t.me.mode = .monitor ∧ t.me.mcause = 0 ∧ t.me.mtval = n.setWidth 64 ∧
        t.me.mepc = codeAddr s.here.1 (s.here.2 + 1) ∧ t.me.act.pc = 0x100000000 ∧ t.me.act.g = s.me.act.g ∧ t.mem = s.mem ∧
        ∀ r : GReg, 1 ≤ r.toNat → r.toNat ≤ 8 → t.reg r = Map.get 0 s.me.act.g r.toNat) ∧
    (∀ e, s.me.mode = .monitor → s.me.mcause ≠ 0x0B → s.me.mcause ≠ 0x0C → s.me.mcause ≠ 0x10 → s.refuses s.me.act.pid = false →
      addrOk s.me.mepc = true → s.entry? (clusterOf s.cur) s.me.act.pid false (handleOf s.me.mepc) = some e →
      (∀ f, e.inst = some f → lineOf s.me.mepc < f.lines.length) →
      ∃ t, exec .mret s = .next t ∧ t.me.mode = .context ∧ t.me.act.pc = s.me.mepc ∧ t.me.status = s.me.status ∧ t.mem = s.mem ∧
        (∀ r : GReg, t.reg r = if r = 0 then 0 else if r = 1 ∧ s.me.mcall = true then Map.get 0 s.me.mg 1 else Map.get 0 s.me.act.g r.toNat) ∧
        t.me.act.v = s.me.act.v ∧ t.me.act.loops = s.me.act.loops ∧ t.me.act.flags = s.me.act.flags ∧ t.me.act.retire = s.me.act.retire ∧
        t.me.act.dline = s.me.act.dline ∧ ∀ u, u ≠ s.cur → t.th u = s.th u) ∧
    (s.me.mode = .monitor → s.me.status = .running → s.me.mcause = 0x0B ∨ s.me.mcause = 0x0C ∨ s.me.mcause = 0x10 →
      ∃ t, exec .mret s = .next t ∧ t.me.status = .idle ∧ t.me.mode = .context ∧ t.mem = s.mem) ∧
    (∀ a l, s.me.mode = .monitor → within (s.g a) 0xFF → s.launch? s.me.act.launch = some l → l.errStop = false → l.chk = 0xFF → reportable l.reply →
      let cause := if s.g a = 0 then s.me.mcause else (s.g a).setWidth 8
      ∃ t m, exec (.mext a) s = .next t ∧ t.me.status = .idle ∧ t.me.mode = .context ∧ t.mem = s.mem ∧ m ∈ t.flight ∧ m.dest = l.reply ∧
        m.payload.take 7 = [4, l.id, cause.setWidth 64, s.me.mepc, s.me.mtval, s.me.act.wid, BitVec.ofNat 64 s.cur]) ∧
    (∀ a, s.me.mode = .monitor → ¬ within (s.g a) 0xFF → Illegal s (.mext a))

open Sys2Proof.Claims in
/-- R170, R398–R401: PENT writes the protection entry that gA numbers, and PENTR reads back its two words. KEYSLOT loads the
key and enclave of the record at S:[gA], and leaves zeros there. CTXSV saves the activation and its MEPC in a record of the
save area, as it stood at monitor entry, and CTXLD restores the activation that a valid record's bytes describe, and clears
VALID; no byte outside the record changes. A key's record that a routine holds waits for it (R200). The operands that are illegal beyond R394's undefined bits, such as
BASE above LIMIT or a record that may not be named, are the model's choice (logs 66, 68); what the records keep beside their bytes
is too (log 29). -/
def Sys2Proof.Claims.MonitorKeepsEntriesKeysAndRecords : Prop :=
  ∀ (s : State), InMonitor s →
    let blk := blockOf s.cur
    (∀ a b, let x := s.g a
      let y := s.g b
      let e : Pent := { encl := x.extractLsb' 24 8, w := x.getLsbD 17, r := x.getLsbD 16, sp := x.extractLsb' 8 4
                        base := y.extractLsb' 0 22, limit := y.extractLsb' 32 22, v := x.getLsbD 18 }
      let good := within x 0xFF070F0F ∧ within y 0x003FFFFF003FFFFF ∧ e.sp.toNat < 7 ∧ (e.v = true → pentOk e.sp.toNat e.base.toNat e.limit.toNat = true)
      (good → ∃ t, exec (.pent a b) s = .next t ∧ Retired s t ∧ NoReg s t ∧
        ∀ o k, Map.get none (t.owner o).pents k = if o = coreOf s.cur ∧ k = x.toNat % 16 then some e else Map.get none (s.owner o).pents k) ∧
      (¬ good → Illegal s (.pent a b))) ∧
    (∀ d a, let w := s.g a
      (within w 0x10F → ∀ e, Map.get none (s.owner (coreOf s.cur)).pents (w.toNat % 16) = some e →
        ∃ t v, exec (.pentr d a) s = .next t ∧ FallsThrough s t ∧ SetsG s t d v 0 ∧
          (w.getLsbD 8 = true → v.extractLsb' 0 22 = e.base ∧ v.extractLsb' 32 22 = e.limit ∧ within v 0x003FFFFF003FFFFF) ∧
          (w.getLsbD 8 = false → v.toNat % 16 = w.toNat % 16 ∧ v.extractLsb' 8 4 = e.sp ∧ v.getLsbD 16 = e.r ∧ v.getLsbD 17 = e.w ∧ v.getLsbD 18 = e.v ∧
            v.extractLsb' 24 8 = e.encl)) ∧
      (¬ within w 0x10F → Illegal s (.pentr d a))) ∧
    (∀ a b bs s1 pa key, s.readWaits (s.g a) 64 = false → s.readS (s.g a) 64 64 = .ok (bs, s1) → s.checkLocal s.cur .s false (s.g a) 64 64 = .ok (pa, key) →
      (s.owner (ownerAt pa)).retry = [] → within (s.g b) 0xFFFF0037 →
      let w := s.g b
      let slot := w.toNat % 8
      let pid := w.extractLsb' 16 16
      let put : State → Prop := fun t => exec (.keyslot a b) s = .next t ∧ Moved s t ∧ NoReg s t ∧ Stores s t pa 64 0
      let free : Nat → Prop := fun kind => s.slotInUse blk kind pid slot = false ∧ s.heldIn pa 64 = false
      (w.extractLsb' 4 2 = 0 → pid = 0 → (s.block blk).lock.getLsbD slot = false → free 0 →
        ∃ t, put t ∧ Map.get none (t.block blk).keys slot = some (BitVec.ofNat 8 (field bs 32 1), digestOf bs)) ∧
      (w.extractLsb' 4 2 = 0 → pid = 0 → (s.block blk).lock.getLsbD slot = true → RaisesOpen s 0x07 (exec (.keyslot a b) s)) ∧
      (w.extractLsb' 4 2 = 1 → free 1 →
        ∃ t, put t ∧ (t.sys.memKeys.find? fun k => k.1 == pid && k.2.1 == BitVec.ofNat 3 slot) = some (pid, BitVec.ofNat 3 slot, digestOf bs)) ∧
      (w.extractLsb' 4 2 = 2 → slot = 0 → free 2 → ∃ t, put t ∧ (t.sys.traceKeys.find? fun k => k.1 == pid) = some (pid, digestOf bs)) ∧
      (w.extractLsb' 4 2 = 3 → slot = 0 → free 3 → ∃ t, put t ∧ (t.sys.sealKeys.find? fun k => k.1 == pid) = some (pid, digestOf bs))) ∧
    (∀ a, let n := (s.g a).toNat
      (208 ≤ n → n ≤ 430 → s.me.contextQuiet = true → s.recordSealed blk n = false →
        ∃ t, exec (.ctxsv a) s = .next t ∧ Moved s t ∧ NoReg s t ∧ OutsideRecord s t blk n ∧
          leNat (t.mem.bytesAt (s.recordAt blk n + 0x1110) 8) = s.me.mepc.toNat ∧ t.recordValid blk n = true ∧ t.recordSealed blk n = false ∧
          (t.block blk).records = (n, { s.me.entry.getD s.me.act with pc := s.me.mepc }, false) :: (s.block blk).records.filter (fun r => r.1 != n)) ∧
      (n < 208 ∨ 430 < n → Illegal s (.ctxsv a)) ∧
      (208 ≤ n → n ≤ 430 → s.me.contextQuiet = true → s.recordValid blk n = true → s.recordSealed blk n = false →
        (∀ i, i < 38 → s.mem.unproved (s.recordAt blk n + 128 * i) = false) →
        let c := s.loaded blk n
        ∃ t, exec (.ctxld a) s = .next t ∧ t.me.mode = .monitor ∧ t.me.mepc = c.pc ∧ t.me.act = { c with pc := s.fallPc } ∧
          (∀ k, k < 32 → k ≠ 0 → Map.get 0 c.g k = BitVec.ofNat 64 (field (s.mem.bytesAt (s.recordAt blk n) 0x1300) (8 * k) 8)) ∧
          c.pc = BitVec.ofNat 64 (leNat (s.mem.bytesAt (s.recordAt blk n + 0x1110) 8)) ∧ (∀ r, t.reg r = s.reg r) ∧
          t.recordValid blk n = false ∧ (∀ r ∈ (t.block blk).records, r.1 ≠ n) ∧ OutsideRecord s t blk n ∧ ∀ u, u ≠ s.cur → t.th u = s.th u))

open Sys2Proof.Claims in
/-- R183, R184, R406: SCRUB leaves zeros with empty tags and no poison in its region of a typed buffer or of device memory, changes no
other byte or tag, and extends the scrub record by one entry (R406; that the list of them is kept in State is the model's
choice, log 29). A length that R406 does not allow is illegal by the model's choice (log 66). -/
def Sys2Proof.Claims.ScrubZeroesItsRegion : Prop :=
  ∀ (s : State) (a b : GReg) (pa : Nat), InMonitor s →
    let w := s.g a
    let n := (s.g b).toNat
    let k := (w.extractLsb' 58 4).toNat
    let tier := if w.getLsbD 40 then 1 else 0
    let fine := 0 < n ∧ n ≤ 2 ^ 32 ∧ n % 128 = 0
    let buffer := w.extractLsb' 62 2 = 3 ∧ k ≤ 3 ∧ (w.extractLsb' 0 58).toNat % 128 = 0 ∧ (w.extractLsb' 0 58).toNat + n ≤ bufSize k ∧
      ((s.block (blockOf s.cur)).stampFor s.me.act.encl).isSome ∧ pa = bufBase (blockOf s.cur) k + (w.extractLsb' 0 58).toNat
    let device := w.extractLsb' 62 2 = 2 ∧ within w 0x80E001FFFFFFFFFF ∧ (w.extractLsb' 0 40).toNat % 128 = 0 ∧
      (w.extractLsb' 0 40).toNat + n ≤ tierBytes tier ∧ pa = tierBase tier + (w.extractLsb' 0 40).toNat
    (fine → buffer ∨ device → (∀ o, (s.owner o).retry = []) → s.heldIn pa n = false →
      ∃ t e, exec (.scrub a b) s = .next t ∧ Moved s t ∧ NoReg s t ∧
        (∀ x, t.mem.byte x = if pa ≤ x ∧ x < pa + n then 0 else s.mem.byte x) ∧
        (∀ x, t.mem.tag x = if pa / 8 ≤ x ∧ x < (pa + n) / 8 then false else s.mem.tag x) ∧
        (∀ x, t.mem.bad x = if pa / 8 ≤ x ∧ x < (pa + n) / 8 then false else s.mem.bad x) ∧
        t.sys.nscrub = s.sys.nscrub + 1 ∧ t.sys.scrubs.head? = some e ∧ e.length = 32 ∧ t.sys.scrubdig = extend s.sys.scrubdig e) ∧
    (¬ fine → Illegal s (.scrub a b))

open Sys2Proof.Claims in
/-- R106, R408–R410: CODEINST answers with status and handle: 0x01 for a function that is resident, 0x14 for an image that cannot be
read, and 0x00 for one that it checks and installs. CODEEVICT takes an instance of the context out of the kiln. STINV
drops the translations under its range, of one context or of all, and no others; it stalls while a request translated
under them is still to be performed. That a misaligned base is illegal (log 66) and that CODEINST answers 0x01 for any resident
function (log 70) are the model's choices. -/
def Sys2Proof.Claims.TheLoaderInstallsAndEvicts : Prop :=
  ∀ (s : State), InMonitor s →
    let cl := clusterOf s.cur
    (∀ d a b bs s1, s.g b = 0 → s.readWaits (s.g a) 64 = false → s.readS (s.g a) 64 64 = .ok (bs, s1) → field bs 0x0E 2 = 0 →
      let pid : BitVec 16 := BitVec.ofNat 16 (field bs 0x0C 2)
      let dig := digestOf (bs.drop 0x10)
      let img := s1.imageAt pid (BitVec.ofNat 64 (field bs 0 8)) (field bs 8 4)
      (∀ e i, s.lookup cl pid false dig = some e → e.inst = some i →
        ∃ t v, exec (.codeinst d a b) s = .next t ∧ Retired s t ∧ OnlyReg s t d v ∧ v.extractLsb' 56 8 = 0x01 ∧ v.extractLsb' 0 32 = e.handle) ∧
      ((∀ e, s.lookup cl pid false dig = some e → e.inst = none) → img = none →
        ∃ t v, exec (.codeinst d a b) s = .next t ∧ Retired s t ∧ OnlyReg s t d v ∧ v.extractLsb' 56 8 = 0x14) ∧
      (∀ im s2 i h s3 s4, (∀ e, s.lookup cl pid false dig = some e → e.inst = none) → img = some (im, s2) → checkPortable dig im = .ok i →
        s2.lookupOrCreate cl pid false dig = (some h, s3) → s3.installWaits cl = false → s3.install cl pid h i = (s4, true) →
        ∃ t v, exec (.codeinst d a b) s = .next t ∧ Retired s t ∧ OnlyReg s t d v ∧ v.extractLsb' 56 8 = 0 ∧ v.extractLsb' 0 32 = h ∧
          (t.cluster cl).inst h = some i)) ∧
    (∀ a e, within (s.g a) 0xFFFFFFFF → 256 ≤ (s.g a).toNat → s.entry? cl s.me.act.pid false ((s.g a).setWidth 32) = some e →
      ∃ t, exec (.codeevict a) s = .next t ∧ Retired s t ∧ NoReg s t ∧ (t.cluster cl).inst ((s.g a).setWidth 32) = none ∧
        ((t.cluster cl).entry ((s.g a).setWidth 32)).isSome = true) ∧
    (∀ a b, let x := s.g a
      let y := s.g b
      let size := y.toNat % 4
      let base := y.toNat / 2 ^ 16 * 2 ^ 16
      let good := within x 0x1FFFF ∧ (x.getLsbD 16 = true → x.extractLsb' 0 16 = 0) ∧ within y 0xFFFFFF0003 ∧
        (size = 0 ∨ size = 1 ∧ base % 2 ^ 21 = 0 ∨ size = 2 ∧ base % 2 ^ 30 = 0 ∨ size = 3 ∧ base = 0)
      let drops : State → Prop := fun t => ∀ st e, e ∈ Map.get [] t.sys.stations st ↔ e ∈ Map.get [] s.sys.stations st ∧
        ¬ ((x.getLsbD 16 = true ∨ e.pid = x.extractLsb' 0 16) ∧ (size = 3 ∨
          let top := base + 2 ^ (if size = 0 then 16 else if size = 1 then 21 else 30)
          e.lva.toNat * 2 ^ pageBits e.level < top ∧ base < (e.lva.toNat + 1) * 2 ^ pageBits e.level))
      let waits := s.translatedUnder (fun p => x.getLsbD 16 || p == x.extractLsb' 0 16) base (stinvBits size)
      (good → waits = false → ∃ t, exec (.stinv a b) s = .next t ∧ Retired s t ∧ NoReg s t ∧ drops t) ∧
      (good → waits = true → ∃ t, exec (.stinv a b) s = .next t ∧ Stalls s t .access ∧ drops t) ∧
      (¬ good → Illegal s (.stinv a b)))

open Sys2Proof.Claims in
/-- R403, R407: VIFRZ freezes a virtual interface: its activations stop and leave their cores, its launches end, and its contexts are
refused; VITHAW opens it again. QUAR, for a context with a sealing key, does the same to one context, and every record of it
in the save areas is sealed; that QUAR without a sealing key is illegal is the model's choice (log 66). -/
def Sys2Proof.Claims.FreezingStopsAnInterface : Prop :=
  ∀ (s : State), InMonitor s → (∀ e ∈ s.threads, e.1 = s.cur → e.2 = s.me) →
    (∀ a, within (s.g a) 0x3F → let vi : BitVec 6 := (s.g a).setWidth 6
      ∃ t, exec (.vifrz a) s = .next t ∧ vi ∈ t.sys.frozen ∧ OutsideSaves s t ∧ t.me.mode = .monitor ∧ t.me.act.pc = s.fallPc ∧
        (vi ∉ s.sys.frozen → Closed t (fun l => l.vi = vi) ∧
          ∀ u, isAct u = true → (s.th u).mode = .context → (s.th u).act.vi = vi → (t.th u).status = .idle)) ∧
    (∀ a, within (s.g a) 0xFFFF → let pid : BitVec 16 := (s.g a).setWidth 16
      (∃ k ∈ s.sys.sealKeys, k.1 = pid) →
      ∃ t, exec (.quar a) s = .next t ∧ pid ∈ t.sys.quarantined ∧ t.me.mode = .monitor ∧ t.me.act.pc = s.fallPc ∧
        (pid ∉ s.sys.quarantined → (∀ e ∈ s.blocks, (∀ r ∈ e.2.records, r.1 < 431) ∧ (∀ d ∈ e.2.displaced, ∀ n, d.place = some n → n < 431)) →
          OutsideSaves s t ∧
          Closed t (fun l => l.pid = pid) ∧ (∀ u, isAct u = true → (s.th u).mode = .context → (s.th u).act.pid = pid → (t.th u).status = .idle) ∧
          ∀ b, ∀ r ∈ (t.block b).records, r.2.1.pid = pid → r.2.2 = true)) ∧
    (∀ a, within (s.g a) 0xFFFF → (∀ k ∈ s.sys.sealKeys, k.1 ≠ (s.g a).setWidth 16) → Illegal s (.quar a)) ∧
    (∀ vi, ∃ t, exec (.viThaw vi) s = .next t ∧ t.mem = s.mem ∧ t.threads = s.threads ∧ ∀ v, v ∈ t.sys.frozen ↔ v ∈ s.sys.frozen ∧ v ≠ vi)

open Sys2Proof.Claims in
/-- R395, R411: ATREQ writes the signed report of its kind, the attestation or the allocation report, to device memory at gB; the
second resets the scrub record. The monitor's services answer an MCALL with status 0 when they are done: a routine is
installed for the context, a group's root entry is written and the entries of its tree's other chips are sent to them (the
tree is the model's choice, log 88), or the list of code peers is written; a service that fails answers with another status,
and a number that names none with all ones. The forms of a service's tables, the source of the image of service 1 and the status
of a failure are the model's choice (log 12). -/
def Sys2Proof.Claims.TheMonitorAttestsAndServes : Prop :=
  ∀ (s : State),
    (∀ a b bs s1 kind i, InMonitor s → (kind, i) ∈ [(1, Instr.atreqAttestation a b), (2, .atreqAllocation a b)] → within (s.g b) 0xFFFFFFFF80 →
      s.readWaits (s.g a) 64 = false → s.readS (s.g a) 64 64 = .ok (bs, s1) → field bs 0 1 = kind →
      let body := s1.reportBytes kind (BitVec.ofNat 16 (field bs 2 2)) ((bs.drop 0x20).take 32)
      body.take 7 = [0x53, 0x58, 0x41, 0x54, 1, 0, BitVec.ofNat 8 kind] ∧
      ∃ t, exec i s = .next t ∧ Moved s t ∧ NoReg s t ∧
        PutsBytes s t (s.g b).toNat (body ++ (List.range 384).map (Config.attestSign body)) ∧
        (kind = 1 → t.sys.scrubdig = s.sys.scrubdig ∧ t.sys.nscrub = s.sys.nscrub) ∧ (kind = 2 → t.sys.scrubdig = 0 ∧ t.sys.nscrub = 0)) ∧
    (∀ bs s1 img i, Calls s 1 → (s.g 2).toNat ≤ 63 → s.readS (s.g 3) 32 8 = .ok (bs, s1) → s.imageFor s.me.act.pid (digestOf bs) false = some img →
      (s.lookup (clusterOf s.cur) s.me.act.pid false (digestOf bs)).bind (·.inst) = some i →
      ∃ t, exec .mcallInstallRoutine s = .next t ∧ Served s t 0 ∧ (s.me.act.pid, (s.g 2).setWidth 6, i) ∈ t.sys.routines) ∧
    (∀ bs s1, Calls s 2 → (s.g 2).toNat ≤ 4095 → 1 ≤ (s.g 4).toNat → (s.g 4).toNat ≤ 512 →
      s.readS (s.g 3) (8 * (s.g 4).toNat) 8 = .ok (bs, s1) →
      (∀ w ∈ wordsOfBytes bs, within w 0x3FFFFF ∧ (s.coordOf s.me.act.pid (w.extractLsb' 0 22)).isSome = true) →
      ∃ t, exec .mcallFormGroup s = .next t ∧ Served s t 0 ∧
        let e := t.grp (s.g 2).toNat
        let member : BitVec 22 → Prop := fun x => some x ∈ (wordsOfBytes bs).map fun w => s.coordOf s.me.act.pid (w.extractLsb' 0 22)
        grpValid e = true ∧ grpRoot e = true ∧ grpKey e = s.pkeyOf s.me.act.pid ∧ grpCount e = (s.g 4).toNat ∧
        (grpLocal e = true ↔ member s.coord) ∧ ∃ out, t.fab.groupOut = s.fab.groupOut ++ out ∧
        ∀ o ∈ out, o.1 ≠ s.coord ∧ o.2.1 = (s.g 2).toNat ∧ grpValid o.2.2 = true ∧ grpRoot o.2.2 = false ∧
          grpKey o.2.2 = s.pkeyOf s.me.act.pid ∧ (grpLocal o.2.2 = true ↔ member o.1)) ∧
    (∀ bs s1 x, Calls s 3 → s.readS (s.g 2) 64 8 = .ok (bs, s1) → s.ctx? s.me.act.pid = some x →
      (∀ w ∈ wordsOfBytes bs, within w 0x80000000003FFFFF) →
      ∃ t, exec .mcallSetCodePeers s = .next t ∧ Served s t 0 ∧
        PutsBytes s t (ctxAddr x + 0x20) (padTo 64 (((wordsOfBytes bs).filter fun w => w.getLsbD 63).flatMap fun w => leBytes 8 w.toNat))) ∧
    (Calls s 1 → 63 < (s.g 2).toNat → ∃ t st, exec .mcallInstallRoutine s = .next t ∧ Served s t st ∧ st ≠ 0 ∧ t.sys = s.sys ∧ t.mem = s.mem) ∧
    (∀ n, Calls s n → 3 < n → ∃ t, exec .mcallFormGroup s = .next t ∧ Served s t (BitVec.allOnes 64) ∧ t.mem = s.mem)

open Sys2Proof.Claims in
/-- R415–R420: TRMARK adds an entry with gA, its mark and CYCLE to the open block of the thread's trace, when marks are on. TRCTL 0
writes the open blocks out, 1 pauses the thread's records and 2 resumes them; with trace off they only retire. After 16,383
cycles without a change a record repeats the state. BKPT raises the breakpoint fault with its code. -/
def Obligations.TraceInstructionsRecord : Prop :=
  ∀ (s : State),
    (∀ a mark, isAct s.cur = true → let x := s.me
      let b := x.trace.entries
      (x.trcfg.extractLsb' 1 2 ≠ 3 → ∃ t, exec (.trmark a mark) s = .next t ∧ FallsThrough s t ∧ KeepsRegs s t) ∧
      (x.trcfg.extractLsb' 1 2 = 3 → 1 ≤ b.count → b.count < 6 → b.pid = x.act.pid → b.conf = x.trace.conf →
        ∃ t, exec (.trmark a mark) s = .next t ∧ Retired s t ∧ NoReg s t ∧ t.me.trace = { x.trace with entries := { b with
          count := b.count + 1
          data := b.data ++ [2, 0] ++ leBytes 2 x.trace.current.toNat ++ leBytes 4 (mark.extractLsb' 0 32).toNat ++ leBytes 8 (s.g a).toNat ++
            leBytes 8 s.cycle.toNat ++ leBytes 2 (mark.extractLsb' 32 16).toNat ++ [0, 0, 0, 0, 0, 0] } })) ∧
    (∀ a, isAct s.cur = true → traceTen s.me = true →
      (s.g a = 0 → ∃ t, exec (.trctlFlush a) s = .next t ∧ Moved s t ∧ NoReg s t ∧ t.me.trace.states = {} ∧ t.me.trace.entries = {}) ∧
      (s.g a = 1 → ∃ t, exec (.trctlPause a) s = .next t ∧ Moved s t ∧ NoReg s t ∧ t.me.act.paused = true) ∧
      (s.g a = 2 → ∃ t, exec (.trctlResume a) s = .next t ∧ Moved s t ∧ NoReg s t ∧ t.me.act.paused = false)) ∧
    (∀ a, isAct s.cur = true → traceTen s.me = false →
      (s.g a = 0 → ∃ t, exec (.trctlFlush a) s = .next t ∧ FallsThrough s t ∧ KeepsRegs s t) ∧
      (s.g a = 1 → ∃ t, exec (.trctlPause a) s = .next t ∧ FallsThrough s t ∧ KeepsRegs s t) ∧
      (s.g a = 2 → ∃ t, exec (.trctlResume a) s = .next t ∧ FallsThrough s t ∧ KeepsRegs s t) ∧
      (3 ≤ (s.g a).toNat → Illegal s (.trctlFlush a))) ∧
    (∀ t, isAct t = true → traceTen (s.th t) = true → (s.th t).act.paused = false → 16383 ≤ (s.cycle - (s.th t).trace.lastTime).toNat →
      ∃ u, exec (.traceIdleRecord t) s = .next u ∧ u.cycle = s.cycle ∧ (u.th t).trace.last = (s.th t).trace.last ∧ (u.th t).act = (s.th t).act ∧
        (u.th t).trace.lastTime = (s.th t).trace.lastTime + 16383 ∧ ∀ v, v ≠ t → u.th v = s.th v) ∧
    (∀ code, isAct s.cur = true → exec (.bkpt code) s = .next (s.takeFault { code := 0x14, val := code.setWidth 64 }))

open Sys2Proof.Claims in
/-- R41, R213, R390, R391, R392: when a line's parity fails in context mode, its instance leaves the kiln, to be fetched again, and
the code-integrity fault is taken with MTVAL the line's address; when the line of the instance that came fails again, the code is unavailable. In
monitor mode the fault is a double fault, and the monitor's function stays resident. A routine of a service thread leaves
its store and is fetched again; a second failure abandons it. That the refetched line is remembered with the directory
entry is the model's choice (log 19). -/
def Sys2Proof.Claims.ParityFailuresRefetchTheCode : Prop :=
  ∀ (s : State),
    let cl := clusterOf s.cur
    let h := s.here.1
    let line := lineOf s.me.act.pc
    (∀ e, isAct s.cur = true → s.me.mode = .context → (s.cluster cl).entry h = some e → h ≠ 1 →
      (e.refetched ≠ some line → s.badVector s.cur 0x04 = false →
        ∃ t, exec .codeIntegrityFault s = .next t ∧ t.me.mode = .monitor ∧ t.me.mcause = 0x04 ∧ t.me.mtval = codeAddr h (5 * line) ∧
          t.me.mepc = s.me.faultPc ∧ t.me.act.pc = 0x100000100 ∧ t.me.act.g = s.me.act.g ∧ t.me.act.v = s.me.act.v ∧ t.mem = s.mem ∧
          (t.cluster cl).inst h = none ∧ (∃ e', (t.cluster cl).entry h = some e' ∧ e'.refetched = some line) ∧ ∀ u, u ≠ s.cur → t.th u = s.th u) ∧
      (e.refetched = some line → s.badVector s.cur 0x10 = false →
        ∃ t, exec .codeIntegrityFault s = .next t ∧ CodeUnavailable t s.cur 0x16 3 0 0 h ∧ t.mem = s.mem ∧ (t.cluster cl).inst h = none)) ∧
    (isAct s.cur = true → s.me.mode = .monitor →
      ∃ t, exec .codeIntegrityFault s = .next t ∧ (t.owner (coreOf s.cur)).withdrawn = true ∧ t.mem = s.mem ∧
        ∀ k, (t.cluster cl).inst k = (s.cluster cl).inst k) ∧
    (∀ v, isAct s.cur = false → s.me.serve = some v →
      ∃ t, exec .codeIntegrityFault s = .next t ∧ t.mem = s.mem ∧ (∀ r ∈ t.sys.routines, ¬ (r.1 = v.pid ∧ r.2.1 = h.setWidth 6)) ∧
        (v.refetched ≠ some line → t.me.status = .stalled (.codeMiss (routineHandle v.pid (h.setWidth 6)) 3)) ∧
        (v.refetched = some line → v.thread ≠ s.cur → t.me.status = .idle ∧ t.me.serve = none)) ∧
    (isAct s.cur = false → s.me.serve = none → exec .codeIntegrityFault s = .next s)

/-- R51, R394–R397: the instructions of the monitor are guarded; MCALL enters it, MRET and MEXT leave it. -/
def Obligations.MonitorsAreEnteredAndLeft : Prop :=
  Sys2Proof.Claims.MonitorInstructionsAreGuarded ∧
  Sys2Proof.Claims.MonitorCallsReturnAndExit

/-- R170, R183, R184, R200, R398–R401, R406: protection entries, key slots, save records and scrubbing. -/
def Obligations.MonitorsKeepEntriesKeysAndMemory : Prop :=
  Sys2Proof.Claims.MonitorKeepsEntriesKeysAndRecords ∧
  Sys2Proof.Claims.ScrubZeroesItsRegion

/-- R395, R403, R407, R411: freezing, quarantine, attestation and the services of the monitor. -/
def Obligations.TheMonitorGovernsTheChip : Prop :=
  Sys2Proof.Claims.FreezingStopsAnInterface ∧
  Sys2Proof.Claims.TheMonitorAttestsAndServes

/-- R41, R106, R213, R390–R392, R408–R410: functions and translations are installed and taken away, and refetched
after a parity failure. -/
def Obligations.CodeIsInstalledEvictedAndRefetched : Prop :=
  Sys2Proof.Claims.TheLoaderInstallsAndEvicts ∧
  Sys2Proof.Claims.ParityFailuresRefetchTheCode

/-! ## Reset, live service, power, debug and the failure of parts (R16, R405, R412, R423–R428) -/

namespace Sys2Proof.Claims

/-- The state is that after a module reset with a cause: every thread, block, cluster and die as at reset, but for the
clusters that have failed (R16), the typed buffers and the monitor's registers zero, and no line of device memory with a MAC that holds. -/
structure WasReset (s t : State) (cause : Byte) : Prop where
  threads : ∀ u, t.th u = {}
  blocks : ∀ b, t.block b = {}
  clusters : ∀ c, t.cluster c = if c < 128 then { missing := (s.cluster c).missing, spare := (s.cluster c).spare } else {}
  flight : t.flight = []
  cycle : t.cycle = 0
  cause : t.sys.cause = cause
  spares : t.sys.spares = s.sys.spares &&& 0xFF
  device : ∀ a, a < 2 ^ 41 → t.mem.byte a = s.mem.byte a
  buffers : ∀ a, 2 ^ 42 ≤ a → t.mem.byte a = 0 ∧ t.mem.tag (a / 8) = false
  macs : t.mem.macOk = []
  stage : t.sys.voltageBad = false → t.sys.stage = 1

/-- A thread's activation, with no journal and in a launch without ERRSTOP, is lost: it has ended with one ERROR report of
MCAUSE 0x16 and MTVAL 0x10000. -/
def LostWith (t : State) (u : Nat) (l : Launch) (wid : Word) : Prop :=
  (t.th u).status = .idle ∧ ∃ m ∈ t.flight, m.dest = l.reply ∧ m.payload.take 3 = [4, l.id, 0x16] ∧ m.payload.getD 4 0 = 0x10000 ∧
    m.payload.getD 5 0 = wid ∧ m.payload.getD 6 0 = BitVec.ofNat 64 u

/-- An event of the sensors leaves what programs see: threads, memory, units and launches. -/
def OnlySys (s t : State) : Prop := t = { s with sys := t.sys } ∧ t.sys.launches = s.sys.launches

end Sys2Proof.Claims

open Sys2Proof.Claims in
/-- R423, R426–R428: a module reset, by power-good, by the management controller, by a die at 115 °C or by an input voltage
outside 40 V to 60 V, leaves every unit as at reset and device memory uncleared, with its cause in BRINGUP and at stage 1; out
of the voltage range the package stays in reset. Which registers a reset clears, and that failed clusters stay failed, is the
model's choice (log 75). Below the trip point a die's temperature is recorded. With a die above 105 °C the chip throttles whatever
the power; with none it throttles while a power window was above PWRLIM. WATTS and THR are taken over the last 1,000
windows. PWRLIM is clamped; the controller reads any housekeeping register; training a memory channel changes nothing that
a program sees. -/
def Sys2Proof.Claims.ResetAndPowerAreAsStated : Prop :=
  ∀ (s : State),
    (∃ t, exec .moduleReset s = .next t ∧ WasReset s t 1) ∧ (∃ t, exec .resetCommand s = .next t ∧ WasReset s t 2) ∧
    (∀ die temp i, i ∈ [Instr.thermalTrip die temp, .thermalThrottle die temp] →
      ∃ t, exec i s = .next t ∧ Map.get 0 t.sys.temps die = temp ∧ (115 ≤ temp.toNat → WasReset s t 3) ∧
        (temp.toNat < 115 → OnlySys s t ∧ (∀ d, d ≠ die → Map.get 0 t.sys.temps d = Map.get 0 s.sys.temps d) ∧
          t.sys.throttle = s.sys.throttle ∧ (105 < temp.toNat → t.sys.throttled = true))) ∧
    (∀ volts, (volts < 40 ∨ 60 < volts → ∃ t, exec (.inputVoltageFault volts) s = .next t ∧ WasReset s t 1 ∧ t.sys.voltageBad = true) ∧
      (40 ≤ volts → volts ≤ 60 → (s.sys.voltageBad = false → exec (.inputVoltageFault volts) s = .next s) ∧
        (s.sys.voltageBad = true → ∃ t, exec (.inputVoltageFault volts) s = .next t ∧ WasReset s t 1 ∧ t.sys.voltageBad = false))) ∧
    (∀ watts, let ws := ((watts, s.sys.throttled) :: s.sys.windows).take 1000
      ∃ t, exec (.powerWindow watts) s = .next t ∧ OnlySys s t ∧
        ((∀ e ∈ s.sys.temps, e.2.toNat ≤ 105) → (t.sys.throttled = true ↔ s.sys.pwrlim.toNat < watts.toNat)) ∧
        ((∃ e ∈ s.sys.temps, 105 < e.2.toNat) → t.sys.throttled = true) ∧ t.sys.windows = ws ∧
        (t.sys.pwrnow.extractLsb' 0 16).toNat = (ws.map fun w => w.1.toNat).sum / 1000 ∧
        (t.sys.pwrnow.extractLsb' 16 16).toNat = (ws.filter (·.2)).length) ∧
    (∀ w, ∃ t, exec (.pwrlimWrite w) s = .next t ∧ OnlySys s t ∧
      t.sys.pwrlim.toNat = if w.toNat < 1000 then 1000 else if 2800 < w.toNat then 2800 else w.toNat) ∧
    (∀ y, ∃ t, exec (.housekeepingRead y) s = .next t ∧ t = { s with sys := { s.sys with hkAnswer := t.sys.hkAnswer } } ∧
      (y.toNat = 0x200000000 → t.sys.hkAnswer = some (BitVec.ofNat 64 (s.sys.cause.toNat * 2 ^ 56 + s.sys.stage))) ∧
      (y.toNat = 0x200000008 → t.sys.hkAnswer = some (s.sys.pwrlim.setWidth 64)) ∧
      (y.toNat = 0x200000010 → t.sys.hkAnswer = some (s.sys.pwrnow.setWidth 64)) ∧
      (y.toNat = 0x200000020 → t.sys.hkAnswer = some s.sys.eccCount)) ∧
    (∀ chan, ∃ t, exec (.memoryTraining chan) s = .next t ∧ OnlySys s t ∧ t.sys.temps = s.sys.temps)

open Sys2Proof.Claims in
/-- R392, R424, R425: a live update of the monitor first stops dispatch in the cluster, when no other cluster drains; once no
activation is bound there, the measurement of the new monitor extends MMON, the withdrawn cores of the cluster return, and
dispatch resumes. Firmware of a memory-side service core or of a station is replaced and nothing else changes. -/
def Sys2Proof.Claims.LiveUpdatesDrainTheirCluster : Prop :=
  ∀ (s : State) (cl : Nat) (d : Digest),
    ((∀ e ∈ s.clusters, e.2.draining = none) →
      ∃ t, exec (.clusterDrain cl d) s = .next t ∧ (t.cluster cl).draining = some d ∧ t.threads = s.threads ∧ t.mem = s.mem ∧
        (∀ c, c ≠ cl → t.cluster c = s.cluster c) ∧ (∀ u, clusterOf u = cl → t.coreFree u = false)) ∧
    ((s.cluster cl).draining = none → (∃ c, (s.cluster c).draining ≠ none) → exec (.clusterDrain cl d) s = .next s) ∧
    (∀ e, (s.cluster cl).draining = some e → (∃ a ∈ s.actives, clusterOf a.1 = cl) → exec (.clusterDrain cl d) s = .next s) ∧
    (∀ e, (s.cluster cl).draining = some e → (∀ a ∈ s.actives, clusterOf a.1 ≠ cl) →
      ∃ t, exec (.clusterDrain cl d) s = .next t ∧ (t.cluster cl).draining = none ∧ (t.cluster cl).monitor = some e ∧
        t.sys.mmon = extend s.sys.mmon (digestBytes e) ∧
        t.threads = s.threads ∧ t.mem = s.mem ∧ ∀ o, o / 128 = cl → (t.owner o).withdrawn = false) ∧
    (∀ k, ∃ t, exec (.serviceCoreFirmwareUpdate k d) s = .next t ∧ (t.owner (32768 + k)).firmware = d ∧ t = { s with owners := t.owners } ∧
      ∀ o, o ≠ 32768 + k → t.owner o = s.owner o) ∧
    (∀ k, ∃ t, exec (.stationFirmwareUpdate k d) s = .next t ∧ Map.get 0 t.sys.stationFw k = d ∧ t.threads = s.threads ∧ t.mem = s.mem)

open Sys2Proof.Claims in
/-- R412, R421: a debug challenge is fresh: it is a free value (log 8). A token that fails a check is counted and changes nothing else; one that
passes freezes every VI (the state of those that it stops goes to the save areas), wipes every key, extends MBOOT with the
digest of its fixed text, the device and the challenge, and opens the port. Through an open port the dispatchers of
blocks stop and go on; a closed one does nothing. -/
def Sys2Proof.Claims.DebugNeedsAToken : Prop :=
  ∀ (s : State),
    (∃ t c, exec .debugChallenge s = .next t ∧ t.sys.challenge = some c ∧ t.threads = s.threads ∧ t.mem = s.mem ∧ t.sys.portOpen = s.sys.portOpen) ∧
    (∀ tk, s.tokenOk tk = false → exec (.debugToken tk) s = .next { s with sys := { s.sys with refusedTokens := s.sys.refusedTokens + 1 } }) ∧
    (∀ tk, s.tokenOk tk = true → ∃ t, exec (.debugToken tk) s = .next t ∧ t.sys.portOpen = true ∧ t.sys.dbg = true ∧ OutsideSaves s t ∧
      t.sys.mboot = extend s.sys.mboot (digestBytes (sha256 (debugText ++ digestBytes Config.deviceId ++ (tk.drop 40).take 32))) ∧
      (∀ vi, vi ∈ t.sys.frozen) ∧ t.sys.memKeys = [] ∧ t.sys.traceKeys = [] ∧ t.sys.sealKeys = [] ∧ ∀ b, (t.block b).keys = []) ∧
    (∀ blks, (s.sys.portOpen = false → exec (.debugStop blks) s = .next s ∧ exec (.debugResume blks) s = .next s) ∧
      (s.sys.portOpen = true →
        (∃ t, exec (.debugStop blks) s = .next t ∧ (∀ b, (t.block b).stopped = (decide (b ∈ blks) || (s.block b).stopped)) ∧ t.threads = s.threads ∧ t.mem = s.mem) ∧
        ∃ t, exec (.debugResume blks) s = .next t ∧ (∀ b, (t.block b).stopped = (!decide (b ∈ blks) && (s.block b).stopped)) ∧ t.threads = s.threads ∧ t.mem = s.mem))

open Sys2Proof.Claims in
/-- R16, R405: when a core fails, its activation is replayed with its team, or ends with one report of MCAUSE 0x16 and MTVAL 0x10000.
When a cluster without work fails, the die's spare takes its number while there is one, and else the number goes missing; the
words of its banks that were written are lost: their tags are empty, and a read of one gives a free value until it is written
again. A link that fails goes down, translations are fetched again, and a memory channel that fails changes nothing that a
program sees. What a read of a lost word gives, and the other details of a failure that R405 does not state, are the model's
choice (log 61). -/
def Sys2Proof.Claims.PartsFailAsStated : Prop :=
  ∀ (s : State),
    (∀ c, c < 16384 → (s.th c).status = .running →
      (s.replayable (s.th c).act = true → ∃ t, exec (.partFailure (.core c)) s = .next t ∧ (t.th c).status = .stalled .replay ∧ (t.th c).mcause = 0x16 ∧
        (t.th c).mtval = 0x10000 ∧ t.mem = s.mem ∧ (∃ r, t.sys.log.head? = some r ∧ r.cause = 0x16 ∧ r.mtval = 0x10000) ∧ ∀ u, u ≠ c → t.th u = s.th u) ∧
      (∀ l, s.launch? (s.th c).act.launch = some l → l.chk = 0xFF → l.errStop = false → reportable l.reply →
        ∃ t, exec (.partFailure (.core c)) s = .next t ∧ LostWith t c l (s.th c).act.wid ∧ t.mem = s.mem)) ∧
    (∀ cl, cl < 128 → (∀ a ∈ s.actives, clusterOf a.1 ≠ cl) →
      (∀ b, b / 8 = cl → (s.block b).jobs = [] ∧ ∀ e ∈ (s.block b).chans, e.2.slots = []) →
      ∃ t, exec (.partFailure (.cluster cl)) s = .next t ∧ (t.cluster cl).spare = !s.sys.spares.getLsbD (cl / 32) ∧
        (t.cluster cl).missing = s.sys.spares.getLsbD (cl / 32) ∧ t.threads = s.threads ∧
        (∀ h, (t.cluster cl).inst h = none) ∧
        (∀ w, bufBase (8 * cl) 0 / 8 ≤ w → w < bufBase (8 * cl + 8) 0 / 8 → t.mem.tag w = false ∧ t.mem.bad w = false ∧
          (s.mem.stamp w ≠ 0 → ∀ key, key ≠ lostStamp → (t.readWord key w).1 = Config.freeValue t.free)) ∧
        t.sys.spares.getLsbD (if s.sys.spares.getLsbD (cl / 32) then cl / 32 + 4 else cl / 32) = true) ∧
    (∀ die, ∃ t, exec (.partFailure (.stations die)) s = .next t ∧ t.mem = s.mem ∧ t.threads = s.threads ∧
      ∀ k, Map.get [] t.sys.stations k = if k / 4 = die then [] else Map.get [] s.sys.stations k) ∧
    (∀ c, ∃ t, exec (.partFailure (.memoryChannel c)) s = .next t ∧ t = { s with sys := { s.sys with lostChannels := t.sys.lostChannels } } ∧
      c ∈ t.sys.lostChannels) ∧
    (∀ port, (∀ e ∈ s.fab.out, e.1 ≠ port) →
      ∃ t, exec (.partFailure (.link port)) s = .next t ∧ stateOf t port = 0 ∧ t.mem = s.mem ∧ t.threads = s.threads)

/-- R392, R423–R428: module reset, power and temperature, and the update of firmware in service. -/
def Obligations.TheDeviceIsManaged : Prop :=
  Sys2Proof.Claims.ResetAndPowerAreAsStated ∧
  Sys2Proof.Claims.LiveUpdatesDrainTheirCluster

/-- R16, R405, R412, R421: debug access needs a token, and the failure of a part has the effects stated. -/
def Obligations.DebugAndFailuresAreContained : Prop :=
  Sys2Proof.Claims.DebugNeedsAToken ∧
  Sys2Proof.Claims.PartsFailAsStated

/-! ## Encoding, fetch, reset and the invariant (R32, R34–R36, R42, R43, R423) -/

namespace Sys2Proof.Claims

/-- The row that the decoder answers for a word which two or three rows share: TRCTL's rows are told apart by gA (R419),
ATREQ's by its request (R411), when the word issues. -/
def wordRow : Instr → Instr
  | .trctlPause a => .trctlFlush a
  | .trctlResume a => .trctlFlush a
  | .atreqAllocation a b => .atreqAttestation a b
  | i => i

/-- The words of R57's table, with the instructions they say, and those of the worked line after R42. -/
def writtenWords : List (InstrWord × Instr) :=
  [(0x004221800000000000000000#96, .add 1 2 3),
   (0x400C20000B08000000000040#96, .ld 6 2 0 ⟨.s, .wf, .d, false, false, .block⟩ 0x40),
   (0x4040501D2310000000000008#96, .st 5 0 7 ⟨.xs, .sf, .d, false, false, .cluster⟩ 8),
   (0x400850000208000000000000#96, .ld 4 5 0 ⟨.s, .plain, .w, false, false, .block⟩ 0),
   (0x640410012480000000000000#96, .vcvt 2 1 ⟨9, .rne, false, 8, 0⟩),
   (0x204010000000FFFFFFFFFFFD#96, .bne 1 0 0xFFFFFFFFFFFD),
   (0x2340000000040000007E0190#96, .yield 0x0001 400 0x7E),
   (0x0C0E00000123456789ABCDEF#96, .li 7 0x0123456789ABCDEF),
   (0x00CA20000000000000000010#96, .addi 5 2 16), (0x238000000000000000000000#96, .endAct),
   (0x240000000000000000000000#96, .nop)]

/-- Thread t is the one that moves next, and it fetches line l: the chip is up, the thread runs with its deadline
not over and no error that it is to take first, and its pc names a slot of a resident function, in that line, whose parity is good and whose pairs are legal. -/
structure Fetches (s : State) (t : Nat) (l : Line) : Prop where
  moves : (s.agenda = [] ∧ s.cur = t) ∨ (∃ rest, s.agenda = .thread t :: rest)
  thread : isThread t = true
  up : s.sys.stage = 8 ∧ s.sys.voltageBad = false
  inTime : ({ s with cur := t } : State).overrun = false
  running : (s.th t).status = .running
  entered : (s.th t).act.enter = 0
  due : (s.th t).act.due = none
  fetched : (s.th t).act.refetch = false
  code : ∃ f, s.instOf t (handleOf (s.th t).act.pc) = some f ∧ linearOf (s.th t).act.pc < f.slots ∧
    f.line (linearOf (s.th t).act.pc / 5) = some l
  good : l.parityOk = true ∧ l.illegal = false

/-- It issues the single word w: its slot starts no pair. -/
def Issues (s : State) (t : Nat) (w : InstrWord) : Prop :=
  let k := linearOf (s.th t).act.pc % 5
  ∃ l, Fetches s t l ∧ l.pair k = false ∧ l.slots.getD k 0 = w

/-- It issues the pair of words wa and wb (R38), not at the last slot of a loop's body. -/
def IssuesPair (s : State) (t : Nat) (wa wb : InstrWord) : Prop :=
  let k := linearOf (s.th t).act.pc % 5
  ∃ l, Fetches s t l ∧ l.pair k = true ∧ l.slots.getD k 0 = wa ∧ l.slots.getD (k + 1) 0 = wb ∧
    ∀ e ∈ frameOf (s.th t).loops, ¬ (e.handle = handleOf (s.th t).act.pc ∧ e.last = linearOf (s.th t).act.pc)

/-- The state in which the second member of a pair executes for its faults and stalls: it stands at its own slot, and reads what
the first reads. -/
def second (u : State) : State := u.modMe fun x =>
  { x with view := some x.snapshot, act := { x.act with pc := codeAddr (handleOf x.act.pc) (linearOf x.act.pc + 1) } }
/-- The second member of a pair writes after the first, which left sa, and reads what the first read in u. -/
def together (u sa : State) (b : Instr) : Host.Outcome State Fault Refusal :=
  match exec b (sa.modMe fun y => { y with view := some u.me.snapshot }) with
  | .next v => .next (v.modMe fun y => { y with view := none })
  | o => o

/-- The state in which the instruction executes: the move is taken off the agenda, and the function's directory entry notes
the issue (R109). -/
def issuing (s : State) (t : Nat) : State :=
  (({ s with agenda := s.agenda.tail, cur := t, trap := Option.none } : State).modMyAct fun a => { a with enter := 0 }).issued t
    (handleOf (s.th t).act.pc)

/-- Control registers and what they hold after reset, by the Reset column of their maps: STAGE and CHAN, CYCLE, RETIRE, FSTAT,
CODEFLT, LC0 to LC3, EQCLS, EQMAX, EQLAST, EQLOG, MSTAT, JSTAT, RFAULT, TICKET, MCACK. -/
def resetRegs : List (Nat × Word) :=
  [(0x01, 0xFF00), (0x05, 0), (0x07, 0), (0x08, 0x100), (0x0A, 0), (0x0B, 0), (0x0C, 0), (0x0D, 0), (0x0E, 0), (0x10, 0),
   (0x11, 0), (0x12, 0), (0x13, 0), (0x14, 0), (0x15, 0), (0x16, 0), (0x17, 0), (0x18, 0)]

end Sys2Proof.Claims

open Sys2Proof.Claims in
/-- R423 and the Reset columns: after module reset, at stage 1 of bring-up, CYCLE counts from 0; every activation thread's control
registers with a reset value hold it, MSTATUS.MODE reads 1, WDCFG.MLIMIT 4,096 and TRCFG 0; nothing runs; channels, queues,
join cells and barrier cells are empty; no memory word is marked full; every key slot is empty; PWRLIM is 2,800; ports are
down with no bad lane (the reset values that the spec does not give are log 5's). -/
def Obligations.ResetIsAsStated : Prop :=
  State.reset.Inv ∧ State.reset.sys.stage = 1 ∧ State.reset.sys.pwrlim = 2800 ∧ State.reset.sys.spares = 0 ∧
  State.reset.sys.memKeys = [] ∧ State.reset.sys.sealKeys = [] ∧ State.reset.flight = [] ∧ State.reset.actives = [] ∧
  State.reset.fab.fgeom = 0 ∧
  (∀ t, isAct t = true → ∀ p ∈ resetRegs, ({ State.reset with cur := t } : State).lowReg p.1 = .value p.2 { State.reset with cur := t }) ∧
  (∀ t, ({ State.reset with cur := t } : State).mstatus.extractLsb' 0 9 = 1 ∧ (State.reset.th t).wdcfg = 4096 ∧ (State.reset.th t).trcfg = 0) ∧
  (∀ b c, ((State.reset.block b).chan c).bind = none ∧ ((State.reset.block b).chan c).slots = []) ∧
  (∀ b i, (Map.get {} (State.reset.block b).queues i).items = []) ∧
  (∀ b i, Map.get none (State.reset.block b).keys i = none) ∧
  (∀ cl i, (Map.get {} (State.reset.cluster cl).joins i).mode = none ∧ (Map.get {} (State.reset.cluster cl).bars i).owner = none) ∧
  (∀ o i, (Map.get none (State.reset.owner o).pents i) = none ∧ (State.reset.owner o).next = 0 ∧ (State.reset.owner o).serve = 0) ∧
  (∀ w, State.reset.mem.tag w = false) ∧
  (∀ p, (Map.get {} State.reset.fab.ports p : Port).reg.extractLsb' 62 2 = 0 ∧
    (Map.get {} State.reset.fab.ports p : Port).reg.extractLsb' 58 4 = 15)

/-- Every step, of a thread, an event, a host or the clock, keeps the canonical form of memory: addresses strictly rising, and
no entry that equals what an unlisted address reads as (log 6). -/
def Obligations.StepKeepsTheInvariant : Prop :=
  ∀ s t : State, s.Inv → step s = .next t → t.Inv

open Sys2Proof.Claims in
/-- R34, R36, R38, R42: a step of a thread that issues a single word executes the instruction the word decodes to: step answers
what exec answers, once the interlock, the error marks and the watchdogs let it issue; a word that does not decode raises
the illegal-instruction fault with instruction bits [95:32] in MTVAL. A step that issues a pair executes both members, each of
which reads what stood before the pair, and the first writes first; where one of them raises a fault neither acts, and the
step takes the one fault that R42 puts first; where none does and one stalls, neither acts and the thread stalls at the pair. -/
def Obligations.StepRunsTheDecodedInstruction : Prop :=
  ∀ (s : State) (t : Nat),
    let u := issuing s t
    (∀ w, Issues s t w →
      (∀ i0, decode w = .ok i0 → u.before [u.select i0] (u.counted (u.select i0) 1) = none →
        step s = traced (afterIssue t (exec (u.select i0) u))) ∧
      (∀ e, decode w = .error e → step s = traced (afterIssue t (raise 0x01 (w.extractLsb' 32 64) u)))) ∧
    (∀ wa wb a b sa sb, IssuesPair s t wa wb → decode wa = .ok a → decode wb = .ok b → u.haz = false →
      u.before [a, b] (u.counted b 2) = none → exec a u = .next sa → exec b (second u) = .next sb →
      (∀ k v, firstTrap sa sb = some (k, v) → step s = traced (afterIssue t (.next v))) ∧
      (firstTrap sa sb = none →
        (sa.stalledNow = true → step s = traced (afterIssue t (.next (sa.stallPair u.me.act.pc)))) ∧
        (sa.stalledNow = false → sb.stalledNow = true → step s = traced (afterIssue t (.next (sb.stallPair u.me.act.pc)))) ∧
        (sa.stalledNow = false → sb.stalledNow = false → step s = traced (afterIssue t (together u sa b)))))

open Sys2Proof.Claims in
/-- R57: the words of its table are those of the constructs beside them (R34: so are the words of the worked line). -/
def Obligations.WrittenWordsDecode : Prop :=
  ∀ p ∈ writtenWords, decode p.1 = .ok p.2 ∧ encode p.2 = p.1 ∧ decodeTableWord 96 p.1.toNat = some p.2

open Sys2Proof.Claims in
/-- R43, R44–R50: the word of a well-formed instruction that has one decodes to that instruction, with every operand at every
value its field admits; a word of an opcode with no row decodes to the row of unassigned opcodes. -/
def Obligations.EncodingRoundTrips : Prop :=
  (∀ i : Instr, (∀ w, i ≠ .unassignedOpcode w) → i.hasWord = true → i.wellFormed = true → decode (encode i) = .ok (wordRow i)) ∧
  (∀ w, Decode.rowOf (Decode.opOf w) = none → decode w = .ok (.unassignedOpcode w))

/-- R43, R44–R50: a word that decodes is the word of the instruction it decodes to: no bit of a legal word is ignored. -/
def Obligations.DecodingRoundTrips : Prop :=
  ∀ w i, decode w = .ok i → encode i = w
end

