-- ==== Sys2Proof/Laws/Map.lean ====
section
/-! SUPPORT. The laws of sparse maps: what a key reads as after an update, and that the canonical form is kept. -/

namespace Sys2Proof.Machine

variable {α : Type}

@[simp] theorem Map.get_nil (d : α) (i : Nat) : Map.get d [] i = d := rfl

@[simp] theorem Map.get_put_self (d : α) (m : Map α) (i : Nat) (x : α) : Map.get d (Map.put m i x) i = x := by
  induction m with
  | nil => simp [Map.put, Map.get]
  | cons e m ih =>
    obtain ⟨k, v⟩ := e
    simp only [Map.put]
    split
    · simp [Map.get]
    · split
      · simp [Map.get]
      · simp [Map.get, *]

theorem Map.get_put_ne (d : α) (m : Map α) {i j : Nat} (x : α) (h : j ≠ i) :
    Map.get d (Map.put m i x) j = Map.get d m j := by
  induction m with
  | nil => simp [Map.put, Map.get, h]
  | cons e m ih =>
    obtain ⟨k, v⟩ := e
    simp only [Map.put]
    split
    · simp [Map.get, h]
    · split
      · subst_vars; simp [Map.get, h]
      · simp [Map.get, ih]

theorem Map.get_put (d : α) (m : Map α) (i j : Nat) (x : α) :
    Map.get d (Map.put m i x) j = if j = i then x else Map.get d m j := by
  by_cases h : j = i
  · subst h; simp
  · rw [if_neg h, Map.get_put_ne d m x h]

theorem Map.get_drop (d : α) (p : Nat → Bool) (m : Map α) (j : Nat) :
    Map.get d (Map.drop p m) j = if p j then d else Map.get d m j := by
  induction m with
  | nil => simp [Map.drop]
  | cons e m ih =>
    obtain ⟨k, v⟩ := e
    by_cases hk : p k = true
    · have : Map.drop p ((k, v) :: m) = Map.drop p m := by simp [Map.drop, List.filter, hk]
      rw [this, ih]
      by_cases hj : p j = true
      · simp [hj]
      · have : j ≠ k := fun h => hj (h ▸ hk)
        simp [hj, Map.get, this]
    · have : Map.drop p ((k, v) :: m) = (k, v) :: Map.drop p m := by simp [Map.drop, List.filter, hk]
      rw [this]
      simp only [Map.get, ih]
      by_cases hj : j = k
      · subst hj; simp [hk]
      · simp [hj]

/-- A key reads what was set there, and every other key as before. -/
theorem Map.get_set [DecidableEq α] (d : α) (m : Map α) (i j : Nat) (x : α) :
    Map.get d (Map.set d m i x) j = if j = i then x else Map.get d m j := by
  unfold Map.set
  split
  · subst_vars; rw [Map.get_drop]; simp
  · exact Map.get_put d m i j x

@[simp] theorem Map.get_set_self [DecidableEq α] (d : α) (m : Map α) (i : Nat) (x : α) :
    Map.get d (Map.set d m i x) i = x := by simp [Map.get_set]

/-! ## The canonical form -/

theorem Map.wfFrom_mono [DecidableEq α] (d : α) {lo lo' : Nat} (h : lo' ≤ lo) :
    ∀ {m : Map α}, Map.wfFrom d lo m = true → Map.wfFrom d lo' m = true
  | [], _ => rfl
  | (k, v) :: m, hm => by
    simp only [Map.wfFrom, Bool.and_eq_true, decide_eq_true_eq] at hm ⊢
    exact ⟨⟨by omega, hm.1.2⟩, hm.2⟩

theorem Map.wfFrom_put [DecidableEq α] (d : α) {x : α} (hx : x ≠ d) {i : Nat} :
    ∀ {m : Map α} {lo : Nat}, lo ≤ i → Map.wfFrom d lo m = true → Map.wfFrom d lo (Map.put m i x) = true
  | [], lo, hi, _ => by simp [Map.put, Map.wfFrom, hi, hx]
  | (k, v) :: m, lo, hi, hm => by
    simp only [Map.wfFrom, Bool.and_eq_true, decide_eq_true_eq] at hm
    simp only [Map.put]
    split
    · simp only [Map.wfFrom, Bool.and_eq_true, decide_eq_true_eq]
      exact ⟨⟨hi, hx⟩, ⟨by omega, hm.1.2⟩, hm.2⟩
    · split
      · subst_vars
        simp only [Map.wfFrom, Bool.and_eq_true, decide_eq_true_eq]
        exact ⟨⟨hi, hx⟩, hm.2⟩
      · simp only [Map.wfFrom, Bool.and_eq_true, decide_eq_true_eq]
        exact ⟨hm.1, Map.wfFrom_put d hx (by omega) hm.2⟩

theorem Map.wfFrom_drop [DecidableEq α] (d : α) (p : Nat → Bool) :
    ∀ {m : Map α} {lo : Nat}, Map.wfFrom d lo m = true → Map.wfFrom d lo (Map.drop p m) = true
  | [], _, _ => rfl
  | (k, v) :: m, lo, hm => by
    simp only [Map.wfFrom, Bool.and_eq_true, decide_eq_true_eq] at hm
    have ih := Map.wfFrom_drop d p hm.2
    by_cases hk : p k = true
    · have : Map.drop p ((k, v) :: m) = Map.drop p m := by simp [Map.drop, List.filter, hk]
      rw [this]
      exact Map.wfFrom_mono d (by omega) ih
    · have : Map.drop p ((k, v) :: m) = (k, v) :: Map.drop p m := by simp [Map.drop, List.filter, hk]
      rw [this]
      simp only [Map.wfFrom, Bool.and_eq_true, decide_eq_true_eq]
      exact ⟨hm.1, ih⟩

theorem Map.wf_set [DecidableEq α] (d : α) {m : Map α} (i : Nat) (x : α) (h : Map.wf d m = true) :
    Map.wf d (Map.set d m i x) = true := by
  unfold Map.set
  split
  · exact Map.wfFrom_drop d _ h
  · exact Map.wfFrom_put d ‹_› (Nat.zero_le _) h

theorem Map.wf_drop [DecidableEq α] (d : α) {m : Map α} (p : Nat → Bool) (h : Map.wf d m = true) :
    Map.wf d (Map.drop p m) = true := Map.wfFrom_drop d p h

/-- In canonical form, equal readings are equal data. -/
theorem Map.get_lt [DecidableEq α] (d : α) :
    ∀ {m : Map α} {lo j : Nat}, Map.wfFrom d lo m = true → j < lo → Map.get d m j = d
  | [], _, _, _, _ => rfl
  | (k, v) :: m, lo, j, hm, hj => by
    simp only [Map.wfFrom, Bool.and_eq_true, decide_eq_true_eq] at hm
    simp only [Map.get]
    rw [if_neg (by omega)]
    exact Map.get_lt d hm.2 (by omega)

end Sys2Proof.Machine
end

