-- ==== Sys2Proof/Laws/State.lean ====
section
/-! SUPPORT. One law for each field and each update of the state: what an update leaves alone, and what it
changes, true by unfolding; so that no later proof unfolds a record update. -/

namespace Sys2Proof.Machine

variable (s : State)

@[simp] theorem State.setTh_cur (t : Nat) (x : Thread) : (s.setTh t x).cur = s.cur := rfl
@[simp] theorem State.setTh_agenda (t : Nat) (x : Thread) : (s.setTh t x).agenda = s.agenda := rfl
@[simp] theorem State.setTh_trap (t : Nat) (x : Thread) : (s.setTh t x).trap = s.trap := rfl
@[simp] theorem State.setTh_free (t : Nat) (x : Thread) : (s.setTh t x).free = s.free := rfl
@[simp] theorem State.setTh_nextAct (t : Nat) (x : Thread) : (s.setTh t x).nextAct = s.nextAct := rfl
@[simp] theorem State.setTh_pace (t : Nat) (x : Thread) : (s.setTh t x).pace = s.pace := rfl
@[simp] theorem State.setTh_cycle (t : Nat) (x : Thread) : (s.setTh t x).cycle = s.cycle := rfl
@[simp] theorem State.setTh_threads (t : Nat) (x : Thread) : (s.setTh t x).threads = Map.put s.threads t x := rfl
@[simp] theorem State.setTh_owners (t : Nat) (x : Thread) : (s.setTh t x).owners = s.owners := rfl
@[simp] theorem State.setTh_blocks (t : Nat) (x : Thread) : (s.setTh t x).blocks = s.blocks := rfl
@[simp] theorem State.setTh_clusters (t : Nat) (x : Thread) : (s.setTh t x).clusters = s.clusters := rfl
@[simp] theorem State.setTh_dies (t : Nat) (x : Thread) : (s.setTh t x).dies = s.dies := rfl
@[simp] theorem State.setTh_mem (t : Nat) (x : Thread) : (s.setTh t x).mem = s.mem := rfl
@[simp] theorem State.setTh_flight (t : Nat) (x : Thread) : (s.setTh t x).flight = s.flight := rfl
@[simp] theorem State.setTh_sys (t : Nat) (x : Thread) : (s.setTh t x).sys = s.sys := rfl
@[simp] theorem State.setTh_fab (t : Nat) (x : Thread) : (s.setTh t x).fab = s.fab := rfl

@[simp] theorem State.modTh_cur (t : Nat) (f : Thread → Thread) : (s.modTh t f).cur = s.cur := rfl
@[simp] theorem State.modTh_agenda (t : Nat) (f : Thread → Thread) : (s.modTh t f).agenda = s.agenda := rfl
@[simp] theorem State.modTh_trap (t : Nat) (f : Thread → Thread) : (s.modTh t f).trap = s.trap := rfl
@[simp] theorem State.modTh_free (t : Nat) (f : Thread → Thread) : (s.modTh t f).free = s.free := rfl
@[simp] theorem State.modTh_nextAct (t : Nat) (f : Thread → Thread) : (s.modTh t f).nextAct = s.nextAct := rfl
@[simp] theorem State.modTh_pace (t : Nat) (f : Thread → Thread) : (s.modTh t f).pace = s.pace := rfl
@[simp] theorem State.modTh_cycle (t : Nat) (f : Thread → Thread) : (s.modTh t f).cycle = s.cycle := rfl
@[simp] theorem State.modTh_threads (t : Nat) (f : Thread → Thread) : (s.modTh t f).threads = Map.put s.threads t (f (s.th t)) := rfl
@[simp] theorem State.modTh_owners (t : Nat) (f : Thread → Thread) : (s.modTh t f).owners = s.owners := rfl
@[simp] theorem State.modTh_blocks (t : Nat) (f : Thread → Thread) : (s.modTh t f).blocks = s.blocks := rfl
@[simp] theorem State.modTh_clusters (t : Nat) (f : Thread → Thread) : (s.modTh t f).clusters = s.clusters := rfl
@[simp] theorem State.modTh_dies (t : Nat) (f : Thread → Thread) : (s.modTh t f).dies = s.dies := rfl
@[simp] theorem State.modTh_mem (t : Nat) (f : Thread → Thread) : (s.modTh t f).mem = s.mem := rfl
@[simp] theorem State.modTh_flight (t : Nat) (f : Thread → Thread) : (s.modTh t f).flight = s.flight := rfl
@[simp] theorem State.modTh_sys (t : Nat) (f : Thread → Thread) : (s.modTh t f).sys = s.sys := rfl
@[simp] theorem State.modTh_fab (t : Nat) (f : Thread → Thread) : (s.modTh t f).fab = s.fab := rfl

@[simp] theorem State.modAct_cur (t : Nat) (f : Act → Act) : (s.modAct t f).cur = s.cur := rfl
@[simp] theorem State.modAct_agenda (t : Nat) (f : Act → Act) : (s.modAct t f).agenda = s.agenda := rfl
@[simp] theorem State.modAct_trap (t : Nat) (f : Act → Act) : (s.modAct t f).trap = s.trap := rfl
@[simp] theorem State.modAct_free (t : Nat) (f : Act → Act) : (s.modAct t f).free = s.free := rfl
@[simp] theorem State.modAct_nextAct (t : Nat) (f : Act → Act) : (s.modAct t f).nextAct = s.nextAct := rfl
@[simp] theorem State.modAct_pace (t : Nat) (f : Act → Act) : (s.modAct t f).pace = s.pace := rfl
@[simp] theorem State.modAct_cycle (t : Nat) (f : Act → Act) : (s.modAct t f).cycle = s.cycle := rfl
@[simp] theorem State.modAct_owners (t : Nat) (f : Act → Act) : (s.modAct t f).owners = s.owners := rfl
@[simp] theorem State.modAct_blocks (t : Nat) (f : Act → Act) : (s.modAct t f).blocks = s.blocks := rfl
@[simp] theorem State.modAct_clusters (t : Nat) (f : Act → Act) : (s.modAct t f).clusters = s.clusters := rfl
@[simp] theorem State.modAct_dies (t : Nat) (f : Act → Act) : (s.modAct t f).dies = s.dies := rfl
@[simp] theorem State.modAct_mem (t : Nat) (f : Act → Act) : (s.modAct t f).mem = s.mem := rfl
@[simp] theorem State.modAct_flight (t : Nat) (f : Act → Act) : (s.modAct t f).flight = s.flight := rfl
@[simp] theorem State.modAct_sys (t : Nat) (f : Act → Act) : (s.modAct t f).sys = s.sys := rfl
@[simp] theorem State.modAct_fab (t : Nat) (f : Act → Act) : (s.modAct t f).fab = s.fab := rfl

@[simp] theorem State.modCtx_cur (t : Nat) (f : Act → Act) : (s.modCtx t f).cur = s.cur := rfl
@[simp] theorem State.modCtx_agenda (t : Nat) (f : Act → Act) : (s.modCtx t f).agenda = s.agenda := rfl
@[simp] theorem State.modCtx_trap (t : Nat) (f : Act → Act) : (s.modCtx t f).trap = s.trap := rfl
@[simp] theorem State.modCtx_free (t : Nat) (f : Act → Act) : (s.modCtx t f).free = s.free := rfl
@[simp] theorem State.modCtx_nextAct (t : Nat) (f : Act → Act) : (s.modCtx t f).nextAct = s.nextAct := rfl
@[simp] theorem State.modCtx_pace (t : Nat) (f : Act → Act) : (s.modCtx t f).pace = s.pace := rfl
@[simp] theorem State.modCtx_cycle (t : Nat) (f : Act → Act) : (s.modCtx t f).cycle = s.cycle := rfl
@[simp] theorem State.modCtx_owners (t : Nat) (f : Act → Act) : (s.modCtx t f).owners = s.owners := rfl
@[simp] theorem State.modCtx_blocks (t : Nat) (f : Act → Act) : (s.modCtx t f).blocks = s.blocks := rfl
@[simp] theorem State.modCtx_clusters (t : Nat) (f : Act → Act) : (s.modCtx t f).clusters = s.clusters := rfl
@[simp] theorem State.modCtx_dies (t : Nat) (f : Act → Act) : (s.modCtx t f).dies = s.dies := rfl
@[simp] theorem State.modCtx_mem (t : Nat) (f : Act → Act) : (s.modCtx t f).mem = s.mem := rfl
@[simp] theorem State.modCtx_flight (t : Nat) (f : Act → Act) : (s.modCtx t f).flight = s.flight := rfl
@[simp] theorem State.modCtx_sys (t : Nat) (f : Act → Act) : (s.modCtx t f).sys = s.sys := rfl
@[simp] theorem State.modCtx_fab (t : Nat) (f : Act → Act) : (s.modCtx t f).fab = s.fab := rfl

@[simp] theorem State.modMe_cur (f : Thread → Thread) : (s.modMe f).cur = s.cur := rfl
@[simp] theorem State.modMe_agenda (f : Thread → Thread) : (s.modMe f).agenda = s.agenda := rfl
@[simp] theorem State.modMe_trap (f : Thread → Thread) : (s.modMe f).trap = s.trap := rfl
@[simp] theorem State.modMe_free (f : Thread → Thread) : (s.modMe f).free = s.free := rfl
@[simp] theorem State.modMe_nextAct (f : Thread → Thread) : (s.modMe f).nextAct = s.nextAct := rfl
@[simp] theorem State.modMe_pace (f : Thread → Thread) : (s.modMe f).pace = s.pace := rfl
@[simp] theorem State.modMe_cycle (f : Thread → Thread) : (s.modMe f).cycle = s.cycle := rfl
@[simp] theorem State.modMe_threads (f : Thread → Thread) : (s.modMe f).threads = Map.put s.threads s.cur (f s.me) := rfl
@[simp] theorem State.modMe_owners (f : Thread → Thread) : (s.modMe f).owners = s.owners := rfl
@[simp] theorem State.modMe_blocks (f : Thread → Thread) : (s.modMe f).blocks = s.blocks := rfl
@[simp] theorem State.modMe_clusters (f : Thread → Thread) : (s.modMe f).clusters = s.clusters := rfl
@[simp] theorem State.modMe_dies (f : Thread → Thread) : (s.modMe f).dies = s.dies := rfl
@[simp] theorem State.modMe_mem (f : Thread → Thread) : (s.modMe f).mem = s.mem := rfl
@[simp] theorem State.modMe_flight (f : Thread → Thread) : (s.modMe f).flight = s.flight := rfl
@[simp] theorem State.modMe_sys (f : Thread → Thread) : (s.modMe f).sys = s.sys := rfl
@[simp] theorem State.modMe_fab (f : Thread → Thread) : (s.modMe f).fab = s.fab := rfl

@[simp] theorem State.modMyAct_cur (f : Act → Act) : (s.modMyAct f).cur = s.cur := rfl
@[simp] theorem State.modMyAct_agenda (f : Act → Act) : (s.modMyAct f).agenda = s.agenda := rfl
@[simp] theorem State.modMyAct_trap (f : Act → Act) : (s.modMyAct f).trap = s.trap := rfl
@[simp] theorem State.modMyAct_free (f : Act → Act) : (s.modMyAct f).free = s.free := rfl
@[simp] theorem State.modMyAct_nextAct (f : Act → Act) : (s.modMyAct f).nextAct = s.nextAct := rfl
@[simp] theorem State.modMyAct_pace (f : Act → Act) : (s.modMyAct f).pace = s.pace := rfl
@[simp] theorem State.modMyAct_cycle (f : Act → Act) : (s.modMyAct f).cycle = s.cycle := rfl
@[simp] theorem State.modMyAct_owners (f : Act → Act) : (s.modMyAct f).owners = s.owners := rfl
@[simp] theorem State.modMyAct_blocks (f : Act → Act) : (s.modMyAct f).blocks = s.blocks := rfl
@[simp] theorem State.modMyAct_clusters (f : Act → Act) : (s.modMyAct f).clusters = s.clusters := rfl
@[simp] theorem State.modMyAct_dies (f : Act → Act) : (s.modMyAct f).dies = s.dies := rfl
@[simp] theorem State.modMyAct_mem (f : Act → Act) : (s.modMyAct f).mem = s.mem := rfl
@[simp] theorem State.modMyAct_flight (f : Act → Act) : (s.modMyAct f).flight = s.flight := rfl
@[simp] theorem State.modMyAct_sys (f : Act → Act) : (s.modMyAct f).sys = s.sys := rfl
@[simp] theorem State.modMyAct_fab (f : Act → Act) : (s.modMyAct f).fab = s.fab := rfl

@[simp] theorem State.setBlock_cur (b : Nat) (x : Block) : (s.setBlock b x).cur = s.cur := rfl
@[simp] theorem State.setBlock_agenda (b : Nat) (x : Block) : (s.setBlock b x).agenda = s.agenda := rfl
@[simp] theorem State.setBlock_trap (b : Nat) (x : Block) : (s.setBlock b x).trap = s.trap := rfl
@[simp] theorem State.setBlock_free (b : Nat) (x : Block) : (s.setBlock b x).free = s.free := rfl
@[simp] theorem State.setBlock_nextAct (b : Nat) (x : Block) : (s.setBlock b x).nextAct = s.nextAct := rfl
@[simp] theorem State.setBlock_pace (b : Nat) (x : Block) : (s.setBlock b x).pace = s.pace := rfl
@[simp] theorem State.setBlock_cycle (b : Nat) (x : Block) : (s.setBlock b x).cycle = s.cycle := rfl
@[simp] theorem State.setBlock_threads (b : Nat) (x : Block) : (s.setBlock b x).threads = s.threads := rfl
@[simp] theorem State.setBlock_owners (b : Nat) (x : Block) : (s.setBlock b x).owners = s.owners := rfl
@[simp] theorem State.setBlock_blocks (b : Nat) (x : Block) : (s.setBlock b x).blocks = Map.put s.blocks b x := rfl
@[simp] theorem State.setBlock_clusters (b : Nat) (x : Block) : (s.setBlock b x).clusters = s.clusters := rfl
@[simp] theorem State.setBlock_dies (b : Nat) (x : Block) : (s.setBlock b x).dies = s.dies := rfl
@[simp] theorem State.setBlock_mem (b : Nat) (x : Block) : (s.setBlock b x).mem = s.mem := rfl
@[simp] theorem State.setBlock_flight (b : Nat) (x : Block) : (s.setBlock b x).flight = s.flight := rfl
@[simp] theorem State.setBlock_sys (b : Nat) (x : Block) : (s.setBlock b x).sys = s.sys := rfl
@[simp] theorem State.setBlock_fab (b : Nat) (x : Block) : (s.setBlock b x).fab = s.fab := rfl

@[simp] theorem State.modBlock_cur (b : Nat) (f : Block → Block) : (s.modBlock b f).cur = s.cur := rfl
@[simp] theorem State.modBlock_agenda (b : Nat) (f : Block → Block) : (s.modBlock b f).agenda = s.agenda := rfl
@[simp] theorem State.modBlock_trap (b : Nat) (f : Block → Block) : (s.modBlock b f).trap = s.trap := rfl
@[simp] theorem State.modBlock_free (b : Nat) (f : Block → Block) : (s.modBlock b f).free = s.free := rfl
@[simp] theorem State.modBlock_nextAct (b : Nat) (f : Block → Block) : (s.modBlock b f).nextAct = s.nextAct := rfl
@[simp] theorem State.modBlock_pace (b : Nat) (f : Block → Block) : (s.modBlock b f).pace = s.pace := rfl
@[simp] theorem State.modBlock_cycle (b : Nat) (f : Block → Block) : (s.modBlock b f).cycle = s.cycle := rfl
@[simp] theorem State.modBlock_threads (b : Nat) (f : Block → Block) : (s.modBlock b f).threads = s.threads := rfl
@[simp] theorem State.modBlock_owners (b : Nat) (f : Block → Block) : (s.modBlock b f).owners = s.owners := rfl
@[simp] theorem State.modBlock_blocks (b : Nat) (f : Block → Block) : (s.modBlock b f).blocks = Map.put s.blocks b (f (s.block b)) := rfl
@[simp] theorem State.modBlock_clusters (b : Nat) (f : Block → Block) : (s.modBlock b f).clusters = s.clusters := rfl
@[simp] theorem State.modBlock_dies (b : Nat) (f : Block → Block) : (s.modBlock b f).dies = s.dies := rfl
@[simp] theorem State.modBlock_mem (b : Nat) (f : Block → Block) : (s.modBlock b f).mem = s.mem := rfl
@[simp] theorem State.modBlock_flight (b : Nat) (f : Block → Block) : (s.modBlock b f).flight = s.flight := rfl
@[simp] theorem State.modBlock_sys (b : Nat) (f : Block → Block) : (s.modBlock b f).sys = s.sys := rfl
@[simp] theorem State.modBlock_fab (b : Nat) (f : Block → Block) : (s.modBlock b f).fab = s.fab := rfl

@[simp] theorem State.eachBlock_cur (f : Block → Block) : (s.eachBlock f).cur = s.cur := rfl
@[simp] theorem State.eachBlock_agenda (f : Block → Block) : (s.eachBlock f).agenda = s.agenda := rfl
@[simp] theorem State.eachBlock_trap (f : Block → Block) : (s.eachBlock f).trap = s.trap := rfl
@[simp] theorem State.eachBlock_free (f : Block → Block) : (s.eachBlock f).free = s.free := rfl
@[simp] theorem State.eachBlock_nextAct (f : Block → Block) : (s.eachBlock f).nextAct = s.nextAct := rfl
@[simp] theorem State.eachBlock_pace (f : Block → Block) : (s.eachBlock f).pace = s.pace := rfl
@[simp] theorem State.eachBlock_cycle (f : Block → Block) : (s.eachBlock f).cycle = s.cycle := rfl
@[simp] theorem State.eachBlock_threads (f : Block → Block) : (s.eachBlock f).threads = s.threads := rfl
@[simp] theorem State.eachBlock_owners (f : Block → Block) : (s.eachBlock f).owners = s.owners := rfl
@[simp] theorem State.eachBlock_clusters (f : Block → Block) : (s.eachBlock f).clusters = s.clusters := rfl
@[simp] theorem State.eachBlock_dies (f : Block → Block) : (s.eachBlock f).dies = s.dies := rfl
@[simp] theorem State.eachBlock_mem (f : Block → Block) : (s.eachBlock f).mem = s.mem := rfl
@[simp] theorem State.eachBlock_flight (f : Block → Block) : (s.eachBlock f).flight = s.flight := rfl
@[simp] theorem State.eachBlock_sys (f : Block → Block) : (s.eachBlock f).sys = s.sys := rfl
@[simp] theorem State.eachBlock_fab (f : Block → Block) : (s.eachBlock f).fab = s.fab := rfl

@[simp] theorem State.setCluster_cur (c : Nat) (x : Cluster) : (s.setCluster c x).cur = s.cur := rfl
@[simp] theorem State.setCluster_agenda (c : Nat) (x : Cluster) : (s.setCluster c x).agenda = s.agenda := rfl
@[simp] theorem State.setCluster_trap (c : Nat) (x : Cluster) : (s.setCluster c x).trap = s.trap := rfl
@[simp] theorem State.setCluster_free (c : Nat) (x : Cluster) : (s.setCluster c x).free = s.free := rfl
@[simp] theorem State.setCluster_nextAct (c : Nat) (x : Cluster) : (s.setCluster c x).nextAct = s.nextAct := rfl
@[simp] theorem State.setCluster_pace (c : Nat) (x : Cluster) : (s.setCluster c x).pace = s.pace := rfl
@[simp] theorem State.setCluster_cycle (c : Nat) (x : Cluster) : (s.setCluster c x).cycle = s.cycle := rfl
@[simp] theorem State.setCluster_threads (c : Nat) (x : Cluster) : (s.setCluster c x).threads = s.threads := rfl
@[simp] theorem State.setCluster_owners (c : Nat) (x : Cluster) : (s.setCluster c x).owners = s.owners := rfl
@[simp] theorem State.setCluster_blocks (c : Nat) (x : Cluster) : (s.setCluster c x).blocks = s.blocks := rfl
@[simp] theorem State.setCluster_clusters (c : Nat) (x : Cluster) : (s.setCluster c x).clusters = Map.put s.clusters c x := rfl
@[simp] theorem State.setCluster_dies (c : Nat) (x : Cluster) : (s.setCluster c x).dies = s.dies := rfl
@[simp] theorem State.setCluster_mem (c : Nat) (x : Cluster) : (s.setCluster c x).mem = s.mem := rfl
@[simp] theorem State.setCluster_flight (c : Nat) (x : Cluster) : (s.setCluster c x).flight = s.flight := rfl
@[simp] theorem State.setCluster_sys (c : Nat) (x : Cluster) : (s.setCluster c x).sys = s.sys := rfl
@[simp] theorem State.setCluster_fab (c : Nat) (x : Cluster) : (s.setCluster c x).fab = s.fab := rfl

@[simp] theorem State.modCluster_cur (c : Nat) (f : Cluster → Cluster) : (s.modCluster c f).cur = s.cur := rfl
@[simp] theorem State.modCluster_agenda (c : Nat) (f : Cluster → Cluster) : (s.modCluster c f).agenda = s.agenda := rfl
@[simp] theorem State.modCluster_trap (c : Nat) (f : Cluster → Cluster) : (s.modCluster c f).trap = s.trap := rfl
@[simp] theorem State.modCluster_free (c : Nat) (f : Cluster → Cluster) : (s.modCluster c f).free = s.free := rfl
@[simp] theorem State.modCluster_nextAct (c : Nat) (f : Cluster → Cluster) : (s.modCluster c f).nextAct = s.nextAct := rfl
@[simp] theorem State.modCluster_pace (c : Nat) (f : Cluster → Cluster) : (s.modCluster c f).pace = s.pace := rfl
@[simp] theorem State.modCluster_cycle (c : Nat) (f : Cluster → Cluster) : (s.modCluster c f).cycle = s.cycle := rfl
@[simp] theorem State.modCluster_threads (c : Nat) (f : Cluster → Cluster) : (s.modCluster c f).threads = s.threads := rfl
@[simp] theorem State.modCluster_owners (c : Nat) (f : Cluster → Cluster) : (s.modCluster c f).owners = s.owners := rfl
@[simp] theorem State.modCluster_blocks (c : Nat) (f : Cluster → Cluster) : (s.modCluster c f).blocks = s.blocks := rfl
@[simp] theorem State.modCluster_clusters (c : Nat) (f : Cluster → Cluster) : (s.modCluster c f).clusters = Map.put s.clusters c (f (s.cluster c)) := rfl
@[simp] theorem State.modCluster_dies (c : Nat) (f : Cluster → Cluster) : (s.modCluster c f).dies = s.dies := rfl
@[simp] theorem State.modCluster_mem (c : Nat) (f : Cluster → Cluster) : (s.modCluster c f).mem = s.mem := rfl
@[simp] theorem State.modCluster_flight (c : Nat) (f : Cluster → Cluster) : (s.modCluster c f).flight = s.flight := rfl
@[simp] theorem State.modCluster_sys (c : Nat) (f : Cluster → Cluster) : (s.modCluster c f).sys = s.sys := rfl
@[simp] theorem State.modCluster_fab (c : Nat) (f : Cluster → Cluster) : (s.modCluster c f).fab = s.fab := rfl

@[simp] theorem State.modOwner_cur (o : Nat) (f : Owner → Owner) : (s.modOwner o f).cur = s.cur := rfl
@[simp] theorem State.modOwner_agenda (o : Nat) (f : Owner → Owner) : (s.modOwner o f).agenda = s.agenda := rfl
@[simp] theorem State.modOwner_trap (o : Nat) (f : Owner → Owner) : (s.modOwner o f).trap = s.trap := rfl
@[simp] theorem State.modOwner_free (o : Nat) (f : Owner → Owner) : (s.modOwner o f).free = s.free := rfl
@[simp] theorem State.modOwner_nextAct (o : Nat) (f : Owner → Owner) : (s.modOwner o f).nextAct = s.nextAct := rfl
@[simp] theorem State.modOwner_pace (o : Nat) (f : Owner → Owner) : (s.modOwner o f).pace = s.pace := rfl
@[simp] theorem State.modOwner_cycle (o : Nat) (f : Owner → Owner) : (s.modOwner o f).cycle = s.cycle := rfl
@[simp] theorem State.modOwner_threads (o : Nat) (f : Owner → Owner) : (s.modOwner o f).threads = s.threads := rfl
@[simp] theorem State.modOwner_owners (o : Nat) (f : Owner → Owner) : (s.modOwner o f).owners = Map.put s.owners o (f (s.owner o)) := rfl
@[simp] theorem State.modOwner_blocks (o : Nat) (f : Owner → Owner) : (s.modOwner o f).blocks = s.blocks := rfl
@[simp] theorem State.modOwner_clusters (o : Nat) (f : Owner → Owner) : (s.modOwner o f).clusters = s.clusters := rfl
@[simp] theorem State.modOwner_dies (o : Nat) (f : Owner → Owner) : (s.modOwner o f).dies = s.dies := rfl
@[simp] theorem State.modOwner_mem (o : Nat) (f : Owner → Owner) : (s.modOwner o f).mem = s.mem := rfl
@[simp] theorem State.modOwner_flight (o : Nat) (f : Owner → Owner) : (s.modOwner o f).flight = s.flight := rfl
@[simp] theorem State.modOwner_sys (o : Nat) (f : Owner → Owner) : (s.modOwner o f).sys = s.sys := rfl
@[simp] theorem State.modOwner_fab (o : Nat) (f : Owner → Owner) : (s.modOwner o f).fab = s.fab := rfl

@[simp] theorem State.modDie_cur (d : Nat) (f : Die → Die) : (s.modDie d f).cur = s.cur := rfl
@[simp] theorem State.modDie_agenda (d : Nat) (f : Die → Die) : (s.modDie d f).agenda = s.agenda := rfl
@[simp] theorem State.modDie_trap (d : Nat) (f : Die → Die) : (s.modDie d f).trap = s.trap := rfl
@[simp] theorem State.modDie_free (d : Nat) (f : Die → Die) : (s.modDie d f).free = s.free := rfl
@[simp] theorem State.modDie_nextAct (d : Nat) (f : Die → Die) : (s.modDie d f).nextAct = s.nextAct := rfl
@[simp] theorem State.modDie_pace (d : Nat) (f : Die → Die) : (s.modDie d f).pace = s.pace := rfl
@[simp] theorem State.modDie_cycle (d : Nat) (f : Die → Die) : (s.modDie d f).cycle = s.cycle := rfl
@[simp] theorem State.modDie_threads (d : Nat) (f : Die → Die) : (s.modDie d f).threads = s.threads := rfl
@[simp] theorem State.modDie_owners (d : Nat) (f : Die → Die) : (s.modDie d f).owners = s.owners := rfl
@[simp] theorem State.modDie_blocks (d : Nat) (f : Die → Die) : (s.modDie d f).blocks = s.blocks := rfl
@[simp] theorem State.modDie_clusters (d : Nat) (f : Die → Die) : (s.modDie d f).clusters = s.clusters := rfl
@[simp] theorem State.modDie_dies (d : Nat) (f : Die → Die) : (s.modDie d f).dies = Map.put s.dies d (f (s.die d)) := rfl
@[simp] theorem State.modDie_mem (d : Nat) (f : Die → Die) : (s.modDie d f).mem = s.mem := rfl
@[simp] theorem State.modDie_flight (d : Nat) (f : Die → Die) : (s.modDie d f).flight = s.flight := rfl
@[simp] theorem State.modDie_sys (d : Nat) (f : Die → Die) : (s.modDie d f).sys = s.sys := rfl
@[simp] theorem State.modDie_fab (d : Nat) (f : Die → Die) : (s.modDie d f).fab = s.fab := rfl

@[simp] theorem State.modMem_cur (f : Mem → Mem) : (s.modMem f).cur = s.cur := rfl
@[simp] theorem State.modMem_agenda (f : Mem → Mem) : (s.modMem f).agenda = s.agenda := rfl
@[simp] theorem State.modMem_trap (f : Mem → Mem) : (s.modMem f).trap = s.trap := rfl
@[simp] theorem State.modMem_free (f : Mem → Mem) : (s.modMem f).free = s.free := rfl
@[simp] theorem State.modMem_nextAct (f : Mem → Mem) : (s.modMem f).nextAct = s.nextAct := rfl
@[simp] theorem State.modMem_pace (f : Mem → Mem) : (s.modMem f).pace = s.pace := rfl
@[simp] theorem State.modMem_cycle (f : Mem → Mem) : (s.modMem f).cycle = s.cycle := rfl
@[simp] theorem State.modMem_threads (f : Mem → Mem) : (s.modMem f).threads = s.threads := rfl
@[simp] theorem State.modMem_owners (f : Mem → Mem) : (s.modMem f).owners = s.owners := rfl
@[simp] theorem State.modMem_blocks (f : Mem → Mem) : (s.modMem f).blocks = s.blocks := rfl
@[simp] theorem State.modMem_clusters (f : Mem → Mem) : (s.modMem f).clusters = s.clusters := rfl
@[simp] theorem State.modMem_dies (f : Mem → Mem) : (s.modMem f).dies = s.dies := rfl
@[simp] theorem State.modMem_mem (f : Mem → Mem) : (s.modMem f).mem = f s.mem := rfl
@[simp] theorem State.modMem_flight (f : Mem → Mem) : (s.modMem f).flight = s.flight := rfl
@[simp] theorem State.modMem_sys (f : Mem → Mem) : (s.modMem f).sys = s.sys := rfl
@[simp] theorem State.modMem_fab (f : Mem → Mem) : (s.modMem f).fab = s.fab := rfl

@[simp] theorem State.push_cur (m : Msg) : (s.push m).cur = s.cur := rfl
@[simp] theorem State.push_agenda (m : Msg) : (s.push m).agenda = s.agenda := rfl
@[simp] theorem State.push_trap (m : Msg) : (s.push m).trap = s.trap := rfl
@[simp] theorem State.push_free (m : Msg) : (s.push m).free = s.free := rfl
@[simp] theorem State.push_nextAct (m : Msg) : (s.push m).nextAct = s.nextAct := rfl
@[simp] theorem State.push_pace (m : Msg) : (s.push m).pace = s.pace := rfl
@[simp] theorem State.push_cycle (m : Msg) : (s.push m).cycle = s.cycle := rfl
@[simp] theorem State.push_threads (m : Msg) : (s.push m).threads = s.threads := rfl
@[simp] theorem State.push_owners (m : Msg) : (s.push m).owners = s.owners := rfl
@[simp] theorem State.push_blocks (m : Msg) : (s.push m).blocks = s.blocks := rfl
@[simp] theorem State.push_clusters (m : Msg) : (s.push m).clusters = s.clusters := rfl
@[simp] theorem State.push_dies (m : Msg) : (s.push m).dies = s.dies := rfl
@[simp] theorem State.push_mem (m : Msg) : (s.push m).mem = s.mem := rfl
@[simp] theorem State.push_flight (m : Msg) : (s.push m).flight = s.flight ++ [m] := rfl
@[simp] theorem State.push_sys (m : Msg) : (s.push m).sys = s.sys := rfl
@[simp] theorem State.push_fab (m : Msg) : (s.push m).fab = s.fab := rfl

@[simp] theorem State.logRec_cur (src : Word) (cause sub : Byte) (val : Word) : (s.logRec src cause sub val).cur = s.cur := rfl
@[simp] theorem State.logRec_agenda (src : Word) (cause sub : Byte) (val : Word) : (s.logRec src cause sub val).agenda = s.agenda := rfl
@[simp] theorem State.logRec_trap (src : Word) (cause sub : Byte) (val : Word) : (s.logRec src cause sub val).trap = s.trap := rfl
@[simp] theorem State.logRec_free (src : Word) (cause sub : Byte) (val : Word) : (s.logRec src cause sub val).free = s.free := rfl
@[simp] theorem State.logRec_nextAct (src : Word) (cause sub : Byte) (val : Word) : (s.logRec src cause sub val).nextAct = s.nextAct := rfl
@[simp] theorem State.logRec_pace (src : Word) (cause sub : Byte) (val : Word) : (s.logRec src cause sub val).pace = s.pace := rfl
@[simp] theorem State.logRec_cycle (src : Word) (cause sub : Byte) (val : Word) : (s.logRec src cause sub val).cycle = s.cycle := rfl
@[simp] theorem State.logRec_threads (src : Word) (cause sub : Byte) (val : Word) : (s.logRec src cause sub val).threads = s.threads := rfl
@[simp] theorem State.logRec_owners (src : Word) (cause sub : Byte) (val : Word) : (s.logRec src cause sub val).owners = s.owners := rfl
@[simp] theorem State.logRec_blocks (src : Word) (cause sub : Byte) (val : Word) : (s.logRec src cause sub val).blocks = s.blocks := rfl
@[simp] theorem State.logRec_clusters (src : Word) (cause sub : Byte) (val : Word) : (s.logRec src cause sub val).clusters = s.clusters := rfl
@[simp] theorem State.logRec_dies (src : Word) (cause sub : Byte) (val : Word) : (s.logRec src cause sub val).dies = s.dies := rfl
@[simp] theorem State.logRec_mem (src : Word) (cause sub : Byte) (val : Word) : (s.logRec src cause sub val).mem = s.mem := rfl
@[simp] theorem State.logRec_flight (src : Word) (cause sub : Byte) (val : Word) : (s.logRec src cause sub val).flight = s.flight := rfl
@[simp] theorem State.logRec_fab (src : Word) (cause sub : Byte) (val : Word) : (s.logRec src cause sub val).fab = s.fab := rfl

@[simp] theorem State.modLaunch_cur (id : Word) (f : Launch → Launch) : (s.modLaunch id f).cur = s.cur := rfl
@[simp] theorem State.modLaunch_agenda (id : Word) (f : Launch → Launch) : (s.modLaunch id f).agenda = s.agenda := rfl
@[simp] theorem State.modLaunch_trap (id : Word) (f : Launch → Launch) : (s.modLaunch id f).trap = s.trap := rfl
@[simp] theorem State.modLaunch_free (id : Word) (f : Launch → Launch) : (s.modLaunch id f).free = s.free := rfl
@[simp] theorem State.modLaunch_nextAct (id : Word) (f : Launch → Launch) : (s.modLaunch id f).nextAct = s.nextAct := rfl
@[simp] theorem State.modLaunch_pace (id : Word) (f : Launch → Launch) : (s.modLaunch id f).pace = s.pace := rfl
@[simp] theorem State.modLaunch_cycle (id : Word) (f : Launch → Launch) : (s.modLaunch id f).cycle = s.cycle := rfl
@[simp] theorem State.modLaunch_threads (id : Word) (f : Launch → Launch) : (s.modLaunch id f).threads = s.threads := rfl
@[simp] theorem State.modLaunch_owners (id : Word) (f : Launch → Launch) : (s.modLaunch id f).owners = s.owners := rfl
@[simp] theorem State.modLaunch_blocks (id : Word) (f : Launch → Launch) : (s.modLaunch id f).blocks = s.blocks := rfl
@[simp] theorem State.modLaunch_clusters (id : Word) (f : Launch → Launch) : (s.modLaunch id f).clusters = s.clusters := rfl
@[simp] theorem State.modLaunch_dies (id : Word) (f : Launch → Launch) : (s.modLaunch id f).dies = s.dies := rfl
@[simp] theorem State.modLaunch_mem (id : Word) (f : Launch → Launch) : (s.modLaunch id f).mem = s.mem := rfl
@[simp] theorem State.modLaunch_flight (id : Word) (f : Launch → Launch) : (s.modLaunch id f).flight = s.flight := rfl
@[simp] theorem State.modLaunch_fab (id : Word) (f : Launch → Launch) : (s.modLaunch id f).fab = s.fab := rfl

@[simp] theorem State.setG_cur (r : GReg) (w : Word) : (s.setG r w).cur = s.cur := rfl
@[simp] theorem State.setG_agenda (r : GReg) (w : Word) : (s.setG r w).agenda = s.agenda := rfl
@[simp] theorem State.setG_trap (r : GReg) (w : Word) : (s.setG r w).trap = s.trap := rfl
@[simp] theorem State.setG_free (r : GReg) (w : Word) : (s.setG r w).free = s.free := rfl
@[simp] theorem State.setG_nextAct (r : GReg) (w : Word) : (s.setG r w).nextAct = s.nextAct := rfl
@[simp] theorem State.setG_pace (r : GReg) (w : Word) : (s.setG r w).pace = s.pace := rfl
@[simp] theorem State.setG_cycle (r : GReg) (w : Word) : (s.setG r w).cycle = s.cycle := rfl
@[simp] theorem State.setG_owners (r : GReg) (w : Word) : (s.setG r w).owners = s.owners := rfl
@[simp] theorem State.setG_blocks (r : GReg) (w : Word) : (s.setG r w).blocks = s.blocks := rfl
@[simp] theorem State.setG_clusters (r : GReg) (w : Word) : (s.setG r w).clusters = s.clusters := rfl
@[simp] theorem State.setG_dies (r : GReg) (w : Word) : (s.setG r w).dies = s.dies := rfl
@[simp] theorem State.setG_mem (r : GReg) (w : Word) : (s.setG r w).mem = s.mem := rfl
@[simp] theorem State.setG_flight (r : GReg) (w : Word) : (s.setG r w).flight = s.flight := rfl
@[simp] theorem State.setG_sys (r : GReg) (w : Word) : (s.setG r w).sys = s.sys := rfl
@[simp] theorem State.setG_fab (r : GReg) (w : Word) : (s.setG r w).fab = s.fab := rfl

@[simp] theorem State.setV_cur (r : VIdx) (w : VReg) : (s.setV r w).cur = s.cur := rfl
@[simp] theorem State.setV_agenda (r : VIdx) (w : VReg) : (s.setV r w).agenda = s.agenda := rfl
@[simp] theorem State.setV_trap (r : VIdx) (w : VReg) : (s.setV r w).trap = s.trap := rfl
@[simp] theorem State.setV_free (r : VIdx) (w : VReg) : (s.setV r w).free = s.free := rfl
@[simp] theorem State.setV_nextAct (r : VIdx) (w : VReg) : (s.setV r w).nextAct = s.nextAct := rfl
@[simp] theorem State.setV_pace (r : VIdx) (w : VReg) : (s.setV r w).pace = s.pace := rfl
@[simp] theorem State.setV_cycle (r : VIdx) (w : VReg) : (s.setV r w).cycle = s.cycle := rfl
@[simp] theorem State.setV_owners (r : VIdx) (w : VReg) : (s.setV r w).owners = s.owners := rfl
@[simp] theorem State.setV_blocks (r : VIdx) (w : VReg) : (s.setV r w).blocks = s.blocks := rfl
@[simp] theorem State.setV_clusters (r : VIdx) (w : VReg) : (s.setV r w).clusters = s.clusters := rfl
@[simp] theorem State.setV_dies (r : VIdx) (w : VReg) : (s.setV r w).dies = s.dies := rfl
@[simp] theorem State.setV_mem (r : VIdx) (w : VReg) : (s.setV r w).mem = s.mem := rfl
@[simp] theorem State.setV_flight (r : VIdx) (w : VReg) : (s.setV r w).flight = s.flight := rfl
@[simp] theorem State.setV_sys (r : VIdx) (w : VReg) : (s.setV r w).sys = s.sys := rfl
@[simp] theorem State.setV_fab (r : VIdx) (w : VReg) : (s.setV r w).fab = s.fab := rfl

@[simp] theorem State.retire_cur : (s.retire).cur = s.cur := rfl
@[simp] theorem State.retire_agenda : (s.retire).agenda = s.agenda := rfl
@[simp] theorem State.retire_trap : (s.retire).trap = s.trap := rfl
@[simp] theorem State.retire_free : (s.retire).free = s.free := rfl
@[simp] theorem State.retire_nextAct : (s.retire).nextAct = s.nextAct := rfl
@[simp] theorem State.retire_pace : (s.retire).pace = s.pace := rfl
@[simp] theorem State.retire_cycle : (s.retire).cycle = s.cycle := rfl
@[simp] theorem State.retire_owners : (s.retire).owners = s.owners := rfl
@[simp] theorem State.retire_blocks : (s.retire).blocks = s.blocks := rfl
@[simp] theorem State.retire_clusters : (s.retire).clusters = s.clusters := rfl
@[simp] theorem State.retire_dies : (s.retire).dies = s.dies := rfl
@[simp] theorem State.retire_mem : (s.retire).mem = s.mem := rfl
@[simp] theorem State.retire_flight : (s.retire).flight = s.flight := rfl
@[simp] theorem State.retire_sys : (s.retire).sys = s.sys := rfl
@[simp] theorem State.retire_fab : (s.retire).fab = s.fab := rfl

@[simp] theorem State.writeRetire_cur (d : GReg) (w : Word) : (s.writeRetire d w).cur = s.cur := rfl
@[simp] theorem State.writeRetire_agenda (d : GReg) (w : Word) : (s.writeRetire d w).agenda = s.agenda := rfl
@[simp] theorem State.writeRetire_trap (d : GReg) (w : Word) : (s.writeRetire d w).trap = s.trap := rfl
@[simp] theorem State.writeRetire_free (d : GReg) (w : Word) : (s.writeRetire d w).free = s.free := rfl
@[simp] theorem State.writeRetire_nextAct (d : GReg) (w : Word) : (s.writeRetire d w).nextAct = s.nextAct := rfl
@[simp] theorem State.writeRetire_pace (d : GReg) (w : Word) : (s.writeRetire d w).pace = s.pace := rfl
@[simp] theorem State.writeRetire_cycle (d : GReg) (w : Word) : (s.writeRetire d w).cycle = s.cycle := rfl
@[simp] theorem State.writeRetire_owners (d : GReg) (w : Word) : (s.writeRetire d w).owners = s.owners := rfl
@[simp] theorem State.writeRetire_blocks (d : GReg) (w : Word) : (s.writeRetire d w).blocks = s.blocks := rfl
@[simp] theorem State.writeRetire_clusters (d : GReg) (w : Word) : (s.writeRetire d w).clusters = s.clusters := rfl
@[simp] theorem State.writeRetire_dies (d : GReg) (w : Word) : (s.writeRetire d w).dies = s.dies := rfl
@[simp] theorem State.writeRetire_mem (d : GReg) (w : Word) : (s.writeRetire d w).mem = s.mem := rfl
@[simp] theorem State.writeRetire_flight (d : GReg) (w : Word) : (s.writeRetire d w).flight = s.flight := rfl
@[simp] theorem State.writeRetire_sys (d : GReg) (w : Word) : (s.writeRetire d w).sys = s.sys := rfl
@[simp] theorem State.writeRetire_fab (d : GReg) (w : Word) : (s.writeRetire d w).fab = s.fab := rfl

@[simp] theorem State.jumpTo_cur (lin : Nat) : (s.jumpTo lin).cur = s.cur := rfl
@[simp] theorem State.jumpTo_agenda (lin : Nat) : (s.jumpTo lin).agenda = s.agenda := rfl
@[simp] theorem State.jumpTo_trap (lin : Nat) : (s.jumpTo lin).trap = s.trap := rfl
@[simp] theorem State.jumpTo_free (lin : Nat) : (s.jumpTo lin).free = s.free := rfl
@[simp] theorem State.jumpTo_nextAct (lin : Nat) : (s.jumpTo lin).nextAct = s.nextAct := rfl
@[simp] theorem State.jumpTo_pace (lin : Nat) : (s.jumpTo lin).pace = s.pace := rfl
@[simp] theorem State.jumpTo_cycle (lin : Nat) : (s.jumpTo lin).cycle = s.cycle := rfl
@[simp] theorem State.jumpTo_owners (lin : Nat) : (s.jumpTo lin).owners = s.owners := rfl
@[simp] theorem State.jumpTo_blocks (lin : Nat) : (s.jumpTo lin).blocks = s.blocks := rfl
@[simp] theorem State.jumpTo_clusters (lin : Nat) : (s.jumpTo lin).clusters = s.clusters := rfl
@[simp] theorem State.jumpTo_dies (lin : Nat) : (s.jumpTo lin).dies = s.dies := rfl
@[simp] theorem State.jumpTo_mem (lin : Nat) : (s.jumpTo lin).mem = s.mem := rfl
@[simp] theorem State.jumpTo_flight (lin : Nat) : (s.jumpTo lin).flight = s.flight := rfl
@[simp] theorem State.jumpTo_sys (lin : Nat) : (s.jumpTo lin).sys = s.sys := rfl
@[simp] theorem State.jumpTo_fab (lin : Nat) : (s.jumpTo lin).fab = s.fab := rfl

@[simp] theorem State.stall_cur (w : Wait) : (s.stall w).cur = s.cur := rfl
@[simp] theorem State.stall_agenda (w : Wait) : (s.stall w).agenda = s.agenda := rfl
@[simp] theorem State.stall_trap (w : Wait) : (s.stall w).trap = s.trap := rfl
@[simp] theorem State.stall_free (w : Wait) : (s.stall w).free = s.free := rfl
@[simp] theorem State.stall_nextAct (w : Wait) : (s.stall w).nextAct = s.nextAct := rfl
@[simp] theorem State.stall_pace (w : Wait) : (s.stall w).pace = s.pace := rfl
@[simp] theorem State.stall_cycle (w : Wait) : (s.stall w).cycle = s.cycle := rfl
@[simp] theorem State.stall_owners (w : Wait) : (s.stall w).owners = s.owners := rfl
@[simp] theorem State.stall_blocks (w : Wait) : (s.stall w).blocks = s.blocks := rfl
@[simp] theorem State.stall_clusters (w : Wait) : (s.stall w).clusters = s.clusters := rfl
@[simp] theorem State.stall_dies (w : Wait) : (s.stall w).dies = s.dies := rfl
@[simp] theorem State.stall_mem (w : Wait) : (s.stall w).mem = s.mem := rfl
@[simp] theorem State.stall_flight (w : Wait) : (s.stall w).flight = s.flight := rfl
@[simp] theorem State.stall_sys (w : Wait) : (s.stall w).sys = s.sys := rfl
@[simp] theorem State.stall_fab (w : Wait) : (s.stall w).fab = s.fab := rfl

@[simp] theorem State.unstall_cur (t : Nat) : (s.unstall t).cur = s.cur := rfl
@[simp] theorem State.unstall_agenda (t : Nat) : (s.unstall t).agenda = s.agenda := rfl
@[simp] theorem State.unstall_trap (t : Nat) : (s.unstall t).trap = s.trap := rfl
@[simp] theorem State.unstall_free (t : Nat) : (s.unstall t).free = s.free := rfl
@[simp] theorem State.unstall_nextAct (t : Nat) : (s.unstall t).nextAct = s.nextAct := rfl
@[simp] theorem State.unstall_pace (t : Nat) : (s.unstall t).pace = s.pace := rfl
@[simp] theorem State.unstall_cycle (t : Nat) : (s.unstall t).cycle = s.cycle := rfl
@[simp] theorem State.unstall_owners (t : Nat) : (s.unstall t).owners = s.owners := rfl
@[simp] theorem State.unstall_blocks (t : Nat) : (s.unstall t).blocks = s.blocks := rfl
@[simp] theorem State.unstall_clusters (t : Nat) : (s.unstall t).clusters = s.clusters := rfl
@[simp] theorem State.unstall_dies (t : Nat) : (s.unstall t).dies = s.dies := rfl
@[simp] theorem State.unstall_mem (t : Nat) : (s.unstall t).mem = s.mem := rfl
@[simp] theorem State.unstall_flight (t : Nat) : (s.unstall t).flight = s.flight := rfl
@[simp] theorem State.unstall_sys (t : Nat) : (s.unstall t).sys = s.sys := rfl
@[simp] theorem State.unstall_fab (t : Nat) : (s.unstall t).fab = s.fab := rfl

@[simp] theorem State.takeFree_cur : s.takeFree.2.cur = s.cur := rfl
@[simp] theorem State.takeFree_agenda : s.takeFree.2.agenda = s.agenda := rfl
@[simp] theorem State.takeFree_trap : s.takeFree.2.trap = s.trap := rfl
@[simp] theorem State.takeFree_nextAct : s.takeFree.2.nextAct = s.nextAct := rfl
@[simp] theorem State.takeFree_pace : s.takeFree.2.pace = s.pace := rfl
@[simp] theorem State.takeFree_cycle : s.takeFree.2.cycle = s.cycle := rfl
@[simp] theorem State.takeFree_threads : s.takeFree.2.threads = s.threads := rfl
@[simp] theorem State.takeFree_owners : s.takeFree.2.owners = s.owners := rfl
@[simp] theorem State.takeFree_blocks : s.takeFree.2.blocks = s.blocks := rfl
@[simp] theorem State.takeFree_clusters : s.takeFree.2.clusters = s.clusters := rfl
@[simp] theorem State.takeFree_dies : s.takeFree.2.dies = s.dies := rfl
@[simp] theorem State.takeFree_mem : s.takeFree.2.mem = s.mem := rfl
@[simp] theorem State.takeFree_flight : s.takeFree.2.flight = s.flight := rfl
@[simp] theorem State.takeFree_sys : s.takeFree.2.sys = s.sys := rfl
@[simp] theorem State.takeFree_fab : s.takeFree.2.fab = s.fab := rfl
@[simp] theorem State.takeFree_free : s.takeFree.2.free = s.free + 1 := rfl
@[simp] theorem State.takeFree_value : s.takeFree.1 = Config.freeValue s.free := rfl

@[simp] theorem State.orFlags_cur (w : BitVec 5) : (s.orFlags w).cur = s.cur := by
  unfold State.orFlags; split <;> rfl
@[simp] theorem State.orFlags_agenda (w : BitVec 5) : (s.orFlags w).agenda = s.agenda := by
  unfold State.orFlags; split <;> rfl
@[simp] theorem State.orFlags_trap (w : BitVec 5) : (s.orFlags w).trap = s.trap := by
  unfold State.orFlags; split <;> rfl
@[simp] theorem State.orFlags_free (w : BitVec 5) : (s.orFlags w).free = s.free := by
  unfold State.orFlags; split <;> rfl
@[simp] theorem State.orFlags_nextAct (w : BitVec 5) : (s.orFlags w).nextAct = s.nextAct := by
  unfold State.orFlags; split <;> rfl
@[simp] theorem State.orFlags_pace (w : BitVec 5) : (s.orFlags w).pace = s.pace := by
  unfold State.orFlags; split <;> rfl
@[simp] theorem State.orFlags_cycle (w : BitVec 5) : (s.orFlags w).cycle = s.cycle := by
  unfold State.orFlags; split <;> rfl
@[simp] theorem State.orFlags_owners (w : BitVec 5) : (s.orFlags w).owners = s.owners := by
  unfold State.orFlags; split <;> rfl
@[simp] theorem State.orFlags_blocks (w : BitVec 5) : (s.orFlags w).blocks = s.blocks := by
  unfold State.orFlags; split <;> rfl
@[simp] theorem State.orFlags_clusters (w : BitVec 5) : (s.orFlags w).clusters = s.clusters := by
  unfold State.orFlags; split <;> rfl
@[simp] theorem State.orFlags_dies (w : BitVec 5) : (s.orFlags w).dies = s.dies := by
  unfold State.orFlags; split <;> rfl
@[simp] theorem State.orFlags_mem (w : BitVec 5) : (s.orFlags w).mem = s.mem := by
  unfold State.orFlags; split <;> rfl
@[simp] theorem State.orFlags_flight (w : BitVec 5) : (s.orFlags w).flight = s.flight := by
  unfold State.orFlags; split <;> rfl
@[simp] theorem State.orFlags_sys (w : BitVec 5) : (s.orFlags w).sys = s.sys := by
  unfold State.orFlags; split <;> rfl
@[simp] theorem State.orFlags_fab (w : BitVec 5) : (s.orFlags w).fab = s.fab := by
  unfold State.orFlags; split <;> rfl

end Sys2Proof.Machine
end

