-- ==== Sys2Proof/Laws/Regs.lean ====
section
/-! SUPPORT. The laws of threads and registers: what a register holds after a write, and all that retiring, jumping
and writing a register can do. -/

namespace Sys2Proof.Machine

/-! ## Threads -/

theorem State.th_setTh (s : State) (t u : Nat) (x : Thread) :
    (s.setTh t x).th u = if u = t then x else s.th u := Map.get_put ({} : Thread) s.threads t u x

theorem State.th_modTh (s : State) (t u : Nat) (f : Thread → Thread) :
    (s.modTh t f).th u = if u = t then f (s.th t) else s.th u := State.th_setTh s t u _

@[simp] theorem State.me_modMe (s : State) (f : Thread → Thread) : (s.modMe f).me = f s.me := by
  show (s.modMe f).th s.cur = _
  unfold State.modMe; rw [State.th_modTh, if_pos rfl]; rfl

theorem State.th_modMe_ne (s : State) (f : Thread → Thread) {u : Nat} (h : u ≠ s.cur) :
    (s.modMe f).th u = s.th u := by unfold State.modMe; rw [State.th_modTh, if_neg h]

@[simp] theorem State.modMe_modMe (s : State) (f g : Thread → Thread) :
    (s.modMe f).modMe g = s.modMe fun x => g (f x) := by
  have hm := State.me_modMe s f
  have put2 : ∀ (m : Map Thread) (i : Nat) (x y : Thread), Map.put (Map.put m i x) i y = Map.put m i y := by
    intro m i x y
    induction m with
    | nil => simp [Map.put]
    | cons e m ih =>
      obtain ⟨k, v⟩ := e
      simp only [Map.put]
      split
      · simp [Map.put]
      · split
        · simp [Map.put]
        · simp [Map.put, *]
  show ({ (s.modMe f) with threads := Map.put (Map.put s.threads s.cur (f s.me)) s.cur (g (s.modMe f).me) } : State) = _
  rw [put2, hm]; rfl

theorem State.block_setBlock (s : State) (b c : Nat) (x : Block) :
    (s.setBlock b x).block c = if c = b then x else s.block c := Map.get_put ({} : Block) s.blocks b c x
theorem State.block_modBlock (s : State) (b c : Nat) (f : Block → Block) :
    (s.modBlock b f).block c = if c = b then f (s.block b) else s.block c := State.block_setBlock s b c _
theorem State.cluster_modCluster (s : State) (b c : Nat) (f : Cluster → Cluster) :
    (s.modCluster b f).cluster c = if c = b then f (s.cluster b) else s.cluster c :=
  Map.get_put ({} : Cluster) s.clusters b c (f (s.cluster b))
theorem State.owner_modOwner (s : State) (b c : Nat) (f : Owner → Owner) :
    (s.modOwner b f).owner c = if c = b then f (s.owner b) else s.owner c :=
  Map.get_put ({} : Owner) s.owners b c (f (s.owner b))
theorem State.die_modDie (s : State) (b c : Nat) (f : Die → Die) :
    (s.modDie b f).die c = if c = b then f (s.die b) else s.die c := Map.get_put ({} : Die) s.dies b c (f (s.die b))

/-- A change of the running thread is a change of nothing else. -/
theorem OnlyThread.modMe (s : State) (f : Thread → Thread) : OnlyThread s (s.modMe f) :=
  ⟨fun _ h => State.th_modMe_ne s f h, rfl, fun _ => rfl⟩

/-! ## Registers -/

theorem Thread.reg_setG (x : Thread) (d : GReg) (w : Word) (r : GReg) :
    (x.setG d w).reg r = if r = d ∧ r ≠ 0 then w else x.reg r := by
  have ne : ∀ {a b : GReg}, a ≠ b → a.toNat ≠ b.toNat := fun h e => h (BitVec.eq_of_toNat_eq e)
  unfold Thread.setG
  by_cases hd : d = 0
  · rw [if_pos hd, if_neg (fun h : r = d ∧ r ≠ 0 => h.2 (h.1.trans hd))]
  · rw [if_neg hd]
    by_cases hr : r = 0
    · subst hr
      rw [if_neg (fun h : (0 : GReg) = d ∧ (0 : GReg) ≠ 0 => h.2 rfl)]
      split <;> rfl
    · by_cases hm : x.mode = .monitor
      · rw [if_pos hm]
        unfold Thread.reg
        rw [if_neg hr, if_neg hr, if_pos hm, if_pos hm, Map.get_set]
        by_cases h : r = d
        · rw [if_pos (congrArg _ h), if_pos ⟨h, hr⟩]
        · rw [if_neg (ne h), if_neg (fun e : r = d ∧ r ≠ 0 => h e.1)]
      · rw [if_neg hm]
        unfold Thread.reg
        rw [if_neg hr, if_neg hr, if_neg hm, if_neg hm, Map.get_set]
        by_cases h : r = d
        · rw [if_pos (congrArg _ h), if_pos ⟨h, hr⟩]
        · rw [if_neg (ne h), if_neg (fun e : r = d ∧ r ≠ 0 => h e.1)]

/-- With no pair under way an instruction reads what the register holds. -/
theorem Thread.g_eq_reg (x : Thread) (h : x.view = none) (r : GReg) : x.g r = x.reg r := by
  simp [Thread.g, Thread.reg, h]

@[simp] theorem Thread.setG_mode (x : Thread) (d : GReg) (w : Word) : (x.setG d w).mode = x.mode := by
  unfold Thread.setG
  split
  · rfl
  · split <;> rfl
@[simp] theorem Thread.setG_serve (x : Thread) (d : GReg) (w : Word) : (x.setG d w).serve = x.serve := by
  unfold Thread.setG
  split
  · rfl
  · split <;> rfl
@[simp] theorem Thread.setG_v (x : Thread) (d : GReg) (w : Word) : (x.setG d w).act.v = x.act.v := by
  unfold Thread.setG
  split
  · rfl
  · split <;> rfl
@[simp] theorem Thread.setG_vErr (x : Thread) (d : GReg) (w : Word) : (x.setG d w).act.vErr = x.act.vErr := by
  unfold Thread.setG
  split
  · rfl
  · split <;> rfl
@[simp] theorem Thread.setG_flags (x : Thread) (d : GReg) (w : Word) : (x.setG d w).act.flags = x.act.flags := by
  unfold Thread.setG
  split
  · rfl
  · split <;> rfl
@[simp] theorem Thread.setG_pc (x : Thread) (d : GReg) (w : Word) : (x.setG d w).act.pc = x.act.pc := by
  unfold Thread.setG
  split
  · rfl
  · split <;> rfl
@[simp] theorem Thread.setG_loops (x : Thread) (d : GReg) (w : Word) : (x.setG d w).loops = x.loops := by
  by_cases hd : d = 0
  · simp only [Thread.setG, hd, if_true]
  · by_cases hm : x.mode = .monitor <;> simp only [Thread.setG, Thread.loops, hd, hm, if_true, if_false]
@[simp] theorem Thread.setG_retired (x : Thread) (t : Nat) (d : GReg) (w : Word) :
    (x.setG d w).retired t = x.retired t := by
  by_cases hd : d = 0
  · simp only [Thread.setG, hd, if_true]
  · by_cases hm : x.mode = .monitor <;> simp only [Thread.setG, Thread.retired, hd, hm, if_true, if_false]
@[simp] theorem Thread.setG_rest (x : Thread) (t : Nat) (d : GReg) (w : Word) : (x.setG d w).rest t = x.rest t := by
  by_cases hd : d = 0
  · simp only [Thread.setG, hd, if_true]
  · by_cases hm : x.mode = .monitor <;> simp only [Thread.setG, Thread.rest, hd, hm, if_true, if_false]
theorem Thread.setG_marks (x : Thread) (d : GReg) (w : Word) :
    (x.setG d w).marks = if d = 0 then x.marks else x.marks &&& ~~~(1#32 <<< d.toNat) := by
  by_cases hd : d = 0
  · simp only [Thread.setG, hd, if_true]
  · by_cases hm : x.mode = .monitor <;> simp only [Thread.setG, Thread.marks, hd, hm, if_true, if_false]

@[simp] theorem Thread.setG_vBad (x : Thread) (d : GReg) (w : Word) : (x.setG d w).act.vBad = x.act.vBad := by
  unfold Thread.setG
  split
  · rfl
  · split <;> rfl
theorem Thread.setG_struck (x : Thread) (d : GReg) (w : Word) :
    (x.setG d w).struck = if d = 0 then x.struck else x.struck &&& ~~~(1#32 <<< d.toNat) := by
  by_cases hd : d = 0
  · simp only [Thread.setG, hd, if_true]
  · by_cases hm : x.mode = .monitor <;> simp only [Thread.setG, Thread.struck, hd, hm, if_true, if_false]

/-! ## What stays as control moves on -/

/-- Sets the pc and the loop stack and counts a retirement. -/
def Thread.goOn (t : Nat) (pc : Word) (ls : List Loop) (x : Thread) : Thread := ((x.setLoops ls).setPc pc).count t

@[simp] theorem Thread.goOn_pc (x : Thread) (t : Nat) (pc : Word) (ls : List Loop) : (x.goOn t pc ls).act.pc = pc := by
  by_cases ht : isAct t = true <;> by_cases hm : x.mode = .monitor <;>
    simp only [Thread.goOn, Thread.count, Thread.setPc, Thread.setLoops, ht, hm, if_true, if_false, Bool.not_true, Bool.not_false, Bool.false_eq_true]
@[simp] theorem Thread.goOn_mode (x : Thread) (t : Nat) (pc : Word) (ls : List Loop) : (x.goOn t pc ls).mode = x.mode := by
  by_cases ht : isAct t = true <;> by_cases hm : x.mode = .monitor <;>
    simp only [Thread.goOn, Thread.count, Thread.setPc, Thread.setLoops, ht, hm, if_true, if_false, Bool.not_true, Bool.not_false, Bool.false_eq_true]
@[simp] theorem Thread.goOn_loops (x : Thread) (t : Nat) (pc : Word) (ls : List Loop) : (x.goOn t pc ls).loops = ls := by
  by_cases ht : isAct t = true <;> by_cases hm : x.mode = .monitor <;>
    simp only [Thread.goOn, Thread.count, Thread.setPc, Thread.setLoops, Thread.loops, ht, hm, if_true, if_false, Bool.not_true, Bool.not_false, Bool.false_eq_true]
@[simp] theorem Thread.goOn_reg (x : Thread) (t : Nat) (pc : Word) (ls : List Loop) (r : GReg) :
    (x.goOn t pc ls).reg r = x.reg r := by
  by_cases ht : isAct t = true <;> by_cases hm : x.mode = .monitor <;>
    simp only [Thread.goOn, Thread.count, Thread.setPc, Thread.setLoops, Thread.reg, ht, hm, if_true, if_false, Bool.not_true, Bool.not_false, Bool.false_eq_true]
@[simp] theorem Thread.goOn_v (x : Thread) (t : Nat) (pc : Word) (ls : List Loop) : (x.goOn t pc ls).act.v = x.act.v := by
  by_cases ht : isAct t = true <;> by_cases hm : x.mode = .monitor <;>
    simp only [Thread.goOn, Thread.count, Thread.setPc, Thread.setLoops, ht, hm, if_true, if_false, Bool.not_true, Bool.not_false, Bool.false_eq_true]
@[simp] theorem Thread.goOn_vErr (x : Thread) (t : Nat) (pc : Word) (ls : List Loop) :
    (x.goOn t pc ls).act.vErr = x.act.vErr := by
  by_cases ht : isAct t = true <;> by_cases hm : x.mode = .monitor <;>
    simp only [Thread.goOn, Thread.count, Thread.setPc, Thread.setLoops, ht, hm, if_true, if_false, Bool.not_true, Bool.not_false, Bool.false_eq_true]
@[simp] theorem Thread.goOn_flags (x : Thread) (t : Nat) (pc : Word) (ls : List Loop) :
    (x.goOn t pc ls).act.flags = x.act.flags := by
  by_cases ht : isAct t = true <;> by_cases hm : x.mode = .monitor <;>
    simp only [Thread.goOn, Thread.count, Thread.setPc, Thread.setLoops, ht, hm, if_true, if_false, Bool.not_true, Bool.not_false, Bool.false_eq_true]
@[simp] theorem Thread.goOn_marks (x : Thread) (t : Nat) (pc : Word) (ls : List Loop) :
    (x.goOn t pc ls).marks = x.marks := by
  by_cases ht : isAct t = true <;> by_cases hm : x.mode = .monitor <;>
    simp only [Thread.goOn, Thread.count, Thread.setPc, Thread.setLoops, Thread.marks, ht, hm, if_true, if_false, Bool.not_true, Bool.not_false, Bool.false_eq_true]
@[simp] theorem Thread.goOn_struck (x : Thread) (t : Nat) (pc : Word) (ls : List Loop) :
    (x.goOn t pc ls).struck = x.struck := by
  by_cases ht : isAct t = true <;> by_cases hm : x.mode = .monitor <;>
    simp only [Thread.goOn, Thread.count, Thread.setPc, Thread.setLoops, Thread.struck, ht, hm, if_true, if_false, Bool.not_true, Bool.not_false, Bool.false_eq_true]
@[simp] theorem Thread.goOn_vBad (x : Thread) (t : Nat) (pc : Word) (ls : List Loop) :
    (x.goOn t pc ls).act.vBad = x.act.vBad := by
  by_cases ht : isAct t = true <;> by_cases hm : x.mode = .monitor <;>
    simp only [Thread.goOn, Thread.count, Thread.setPc, Thread.setLoops, ht, hm, if_true, if_false, Bool.not_true, Bool.not_false, Bool.false_eq_true]
theorem Thread.goOn_retired (x : Thread) (t : Nat) (pc : Word) (ls : List Loop) (h : isAct t = true ∨ x.serve.isSome) :
    (x.goOn t pc ls).retired t = x.retired t + 1 := by
  unfold Thread.goOn Thread.count Thread.setPc Thread.setLoops Thread.retired
  by_cases ht : isAct t = true
  · by_cases hm : x.mode = .monitor <;> simp [ht, hm]
  · have hs := h.resolve_left ht
    obtain ⟨v, hv⟩ := Option.isSome_iff_exists.mp hs
    by_cases hm : x.mode = .monitor <;> simp [ht, hm, hv]
@[simp] theorem Thread.goOn_rest (x : Thread) (t : Nat) (pc : Word) (ls : List Loop) :
    (x.goOn t pc ls).rest t = x.rest t := by
  by_cases ht : isAct t = true <;> by_cases hm : x.mode = .monitor <;>
    simp only [Thread.goOn, Thread.count, Thread.setPc, Thread.setLoops, Thread.rest, ht, hm, if_true, if_false,
      Bool.not_true, Bool.not_false, Bool.false_eq_true, Option.map_map, Function.comp_def]

/-! ## Retiring -/

theorem State.retire_eq (s : State) :
    s.retire = s.modMe (Thread.goOn s.cur s.fallPc (loopFall s.here.1 s.here.2 s.me.loops).1) := by
  unfold State.retire Thread.goOn State.fallPc State.here State.modMe State.modTh State.me; rfl

theorem State.jumpTo_eq (s : State) (lin : Nat) :
    s.jumpTo lin = s.modMe (Thread.goOn s.cur (codeAddr s.here.1 lin) (popTo s.here.1 lin s.me.loops)) := by
  unfold State.jumpTo Thread.goOn State.here State.modMe State.modTh State.me; rfl

/-- All that writing registers by f and going on at a pc does: what f leaves alone stays. -/
theorem Goes.modMe (s : State) (pc : Word) (ls : List Loop) (f : Thread → Thread)
    (hr : ∀ x t, (f x).rest t = x.rest t) (hs : ∀ x, (f x).serve = x.serve)
    (hc : ∀ x t, (f x).retired t = x.retired t) :
    Goes s (s.modMe fun x => Thread.goOn s.cur pc ls (f x)) pc ls where
  toOnlyThread := OnlyThread.modMe s fun x => Thread.goOn s.cur pc ls (f x)
  at' := by rw [State.me_modMe, Thread.goOn_pc]
  stack := by rw [State.me_modMe, Thread.goOn_loops]
  counted := fun h => by
    have h' : isAct s.cur = true ∨ (f s.me).serve.isSome := by rw [hs]; exact h
    rw [State.me_modMe, Thread.goOn_retired (f s.me) s.cur pc ls h', hc]
  rest := by rw [State.me_modMe, Thread.goOn_rest, hr]

theorem KeepsRegs.goOn (s : State) (pc : Word) (ls : List Loop) : KeepsRegs s (s.modMe (Thread.goOn s.cur pc ls)) where
  g := fun r => by unfold State.reg; rw [State.me_modMe, Thread.goOn_reg]
  v := fun r => by unfold State.vreg; rw [State.me_modMe, Thread.goOn_v]
  marks := by rw [State.me_modMe, Thread.goOn_marks]
  vmarks := by rw [State.me_modMe, Thread.goOn_vErr]
  struck := by rw [State.me_modMe, Thread.goOn_struck]
  vstruck := by rw [State.me_modMe, Thread.goOn_vBad]
  flags := by rw [State.me_modMe, Thread.goOn_flags]

/-- All that retiring does: control falls through, and no register changes. -/
theorem State.retire_spec (s : State) : FallsThrough s s.retire ∧ KeepsRegs s s.retire := by
  rw [State.retire_eq]
  exact ⟨Goes.modMe s _ _ (fun x => x) (fun _ _ => rfl) (fun _ => rfl) (fun _ _ => rfl), KeepsRegs.goOn s _ _⟩

/-- All that a taken transfer does. -/
theorem State.jumpTo_spec (s : State) (lin : Nat) : Jumps s (s.jumpTo lin) lin ∧ KeepsRegs s (s.jumpTo lin) := by
  rw [State.jumpTo_eq]
  exact ⟨Goes.modMe s _ _ (fun x => x) (fun _ _ => rfl) (fun _ => rfl) (fun _ _ => rfl), KeepsRegs.goOn s _ _⟩

/-- Retiring after a change of registers that leaves pc and loops. -/
theorem State.modMe_retire (s : State) (f : Thread → Thread) (hp : ∀ x, (f x).act.pc = x.act.pc)
    (hl : ∀ x, (f x).loops = x.loops) :
    (s.modMe f).retire =
      s.modMe fun x => Thread.goOn s.cur s.fallPc (loopFall s.here.1 s.here.2 s.me.loops).1 (f x) := by
  have h1 := State.me_modMe s f
  have hh : (s.modMe f).here = s.here := by unfold State.here; rw [h1, hp]
  have hl' : (s.modMe f).me.loops = s.me.loops := by rw [h1, hl]
  have hf : (s.modMe f).fallPc = s.fallPc := by unfold State.fallPc; rw [hh, hl']
  rw [State.retire_eq, hh, hl', hf, State.modMe_cur, State.modMe_modMe]

/-- All that writing a g register and retiring does. -/
theorem State.writeRetire_spec (s : State) (d : GReg) (w : Word) :
    FallsThrough s (s.writeRetire d w) ∧ SetsG s (s.writeRetire d w) d w 0 := by
  have e : s.writeRetire d w = s.modMe fun x =>
      Thread.goOn s.cur s.fallPc (loopFall s.here.1 s.here.2 s.me.loops).1 (x.setG d w) := by
    unfold State.writeRetire State.setG
    exact State.modMe_retire s _ (fun x => Thread.setG_pc x d w) (fun x => Thread.setG_loops x d w)
  rw [e]
  refine ⟨Goes.modMe s _ _ (fun x => x.setG d w) (fun x t => Thread.setG_rest x t d w) (fun x => Thread.setG_serve x d w)
    (fun x t => Thread.setG_retired x t d w), ?_, ?_, ?_, ?_, ?_, ?_, ?_⟩
  · intro r; unfold State.reg; rw [State.me_modMe, Thread.goOn_reg, Thread.reg_setG]
  · intro r; unfold State.vreg; rw [State.me_modMe, Thread.goOn_v, Thread.setG_v]
  · rw [State.me_modMe, Thread.goOn_marks, Thread.setG_marks]
  · rw [State.me_modMe, Thread.goOn_vErr, Thread.setG_vErr]
  · rw [State.me_modMe, Thread.goOn_struck, Thread.setG_struck]
  · rw [State.me_modMe, Thread.goOn_vBad, Thread.setG_vBad]
  · rw [State.me_modMe, Thread.goOn_flags, Thread.setG_flags]; split <;> simp

end Sys2Proof.Machine
end

