-- ==== Sys2Proof/Laws/Exception.lean ====
section
/-! SUPPORT. The laws of exceptions: which of its four ways a fault takes, and that taking a fault, ending an
activation and reporting it leave memory alone. -/

namespace Sys2Proof.Machine

/-! ## The four ways of a fault (R213, R391, R392, R165) -/

/-- In a service thread the routine is abandoned. -/
theorem State.takeFault_service (s : State) (tr : Trap) (h : isAct s.cur = false) :
    s.takeFault tr = ({ s with trap := some tr } : State).abandon s.cur tr.code := by
  unfold State.takeFault
  dsimp only
  rw [if_pos (by rw [h]; rfl)]

/-- In monitor mode it is a double fault. -/
theorem State.takeFault_monitor (s : State) (tr : Trap) (h : isAct s.cur = true) (hm : s.me.mode = .monitor) :
    s.takeFault tr = ({ s with trap := some tr } : State).doubleFault s.cur tr.code tr.val := by
  have hm' : (s.th s.cur).mode = .monitor := hm
  unfold State.takeFault
  dsimp only
  rw [if_neg (by rw [h]; decide), if_pos hm']

/-- In context mode, where no replay answers it, the monitor is entered. -/
theorem State.takeFault_context (s : State) (tr : Trap) (h : isAct s.cur = true) (hm : s.me.mode = .context)
    (hr : (tr.code = 0x16 ∨ tr.code = 0x0A) → s.replayable s.me.act = false) :
    s.takeFault tr = ({ s with trap := some tr } : State).monitorEntry s.cur tr := by
  have hm' : (s.th s.cur).mode = .context := hm
  have hc : ¬((tr.code = 0x16 ∨ tr.code = 0x0A) ∧
      ({ s with trap := some tr } : State).replayable (s.th s.cur).act = true) := by
    rintro ⟨hcode, hrep⟩
    have : ({ s with trap := some tr } : State).replayable (s.th s.cur).act = s.replayable s.me.act := rfl
    rw [this, hr hcode] at hrep
    cases hrep
  unfold State.takeFault
  dsimp only
  rw [if_neg (by rw [h]; decide), if_neg (by rw [hm']; decide), if_neg hc]

/-! ## Memory stays -/

@[simp] theorem State.dropGrant_mem (s : State) (t : Nat) : (s.dropGrant t).mem = s.mem := by
  unfold State.dropGrant; dsimp only; split <;> rfl
@[simp] theorem State.disown_mem (s : State) (t : Nat) : (s.disown t).mem = s.mem := rfl
@[simp] theorem State.leaveBars_mem (s : State) (t : Nat) : (s.leaveBars t).mem = s.mem := rfl
@[simp] theorem State.uncount_mem (s : State) (b : Nat) (a : Act) : (s.uncount b a).mem = s.mem := by
  unfold State.uncount; dsimp only; split <;> rfl
@[simp] theorem State.freeThread_mem (s : State) (t : Nat) : (s.freeThread t).mem = s.mem := by
  unfold State.freeThread; simp
@[simp] theorem State.logRecorded_mem (s : State) (t : Nat) (a : Act) : (s.logRecorded t a).mem = s.mem := by
  unfold State.logRecorded
  dsimp only
  repeat' split
  all_goals simp
@[simp] theorem State.report_mem (s : State) (cl : Nat) (pid : BitVec 16) (r : Word) (ws : List Word) (o : Origin) :
    (s.report cl pid r ws o).mem = s.mem := by
  unfold State.report; split <;> simp
@[simp] theorem State.reportTo_mem (s : State) (l : Launch) (ws : List Word) (f : Bool) :
    (s.reportTo l ws f).mem = s.mem := by unfold State.reportTo; simp
@[simp] theorem State.errorReport_mem (s : State) (t : Nat) (a : Act) (c : Byte) (e v : Word) :
    (s.errorReport t a c e v).mem = s.mem := by
  unfold State.errorReport; split <;> simp

/-- A fold of steps that leave memory alone leaves it alone. -/
theorem State.foldl_mem {β : Type} (f : State → β → State) (hf : ∀ s b, (f s b).mem = s.mem) :
    ∀ (l : List β) (s : State), (l.foldl f s).mem = s.mem
  | [], _ => rfl
  | b :: l, s => by rw [List.foldl_cons, State.foldl_mem f hf l, hf]

@[simp] theorem State.dropDisplaced_mem (s : State) (p : Act → Bool) : (s.dropDisplaced p).mem = s.mem := by
  unfold State.dropDisplaced
  dsimp only
  rw [State.eachBlock_mem]
  exact State.foldl_mem _ (fun s (e : Nat × Act) => State.uncount_mem s e.1 e.2) _ _
@[simp] theorem State.dropOwed_mem (s : State) (p : Owed → Bool) : (s.dropOwed p).mem = s.mem := by
  unfold State.dropOwed
  dsimp only
  rw [State.foldl_mem _ (fun s (o : Owed) => State.modLaunch_mem s o.launch _)]
@[simp] theorem State.dropMessages_mem (s : State) (team : Word × Word) : (s.dropMessages team).mem = s.mem := by
  unfold State.dropMessages
  dsimp only
  rw [State.modLaunch_mem, State.eachBlock_mem]
  exact State.foldl_mem _ (fun s m => State.modBlock_mem s _ _) _ _
@[simp] theorem State.stopLaunch_mem (s : State) (id : Word) : (s.stopLaunch id).mem = s.mem := by
  unfold State.stopLaunch
  dsimp only
  rw [State.modLaunch_mem, State.foldl_mem _ (fun s t => State.freeThread_mem s t), State.dropOwed_mem, State.dropDisplaced_mem,
    State.eachBlock_mem]
  exact State.foldl_mem _ (fun s m => State.modBlock_mem s _ _) _ _
@[simp] theorem State.stopOnError_mem (s : State) (launch : Word) : (s.stopOnError launch).mem = s.mem := by
  unfold State.stopOnError
  split
  · split
    · exact State.stopLaunch_mem s _
    · rfl
  · rfl
@[simp] theorem State.endFaulted_mem (s : State) (t : Nat) (c : Byte) (e v : Word) :
    (s.endFaulted t c e v).mem = s.mem := by
  unfold State.endFaulted
  dsimp only
  rw [State.stopOnError_mem]
  split
  · simp
  · rw [State.eachBlock_mem, State.dropMessages_mem, State.dropOwed_mem, State.dropDisplaced_mem,
      State.foldl_mem _ (fun s t => State.freeThread_mem s t)]
    simp
@[simp] theorem State.doubleFault_mem (s : State) (t : Nat) (c : Byte) (v : Word) :
    (s.doubleFault t c v).mem = s.mem := by unfold State.doubleFault; simp
@[simp] theorem State.monitorEntry_mem (s : State) (t : Nat) (tr : Trap) : (s.monitorEntry t tr).mem = s.mem := by
  unfold State.monitorEntry
  dsimp only
  split <;> simp
@[simp] theorem State.turnOf_mem (s : State) (o : Nat) : (s.turnOf o).mem = s.mem := by
  unfold State.turnOf; split <;> rfl
@[simp] theorem State.abandon_mem (s : State) (t : Nat) (c : Byte) : (s.abandon t c).mem = s.mem := by
  unfold State.abandon; split <;> simp

@[simp] theorem State.awaitReplay_mem (s : State) (t : Nat) (c : Byte) (v : Word) :
    (s.awaitReplay t c v).mem = s.mem := by unfold State.awaitReplay; simp

/-- Taking a fault leaves every byte of memory alone. -/
@[simp] theorem State.takeFault_mem (s : State) (tr : Trap) : (s.takeFault tr).mem = s.mem := by
  unfold State.takeFault
  dsimp only
  repeat' split
  all_goals simp

end Sys2Proof.Machine
end

