-- ==== Sys2Proof/Laws/Mem.lean ====
section
/-! SUPPORT. The laws of memory: a byte reads what was last written to it, and every operation over memory keeps
the canonical form of the bytes. -/

namespace Sys2Proof.Machine

/-! ## Reading after writing -/

theorem Mem.byte_setByte (m : Mem) (a b : Nat) (x : Byte) :
    (m.setByte a x).byte b = if b = a then x else m.byte b := Map.get_set 0 m.bytes a b x

@[simp] theorem Mem.byte_setTag (m : Mem) (w a : Nat) (b : Bool) : (m.setTag w b).byte a = m.byte a := rfl
@[simp] theorem Mem.byte_setBad (m : Mem) (w a : Nat) (b : Bool) : (m.setBad w b).byte a = m.byte a := rfl
@[simp] theorem Mem.byte_setStamp (m : Mem) (w a k : Nat) : (m.setStamp w k).byte a = m.byte a := rfl
theorem Mem.tag_setTag (m : Mem) (w v : Nat) (b : Bool) :
    (m.setTag w b).tag v = if v = w then b else m.tag v := Map.get_set false m.full w v b
theorem Mem.bad_setBad (m : Mem) (w v : Nat) (b : Bool) :
    (m.setBad w b).bad v = if v = w then b else m.bad v := Map.get_set false m.poison w v b
theorem Mem.stamp_setStamp (m : Mem) (w v k : Nat) :
    (m.setStamp w k).stamp v = if v = w then k else m.stamp v := Map.get_set 0 m.keys w v k

/-- A write leaves the bytes outside it alone. -/
theorem Mem.byte_write_outside (m : Mem) (a n x b : Nat) (h : b < a ∨ a + n ≤ b) :
    (m.write a n x).byte b = m.byte b := by
  induction n generalizing m a x with
  | zero => rfl
  | succ n ih =>
    rw [Mem.write, ih _ _ _ (by omega), Mem.byte_setByte, if_neg (by omega)]

/-- A write puts the bytes of its number, the lowest first. -/
theorem Mem.byte_write_inside (m : Mem) (a n x i : Nat) (h : i < n) :
    (m.write a n x).byte (a + i) = BitVec.ofNat 8 (x / 256 ^ i) := by
  induction n generalizing m a x i with
  | zero => omega
  | succ n ih =>
    rw [Mem.write]
    cases i with
    | zero => rw [Mem.byte_write_outside _ _ _ _ _ (by omega), Mem.byte_setByte]; simp
    | succ i =>
      have := ih (m.setByte a (BitVec.ofNat 8 x)) (a + 1) (x / 256) i (by omega)
      rw [show a + (i + 1) = a + 1 + i by omega, this, Nat.pow_succ, Nat.div_div_eq_div_mul, Nat.mul_comm]

/-- What was written is read back. -/
theorem Mem.read_write (m : Mem) (a n x : Nat) : (m.write a n x).read a n = x % 256 ^ n := by
  have gen : ∀ (n a x : Nat) (m : Mem), (∀ i, i < n → m.byte (a + i) = BitVec.ofNat 8 (x / 256 ^ i)) →
      m.read a n = x % 256 ^ n := by
    intro n
    induction n with
    | zero => intros; simp [Mem.read, Nat.mod_one]
    | succ n ih =>
      intro a x m h
      have h0 := h 0 (by omega)
      have hs := ih (a + 1) (x / 256) m fun i hi => by
        rw [show a + 1 + i = a + (i + 1) by omega, h (i + 1) (by omega), Nat.pow_succ, Nat.div_div_eq_div_mul, Nat.mul_comm]
      simp only [Nat.add_zero, Nat.pow_zero, Nat.div_one] at h0
      rw [Mem.read, hs, h0, Nat.pow_succ, Nat.mul_comm (256 ^ n) 256, Nat.mod_mul]
      simp
  exact gen n a x _ fun i hi => Mem.byte_write_inside m a n x i hi

/-- A read sees only the bytes it covers. -/
theorem Mem.read_congr {m m' : Mem} (a n : Nat) (h : ∀ b, a ≤ b → b < a + n → m.byte b = m'.byte b) :
    m.read a n = m'.read a n := by
  induction n generalizing a with
  | zero => rfl
  | succ n ih => rw [Mem.read, Mem.read, h a (by omega) (by omega), ih _ fun b hb hb' => h b (by omega) (by omega)]

theorem Mem.word_setWord (m : Mem) (w v : Nat) (x : Word) :
    (m.setWord w x).word v = if v = w then x else m.word v := by
  by_cases h : v = w
  · subst h
    rw [if_pos rfl, Mem.word, Mem.setWord, Mem.read_write, Nat.mod_eq_of_lt (by have := x.isLt; omega)]
    simp
  · rw [if_neg h, Mem.word, Mem.word, Mem.setWord]
    rw [Mem.read_congr (m' := m) _ _ fun b hb hb' => Mem.byte_write_outside _ _ _ _ _ (by omega)]

/-! ## The canonical form is kept -/

theorem Mem.wf_of_bytes {m m' : Mem} (h : m'.bytes = m.bytes) : m.wf → m'.wf := fun hm => by
  unfold Mem.wf; rw [h]; exact hm

theorem Mem.wf_setByte {m : Mem} (a : Nat) (x : Byte) (h : m.wf) : (m.setByte a x).wf := Map.wf_set 0 a x h

theorem Mem.wf_write {m : Mem} (a n x : Nat) (h : m.wf) : (m.write a n x).wf := by
  induction n generalizing m a x with
  | zero => exact h
  | succ n ih => exact ih _ _ (Mem.wf_setByte a _ h)

theorem Mem.wf_setWord {m : Mem} (w : Nat) (x : Word) (h : m.wf) : (m.setWord w x).wf := Mem.wf_write _ _ _ h
theorem Mem.wf_setTag {m : Mem} (w : Nat) (b : Bool) (h : m.wf) : (m.setTag w b).wf := h
theorem Mem.wf_setBad {m : Mem} (w : Nat) (b : Bool) (h : m.wf) : (m.setBad w b).wf := h
theorem Mem.wf_setStamp {m : Mem} (w k : Nat) (h : m.wf) : (m.setStamp w k).wf := h

theorem Mem.wf_putBytes {m : Mem} (a : Nat) (bs : List Byte) (h : m.wf) : (m.putBytes a bs).wf := by
  induction bs generalizing m a with
  | nil => exact h
  | cons b bs ih => exact ih _ (Mem.wf_setByte a b h)

theorem Mem.wf_foldl {β : Type} (f : Mem → β → Mem) (hf : ∀ m b, m.wf → (f m b).wf) :
    ∀ (l : List β) {m : Mem}, m.wf → (l.foldl f m).wf
  | [], _, h => h
  | b :: l, _, h => Mem.wf_foldl f hf l (hf _ b h)

theorem Mem.wf_setTags {m : Mem} (b : Bool) (ws : List Nat) (h : m.wf) : (setTags b ws m).wf :=
  Mem.wf_foldl _ (fun _ w h => Mem.wf_setTag w b h) ws h
theorem Mem.wf_clearPoison {m : Mem} (ws : List Nat) (h : m.wf) : (clearPoison ws m).wf :=
  Mem.wf_foldl _ (fun _ w h => Mem.wf_setBad w false h) ws h
theorem Mem.wf_restoreOlds {m : Mem} (olds : List (Nat × Word × Bool)) (h : m.wf) : (restoreOlds m olds).wf :=
  Mem.wf_foldl _ (fun _ _ h => Mem.wf_setTag _ _ (Mem.wf_setWord _ _ h)) olds h
theorem Mem.wf_scrub {m : Mem} (key pa n : Nat) (h : m.wf) : (m.scrub key pa n).wf := by
  have := Map.wf_drop (0 : Byte) (fun a => decide (pa ≤ a ∧ a < pa + n)) h
  exact this
theorem Mem.wf_loseBlock {m : Mem} (blk : Nat) (h : m.wf) : (m.loseBlock blk).wf := h

/-! ## The operations of the state -/

theorem State.wf_modMem {s : State} {f : Mem → Mem} (hf : ∀ m : Mem, m.wf → (f m).wf) (h : s.mem.wf) :
    (s.modMem f).mem.wf := hf _ h

theorem State.readWord_mem (s : State) (key w : Nat) : (s.readWord key w).2.mem = s.mem := by
  unfold State.readWord; split <;> rfl

theorem State.readWords_mem (s : State) (key w n : Nat) : (s.readWords key w n).2.mem = s.mem := by
  induction n generalizing s w with
  | zero => rfl
  | succ n ih => simp only [State.readWords]; rw [ih, State.readWord_mem]

theorem State.readAt_mem (s : State) (key a n : Nat) : (s.readAt key a n).2.mem = s.mem := by
  unfold State.readAt
  split
  · exact State.readWord_mem s key _
  · exact State.readWords_mem s key _ _

theorem State.wf_writeWords {s : State} (key w n x : Nat) (h : s.mem.wf) : (s.writeWords key w n x).mem.wf := by
  induction n generalizing s w x with
  | zero => exact h
  | succ n ih => exact ih _ _ (Mem.wf_setWord (m := s.mem) w _ h)

theorem State.wf_writeAt {s : State} (key a n x : Nat) (h : s.mem.wf) : (s.writeAt key a n x).mem.wf := by
  unfold State.writeAt
  split
  · have hr := State.readWord_mem s key (a / 8)
    generalize s.readWord key (a / 8) = r at hr
    exact State.wf_writeWords _ _ _ _ (by rw [hr]; exact h)
  · exact State.wf_writeWords _ _ _ _ h

theorem State.wf_touchLine {s : State} (pa : Nat) (h : s.mem.wf) : (s.touchLine pa).mem.wf := by
  unfold State.touchLine
  dsimp only
  split
  · exact h
  · simp only [State.logRec_mem, State.modMem_mem]
    exact Mem.wf_foldl _ (fun _ _ h => Mem.wf_setBad _ _ h) _ h

theorem State.wf_monitorWrite {s : State} (a : Nat) (bs : List Byte) (h : s.mem.wf) : (s.monitorWrite a bs).mem.wf := by
  have : ((wordsOf (a / 8 * 8) (max 8 ((bs.length + 7) / 8 * 8))).foldl (fun (m : Mem) w =>
      (m.setStamp w monitorStamp).setBad w false) (s.mem.putBytes a bs)).wf :=
    Mem.wf_foldl _ (fun _ _ h => Mem.wf_setBad _ _ (Mem.wf_setStamp _ _ h)) _ (Mem.wf_putBytes a bs h)
  exact this

theorem State.wf_writeTile {s : State} (blk : Nat) (t : TIdx) (f : BitVec 5) (cells : List Nat) (h : s.mem.wf) :
    (s.writeTile blk t f cells).mem.wf := by
  have hw : ∀ n x, (s.mem.write (tileBase blk t) n x).wf := fun n x => Mem.wf_write _ _ _ h
  have hb : (s.writeTile blk t f cells).mem.bytes = (s.mem.write (tileBase blk t) 16384 (packNat 32 cells)).bytes := by
    unfold State.writeTile State.setTileTag
    rw [State.modBlock_mem, State.modMem_mem]
  exact Mem.wf_of_bytes hb (hw _ _)

theorem State.wf_zeroTile {s : State} (blk : Nat) (t : TIdx) (h : s.mem.wf) : (s.zeroTile blk t).mem.wf := by
  have := Map.wf_drop (0 : Byte) (fun k => decide (tileBase blk t ≤ k ∧ k < tileBase blk t + 16384)) h
  exact this

theorem State.wf_yWrite {s t : State} {ea x : Word} (h : s.mem.wf) (ht : s.yWrite ea x = some t) : t.mem.wf := by
  unfold State.yWrite at ht
  dsimp only at ht
  split at ht
  · cases ht; exact Mem.wf_write (m := s.mem) _ _ _ h
  · split at ht
    · split at ht <;> (cases ht; exact Mem.wf_write (m := s.mem) _ _ _ h)
    · cases ht

theorem State.wf_moduleReset {s : State} (cause : Byte) (h : s.mem.wf) : (s.moduleReset cause).mem.wf := by
  have := Map.wf_drop (0 : Byte) (fun a => decide (tierBase 2 ≤ a)) h
  exact this

/-- Memory after reset is in canonical form. -/
theorem State.wf_reset : State.reset.mem.wf := rfl

end Sys2Proof.Machine
end

