-- ==== Sys2Proof/Laws/Save.lean ====
section
/-! SUPPORT. The laws of the save area (R400): a record is 0x1300 bytes, and writing one changes no other byte. -/

namespace Sys2Proof.Machine

@[simp] theorem length_leBytes (n x : Nat) : (leBytes n x).length = n := by
  induction n generalizing x with
  | zero => rfl
  | succ n ih => simp [leBytes, ih]

@[simp] theorem length_padTo (n : Nat) (bs : List Byte) : (padTo n bs).length = n := by simp [padTo]

@[simp] theorem length_loopBytes (l : Option Loop) : (loopBytes l).length = 16 := by cases l <;> simp [loopBytes]

theorem length_flatMap_const {α : Type} (n : Nat) (f : α → List Byte) (h : ∀ a, (f a).length = n) (l : List α) :
    (l.flatMap f).length = n * l.length := by
  induction l with
  | nil => rfl
  | cons a l ih => rw [List.flatMap_cons, List.length_append, ih, h, List.length_cons, Nat.mul_succ, Nat.add_comm]

/-- A record up to the bytes that name its context is 0x1280 bytes long. -/
theorem Act.length_stateBytes (a : Act) (free : List Word) : (a.stateBytes free).length = 0x1280 := by
  simp only [Act.stateBytes, List.length_append, length_leBytes, List.length_map, List.length_range,
    length_flatMap_const 8 _ (fun _ => length_leBytes 8 _), length_flatMap_const 256 _ (fun _ => length_leBytes 256 _),
    length_flatMap_const 16 _ (fun _ => length_loopBytes _), List.length_cons, List.length_nil]

theorem Act.length_recordTail (a : Act) (locked : Bool) (tag : List Byte) : (a.recordTail locked tag).length = 0x80 := by
  simp [Act.recordTail]

theorem Mem.byte_putBytes_outside (m : Mem) (a : Nat) (bs : List Byte) (x : Nat) (h : x < a ∨ a + bs.length ≤ x) :
    (m.putBytes a bs).byte x = m.byte x := by
  induction bs generalizing m a with
  | nil => rfl
  | cons b bs ih =>
    rw [List.length_cons] at h
    rw [Mem.putBytes, ih _ _ (by omega), Mem.byte_setByte, if_neg (by omega)]

theorem Mem.byte_stampAll (k : Nat) (ws : List Nat) (m : Mem) (x : Nat) :
    (ws.foldl (fun m w => (m.setStamp w k).setBad w false) m).byte x = m.byte x := by
  induction ws generalizing m with
  | nil => rfl
  | cons w ws ih => rw [List.foldl_cons, ih]; rfl

/-- What the monitor's writes change beside memory: nothing. -/
theorem State.monitorWrite_eq (s : State) (a : Nat) (bs : List Byte) : s.monitorWrite a bs = { s with mem := (s.monitorWrite a bs).mem } := rfl

theorem State.monitorWrite_outside (s : State) (a : Nat) (bs : List Byte) (x : Nat) (h : x < a ∨ a + bs.length ≤ x) :
    (s.monitorWrite a bs).mem.byte x = s.mem.byte x := by
  rw [← Mem.byte_putBytes_outside s.mem a bs x h]
  exact Mem.byte_stampAll _ _ _ _

theorem State.takeSaved_eq (s : State) (a : Act) : (s.takeSaved a).2 = { s with free := (s.takeSaved a).2.free } := by
  unfold State.takeSaved
  split <;> rfl

/-- Saving changes memory and takes free values, and nothing else. -/
theorem State.saveRecord_eq (s : State) (blk n : Nat) (a : Act) :
    s.saveRecord blk n a = { s with mem := (s.saveRecord blk n a).mem, free := (s.saveRecord blk n a).free } := by
  unfold State.saveRecord
  rw [State.monitorWrite_eq, s.takeSaved_eq a]

/-- A record's writing leaves every byte outside it alone. -/
theorem State.saveRecord_outside (s : State) (blk n : Nat) (a : Act) (x : Nat)
    (h : x < s.recordAt blk n ∨ s.recordAt blk n + 0x1300 ≤ x) : (s.saveRecord blk n a).mem.byte x = s.mem.byte x := by
  unfold State.saveRecord
  rw [State.monitorWrite_outside _ _ _ _ (by rw [List.length_append, Act.length_stateBytes, Act.length_recordTail]; exact h), s.takeSaved_eq a]

theorem Mem.stampAll_spec (k : Nat) (ws : List Nat) (m : Mem) (v : Nat) :
    let n := ws.foldl (fun m w => (m.setStamp w k).setBad w false) m
    (n.stamp v = if v ∈ ws then k else m.stamp v) ∧ (n.bad v = if v ∈ ws then false else m.bad v) := by
  induction ws generalizing m with
  | nil => exact ⟨rfl, rfl⟩
  | cons w ws ih =>
    obtain ⟨h1, h2⟩ := ih ((m.setStamp w k).setBad w false)
    have e1 : ((m.setStamp w k).setBad w false).stamp v = (m.setStamp w k).stamp v := rfl
    rw [e1, Mem.stamp_setStamp] at h1
    rw [Mem.bad_setBad, show (m.setStamp w k).bad v = m.bad v from rfl] at h2
    simp only [List.foldl_cons, h1, h2, List.mem_cons]
    by_cases hw : v = w <;> by_cases hv : v ∈ ws <;> simp [hw, hv]

/-- The words that the monitor writes carry its stamp and no poison. -/
theorem State.monitorWrite_words (s : State) (a : Nat) (bs : List Byte) (v : Nat)
    (h : v ∈ wordsOf (a / 8 * 8) (max 8 ((bs.length + 7) / 8 * 8))) :
    (s.monitorWrite a bs).mem.stamp v = monitorStamp ∧ (s.monitorWrite a bs).mem.bad v = false := by
  have hs := Mem.stampAll_spec monitorStamp (wordsOf (a / 8 * 8) (max 8 ((bs.length + 7) / 8 * 8))) (s.mem.putBytes a bs) v
  rw [if_pos h, if_pos h] at hs
  exact hs

/-- A record is intact after it was saved. -/
theorem State.recordIntact_saveRecord (s : State) (blk n : Nat) (a : Act) : (s.saveRecord blk n a).recordIntact blk n = true := by
  rw [State.recordIntact, List.all_eq_true]
  intro w hw
  have hr : (s.saveRecord blk n a).recordAt blk n = s.recordAt blk n := by rw [State.saveRecord_eq]; rfl
  rw [hr] at hw
  unfold State.saveRecord
  generalize ({ a with mstat := s.mstatOf (blk / 8) a, jstat := s.jstatOf (blk / 8) a } : Act) = shown
  have h := State.monitorWrite_words (s.takeSaved a).2 (s.recordAt blk n) (shown.stateBytes (s.takeSaved a).1 ++ a.recordTail false []) w (by
    rw [List.length_append, Act.length_stateBytes, Act.length_recordTail]
    simpa [wordsOf] using hw)
  rw [h.1, h.2, beq_self_eq_true]
  rfl

theorem State.wf_saveRecord {s : State} (blk n : Nat) (a : Act) (h : s.mem.wf) : (s.saveRecord blk n a).mem.wf := by
  refine State.wf_monitorWrite _ _ ?_
  rw [s.takeSaved_eq a]
  exact h

theorem State.wf_sealRecord {s : State} (blk n : Nat) (a : Act) (k : Digest) (h : s.mem.wf) : (s.sealRecord blk n a k).mem.wf :=
  State.wf_monitorWrite _ _ h

theorem State.wf_clearValid {s : State} (blk n : Nat) (a : Act) (h : s.mem.wf) : (s.clearValid blk n a).mem.wf := State.wf_monitorWrite _ _ h

/-- Sealing leaves every byte outside its record alone. -/
theorem State.sealRecord_outside (s : State) (blk n : Nat) (a : Act) (k : Digest) (x : Nat)
    (h : x < s.recordAt blk n ∨ s.recordAt blk n + 0x1300 ≤ x) : (s.sealRecord blk n a k).mem.byte x = s.mem.byte x := by
  unfold State.sealRecord
  exact State.monitorWrite_outside _ _ _ _ (by
    rw [List.length_append, List.length_map, List.length_range, Act.length_recordTail]; exact h)

theorem State.clearValid_outside (s : State) (blk n : Nat) (a : Act) (x : Nat)
    (h : x < s.recordAt blk n ∨ s.recordAt blk n + 0x1300 ≤ x) : (s.clearValid blk n a).mem.byte x = s.mem.byte x := by
  unfold State.clearValid
  exact State.monitorWrite_outside _ _ _ _ (by rw [length_leBytes]; omega)

end Sys2Proof.Machine
end

