-- ==== Sys2Proof/Tests/Slice0.lean ====
section
/-! SUPPORT. The tests: words and results that the spec prints, ill-formed terms, one step at a time; and, for every
statement that has hypotheses, a witness that meets them. -/

set_option Elab.async false

namespace Sys2Proof.Tests

open Sys2Proof Sys2Proof.Machine Sys2Proof.Claims

/-! ## Words -/

/-- The word decodes to the instruction, and the encoder gives the word back. -/
def decodes (p : InstrWord × Instr) : Bool :=
  (match decode p.1 with | .ok i => decide (i = p.2) | .error _ => false) && decide (encode p.2 = p.1)
/-- The word is no instruction. -/
def refuses (w : InstrWord) : Bool := match decode w with | .ok _ => false | .error _ => true

/-- Class 0, integer: words that the chapters print beside their instructions. -/
def words0 : List (InstrWord × Instr) :=
  [(0x004221800000000000000000, .add 1 2 3),
   (0x00CA20000000000000000010, .addi 5 2 16),
   (0x0C0E00000123456789ABCDEF, .li 7 0x123456789abcdef),
   (0x080611000000000000000000, .slt 3 1 2),
   (0x00CA20000000FFFFFFFFFFFF, .addi 5 2 0xffffffffffff),
   (0x054210000000000000000003, .shli 1 1 3),
   (0x014221800000000000000000, .mulh 1 2 3),
   (0x08CC110C0000000000000000, .sel 6 1 2 3),
   (0x09043200000C000000000040, .lea 2 3 4 3 64),
   (0x0948A0000000000000000002, .widx 4 10 2),
   (0x010210800000000000000000, .mul 1 1 1),
   (0x054210000000000000000001, .shli 1 1 1),
   (0x004211000000000000000000, .add 1 1 2),
   (0x058C3000000000000000003D, .shri 6 3 61)]
theorem test_words_0 : words0.all decodes = true := by decide +kernel

/-- Class 1, bits and scalar FP32: words that the chapters print beside their instructions. -/
def words1 : List (InstrWord × Instr) :=
  [(0x108611000000000000000000, .bmm8t 3 1 2),
   (0x114A10080000000000000000, .bperm 5 1 2),
   (0x118610000000000000000C08, .bfx 3 1 8 12),
   (0x14C8110C0400000000000000, .fma 4 1 2 3 ⟨0, .rne, false, 0, 0⟩),
   (0x16461000E400000000000000, .fcvtif 3 1 ⟨7, .rne, false, 0, 0⟩),
   (0x16841000AA00000000000000, .fcvtfi 2 1 ⟨5, .rtz, true, 0, 0⟩),
   (0x1184B000000000000000060C, .bfx 2 11 12 6)]
theorem test_words_1 : words1.all decodes = true := by decide +kernel

/-- Class 2, control: words that the chapters print beside their instructions. -/
def words2 : List (InstrWord × Instr) :=
  [(0x238000000000000000000000, .endAct),
   (0x240000000000000000000000, .nop),
   (0x204010000000FFFFFFFFFFFD, .bne 1 0 0xfffffffffffd),
   (0x2340000000040000007E0190, .yield 1 0x190 126),
   (0x210042800000000000000006, .bltu 4 5 6),
   (0x21C090000000000000000000, .jmpr 9),
   (0x245200000000000000000004, .leac 9 4),
   (0x224000000008000000000003, .loopi 2 3),
   (0x228000000000000000000002, .calld 2),
   (0x22C050000000000000000000, .calldr 5),
   (0x230000000000000000000000, .ret),
   (0x23C00000000000000000002A, .trap 42),
   (0x228000000000000000000000, .calld 0),
   (0x220110000020000000000000, .loop 17 8),
   (0x224000000054000000000020, .loopi 21 32),
   (0x220110000018000000000000, .loop 17 6),
   (0x21407B800000000000000003, .bgeu 7 23 3)]
theorem test_words_2 : words2.all decodes = true := by decide +kernel

/-- Class 3, activations: words that the chapters print beside their instructions. -/
def words3 : List (InstrWord × Instr) :=
  [(0x320821800000000000000000, .chbind 4 2 3 false),
   (0x300050980000000000000002, .send 5 1 6 2 false),
   (0x30C000800000000000000001, .reply 1 1 false),
   (0x318042800000000000000000, .launch 4 5),
   (0x31C000000000000000000000, .trigger),
   (0x348070000114000000000000, .jinit 7 5 true),
   (0x310032000014000000000003, .fork 3 4 5 3),
   (0x328610000000000000000000, .qpush 3 1),
   (0x334822800000000000000000, .qtry 4 2 5),
   (0x340A00000000000000000003, .getc 5 3),
   (0x340E00000000000000000010, .getc 7 16)]
theorem test_words_3 : words3.all decodes = true := by decide +kernel

/-- Class 4, memory access: words that the chapters print beside their instructions. -/
def words4 : List (InstrWord × Instr) :=
  [(0x400C20000B08000000000040, .ld 6 2 0 ⟨.s, .wf, .d, false, false, .block⟩ 64),
   (0x4040501D2310000000000008, .st 5 0 7 ⟨.xs, .sf, .d, false, false, .cluster⟩ 8),
   (0x400850000208000000000000, .ld 4 5 0 ⟨.s, .plain, .w, false, false, .block⟩ 0),
   (0x408611004288000000000000, .ldx 3 1 2 ⟨.a, .plain, .w, true, false, .block⟩ 0),
   (0x4040401DE360000000000080, .st 4 0 7 ⟨.d, .sf, .d, false, true, .chip⟩ 128),
   (0x41024001CD20000000000000, .vld 1 4 0 ⟨.d, .wf, .l, false, false, .chip⟩ 0),
   (0x418432800208000000000000, .vldx 2 3 5 ⟨.s, .plain, .w, false, false, .block⟩ 0),
   (0x420C2001C520000000000000, .tagrd 6 2 0 ⟨.d, .plain, .l, false, false, .chip⟩ 0),
   (0x424000000508000000001000, .tagwr 0 0 0 ⟨.s, .plain, .l, false, false, .block⟩ 0x1000),
   (0x40C0561DC220000000000000, .stx 5 12 7 ⟨.d, .plain, .w, false, false, .chip⟩ 0),
   (0x41021001C520000000000100, .vld 1 1 0 ⟨.d, .plain, .l, false, false, .chip⟩ 0x100),
   (0x41403005E528000000000000, .vst 3 0 1 ⟨.d, .sf, .l, false, false, .job⟩ 0)]
theorem test_words_4 : words4.all decodes = true := by decide +kernel

/-- Class 5, atomics and barriers: words that the chapters print beside their instructions. -/
def words5 : List (InstrWord × Instr) :=
  [(0x500821940308000000000001, .amo 4 2 3 5 ⟨.s, .plain, .d, false, false, .block⟩ 1),
   (0x504C201C0308000000000010, .cas 6 2 0 7 ⟨.s, .plain, .d, false, false, .block⟩ 16),
   (0x50C622140208000000000001, .vamo 3 2 4 5 ⟨.s, .plain, .w, false, false, .block⟩ 1),
   (0x52822191C320000000000005, .ams 1 2 3 4 ⟨.d, .plain, .d, false, false, .chip⟩ 5),
   (0x510000000010000000000000, .fence .cluster),
   (0x514022800000000000000000, .binit 2 5),
   (0x518030000010000000000000, .barr 3 .cluster false),
   (0x518000000014000000000000, .barr 0 .cluster true),
   (0x51C000000000000000000000, .bwait 0),
   (0x520010000000000000000000, .bdrop 1),
   (0x524000000014000000000000, .bsync 0 .cluster true),
   (0x51400A800000000000000000, .binit 0 21),
   (0x524010000010000000000000, .bsync 1 .cluster false),
   (0x510000000028000000000000, .fence .job)]
theorem test_words_5 : words5.all decodes = true := by decide +kernel

/-- Class 6, vector: words that the chapters print beside their instructions. -/
def words6 : List (InstrWord × Instr) :=
  [(0x640410012480000000000000, .vcvt 2 1 ⟨9, .rne, false, 8, 0⟩),
   (0x60C611110400000000000000, .vfma 3 1 2 4 ⟨8, .rne, false, 0, 0⟩),
   (0x600221802200000000000000, .vadd 1 2 3 ⟨1, .dyn, true, 0, 0⟩),
   (0x620A11010004000000000000, .vcmp 5 1 2 ⟨8, .dyn, false, 0, 1⟩),
   (0x640410012484000000000000, .vcvt 2 1 ⟨9, .rne, false, 8, 1⟩),
   (0x644810010400000000000000, .vexp2 4 1 ⟨8, .rne, false, 0, 0⟩),
   (0x670200010000000000000000, .viota 1 ⟨8, .dyn, false, 0, 0⟩),
   (0x65C810010400000000000000, .vred 4 1 ⟨8, .rne, false, 0, 0⟩),
   (0x660250010000000000000000, .vbcast 1 5 ⟨8, .dyn, false, 0, 0⟩),
   (0x664823006000000000000000, .vext 4 2 6 ⟨3, .dyn, false, 0, 0⟩),
   (0x66C61100A000000000000000, .vperm 3 1 2 ⟨5, .dyn, false, 0, 0⟩),
   (0x674A11000008000000000000, .vbmm8 5 1 2 ⟨0, .dyn, false, 0, 2⟩),
   (0x644C60010400000000000000, .vexp2 6 6 ⟨8, .rne, false, 0, 0⟩),
   (0x658C63810400000000000000, .vdiv 6 6 7 ⟨8, .rne, false, 0, 0⟩),
   (0x604211810400000000000000, .vsub 1 1 3 ⟨8, .rne, false, 0, 0⟩)]
theorem test_words_6 : words6.all decodes = true := by decide +kernel

/-- Class 7, sweeps: words that the chapters print beside their instructions. -/
def words7 : List (InstrWord × Instr) :=
  [(0x704020010480000000000000, .swred 2 0 ⟨8, .rne, false, 8, 0⟩)]
theorem test_words_7 : words7.all decodes = true := by decide +kernel

/-- Class 8, matrix: words that the chapters print beside their instructions. -/
def words8 : List (InstrWord × Instr) :=
  [(0x800442812094000000000000, .mma 2 4 5 ⟨9, .dyn, false, 9, 1⟩),
   (0x8000218160CC000000000000, .mma 0 2 3 ⟨11, .dyn, false, 12, 3⟩),
   (0x804221824124000000000000, .mmab 1 2 3 ⟨18, .dyn, false, 18, 1⟩),
   (0x808600000000000000000000, .mzero 3),
   (0x80C860010000000000000000, .mload 4 6 ⟨8, .dyn, false, 0, 0⟩),
   (0x810023810004000000000000, .mdrain 2 7 ⟨8, .dyn, false, 0, 1⟩),
   (0x814020000000000000000000, .mwait 2),
   (0x818A00000000000000000000, .mstat 5),
   (0x81000A810000000000000000, .mdrain 0 21 ⟨8, .dyn, false, 0, 0⟩)]
theorem test_words_8 : words8.all decodes = true := by decide +kernel

/-- Class 9, copy: words that the chapters print beside their instructions. -/
def words9 : List (InstrWord × Instr) :=
  [(0x900021800000000000000000, .cpy 2 3),
   (0x904220000000000000000000, .cpys 1 2),
   (0x908050000000000000000000, .jwait 5),
   (0x90C850000000000000000000, .jpoll 4 5),
   (0x910850000000000000000000, .jcancel 4 5),
   (0x908020000000000000000000, .jwait 2)]
theorem test_words_9 : words9.all decodes = true := by decide +kernel

/-- Class 10, equivalence: words that the chapters print beside their instructions. -/
def words10 : List (InstrWord × Instr) :=
  [(0xA00020000010000000000000, .eqinit 2 false 2),
   (0xA04642800000000000000000, .equnite 3 4 5),
   (0xA08C40000000000000000000, .eqfind 6 4),
   (0xA0CE42800000000000000000, .eqsame 7 4 5),
   (0xA11040000000000000000000, .eqsize 8 4),
   (0xA14020000024000000000000, .eqrelabel 2 0 true 4),
   (0xA19200000000000000000000, .eqsnap 9),
   (0xA1D200000000000000000000, .equndo 9),
   (0xA21200000000000000000000, .eqcommit 9)]
theorem test_words_10 : words10.all decodes = true := by decide +kernel

/-- Class 11, fabric: words that the chapters print beside their instructions. -/
def words11 : List (InstrWord × Instr) :=
  [(0xB00850000000000000000000, .mcwait 4 5),
   (0xB04030000000000000000000, .flowend 3),
   (0xB08C70000000000000000000, .rankc 6 7)]
theorem test_words_11 : words11.all decodes = true := by decide +kernel

/-- Class 12, monitor: words that the chapters print beside their instructions. -/
def words12 : List (InstrWord × Instr) :=
  [(0xC00000000000000000000005, .mcall 5),
   (0xC04000000000000000000000, .mret),
   (0xC08021800000000000000000, .pent 2 3),
   (0xC0C820000000000000000000, .pentr 4 2),
   (0xC10021800000000000000000, .keyslot 2 3),
   (0xC14020000000000000000000, .ctxsv 2),
   (0xC18020000000000000000000, .ctxld 2),
   (0xC1C021800000000000000000, .scrub 2 3),
   (0xC20020000000000000000000, .mext 2),
   (0xC24A21800000000000000000, .codeinst 5 2 3),
   (0xC28020000000000000000000, .codeevict 2),
   (0xC2C020000000000000000000, .quar 2),
   (0xC30020000000000000000000, .vifrz 2),
   (0xC34021800000000000000000, .stinv 2 3),
   (0xC38021800000000000000000, .atreqAttestation 2 3)]
theorem test_words_12 : words12.all decodes = true := by decide +kernel

/-- Class 13, trace: words that the chapters print beside their instructions. -/
def words13 : List (InstrWord × Instr) :=
  [(0xD00030000000000000000015, .trmark 3 21),
   (0xD04020000000000000000000, .trctlFlush 2),
   (0xD08000000000000000000007, .bkpt 7)]
theorem test_words_13 : words13.all decodes = true := by decide +kernel

/-! ## What the decoder and the checks refuse -/

/-- A reserved bit of format G, MOD17 of LI, an unused field, a v register above 15 and an s register above 3 (R43, R44). -/
theorem test_reserved_bits : [0x004221800001000000000000#96, 0x0C0E00010123456789ABCDEF, 0x004221840000000000000000,
    0x662250010000000000000000, 0x904A20000000000000000000].all refuses = true := by
  decide +kernel
/-- A reserved SP code, SY code and SZ code, and bit 50 of a load (R46, R47); a reserved RM code (R49). -/
theorem test_reserved_codes : [0x4008500200080000000000#96, 0x400850000E08000000000000, 0x400850000408000000000000,
    0x40085000020C000000000000, 0x14C8110C1800000000000000].all refuses = true := by decide +kernel
/-- SHLI by 64 (R75) and a call index above 32 bits (R50). -/
theorem test_unused_immediate : [0x054210000000000000000043#96, 0x228000000000000100000000].all refuses = true := by decide +kernel
/-- An unassigned opcode is an instruction of its own row (R50). -/
theorem test_unassigned : decode 0x0B4000000000000000000000 = .ok (.unassignedOpcode 0x0B4000000000000000000000) := by decide +kernel

theorem test_ill_fieldNumber : WellFormed.check (.widx 4 10 6) = some .fieldNumber := by decide
theorem test_ill_bitCount : WellFormed.check (.sext 1 2 65) = some .bitCount ∧ WellFormed.check (.zext 1 2 0) = some .bitCount := by decide
theorem test_ill_bitField : WellFormed.check (.bfx 1 2 60 5) = some .bitField := by decide
theorem test_ill_bodyLength : WellFormed.check (.loopi 0 3) = some .bodyLength := by decide
theorem test_ill_gMask : WellFormed.check (.yield 0 1 1) = some .gMask := by decide
theorem test_ill_wordCount : WellFormed.check (.send 1 30 2 3 false) = some .wordCount := by decide
theorem test_ill_statusRegister : WellFormed.check (.qtry 4 2 4) = some .statusRegister := by decide
theorem test_ill_memField : WellFormed.check (.ld 1 2 0 ⟨.a, .wf, .d, false, false, .block⟩ 0) = some .memField := by decide
theorem test_ill_operation : WellFormed.check (.amo 1 2 0 3 ⟨.s, .plain, .d, false, false, .block⟩ 10) = some .operation := by decide
theorem test_ill_barrierScope : WellFormed.check (.barr 0 .block false) = some .barrierScope := by decide
theorem test_ill_numField : WellFormed.check (.fadd 1 2 3 ⟨8, .rne, false, 0, 0⟩) = some .numField := by decide
theorem test_ill_reduction : WellFormed.check (.eqrelabel 2 0 false 5) = some .reduction := by decide

/-! ## Results: one step of a placed word -/

/-- A g register of the running thread is set. -/
def setr (r : GReg) (w : Word) (s : State) : State := s.modMe fun x => x.setG r w
/-- A v register of the running thread is set, with its tag. -/
def setv (r : VIdx) (tag : BitVec 5) (bits : BitVec 2048) (s : State) : State :=
  s.modMyAct fun a => { a with v := Map.put a.v r.toNat { bits, tag } }
/-- The state whose next step issues the word, with registers set. -/
def placed (w : InstrWord) (pre : State → State) : State := pre (State.reset.withFetchWord 96 w.toNat)
/-- The next state of one step. -/
def ran (w : InstrWord) (pre : State → State) : State := match step (placed w pre) with | .next t => t | _ => State.reset
/-- The block's vector unit is granted to the running thread. -/
def unit (s : State) : State := s.modBlock 0 fun b => { b with vgrant := some 0 }
/-- Lanes of a vector register, lane 0 first. -/
def lanesOf (w : Nat) (xs : List Nat) : BitVec 2048 := BitVec.ofNat 2048 (xs.foldr (fun x acc => x + 2 ^ w * acc) 0)

/-- Core 0 may read and write every local and cross-block space, for enclave 0, whose key is in slot 0 of its block. -/
def guard (s : State) : State := (s.modBlock 0 fun b => { b with keys := [(0, some (0, 0))] }).modOwner 0 fun o =>
  { o with pents := (List.range 8).map fun i => (i, some ⟨0, true, true, BitVec.ofNat 4 i, 0, 0x3FFFFF, true⟩) }

-- The chapter of the scalar instructions gives these operands and results.
theorem test_slt : (ran 0x080611000000000000000000 (setr 2 1 ∘ setr 1 0xFFFFFFFFFFFFFFFE)).reg 3 = 1 := by decide +kernel
theorem test_sltu : (ran (encode (.sltu 3 1 2)) (setr 2 1 ∘ setr 1 0xFFFFFFFFFFFFFFFE)).reg 3 = 0 := by decide +kernel
theorem test_addi : (ran 0x00CA20000000FFFFFFFFFFFF id).reg 5 = 0xFFFFFFFFFFFFFFFF := by decide +kernel
theorem test_shli : (ran 0x054210000000000000000003 (setr 1 0x11)).reg 1 = 0x88 := by decide +kernel
theorem test_sel : (ran 0x08CC110C0000000000000000 (setr 2 10 ∘ setr 3 20)).reg 6 = 20 := by decide +kernel
theorem test_lea : (ran 0x09043200000C000000000040 (setr 3 0x1000 ∘ setr 4 5)).reg 2 = 0x1068 := by decide +kernel
/-- Widths 4, 6, 10, 0, 0, 0, field 0 in the low bits of WIDSPEC. -/
def spec4610 (s : State) : State := (s.modMyAct fun a => { a with widspec := 4 + 6 * 64 + 10 * 4096 }).modMe fun x => x.setG 10 0x52C7B
theorem test_widx : [(0, 5), (1, 11), (2, 123), (3, 0)].all (fun p : BitVec 3 × Word =>
    (ran (encode (.widx 4 10 p.1)) spec4610).reg 4 == p.2) = true := by decide +kernel
theorem test_widc : (ran (encode (.widc 4 10 0)) spec4610).reg 4 = 0x50000 ∧ (ran (encode (.widc 4 10 1)) spec4610).reg 4 = 0x52C00 := by
  decide +kernel
theorem test_bmm8t : (ran 0x108611000000000000000000 (setr 1 0xFF ∘ setr 2 0x8040201008040201)).reg 3 = 0x0101010101010101 := by decide +kernel
theorem test_bmm8 : (ran (encode (.bmm8 3 1 2)) (setr 1 0xFF ∘ setr 2 3)).reg 3 = 3 ∧
    (ran (encode (.bmm8x 3 1 2)) (setr 1 0xFF ∘ setr 2 3)).reg 3 = 3 := by decide +kernel
theorem test_bperm : (ran 0x114A10080000000000000000 (setr 1 1 ∘ setv 2 0 (lanesOf 8 ((List.range 64).map fun i => 63 - i)))).reg 5 =
    0x8000000000000000 := by decide +kernel
theorem test_bfx : (ran 0x118610000000000000000C08 (setr 1 0xABCDEF)).reg 3 = 0xBCD := by decide +kernel
theorem test_bfi : (ran (encode (.bfi 4 1 2 8 12)) (setr 1 0xABCDEF ∘ setr 2 0x123)).reg 4 = 0xA123EF := by decide +kernel
theorem test_fma : (ran 0x14C8110C0400000000000000 (setr 1 0x3F800800 ∘ setr 2 0x3F800800 ∘ setr 3 0xBF800000)).reg 4 = 0x3A000400 ∧
    (ran 0x14C8110C0400000000000000 (setr 1 0x3F800800 ∘ setr 2 0x3F800800 ∘ setr 3 0xBF800000)).me.act.flags = 0 := by decide +kernel
theorem test_fcvtif : (ran 0x16461000E400000000000000 (setr 1 0x1000001)).reg 3 = 0x4B800000 ∧
    (ran 0x16461000E400000000000000 (setr 1 0x1000001)).me.act.flags = 1 := by decide +kernel
theorem test_fcvtfi : (ran 0x16841000AA00000000000000 (setr 1 0x4F800000)).reg 2 = 0x7FFFFFFF ∧
    (ran 0x16841000AA00000000000000 (setr 1 0x4F800000)).me.act.flags = 16 := by decide +kernel

-- So does the chapter of the vector instructions.
theorem test_vadd_sat : laneAt 1 ((ran 0x600221802200000000000000 (unit ∘ setv 2 1 100 ∘ setv 3 1 100)).vreg 1).bits 0 = 127 := by decide +kernel
theorem test_vadd_wrap : laneAt 1 ((ran (encode (.vadd 1 2 3 ⟨1, .dyn, false, 0, 0⟩)) (unit ∘ setv 2 1 100 ∘ setv 3 1 100)).vreg 1).bits 0 = 0xC8 := by
  decide +kernel
def afterVcmp : State := ran 0x620A11010004000000000000
  (unit ∘ setv 1 8 (lanesOf 32 [0x3F800000, 0x7FC00000]) ∘ setv 2 8 (lanesOf 32 [0x40000000, 0x40000000]))
theorem test_vcmp : laneAt 8 (afterVcmp.vreg 5).bits 0 = 0xFFFFFFFF ∧ laneAt 8 (afterVcmp.vreg 5).bits 1 = 0 ∧
    afterVcmp.me.act.flags = 16 := by decide +kernel
def afterVexp2 : State := ran 0x644810010400000000000000 (unit ∘ setv 1 8 (lanesOf 32 [0xBF800000, 0x3F000000]))
theorem test_vexp2 : laneAt 8 (afterVexp2.vreg 4).bits 0 = 0x3F000000 ∧ laneAt 8 (afterVexp2.vreg 4).bits 1 = 0x3FB504F3 ∧
    afterVexp2.me.act.flags = 1 := by decide +kernel
theorem test_vext : (ran 0x664823006000000000000000 (unit ∘ setr 6 130 ∘ setv 2 3 (lanesOf 16 [0, 0, 0x8001]))).reg 4 = 0xFFFFFFFFFFFF8001 := by
  decide +kernel
theorem test_vperm : let t := ran 0x66C61100A000000000000000 (unit ∘ setv 1 5 (lanesOf 32 (List.range 64)) ∘
      setv 2 5 (lanesOf 32 ((List.range 64).map fun i => 63 - i)));
    (t.vreg 3).bits = lanesOf 32 ((List.range 64).map fun i => 63 - i) := by decide +kernel
theorem test_viota_vred : let v := ((ran 0x670200010000000000000000 unit).vreg 1).bits;
    (ran 0x65C810010400000000000000 (unit ∘ setv 1 8 v)).reg 4 = 0x44FC0000 := by decide +kernel

/-! ## Witnesses: the hypotheses of every statement can be met -/

/-- The kiln of cluster 0 holds no vector function of the monitor. -/
def bare (s : State) : State := s.modCluster 0 fun c => { c with dir := c.dir ++ [{ pid := 0, digest := 0, handle := 1, inst := none }] }
/-- Thread 0 in context mode at slot 0 of a function of one line of NOPs, whose slot 0 is a branch target. -/
def st0 : State := bare (placed (encode .nop) id)
/-- The same thread in monitor mode. -/
def stM : State := st0.modMe fun x => { x with mode := .monitor }
/-- The service thread of core 0. -/
def stS : State := { st0 with cur := 16384 }
/-- The function of st0. -/
def fn0 : Inst := { lines := [lineFor (encode .nop)] }
theorem fn0_here : st0.myInst = some fn0 ∧ st0.here = (0x100, 0) ∧ st0.me.loops = [] ∧ isAct st0.cur = true := by decide +kernel

theorem witness_integer : basicResult st0 (.addi 31 0 0xFFFFFFFFFFFF) = some (31, 0xFFFFFFFFFFFFFFFF) ∧
    wideResult (setr 2 7 st0) (.div 1 2 0) = some (1, 0xFFFFFFFFFFFFFFFF) ∧ (Instr.div 1 2 0).wellFormed = true := by decide +kernel
theorem witness_bits : bitResult st0 0 (.bfi 1 2 3 63 1) = some (1, false) ∧ (Instr.bfi 1 2 3 63 1).wellFormed = true ∧
    isAct st0.cur = true ∧ isAct stS.cur = false ∧ (5 : BitVec 3).toNat ≤ 5 := by decide +kernel
theorem witness_fp : fpResult st0 .rne (.fadd 1 2 3 ⟨0, .rne, false, 0, 0⟩) = some (1, ⟨0, .rne, false, 0, 0⟩, 0, 0) ∧
    roundMode st0 .rne = some .rne ∧ (Instr.fadd 1 2 3 ⟨0, .rne, false, 0, 0⟩).wellFormed = true ∧ Sys2Proof.Num.reserved 0 = false ∧
    fpTestOf (.fle 1 2 3) = some (1, 2, 3, 2) := by decide +kernel
theorem witness_fcvtfi : roundMode st0 .dyn = some .rne ∧ Sys2Proof.Num.isI 1 = true ∧
    fpOf (setr 2 0x7F800001 st0) 2 = .nan false true ∧ fpOf (setr 2 0xFF800000 st0) 2 = .inf true ∧
    fpOf (setr 2 0xC3000000 st0) 2 = .fin true 0x800000 (-16) := by decide +kernel
theorem witness_rounds : RoundsToInt .rne (finValue true 0x800000 (-16)) (-128) ∧ RoundsToInt .rtz (finValue true 0x800000 (-16)) (-128) := by
  have h : finValue true 0x800000 (-16) = -128 := by norm_num [finValue]
  rw [h]
  constructor <;> norm_num [RoundsToInt]
theorem witness_fp_mode : roundMode (st0.modMyAct fun a => { a with drm := 0 }) .dyn = none ∧ roundMode st0 .rtz ≠ none ∧
    fpNum (.fcvtif 1 2 ⟨23, .rtz, false, 0, 0⟩) = some ⟨23, .rtz, false, 0, 0⟩ ∧ Sys2Proof.Num.reserved 23 = true := by decide +kernel
theorem witness_representable : fpDecode 15 1 = .fin false 1 (-1) ∧ 1 < 2 ^ fmtBits 15 ∧ fpDecode 8 0x80000001 = .fin true 1 (-149) := by
  decide +kernel

theorem target0 : isTarget st0 (slotOfOffset st0 0) := by
  refine ⟨?_, fn0, lineFor (encode .nop), ?_, ?_, ?_⟩ <;> decide +kernel
theorem no_target1 : ¬ isTarget st0 (slotOfOffset st0 1) := by
  rintro ⟨-, f, l, hf, hl, ht⟩
  rw [fn0_here.1] at hf
  cases hf
  have h : fn0.lines[(slotOfOffset st0 1).toNat / 5]? = some (lineFor (encode .nop)) := by decide +kernel
  rw [h] at hl
  cases hl
  exact absurd ht (by decide +kernel)
theorem witness_branches : branchOf st0 (.beq 1 1 0) = some (st0.g 1 = st0.g 1, 0) ∧ ¬ (st0.g 1 ≠ st0.g 1) ∧
    isTarget st0 (slotOfOffset st0 0) ∧ ¬ isTarget st0 (slotOfOffset st0 1) :=
  ⟨rfl, fun h => h rfl, target0, no_target1⟩
theorem witness_jmpr : (setr 9 0x10000000000 st0).g 9 = 0x10000000000 ∧ handleOf 0x10000000000 = (setr 9 0x10000000000 st0).here.1 ∧
    (0x10000000000#64).extractLsb' 0 32 = 0 ∧ handleOf (st0.g 9) ≠ st0.here.1 := by decide +kernel
theorem witness_leac : 0 ≤ slotOfOffset st0 4 ∧ slotOfOffset st0 4 < slotsHere st0 ∧ slotOfOffset st0 0xFFFFFFFFFFFF < 0 ∧
    slotsHere st0 ≤ slotOfOffset st0 5 := by decide +kernel
/-- One loop is open, over slots 1 to 3 of the function. -/
def stL : State := st0.modMe fun x => { x with act := { x.act with loops := [⟨0x100, 1, 3, 2, 0⟩] } }
/-- Four loops are open. -/
def stL4 : State := st0.modMe fun x => { x with act := { x.act with loops := List.replicate 4 ⟨0x100, 1, 3, 2, 0⟩ } }
theorem witness_loops : loopOf stL (.loopi 3 1) = some (1, 3, true) ∧ stL.me.loops.length < 4 ∧ stL.here.2 + 3 < slotsHere stL ∧
    frameOf stL.me.loops = [⟨0x100, 1, 3, 2, 0⟩] ∧ stL.here.2 + 3 ≤ 3 ∧ ¬ (stL.here.2 + 4 ≤ 3) ∧ stL.here.2 + 4 < slotsHere stL ∧
    stL.here.2 + 2 < 3 ∧ 4 ≤ stL4.me.loops.length ∧ slotsHere stL ≤ stL.here.2 + 5 ∧
    loopOf (setr 1 0x100000000 st0) (.loop 1 1) = some (0, 1, false) := by decide +kernel
/-- The pc stands at the last slot of the open loop. -/
def stEnd : State := stL.modMyAct fun a => { a with pc := codeAddr 0x100 3 }
def stEnd1 : State := stEnd.modMe fun x => { x with act := { x.act with loops := [⟨0x100, 1, 3, 1, 0⟩] } }
theorem witness_iterations : stEnd.me.loops = [⟨0x100, 1, 3, 2, 0⟩] ∧ stEnd.here = (0x100, 3) ∧ stEnd1.me.loops = [⟨0x100, 1, 3, 1, 0⟩] ∧
    st0.me.loops = [] := by decide +kernel

/-- A function that calls itself: its digest table names the entry of st0's function, and slot 0 is a call site. -/
def fnC : Inst := { lines := [lineFor (encode .nop)], digs := [5], calls := [(0, 5)] }
def stC : State := st0.setCluster 0 { st0.cluster 0 with dir := [{ pid := 0, digest := 5, handle := 0x100, inst := some fnC }] }
def entC : DirEntry := { pid := 0, digest := 5, handle := 0x100, inst := some fnC }
theorem witness_calls : stC.myInst = some fnC ∧ fnC.digs[(0 : Nat)]? = some 5 ∧ fnC.calls.findIdx (fun c => c.1 == stC.here.2) = 0 ∧
    stC.lookup (clusterOf stC.cur) stC.me.act.pid (stC.me.mode == .monitor) 5 = some entC ∧
    (stC.cluster (clusterOf stC.cur)).inst entC.handle = some fnC ∧ fnC.tgt 0 = true ∧ stC.me.loops = [] ∧ isAct stC.cur = true := by
  decide +kernel
theorem witness_bad_calls : stC.myInst = some fnC ∧ fnC.digs.length ≤ (1 : BitVec 32).toNat ∧ isAct stC.cur = true ∧
    ((setr 1 0x100000000 stC).g 1).extractLsb' 32 32 ≠ 0 ∧ isAct stS.cur = false := by decide +kernel
/-- The link in g31 names call site 0 of that function. -/
def stR : State := setr 31 0x10000000000 stC
theorem witness_ret : isAct stR.cur = true ∧ stR.g 31 ≠ 0 ∧ (stR.g 31).extractLsb' 32 32 = 0x100#32 ∧ mayName stR 0x100 entC ∧ entC.inst = some fnC ∧
      fnC.calls[(0 : Nat)]? = some (0, 5) ∧ fnC.calls.length ≤ 1 ∧ st0.g 31 = 0 := by
  refine ⟨?_, ?_, ?_, ⟨?_, ?_⟩, ?_, ?_, ?_, ?_⟩ <;> decide +kernel
theorem witness_ret_no_entry : (∀ e, ¬ mayName (setr 31 0x20000000000 stC) 0x200 e) ∧ (setr 31 0x20000000000 stC).g 31 ≠ 0 := by
  refine ⟨fun e h => ?_, by decide +kernel⟩
  have h2 : ((setr 31 0x20000000000 stC).cluster (clusterOf (setr 31 0x20000000000 stC).cur)).entry 0x200 = none := by decide +kernel
  have h1 := h.1
  rw [h2] at h1
  cases h1
/-- Every core of the block runs, and a displaced activation of priority 7 waits. -/
def stP : State := ((List.range 16).foldl (fun (s : State) t => s.modTh t fun x => { x with mode := .context, status := .running }) st0).modBlock 0
  fun b => { b with displaced := [{ act := { prio := 7 }, atSend := none, since := 0 }] }
theorem settled0 : settled st0 := by constructor <;> decide +kernel
theorem finished0 : finished st0 := by constructor <;> decide +kernel
theorem witness_yield_end : settled st0 ∧ finished st0 ∧ st0.me.act.deferred = none ∧ st0.retire.preempts = false ∧ st0.drains = false ∧
    st0.me.mode = .context ∧ st0.me.act.matrixFail = none ∧ st0.me.act.cardFail = none ∧ isAct st0.cur = true ∧ stM.me.mode = .monitor := by
  refine ⟨settled0, finished0, ?_⟩
  decide +kernel
theorem witness_drained_at_yield : (st0.modCluster 0 fun c => { c with draining := some 0 }).drains = true := by decide +kernel
theorem witness_preempted : stP.retire.preempts = true := by decide +kernel
def stErr : State := st0.modMyAct fun a => { a with rfault := 0x1000000000000000 }
def stMfail : State := st0.modMyAct fun a => { a with mstat := 0x0600000000000000 }
def stJfail : State := st0.modMyAct fun a => { a with jstat := 0x0600000000000000 }
theorem witness_end_failures : stErr.me.act.deferred.isSome = true ∧ stMfail.me.act.deferred = none ∧ stMfail.me.act.matrixFail.isSome = true ∧
    stJfail.me.act.matrixFail = none ∧ stJfail.me.act.cardFail.isSome = true := by decide +kernel
theorem witness_fault : isAct st0.cur = true ∧ st0.me.mode = .context ∧ st0.replayable st0.me.act = false ∧
    (st0.cluster (clusterOf st0.cur)).inst 1 = none ∧ stM.me.mode = .monitor ∧ isAct stM.cur = true := by decide +kernel

/-- A read that succeeds, with what it gives. -/
theorem exists_ok {α β : Type} {r : Except β α} (p : α → Bool)
    (h : (match r with | .ok x => p x | .error _ => false) = true) : ∃ x, r = .ok x ∧ p x = true := by
  cases r with
  | ok x => exact ⟨x, rfl, h⟩
  | error e => cases h

/-- g5 names queue register q0 of the own block, g6 channel c4, g7 an inbox, g8 a join cell, g9 is no address. -/
def stQ : State := (setr 5 0x3000000000000000 ∘ setr 6 0x5000000002000000 ∘ setr 7 0xD000000000000000 ∘ setr 8 0x7000000000000000 ∘
  setr 9 0x3000000000000001) (guard st0)
theorem maySendQ : MaySend stQ 0x3000000000000000 ∧ MaySend stQ 0x5000000002000000 ∧ MaySend stQ 0xD000000000000000 :=
  ⟨by constructor <;> decide +kernel, by constructor <;> decide +kernel, by constructor <;> decide +kernel⟩
theorem witness_send : stQ.g 5 = 0x3000000000000000 ∧
    malformed (stQ.g 5) = false ∧ maKind (stQ.g 5) = 1 ∧ stQ.me.resent = [] ∧ stQ.answerTo stQ.cur stQ.me.act.pid (stQ.g 5) 8 = .grant ∧
    maKind (stQ.g 8) = 3 ∧ stQ.answerTo stQ.cur stQ.me.act.pid (stQ.g 8) 0 = .grant := by decide +kernel
/-- q0 is full, and channel c4 is bound to another context. -/
def stFull : State := stQ.modBlock 0 fun b =>
  { b with queues := [(0, { items := List.replicate 8 1 })], chans := [(4, { bind := some ⟨0x100, 1, 0xFF, 1, 0, 9⟩ })] }
theorem maySendFull : MaySend stFull 0x3000000000000000 ∧ MaySend stFull 0x5000000002000000 :=
  ⟨by constructor <;> decide +kernel, by constructor <;> decide +kernel⟩
theorem witness_send_of : sendOf stQ (.send 5 1 0 8 false) = some (stQ.g 5, stQ.g 0, (payload 1 8).map stQ.g, none, none) ∧
    sendOf stFull (.sendnb 3 5 1 0 1 false) = some (stFull.g 5, stFull.g 0, (payload 1 1).map stFull.g, none, some 3) ∧
    sendOf stFull (.sendv 5 1 0 false) = some (stFull.g 5, stFull.g 0, [], some (stFull.v 1), none) := ⟨rfl, rfl, rfl⟩
theorem witness_send_refused : malformed (stQ.g 9) = true ∧ maKind (stQ.g 7) = 6 ∧ maKind (stQ.g 0) = 0 ∧
    stFull.answerTo stFull.cur stFull.me.act.pid 0x3000000000000000 1 = .full ∧ stQ.answerTo stQ.cur stQ.me.act.pid 0x5000000002000000 1 = .unbound ∧
    stFull.answerTo stFull.cur stFull.me.act.pid 0x5000000002000000 1 = .refused ∧ stFull.me.act.reply = 0 := by decide +kernel
theorem witness_launch : malformed (stQ.g 7) = false ∧ maKind (stQ.g 7) = 6 ∧ stQ.readWaits (stQ.g 0) 128 = false ∧ (∃ p : List Byte × State, stQ.readS (stQ.g 0) 128 64 = .ok p ∧ decide (p.1.length = 128) = true) := by
  refine ⟨?_, ?_, ?_, exists_ok (fun p : List Byte × State => decide (p.1.length = 128)) (by decide +kernel)⟩ <;> decide +kernel
theorem witness_trigger : isAct st0.cur = true ∧ st0.settled st0.cur = true ∧ st0.me.act.triggered = false ∧ st0.me.act.stage = 0xFF ∧
    (st0.modMyAct fun a => { a with triggered := true }).me.act.triggered = true := by decide +kernel
/-- q0 holds one word. -/
def stQ1 : State := st0.modBlock 0 fun b => { b with queues := [(0, { items := [7] })] }
theorem witness_queues : ((stQ1.block (blockOf stQ1.cur)).queue 0).items.length + ((stQ1.block (blockOf stQ1.cur)).queue 0).reserved < 8 ∧ stQ1.acqWaits = false ∧ stFull.acqWaits = false ∧
    8 ≤ ((stFull.block (blockOf stFull.cur)).queue 0).items.length + ((stFull.block (blockOf stFull.cur)).queue 0).reserved ∧ stQ1.myTurn 0 false = true ∧ stQ1.myTurn 0 true = true ∧
    stFull.settled stFull.cur = true ∧ ((stQ1.block (blockOf stQ1.cur)).queue 0).items = [7] ∧
    ((st0.block (blockOf st0.cur)).queue 0).items = [] ∧ stQ1.settled stQ1.cur = true ∧ isAct stQ1.cur = true := by decide +kernel
/-- s0 has one element, its last; s1 has none yet. -/
def stSt : State := st0.modMyAct fun a => { a with streams := [(0, some { blk := 0, job := 0, buf := [9], ended := true }), (1, some { blk := 0, job := 1 })] }
theorem witness_streams : stSt.me.act.stream 0 = some { blk := 0, job := 0, buf := [9], ended := true } ∧
    stSt.me.act.stream 1 = some { blk := 0, job := 1 } ∧ stSt.me.act.stream 3 = none ∧ stSt.acqWaits = false ∧ isAct stSt.cur = true := by decide +kernel
/-- Bytes 1 and 2 of the channel record at S 0: priority 7, stage 0xFF. -/
def stCh : State := (guard stC).modMem fun m => (m.setByte (bufBase 0 0 + 1) 7).setByte (bufBase 0 0 + 2) 0xFF
theorem witness_chbind : stCh.readWaits (stCh.g 0) 16 = false ∧ stCh.chanNo (blockOf stCh.cur) stCh.me.act.pid 31 = 31 ∧ stCh.myInst = some fnC ∧ (stCh.g 0).toNat < 2 ^ 32 ∧ fnC.digs[(stCh.g 0).toNat]? = some 5 ∧
    (∃ p, stCh.readS (stCh.g 0) 16 16 = .ok p ∧ (decide (field p.1 1 1 ≤ 7 ∧ field p.1 2 1 = 0xFF ∧ field p.1 3 1 = 0 ∧ field p.1 6 2 = 0 ∧
      field p.1 12 4 = 0) && decide (p.2.lookup (clusterOf stCh.cur) stCh.me.act.pid (stCh.me.mode == .monitor) 5 = some entC)) = true) ∧
    ((stCh.block (blockOf stCh.cur)).chan 31).ownedBy stCh.me.act.pid = true ∧ ((stCh.block (blockOf stCh.cur)).chan 31).slots = [] ∧
    ((stCh.block (blockOf stCh.cur)).chan 31).reserved = 0 ∧ ((stCh.block (blockOf stCh.cur)).chan 31).running = 0 := by
  refine ⟨?_, ?_, ?_, ?_, ?_, exists_ok _ (by decide +kernel), ?_, ?_, ?_, ?_⟩ <;> decide +kernel
theorem witness_chinfo : ((stP.modBlock 0 fun b => { b with chans := [(4, { bind := some ⟨0x100, 1, 0xFF, 1, 0, 0⟩ })] }).block 0).chan 4 =
    { bind := some ⟨0x100, 1, 0xFF, 1, 0, 0⟩ } ∧ stP.me.act.pid = 0 := by decide +kernel
/-- j0 is idle, j1 counts 3, j2 is a FORK cell with 2 participants left, j3 a FORK cell set up and not used; all of context 0. -/
def stJ : State := st0.setCluster 0 { st0.cluster 0 with joins := [(1, { mode := some true, count := 3 }), (2, { mode := some false, count := 2 }),
  (3, { mode := some false })] }
theorem witness_joins : ((stJ.cluster (clusterOf stJ.cur)).join 0).foreign stJ.me.act.pid = false ∧ ((stJ.cluster (clusterOf stJ.cur)).join 0).count = 0 ∧
    (stJ.g 1).toNat < 2 ^ 32 ∧ ((stJ.cluster (clusterOf stJ.cur)).join 1).mode = some true ∧ ((stJ.cluster (clusterOf stJ.cur)).join 1).count ≠ 0 ∧
    ((stJ.cluster (clusterOf stJ.cur)).join 1).pid = stJ.me.act.pid ∧ ((stJ.cluster (clusterOf stJ.cur)).join 2).mode = some false ∧
    1 < ((stJ.cluster (clusterOf stJ.cur)).join 2).count.toNat ∧ stJ.settled stJ.cur = true ∧ stJ.quietAt stJ.cur = true ∧ stJ.me.eqops = [] ∧
    stJ.me.act.deferred = none ∧ stJ.me.act.matrixFail = none ∧ stJ.me.act.cardFail = none := by decide +kernel
/-- A launch that has block 0. -/
def launch0 : Launch :=
  { id := 0, pid := 0, vi := 0, src := 0, inbox := 0, widspec := 0, exts := [], base := 0, chk := 0, cquota := 0, stages := [], gang := 0
    param := 0, reply := 0, dep := 0, noComp := false, errStop := false, conf := false, blocks := [0], total := 1 }
def stF : State := { stJ with sys := { stJ.sys with launches := [launch0] } }
theorem target0F : isTarget stF (slotOfOffset stF 0) := by
  refine ⟨?_, fn0, lineFor (encode .nop), ?_, ?_, ?_⟩ <;> decide +kernel
theorem witness_fork : ((stF.cluster (clusterOf stF.cur)).join 3).mode = some false ∧ ((stF.cluster (clusterOf stF.cur)).join 3).count = 0 ∧
    (setr 4 16 (setr 3 100 stF)).g 4 ≠ 0 ∧ stJ.idleOf (stJ.blocksIn (clusterOf stJ.cur) stJ.me.act.launch) = [] ∧
    ((stF.idleOf (stF.blocksIn (clusterOf stF.cur) stF.me.act.launch)).take 7).length = 7 ∧
    ((stF.idleOf (stF.blocksIn (clusterOf stF.cur) stF.me.act.launch)).take 7).Nodup ∧ stF.me.status = .running := by decide +kernel
theorem witness_getc : isAct st0.cur = true ∧ BitVec.ofNat 64 (st0.me.act.stage.toNat * 256 + st0.me.act.chan.toNat) = 0xFF00 := by decide +kernel
theorem witness_setc : ((setr 1 0 st0).g 1).extractLsb' 0 3 = 0 ∧ st0.me.act.prio.toNat < (((setr 1 7 st0).g 1).extractLsb' 0 3).toNat := by decide +kernel
theorem witness_monitor_registers : 0x800 ≤ (0x80A : BitVec 12).toNat ∧ st0.me.mode = .context ∧ stM.me.mode = .monitor ∧ isAct stM.cur = true ∧
    isAct stS.cur = false ∧ BitVec.ofNat 64 stM.me.wdcfg.toNat = 4096 := by decide +kernel

/-- st0 with its accesses protected. -/
def stG : State := guard st0
def entry0 (sp : BitVec 4) : Pent := ⟨0, true, true, sp, 0, 0x3FFFFF, true⟩
theorem localWord_load : LocalWord stG .load .w 0x7FFFF 1 (bufBase 0 2 + 0x7FFFF) 1 := by
  refine ⟨?_, ?_, ?_, ?_, .inr (.inr ⟨rfl, rfl⟩), by decide, ?_, ⟨entry0 2, ?_, .inr rfl, .inl rfl, ?_⟩, .inl (by decide +kernel), ?_,
    ?_, ?_, ?_, ?_, ?_, ?_⟩ <;> decide +kernel
theorem localWord_store : LocalWord stG .store .s 0x3FFF8 8 (bufBase 0 0 + 0x3FFF8) 1 := by
  refine ⟨?_, ?_, ?_, ?_, .inl rfl, by decide, ?_, ⟨entry0 0, ?_, .inl rfl, .inr rfl, ?_⟩, .inl (by decide +kernel), ?_, ?_, ?_, ?_,
    ?_, ?_, ?_⟩ <;> decide +kernel
theorem witness_local : tagMeets .plain (stG.mem.tag ((bufBase 0 2 + 0x7FFFF) / 8)) ∧ tagMeets .wef (stG.mem.tag ((bufBase 0 0 + 0x3FFF8) / 8)) ∧
    (0x7FFFF : Word) = stG.g 0 + stG.g 0 + (0x7FFFF : BitVec 48).signExtend 64 ∧
    (0x3FFF8 : Word) = stG.g 0 + (stG.g 0 <<< sizeNo .d) + (0x3FFF8 : BitVec 48).signExtend 64 := by
  refine ⟨⟨fun h => ?_, fun h => ?_⟩, ⟨fun h => ?_, fun _ => ?_⟩, ?_, ?_⟩
  · rcases h with h | h <;> cases h
  · cases h
  · rcases h with h | h <;> cases h
  · decide +kernel
  · decide +kernel
  · decide +kernel

theorem may_amo : mayAccess stG (.amo 1) .s 0 8 := by
  refine ⟨.inl rfl, by decide, fun h => (by cases h), fun _ => ⟨?_, entry0 0, 1, ?_, .inr rfl, .inr rfl, ?_⟩⟩ <;> decide +kernel
theorem may_load : mayAccess stG .load .xw 0x3FFFF8 8 := by
  refine ⟨⟨by decide, by decide⟩, by decide, fun h => (by cases h), fun _ => ⟨?_, entry0 6, 1, ?_, .inr rfl, .inl rfl, ?_⟩⟩ <;> decide +kernel
theorem may_store : mayAccess stG .store .d 0xFFFFFFFFF8 8 := by
  refine ⟨.inr (.inr (.inr (.inr rfl))), by decide, fun _ => ⟨?_, fun _ => by decide +kernel, fun h => absurd h (by decide +kernel)⟩,
    fun h => absurd rfl h⟩ <;> decide +kernel
theorem witness_accesses : accessOf stG (.amo 1 2 0 3 ⟨.s, .wfe, .d, false, false, .block⟩ 1) =
      some (.amo 1, ⟨.s, .wfe, .d, false, false, .block⟩, .g 1, [(stG.g 2 + stG.g 0, 8, (stG.g 3).toNat % 2 ^ 64, 0)]) ∧
    stG.g 2 + stG.g 0 = 0 ∧ mayAccess stG (.amo 1) .s 0 8 ∧ mayAccess stG .load .xw 0x3FFFF8 8 ∧ mayAccess stG .store .d 0xFFFFFFFFF8 8 ∧
    routineThere stG .load ∧ stG.haz = false ∧ stG.me.act.deferred = none ∧ stG.releaseStalls (dieOf stG.cur) = false := by
  refine ⟨rfl, ?_, may_amo, may_load, may_store, fun k h => (by cases h), ?_, ?_, ?_⟩ <;> decide +kernel
theorem no_grant : ¬ granted st0 .load .s 0 8 := by
  rintro ⟨p, k, h, -⟩
  have h0 : st0.pentFor st0.cur .s 0 8 = none := by decide +kernel
  rw [h0] at h
  cases h
theorem witness_checks : ¬ spaceFor .load .c ∧ spaceFor .load .s ∧ (4 : Word).toNat % 8 ≠ 0 ∧ (flatAddr stG.cur .s 0x3FFF8 8).isSome ∧
    ¬ (flatAddr stG.cur .s 0x40000 8).isSome ∧ granted stG .load .s 0x3FFF8 8 ∧ ¬ granted st0 .load .s 0 8 := by
  refine ⟨fun h => h.1 rfl, ⟨by decide, by decide⟩, by decide, ?_, ?_, ⟨entry0 0, 1, ?_, .inr rfl, .inl rfl, ?_⟩, no_grant⟩ <;> decide +kernel

/-- An outstanding access of thread 0 to the last word of block 1's S buffer. -/
def elem0 : Elem := { ea := 0xBFFF8, size := 8, pa := bufBase 1 0 + 0x3FFF8, key := 1, data := 5 }
def req0 (what : Access) (sync : Sync) (phase : Phase) (e : Elem) : Req := { seq := 3, what, sp := .xs, sync, dst := .g 4, phase, elems := [e] }
def stReq (r : Req) : State := st0.modTh 0 fun x => { x with outst := [r] }
theorem atHome0 : ∀ p ∈ [(Access.load, Sync.wf), (.store, .wef), (.store, .plain), (.amo 1, .plain), (.amof 0, .plain), (.cas, .plain), (.ams 5, .plain)],
    AtHome (stReq (req0 p.1 p.2 .sent elem0)) 0 (req0 p.1 p.2 .sent elem0) elem0 := by
  intro p hp
  simp only [List.mem_cons, List.mem_nil_iff, or_false] at hp
  rcases hp with rfl | rfl | rfl | rfl | rfl | rfl | rfl
  all_goals
    constructor
    all_goals decide +kernel
theorem witness_home : ¬ tagMeets .wf ((stReq (req0 .load .wf .sent elem0)).mem.tag (elem0.pa / 8)) ∧
    tagMeets .wef ((stReq (req0 .store .wef .sent elem0)).mem.tag (elem0.pa / 8)) ∧ amoResult 9 64 0xFFFFFFFF 0xFFFFFFFF = some 0 ∧ elem0.size = 8 ∧
    (stReq (req0 (.amo 1) .plain .sent elem0)).occupied (ownerAt elem0.pa) = false := by
  refine ⟨fun h => absurd (h.1 (.inl rfl)) (by decide +kernel), ⟨fun h => ?_, fun _ => by decide +kernel⟩, by decide, rfl, by decide +kernel⟩
  rcases h with h | h <;> cases h
theorem witness_answers : (stReq (req0 .load .plain .done elem0)).req? 0 3 = some (req0 .load .plain .done elem0) ∧ elem0.res.toNat < 2 ^ (8 * elem0.size) ∧
    (req0 .load .plain .done elem0).orphan = false ∧ (req0 .load .plain .done elem0).err = 0 ∧ isAct 0 = true ∧
    (stReq (req0 .load .plain .done elem0)).me.act.rfault.extractLsb' 60 4 = 0 := by decide +kernel
/-- The service thread of core 0 runs a routine for thread 0's access, in the granule at S 0 of block 0. -/
def serve0 : Service := { thread := 0, seq := 3, sp := .s, base := bufBase 0 0, size := 64, addr := 0, key := 1, pid := 0 }
def stSv : State := { (stReq (req0 (.ams 5) .plain (.serving 0) elem0)).modTh 16384 fun x => { x with serve := some serve0, status := .running } with
  cur := 16384, sys := { st0.sys with routines := [(0, 5, fn0)] } }
theorem witness_routines : (stSv.th (serviceOf 0)).serve = some serve0 ∧ serve0.thread ≠ serviceOf 0 ∧
    stSv.req? serve0.thread serve0.seq = some (req0 (.ams 5) .plain (.serving 0) elem0) ∧ (stSv.th serve0.thread).outst = [req0 (.ams 5) .plain (.serving 0) elem0] ∧
    (stReq (req0 (.ams 5) .plain .sent elem0)).occupied (ownerAt elem0.pa) = false ∧ serviceOf (ownerAt elem0.pa) ≠ 0 ∧
    stSv.sys.routines = [(0, 5, fn0)] := by decide +kernel
theorem witness_routine_access : accessOf stSv (.ld 1 2 0 ⟨.s, .plain, .d, false, false, .block⟩ 56) =
      some (.load, ⟨.s, .plain, .d, false, false, .block⟩, .g 1, [(stSv.g 2 + stSv.g 0 + (56 : BitVec 48).signExtend 64, 8, 0, 0)]) ∧
    isAct stSv.cur = false ∧ stSv.me.serve = some serve0 ∧ serve0.base % serve0.size = 0 ∧ stSv.g 2 + stSv.g 0 + (56 : BitVec 48).signExtend 64 = 56 ∧
    stSv.mem.bad ((serve0.base + 56) / 8) = false ∧ stSv.mem.stamp ((serve0.base + 56) / 8) = 0 ∧ ¬ ((64 : Word).toNat + 8 ≤ 64) := by
  refine ⟨rfl, ?_, ?_, ?_, ?_, ?_, ?_, ?_⟩ <;> decide +kernel
theorem witness_y : stM.me.mode = .monitor ∧ stM.yRead 0x120000000 ≠ none ∧ stM.yRead 0x100040000 = none ∧ stM.yRead 0x10003FFF8 = some 0 ∧
    st0.me.mode = .context ∧ isAct stM.cur = true := by decide +kernel

theorem witness_fence : st0.quietAt st0.cur = true ∧ st0.flight = [] ∧ st0.me.act.deferred = none ∧ stErr.me.act.deferred.isSome = true ∧
    (stReq (req0 .load .plain .sent elem0)).quietAt 0 = false := by decide +kernel
/-- Cell b3 has told thread 0 of its arrival, which b1 has refused; b2 has counted it in a phase that is over; b4 waits for it. -/
def stB : State := (st0.modCluster 0 fun c => { c with bars := [(1, { answers := [(0, 0x12)] }), (3, { answers := [(0, 0)] })] }).modMyAct fun a =>
  { a with arrivals := [(2, .arrived 7), (4, .arrived 0)] }
theorem witness_barriers : barrierEvent stB (.barr 0 .cluster false) = some (0, .arrive stB.cur false) ∧ stB.teamOf stB.me.act = none ∧
    stB.settled stB.cur = true ∧ recordAt stB stB.cur 0 = .none ∧ (cellAt stB 0 0).answers = [] ∧ (cellAt stB 0 0).events = [] ∧
    (cellAt stB 0 3).answers.find? (fun a => a.1 == stB.cur) = some (stB.cur, 0) ∧
    (cellAt stB 0 1).answers.find? (fun a => a.1 == stB.cur) = some (stB.cur, 0x12) ∧ recordAt stB stB.cur 2 = .arrived 7 ∧
    recordAt stB stB.cur 4 = .arrived (Map.get 0 (stB.block (blockOf stB.cur)).phases 4) := by
  refine ⟨rfl, ?_, ?_, ?_, ?_, ?_, ?_, ?_, ?_, ?_⟩ <;> decide +kernel
/-- Thread 0 waits for cell b0, whose batch has its BINIT, and for b1, whose batch has its arrival as the last party. -/
def stBatch (b : BIdx) : State := (st0.modTh 0 fun x => { x with status := .stalled (.barrier b) }).modCluster 0 fun c =>
  { c with bars := [(0, { events := [.init 0 128] }), (1, { owner := some (0, 0), expect := 2, nextExp := 2, arrived := 1, events := [.arrive 0 false] }),
    (2, { owner := some (9, 0), expect := 2, arrived := 1, events := [.arrive 0 true] }), (3, { expect := 2, arrived := 1, events := [.arrive 0 true] })] }
/-- Thread 0 has dropped from b3. -/
def stDrop : State := (stBatch 3).modMyAct fun a => { a with arrivals := [(3, .dropped)] }
theorem witness_refused_arrivals : ((stBatch 2).th 0).status = .stalled (.barrier 2) ∧ (cellAt (stBatch 2) 0 2).events = [.arrive 0 true] ∧
    (cellAt (stBatch 2) 0 2).owner = some (9, 0) ∧ ((stBatch 2).th 0).act.pid = 0 ∧ (cellAt (stBatch 2) 0 2).arrived ≠ (cellAt (stBatch 2) 0 2).expect ∧
    (stDrop.th 0).status = .stalled (.barrier 3) ∧ (cellAt stDrop 0 3).events = [.arrive 0 true] ∧ (cellAt stDrop 0 3).owner = none ∧
    recordAt stDrop 0 3 = .dropped := by decide +kernel
theorem witness_batches : ((stBatch 0).th 0).status = .stalled (.barrier 0) ∧ (cellAt (stBatch 0) 0 0).events = [.init 0 128] ∧
    (cellAt (stBatch 0) 0 0).owner = none ∧ (cellAt (stBatch 0) 0 0).arrived = 0 ∧ (128 : Word).toNat ≤ 128 ∧
    ((stBatch 1).th 0).status = .stalled (.barrier 1) ∧ (cellAt (stBatch 1) 0 1).events = [.arrive 0 false] ∧
    (cellAt (stBatch 1) 0 1).owner = some (((stBatch 1).th 0).act.pid, 0) ∧ (cellAt (stBatch 1) 0 1).chkp ≠ some true ∧ recordAt (stBatch 1) 0 1 = .none ∧
    (cellAt (stBatch 1) 0 1).arrived + 1 = (cellAt (stBatch 1) 0 1).expect ∧ (stBatch 1).teamOf ((stBatch 1).th 0).act = none := by decide +kernel
/-- Thread 0's access was refused by core 16383 with ticket 9, told or not; the entry for the ticket is reserved. -/
def elemT (told : Bool) : Elem := { elem0 with hold := .refused 16383 9 told }
def stT (told : Bool) : State := (stReq (req0 .load .wf .waiting (elemT told))).modOwner 16383 fun o =>
  { o with tickets := [(9, 0, 3)], reserved := [9], next := 11, serve := 10 }
theorem witness_tickets : (stT false).req? 0 3 = some (req0 .load .wf .waiting (elemT false)) ∧ (elemT false).hold = .refused 16383 9 false ∧
    (elemT true).hold = .refused 16383 9 true ∧ ((stT true).owner 16383).tickets = [(9, 0, 3)] ∧ 9 ∈ ((stT true).owner 16383).reserved ∧
    ((stT true).owner 16383).reserved = [9] ∧ ((stT true).owner 16383).serve ≠ ((stT true).owner 16383).next := by decide +kernel
theorem witness_timeouts : (stReq (req0 (.amo 1) .plain .parked elem0)).req? 0 3 = some (req0 (.amo 1) .plain .parked elem0) ∧
    (req0 (.amo 1) .plain .parked elem0).what.isAtom = true ∧ (req0 (.amo 1) .plain .parked elem0).err = 0 ∧
    (stReq (req0 (.amo 1) .plain .parked elem0)).leaf? 0 0 (dLva elem0.ea) = none ∧ st0.unapplied 3 = [] := by decide +kernel

/-- The unit is granted; v2 and v3 hold INT8 lanes, v4 FP32 lanes by their tags. -/
def stV : State := (unit ∘ setv 2 1 100 ∘ setv 3 1 7 ∘ setv 4 8 0x3F800000) st0
theorem hasUnit : HasUnit stV := by constructor <;> decide +kernel
theorem witness_vector : (∃ f, vecLane stV .rne (.vadd 1 2 3 ⟨1, .dyn, true, 0, 0⟩) = some (1, ⟨1, .dyn, true, 0, 0⟩, [2, 3], 1, false, f)) ∧
    (Instr.vadd 1 2 3 ⟨1, .dyn, true, 0, 0⟩).wellFormed = true ∧ Sys2Proof.Num.reserved 1 = false ∧ (stV.v 2).tag = 1 ∧ (stV.v 3).tag = 1 ∧
    (∃ f, vecLane stV .rne (.vsqrt 1 4 ⟨8, .rne, false, 0, 0⟩) = some (1, ⟨8, .rne, false, 0, 0⟩, [4], 8, true, f)) ∧ (stV.v 4).tag = 8 ∧
    roundMode stV .rne = some .rne := by
  refine ⟨⟨_, rfl⟩, ?_, ?_, ?_, ?_, ⟨_, rfl⟩, ?_, ?_⟩ <;> decide +kernel
theorem witness_vector_bits : (∃ b, rawBit stV 0 (.vand 1 2 3 ⟨0, .dyn, false, 0, 0⟩) = some (1, 2, b)) ∧
    (Instr.vand 1 2 3 ⟨0, .dyn, false, 0, 0⟩).wellFormed = true ∧ (Instr.vtag 1 ⟨5, .dyn, false, 0, 0⟩).wellFormed = true :=
  ⟨⟨_, rfl⟩, by decide +kernel, by decide +kernel⟩
theorem witness_vcvt : (Instr.vcvt 1 2 ⟨8, .rne, false, 1, 1⟩).wellFormed = true ∧ Sys2Proof.Num.reserved 8 = false ∧ (stV.v 2).tag = 1 ∧
    min (Sys2Proof.Num.lanes 8) (Sys2Proof.Num.lanes 1) = 64 ∧ (Instr.vext 1 2 3 ⟨1, .dyn, false, 0, 0⟩).wellFormed = true ∧
    (Instr.vred 1 2 ⟨1, .dyn, false, 0, 1⟩).wellFormed = true ∧ (Instr.vred 1 4 ⟨8, .rne, false, 0, 0⟩).wellFormed = true := by decide +kernel
/-- Thread 0 stands first in line for the unit, thread 1 second. -/
def stLine : State := (st0.modTh 0 fun x => { x with status := .stalled .vector }).modBlock 0 fun b => { b with vwait := [0, 1] }
theorem witness_grant : vectorNum (.vadd 1 2 3 ⟨1, .dyn, true, 0, 0⟩) = some ⟨1, .dyn, true, 0, 0⟩ ∧ isAct st0.cur = true ∧
    (st0.block (blockOf st0.cur)).vgrant ≠ some st0.cur ∧ (stLine.block 0).vgrant = none ∧ (stLine.block 0).vwait = [0, 1] ∧
    (stLine.th 0).status = .stalled .vector ∧ (0 : Nat) ∉ [1] ∧ isAct stS.cur = false := by decide +kernel
theorem witness_vector_tag : (∃ f, vecLane stV .rne (.vadd 1 2 4 ⟨1, .dyn, true, 0, 0⟩) = some (1, ⟨1, .dyn, true, 0, 0⟩, [2] ++ 4 :: [], 1, false, f)) ∧
    (stV.v 4).tag ≠ 1 ∧ ∀ q ∈ ([2] : List VIdx), (stV.v q).tag = 1 := ⟨⟨_, rfl⟩, by decide +kernel, by decide +kernel⟩
theorem witness_vector_latch : let s := stV.modBlock 0 fun b => { b with unitBad := true }
    isAct s.cur = true ∧ (s.block (blockOf s.cur)).vgrant = some s.cur ∧ (s.block (blockOf s.cur)).unitBad = true := by decide +kernel
theorem get_all {α : Type} (p : α → Prop) (d : α) (hd : p d) (m : Map α) (h : ∀ e ∈ m, p e.2) (k : Nat) : p (Map.get d m k) := by
  induction m with
  | nil => exact hd
  | cons e m ih =>
    by_cases hk : k = e.1
    · rw [Map.get, if_pos hk]
      exact h e List.mem_cons_self
    · rw [Map.get, if_neg hk]
      exact ih fun e he => h e (List.mem_cons_of_mem _ he)

/-- Numbers of n bytes at offsets of block 0's S. -/
def poke (xs : List (Nat × Nat × Nat)) (s : State) : State :=
  { s with mem := xs.foldl (fun (m : Mem) p => m.write (bufBase 0 0 + p.1) p.2.1 p.2.2) s.mem }
/-- A shape record at offset o: eight elements of a format from S a. -/
def shapeAt (o a fmt : Nat) : List (Nat × Nat × Nat) := [(o, 8, 0xC000000000000000 + a), (o + 8, 1, fmt), (o + 9, 1, 1), (o + 0xC, 4, 8), (o + 0x1C, 4, 1)]
/-- A card at S 0 with its shapes, INT8 both. -/
def stCard (kind : Nat) : State := poke ([(0, 1, kind), (4, 4, 7), (8, 8, 0x100), (0x10, 8, if kind = 2 then 0 else 0x140)] ++ shapeAt 0x100 0x200 1 ++ shapeAt 0x140 0x280 1) stG
def stCardFull : State := (stCard 1).modBlock 0 fun b => { b with jobs := List.replicate 64 { id := 0, eng := .copy, op := .copy 0, thread := 0, issuer := 9, pid := 0, launch := 0, wid := 0 } }
theorem witness_matrix : matrixOp stG (.mzero 3) = some (.mzero 3, 0, 8) ∧ isAct stG.cur = true ∧ stG.settled stG.cur = true ∧
    (stG.block (blockOf stG.cur)).jobs.length < 64 ∧ 64 ≤ (stCardFull.block (blockOf stCardFull.cur)).jobs.length := by
  refine ⟨rfl, ?_, ?_, ?_, ?_⟩ <;> decide +kernel
/-- g1 describes 32 columns of rows of A with a stride of 64 bytes, g2 rows of W, g3 names channel c4 of the own block. -/
def stMat : State := (setr 1 0x0001004000000000 ∘ setr 2 0x0000004000000000 ∘ setr 3 0x5000000002000000) stG
theorem witness_matrix_ok : matrixOk stMat (.mma 1 1 2 ⟨1, .dyn, false, 1, 1⟩) ∧ matrixOk stMat (.mload 1 2 ⟨8, .dyn, false, 0, 0⟩) ∧
    matrixOk stMat (.mdrain 1 3 ⟨8, .dyn, false, 0, 1⟩) := by
  have ok {α : Type} {r : Except Trap α} (h : r.isOk = true) : ∃ x, r = .ok x :=
    match r, h with | .ok x, _ => ⟨x, rfl⟩
  refine ⟨⟨?_, ?_, ?_, ?_, ?_, ok ?_⟩, ⟨?_, ?_, ok ?_⟩, ?_, ?_, ?_, ?_, ?_⟩ <;> decide +kernel
def num1 : Sys2Proof.Num := ⟨1, .dyn, false, 0, 0⟩
theorem witness_cards : ∀ p ∈ [(Instr.swmap 0 0 num1, 0x10), (Instr.cpy 0 0, 1)], ∃ a b ok ins outs rd eng op,
    cardOf (stCard p.2) p.1 = some (a, b, p.2, ok, ins, outs, rd, eng, op) ∧ sweepNumOk (stCard p.2) p.1 ∧
    (∃ x : CardRead × State, (stCard p.2).readCard ((stCard p.2).g a) true = .ok x ∧ (x.2.engineBlock ((stCard p.2).g b) == some 0 && x.1.card.ok p.2 && x.1.srcOk &&
      x.1.dstOk && ok x.1.src x.1.dst x.1.card.flags && replyOk x.1.card.reply && (x.2.placeCheck [(x.1.src, ins), (x.1.dst, outs)]).isNone &&
      (x.2.shapeCheck x.1.src true false).isOk && (x.2.shapeCheck x.1.dst rd true).isOk && !x.1.src.noSpace && !x.1.dst.noSpace && (x.2.xCheck 0 x.1.card.xregions).isNone) = true) ∧
    (stCard p.2).settled (stCard p.2).cur = true := by
  intro p hp
  simp only [List.mem_cons, List.mem_nil_iff, or_false] at hp
  rcases hp with rfl | rfl
  · refine ⟨_, _, _, _, _, _, _, _, rfl, ⟨?_, ?_, ?_⟩, exists_ok _ ?_, ?_⟩ <;> decide +kernel
  · refine ⟨_, _, _, _, _, _, _, _, rfl, trivial, exists_ok _ ?_, ?_⟩ <;> decide +kernel
theorem witness_cpys : (stCard 2).me.act.stream 3 = none ∧ (∃ x : CardRead × State, (stCard 2).readCard 0 false = .ok x ∧ (x.1.card.ok 2 && x.1.srcOk &&
      x.1.card.dst == 0 && decide (x.1.src.fmt.toNat ≤ 14) && replyOk x.1.card.reply && (x.2.placeCheck [(x.1.src, [0, 1, 4, 5, 7])]).isNone &&
      (x.2.shapeCheck x.1.src true false).isOk && (x.2.xCheck 0 x.1.card.xregions).isNone) = true) :=
  ⟨by decide +kernel, exists_ok _ (by decide +kernel)⟩
/-- A relabel card at S 0, its labels UINT32. -/
def stRel : State := poke ([(0, 4, 7), (8, 8, 0x100)] ++ shapeAt 0x100 0x200 6) stG
theorem witness_relabel : (∃ p : List Byte × State, stRel.readS 0 64 16 = .ok p ∧ (field p.1 4 4 == 0 && zeroBytes ((p.1.drop 0x20).take 24) && field p.1 0x10 16 == 0 &&
      replyOk (BitVec.ofNat 64 (field p.1 0x38 8)) && match p.2.readShape 0 (BitVec.ofNat 64 (field p.1 8 8)) with
      | .ok (lab, ok, s2) => ok && relabelOk 0 lab none none && (s2.placeCheck [(lab, [0, 1, 7])]).isNone && (s2.shapeCheck lab false true).isOk
      | .error _ => false) = true) ∧ stRel.engineBlock 0 = some 0 ∧ stRel.me.eqops = [] ∧ stRel.settled stRel.cur = true := by
  refine ⟨exists_ok _ (by decide +kernel), ?_, ?_, ?_⟩ <;> decide +kernel

/-- Jobs of thread 0's activation, whose number is 1, over eight INT8 elements of S. -/
def shS (a : Word) (fmt : BitVec 5) : Shape := { sp := 0, blk := 0, fmt, addr := a, rank := 1, sizes := [8, 1, 1, 1], strides := [1, 0, 0, 0] }
def jobOf (eng : Engine) (op : JobOp) (phase : JobPhase) : Job :=
  { id := 1, eng, op, phase, thread := 0, issuer := 1, pid := 0, launch := 0, wid := 0, reply := 0x3000000000000000
    src := some (shS 0x200 1), dst := some (shS 0x280 1) }
def stE (js : List Job) : State := (stG.modMyAct fun a => { a with id := 1 }).modBlock 0 fun b => { b with jobs := js, nextJob := 2 }
def jobV := jobOf .vector (.swmap num1)
def jobM (op : JobOp) := jobOf .matrix op
theorem witness_starts : ∀ p ∈ [(jobV .pending, Engine.vector), (jobOf .copy (.copy 0) .pending, .copy)],
    (stE [p.1]).job? 0 1 = some p.1 ∧ (stE [p.1]).nextJobOf 0 p.2 = some p.1 ∧ p.1.waits.all (stE [p.1]).waitMet = true ∧ (stE [p.1]).engineFree 0 p.2 = true := by
  decide +kernel
theorem issuer0 : ∀ p ∈ [jobM (.mdrain 1 0 ⟨5, .dyn, false, 0, 0⟩) .pending, jobOf .copy (.stream 2) .started], Issuer (stE [p]) p 0 := by
  intro p hp
  simp only [List.mem_cons, List.mem_nil_iff, or_false] at hp
  have only : ∀ s ∈ [stE [jobM (.mdrain 1 0 ⟨5, .dyn, false, 0, 0⟩) .pending], stE [jobOf .copy (.stream 2) .started]], ∀ u < 16, u ≠ 0 → (s.th u).act.id ≠ 1 := by
    decide +kernel
  have place : ∀ u, blockOf u = blockOf 0 → isAct u = true → u < 16 := by
    intro u hb ha
    simp only [blockOf, isAct, decide_eq_true_eq] at hb ha
    omega
  rcases hp with rfl | rfl
  · refine ⟨?_, ?_, ?_, ?_, fun u ha hb hu => only _ (by simp) u (place u hb ha) hu⟩ <;> decide +kernel
  · refine ⟨?_, ?_, ?_, ?_, fun u ha hb hu => only _ (by simp) u (place u hb ha) hu⟩ <;> decide +kernel
def drain5 : Job := jobM (.mdrain 1 0 ⟨5, .dyn, false, 0, 0⟩) .pending
theorem witness_matrix_start : (stE [drain5]).nextJobOf 0 .matrix = some drain5 ∧ drain5.waits.all (stE [drain5]).waitMet = true ∧ (stE [drain5]).sliceFree 0 = true ∧
    drain5.joint = none ∧ drain5.eng = .matrix ∧ drain5.op.needs = some 5 ∧ (stE [drain5]).tileTag 0 drain5.op.tile = 8 ∧ (stE [drain5]).me.act.mstat = 0 ∧
    (stE [jobM (.mzero 2) .pending]).nextJobOf 0 .matrix = some (jobM (.mzero 2) .pending) ∧ (jobM (.mzero 2) .pending).op.needs = none := by decide +kernel
/-- A forest of four elements in S of block 0, each its own root; thread 0 has operations on it. -/
def quern0 : Quern := { bound := true, n := 4, base := 0, classes := 4 }
def stQu (js : List Job) (os : List EqOp) : State :=
  (poke ((List.range 4).map fun i => (8 * i, 8, 2 ^ 32 + i)) (stE js)).modBlock 0 (fun b => { b with quern := quern0 }) |>.modTh 0 fun x => { x with eqops := os }
def jobR (phase : JobPhase) : Job := { jobOf .equiv (.relabel false 0) phase with src := none, dst := some { shS 0x280 6 with sizes := [4, 1, 1, 1] } }
theorem witness_relabel_start : (stQu [jobR .pending] []).nextJobOf 0 .equiv = some (jobR .pending) ∧ (stQu [jobR .pending] []).engineFree 0 .equiv = true ∧
    (stQu [jobR .pending] []).relabelForest 0 (jobR .pending) false = .ok quern0 ∧
    (∀ b ∈ groupOfBlocks 0 quern0.lg, ((stQu [jobR .pending] []).quern b).due = false ∧ ((stQu [jobR .pending] []).quern b).held = false) ∧
    (∀ e ∈ (stQu [jobR .pending] []).threads, e.2.eqops = []) := by
  refine ⟨?_, ?_, rfl, ?_, ?_⟩ <;> decide +kernel
theorem calmE (js : List Job) : ∀ o, ((stE js).owner o).retry = [] := by
  intro o
  have h : ∀ e ∈ stG.owners, e.2.retry = [] := by decide +kernel
  exact get_all (fun x : Owner => x.retry = []) {} rfl stG.owners h o
theorem witness_reads : EngineReads (stE [jobV .started]) 0 (jobV .started) (keyed (shS 0x200 1).keys (shS 0x200 1).words) ∧
    [(jobV .started).src, (jobV .started).dst, (jobV .started).out].any (fun h => h.any (·.noSpace)) = false ∧
    (jobOf .copy (.copy 0) .started).readsDst = false := by
  refine ⟨⟨?_, (fun _ _ h => nomatch h), ?_, ?_, ?_, ?_, calmE _⟩, ?_, ?_⟩ <;> decide +kernel
def load0 : Job := jobM (.mma 1 0x0001000000000000 0 ⟨1, .dyn, false, 1, 1⟩ false) .started
theorem witness_matrix_reads : EngineReads (stE [load0]) 0 load0 ((load0.operands 0).flatMap fun o => keyed [(o.2.1, o.2.2.1)] (o.1.words 0 o.2.2.2)) ∧ load0.operands 0 ≠ [] ∧
    ((stE [load0]).castTo 0 load0).head?.all (fun e => e.1 == 0) = true ∧ load0.badBfp 0 = none := by
  refine ⟨⟨?_, (fun _ _ h => nomatch h), ?_, ?_, ?_, ?_, calmE _⟩, ?_, ?_, rfl⟩ <;> decide +kernel
def wordsR : List Nat := (List.range 4).map (eqKey 0 quern0)
theorem calmQu (js : List Job) (os : List EqOp) (o : Nat) : ((stQu js os).owner o).retry = [] := calmE js o
theorem witness_relabel_reads : EngineReads (stQu [jobR .started] []) 0 (jobR .started) (keyed ((groupOfBlocks 0 quern0.lg).map fun b => (b, ((stQu [jobR .started] []).quern b).key)) wordsR) ∧ (stQu [jobR .started] []).forest? 0 0 = some quern0 ∧
    (relabelResult { jobR .started with image := contents (stQu [] []) wordsR } 0 quern0 false 0 == some ([0, 1, 2, 3], [], 0)) = true ∧
    [(jobR .started).dst, (jobR .started).out].any (fun h => h.any (·.noSpace)) = false := by
  refine ⟨⟨?_, (fun _ _ h => nomatch h), ?_, ?_, ?_, ?_, calmQu _ _⟩, rfl, ?_, ?_⟩ <;> decide +kernel
def stStream : State := (stE [jobOf .copy (.stream 2) .started]).modMyAct fun a => { a with streams := [(2, some { blk := 0, job := 1 })] }
theorem witness_stream_read : (shS 0x200 1).units[(0 : Nat)]? = some 0x1000 ∧ stStream.me.act.stream 2 = some { blk := 0, job := 1 } ∧
    EngineReads stStream 0 (jobOf .copy (.stream 2) .started) (keyed (shS 0x200 1).keys (bitWords ((shS 0x200 1).flatBit 0x1000) (shS 0x200 1).unitBits)) ∧
    imageBits (contents stStream (bitWords ((shS 0x200 1).flatBit 0x1000) (shS 0x200 1).unitBits)) ((shS 0x200 1).flatBit 0x1000) (shS 0x200 1).unitBits = some 0 := by
  refine ⟨?_, ?_, ⟨?_, (fun _ _ h => nomatch h), ?_, ?_, ?_, ?_, calmE []⟩, ?_⟩ <;> decide +kernel
def drain4 : Job := jobM (.mdrain 1 0x5000000002000000 ⟨8, .dyn, false, 0, 1⟩) .started
def stDr : State := (stE [drain4]).modBlock 0 fun b => { b with chans := [(4, { bind := some ⟨0x100, 1, 0xFF, 1, 0, 0⟩ })] }
theorem witness_tiles : (stE [jobM (.mzero 2) .started]).job? 0 1 = some (jobM (.mzero 2) .started) ∧ fmtBits 8 = 32 ∧ stDr.job? 0 1 = some drain4 ∧
    drain4.pos < 64 ∧ maKind 0x5000000002000000 = 2 ∧ maBlock 0x5000000002000000 = 0 ∧ stDr.answerHere drain4.pid 0x5000000002000000 0 = .grant ∧
    stDr.tilePoisoned 0 1 drain4.pos 1 = false := by decide +kernel
def readV : Job := { jobV .consumed with image := contents (stE []) (shS 0x200 1).words }
def readC : Job := { jobOf .copy (.copy 1) .consumed with image := contents (stE []) (shS 0x200 1).words }
theorem witness_completes : (∃ s1, (stE [readV]).engineWrite 0 readV (shS 0x280 1) .plain (sweepResult readV (shS 0x200 1) (shS 0x280 1)).1 = (some 0, s1)) ∧
    (sweepResult readV (shS 0x200 1) (shS 0x280 1)).2 = (0, 0) ∧ (shS 0x200 1).badExponent readC.image = false ∧
    (∃ s1, (stE [readC]).engineWrite 0 readC { shS 0x280 1 with sizes := [8, 1, 1, 1] } .sf (((shS 0x200 1).values readC.image).map (shS 0x200 1).padded) = (some 0, s1)) ∧ readV.reply ≠ 0 ∧
    (shS 0x280 1).mayWrite (stE [readV]) readV = true ∧ (stE [readV]).pace = none ∧
    (((stE [readV]).engineWrite 0 readV (shS 0x280 1) .plain (sweepResult readV (shS 0x200 1) (shS 0x280 1)).1).2.job? 0 1).any (fun k => k.haz == some true) = false := by
  refine ⟨⟨_, Prod.ext (by decide +kernel) rfl⟩, ?_, ?_, ⟨_, Prod.ext (by decide +kernel) rfl⟩, ?_, ?_, ?_, ?_⟩ <;> decide +kernel
def readR : Job := { jobR .consumed with labels := [0, 1, 2, 3], outs := [(0x300 * 8, 9)], out := some (shS 0x300 6) }
/-- Its labels are written. -/
def stLab : State := ((stQu [readR] []).engineWrite 0 readR { shS 0x280 6 with sizes := [4, 1, 1, 1] } .plain readR.labels).2
theorem witness_relabel_completes : readR.pos < 3 ∧ readR.flags = 0 ∧ readR.status = 0 ∧
    (∃ s1, (stQu [readR] []).engineWrite 0 readR { shS 0x280 6 with sizes := [4, 1, 1, 1] } .plain readR.labels = (some 0, s1)) ∧
    (∃ s1, (stLab.modJob 0 1 fun k => { k with pos := 3 }).engineWriteAt 0 readR (shS 0x300 6) .plain readR.outs 1 false = (some 0, s1)) := by
  refine ⟨?_, ?_, ?_, ⟨_, Prod.ext (by decide +kernel) rfl⟩, ⟨_, Prod.ext (by decide +kernel) rfl⟩⟩ <;> decide +kernel
theorem witness_writes : EngineReads (stE [readV]) 0 readV (keyed (shS 0x280 1).keys (shS 0x280 1).words) ∧
    (stE [readV]).job? 0 1 = some readV ∧ (sweepResult readV (shS 0x200 1) (shS 0x280 1)).2.2 = 0 ∧
    EngineReads (stE [readC]) 0 readC (keyed (shS 0x280 1).keys (shS 0x280 1).words) ∧ (stE [readC]).job? 0 1 = some readC ∧
    (∀ b ∈ (shS 0x280 1).units, 0 ≤ b) ∧ (shS 0x280 1).units.length = ((shS 0x200 1).values readC.image).length := by
  refine ⟨⟨?_, (fun _ _ h => nomatch h), ?_, ?_, ?_, ?_, calmE _⟩, ?_, ?_, ⟨?_, (fun _ _ h => nomatch h), ?_, ?_, ?_, ?_, calmE _⟩, ?_, ?_, ?_⟩ <;> decide +kernel
theorem witness_relabel_writes : let lab : Shape := { shS 0x280 6 with sizes := [4, 1, 1, 1] }
    (stQu [readR] []).job? 0 1 = some readR ∧ readR.dst = some lab ∧ EngineReads (stQu [readR] []) 0 readR (keyed lab.keys lab.words) ∧
    EngineReads (stQu [readR] []) 0 readR (keyed (shS 0x300 6).keys (shS 0x300 6).words) ∧ (∀ p ∈ readR.outs, p.1 ∈ (shS 0x300 6).units) ∧
    ∀ w ∈ (shS 0x300 6).words, w ∈ lab.words → keyIn (shS 0x300 6).keys w = keyIn lab.keys w := by
  refine ⟨?_, rfl, ⟨?_, (fun _ _ h => nomatch h), ?_, ?_, ?_, ?_, calmQu _ _⟩, ⟨?_, (fun _ _ h => nomatch h), ?_, ?_, ?_, ?_, calmQu _ _⟩, ?_, ?_⟩ <;> decide +kernel
def msg0 : Msg := { dest := 0x3000000000000000, payload := [7] }
def jobH : Job := { jobV .held with msg := some msg0 }
theorem witness_delivery : engineAt 0 = .vector ∧ (stE [jobH]).heldOf 0 .vector = [jobH] ∧ jobH.away = false ∧ maLocal msg0.dest = true ∧ malformed msg0.dest = false ∧
    maKind msg0.dest = 1 ∧ maDie msg0.dest = msg0.die ∧ (stE [jobH]).refuses msg0.pid = false ∧ 1 ≤ (((stE [jobH]).block 0).queue 0).room ∧
    (stE [jobH]).turn 0 0 false (engineThread 0 0) = true ∧ msg0.payload.length = 1 ∧ msg0.dest = jobH.reply ∧
    (stE [jobH]).selected (0, BitVec.allOnes 32) = [jobH] ∧ jobH.cancelled = false ∧ ((stFull.block 0).queue 0).room = 0 := by decide +kernel
def jointOf (word : InstrWord) : Job := { jobM (.mzero 2) .pending with word, joint := some 0, launch := 5 }
def gang0 : Launch := { launch0 with id := 5, gang := 2 }
/-- Two slices of a gang whose next job is the joint one, or one of them. -/
def stGang (two : Bool) : State :=
  let s := stE [jointOf 0]
  let u : State := { s with sys := { s.sys with launches := [gang0] } }
  if two then u.modBlock 1 fun b => { b with jobs := [jointOf 0] } else u
theorem witness_gangs : (stGang true).gangParts 0 = [(0, jointOf 0), (1, jointOf 0)] ∧ (stGang true).gangBroken 0 5 = false ∧ (stGang true).gangOf 5 = 2 ∧
    (jointOf 0).op.needs = none ∧ (stGang true).tilePoisoned 0 2 0 64 = false ∧ (stGang true).job? 1 1 = some (jointOf 0) ∧
    (stGang false).gangParts 0 = [(0, jointOf 0)] ∧ 2 ≤ (stGang false).gangOf 5 ∧ (stGang false).me.act.mstat = 0 := by
  refine ⟨rfl, ?_, ?_, ?_, ?_, ?_, ?_, ?_, ?_⟩ <;> decide +kernel
theorem issuer_gang : Issuer (stGang false) (jointOf 0) 0 := by
  have only : ∀ u < 16, u ≠ 0 → ((stGang false).th u).act.id ≠ 1 := by decide +kernel
  refine ⟨?_, ?_, ?_, ?_, fun u ha hb hu => only u ?_ hu⟩
  all_goals try decide +kernel
  simp only [blockOf, isAct, decide_eq_true_eq] at hb ha
  omega
theorem witness_waits : (∀ j ∈ ((stE [jobV .pending]).block 0).jobs, j.op.isMatrix = true → j.op.tile ≠ 2) ∧ stG.me.act.matrixFail = none ∧
    (∃ j ∈ ((stE [jobM (.mzero 2) .pending]).block 0).jobs, j.op.isMatrix = true ∧ j.op.tile = 2 ∧ j.id < ((stE [jobM (.mzero 2) .pending]).block 0).nextJob) ∧
    (stE [jobM (.mzero 2) .pending]).me.bound = none ∧ stMfail.me.act.matrixFail.isSome = true ∧ (stE [jobV .pending]).pendOf 0 true = 0 := by
  refine ⟨by decide +kernel, by decide +kernel, ⟨jobM (.mzero 2) .pending, List.mem_singleton.2 rfl, by decide +kernel⟩, ?_, ?_, ?_⟩ <;> decide +kernel
theorem witness_selected : (stE [jobV .pending]).jobSel 0xFFFFFFFF = some (0, BitVec.allOnes 32) ∧ (stE [jobV .pending]).selected (0, BitVec.allOnes 32) = [jobV .pending] ∧
    (stE [jobV .pending]).selected (0, 5) = [] ∧ (jobV .pending).op.isStream = false ∧ (stE [jobV .pending]).jobSel 0x1000000000 = none := by decide +kernel

def op0 : EqOp := { kind := 1, dst := 4, begun := true, atX := 2 }
def opU : EqOp := { kind := 0, dst := 4, begun := true, rootX := some (1, 1), rootY := some (2, 1) }
theorem onForest (o : EqOp) (h : o = op0 ∨ o = { op0 with result := some 2 } ∨ o = opU) : OnForest (stQu [] [o]) 0 o [] quern0 := by
  rcases h with rfl | rfl | rfl
  all_goals exact ⟨by decide +kernel, by decide +kernel, rfl, by decide +kernel, by decide +kernel⟩
/-- A forest record at S 0: base S 0x100, four elements. -/
def stInit : State := poke [(0, 8, 0xC000000000000100), (8, 4, 4)] stG
theorem witness_eqinit : (∃ p : List Byte × State, stInit.readS 0 16 16 = .ok p ∧ (field p.1 8 4 == 4 && field p.1 0xC 4 == 0 &&
      decide (baseForm (BitVec.ofNat 64 (field p.1 0 8)) = (0, 0x100)) && (p.2.eqKeys 0x100 32 (groupOfBlocks 0 0)).isOk && !p.2.eqBusy (p.2.eqOld (groupOfBlocks 0 0) 0) && !p.2.eqClaimed (groupOfBlocks 0 0)) = true) ∧ stInit.me.late = false ∧ stInit.readWaits 0 16 = false ∧
    (∀ b ∈ stInit.eqOld (groupOfBlocks (blockOf stInit.cur) 0) stInit.me.act.pid, (stInit.quern b).due = false ∧ (stInit.quern b).held = false) ∧
    (∀ b ∈ groupOfBlocks (blockOf stInit.cur) 0, (stInit.quern b).bound = true → (stInit.quern b).pid = stInit.me.act.pid) ∧
    forestOp stG (.eqfind 4 5) = some (1, 4, stG.g 5, 0) := by
  refine ⟨exists_ok _ (by decide +kernel), ?_, ?_, ?_, ?_, rfl⟩ <;> decide +kernel
def stDue : State := stG.modBlock 0 fun b => { b with quern := { quern0 with due := true } }
theorem witness_forest : (stDue.quern 0).bound = true ∧ (stDue.quern 0).due = true ∧ (stDue.quern 0).dev = false ∧ (stDue.quern 0).n ≤ 2 ^ 24 ∧ (stDue.quern 0).base.toNat % 8 = 0 ∧
    (∀ i < (stDue.quern 0).n, eqOwner 0 (stDue.quern 0) i = 0 → stDue.held (8 * entryWord 0 (stDue.quern 0) i) = false) ∧
    stG.forest? 0 stG.me.act.pid = none ∧ op0.mon = false := by
  refine ⟨?_, ?_, ?_, ?_, ?_, ?_, rfl, ?_⟩ <;> decide +kernel
theorem witness_walk : entryReads (stQu [] [op0]) 0 quern0 2 ∧ parentAt (stQu [] [op0]) 0 quern0 2 = 2 ∧ op0.steps ≤ quern0.n ∧
    entryReads (stQu [] [opU]) 0 quern0 1 ∧ parentAt (stQu [] [opU]) 0 quern0 1 = 1 ∧ ((stQu [] [opU]).home 0 quern0).snap = none ∧
    quern0.base.toNat + 8 * quern0.n ≤ 0x40000 ∧ (∀ x ∈ [1, 2], (stQu [] [opU]).held (8 * entryWord 0 quern0 x) = false) ∧ sizeAt (stQu [] [opU]) 0 quern0 1 + sizeAt (stQu [] [opU]) 0 quern0 2 ≤ 2 ^ 24 := by
  refine ⟨⟨?_, .inl ?_⟩, ?_, ?_, ⟨?_, .inl ?_⟩, ?_, ?_, ?_, ?_, ?_⟩ <;> decide +kernel
/-- Bytes at flat addresses: the address, how many, and their value. -/
def pokeAt (xs : List (Nat × Nat × Nat)) (s : State) : State := { s with mem := xs.foldl (fun (m : Mem) p => m.write p.1 p.2.1 p.2.2) s.mem }
def chan4 : CIdx := 4
def bind4 : Binding := ⟨0x100, 1, 0xFF, 1, 5, 0⟩
/-- A message to c4, to q0, to j1, to S 0x40 of block 0. -/
def msgTo (dest : Word) : Msg := { dest, payload := [7], reply := 9, wid := 10, src := 11 }
def dests : List Word := [0x5000000002000000, 0x3000000000000000, 0x7000000000400000, 0x9000000000000040]
def stMsg (dest : Word) : State := { (stJ.modBlock 0 fun b => { b with chans := [(4, { bind := some bind4 })] }) with flight := [msgTo dest] }
theorem witness_arrives (d : Word) (h : d ∈ dests) : Arrives (stMsg d) 0 (msgTo d) := by
  simp only [dests, List.mem_cons, List.mem_nil_iff, or_false] at h
  rcases h with rfl | rfl | rfl | rfl
  all_goals refine ⟨?_, ?_, fun j hj => absurd hj (Nat.not_lt_zero j), ?_⟩ <;> decide +kernel
theorem witness_deliveries : dests.map maKind = [2, 1, 3, 4] ∧ ((stMsg 0x5000000002000000).block 0).chan 4 = { bind := some bind4 } ∧
    ((stJ.cluster 0).join (maJoin 0x7000000000400000)).count = 3 ∧ maDevice 0x9000000000000040 = false ∧ (stMsg 0).held (bufBase 0 0 + 0x40) = false ∧
    ((stMsg 0).owner (ownerAt (bufBase 0 0 + 0x40))).retry = [] ∧ (msgTo 0).origin = .host 0 := by decide +kernel
/-- Thread 0 stalls on a SEND to q0. -/
def stSend : State := ((placed (encode (.send 5 1 0 1 false)) (setr 5 0x3000000000000000)).modTh 0 fun x =>
  { x with status := .stalled .send, sendDst := some { dst := 0x3000000000000000, words := 1 } })
theorem witness_sender : (stSend.th 0).status = .stalled .send ∧ (stSend.th 0).paired = false ∧ stSend.instrAt 0 = some (.send 5 1 0 1 false) ∧
    stSend.fab.unacked = [] ∧ malformed (stSend.g 5) = false ∧ (stSend.th 0).resent = [] ∧ stSend.answerTo 0 (stSend.th 0).act.pid (stSend.g 5) 1 = .grant ∧
    (stSend.th 0).sendDst = some { dst := stSend.g 5, words := (1 : BitVec 5).toNat } ∧ 1 ≤ maKind (stSend.g 5) ∧ maKind (stSend.g 5) ≤ 4 ∧
    MaySend stSend (stSend.g 5) := by
  refine ⟨?_, ?_, ?_, ?_, ?_, ?_, ?_, ?_, ?_, ?_, by constructor <;> decide +kernel⟩ <;> decide +kernel
def stPop : State := ((placed (encode (.qpop 1 0)) id).modTh 0 fun x => { x with status := .stalled (.queue 0 true) }).modBlock 0 fun b =>
  { b with queues := [(0, { items := [7], waiters := [0] })] }
def stPush : State := ((placed (encode (.qpush 0 1)) id).modTh 0 fun x => { x with status := .stalled (.queue 0 false) }).modBlock 0 fun b =>
  { b with queues := [(0, { waiters := [0] })] }
theorem witness_waiters : ((stPop.block 0).queue 0).waiters = [0] ∧ stPop.instrAt 0 = some (.qpop 1 0) ∧ stPush.instrAt 0 = some (.qpush 0 1) ∧
    1 ≤ ((stPush.block 0).queue 0).room ∧ stPush.settled 0 = true ∧ stPop.acqWaits = false ∧ stPush.acqWaits = false ∧ (stPush.th 0).paired = false ∧ { msgTo 0 with applied := false, stamp := [1, 0, 0, 0] }.applied = false := by decide +kernel
/-- A launch with number 5 has channel c4 of block 0 with a message at its head; every core is idle. -/
def launch5 : Launch := { launch0 with id := 5, stages := [(4, 1, 1, 0xFF)] }
def stDisp : State := let s := (stG.modTh 0 fun x => { x with status := .idle }).modBlock 0 fun b => { b with chans := [(4, { bind := some bind4, slots := [msgTo 0] })] }
  { s with sys := { s.sys with launches := [launch5] } }
def disp0 : Displaced := { act := { prio := 7 }, atSend := none, since := 0 }
def stDisp2 : State := stDisp.modBlock 0 fun b => { b with displaced := [disp0] }
theorem witness_dispatch : stDisp.freeCore 0 = some 0 ∧ bestOf (stDisp.candidates 0) = some (.chan 4, 1) ∧ ((stDisp.block 0).chan 4).bind = some bind4 ∧
    ((stDisp.block 0).chan 4).slots = msgTo 0 :: [] ∧ traceTen (stDisp.th 0) = false ∧ bestOf (stDisp2.candidates 0) = some (.displaced 0, 7) ∧
    (stDisp2.block 0).displaced[(0 : Nat)]? = some disp0 := by decide +kernel
def owe9 : Owed := { cont := 9, pid := 0, wid := 2, prio := 1, deadline := 8, chan := 0, stage := 0xFF, launch := 5, blocks := [0], src := 7 }
def stOwe : State := st0.setCluster 0 { st0.cluster 0 with joins := [(3, { owed := [owe9] })] }
theorem witness_owed : ((stOwe.cluster 0).join 3).owed = owe9 :: [] ∧ (stOwe.idleOf owe9.blocks).head? = some 1 := by decide +kernel
/-- Thread 0, of stage 0, waits to send to the full channel c4 of stage 1; every core runs; c5, of stage 1, has a message. -/
def full4 : Channel := { bind := some ⟨0x100, 1, 1, 1, 5, 0⟩, slots := List.replicate 16 (msgTo 0) }
def stLong : State :=
  let s := (List.range 16).foldl (fun (s : State) t => s.modTh t fun x => { x with mode := .context, status := .running })
    (placed (encode (.send 5 1 0 1 false)) (setr 5 0x5000000002000000))
  let u := (s.modTh 0 fun x => { x with status := .stalled .send, sendDst := some { dst := 0x5000000002000000, words := 1 }, sendWait := 256, act := { x.act with stage := 0 } }).modBlock 0 fun b =>
    { b with chans := [(4, full4), (5, { bind := some ⟨0x100, 1, 1, 1, 5, 0⟩, slots := [msgTo 0] })] }
  { u with sys := { u.sys with launches := [launch5] } }
theorem witness_long : (stLong.th 0).sendDst = some { dst := 0x5000000002000000, words := 1 } ∧ (stLong.th 0).mode = .context ∧ (stLong.th 0).status = .stalled .send ∧ 256 ≤ (stLong.th 0).sendWait ∧
    (stLong.th 0).sendAns = none ∧ (stLong.th 0).eqops = [] ∧ stLong.quietAt 0 = true ∧ stLong.freeCore 0 = none ∧
    maKind 0x5000000002000000 = 2 ∧ stLong.maHere (stLong.th 0).act.pid 0x5000000002000000 = true ∧
    ((stLong.block 0).chan (stLong.chanOf (stLong.th 0).act.pid 0x5000000002000000)).full = true ∧
    (stLong.th 0).act.stage = 0 ∧ (stLong.block 0).sendRecords < 128 ∧ stLong.dispatchable 0 ((stLong.block 0).chan 5) = true := by decide +kernel

/-- Context 0 has the first GiB of tier 0 at LVA 0, by a table at 0x1000; a channel table at 0x4000. -/
def mapped (s : State) : State :=
  (pokeAt [(ctxAddr 0, 8, 2 ^ 63), (ctxAddr 0 + 8, 8, 2 ^ 63 + 0x1000), (tierBase 0 + 0x1000, 8, 15 * 2 ^ 60), (0x4000, 1, 5)] s).modMem
    fun m => { m with macOk := [((tierBase 0 + 0x1000) / 128, true), (0x4000 / 128, true)] }
/-- A header for block 0 of cluster 0, channel c4, that reports to q0. -/
def headBytes (fl : Nat) : List Byte := leBytes 8 0x4000 ++ leBytes 8 (fl * 2 ^ 32) ++ List.replicate 40 0 ++ leBytes 8 0x0004010100000001 ++ [0, 0xFF, 1, 0] ++
  List.replicate 20 0 ++ leBytes 8 0x3000000000000000 ++ List.replicate 32 0
def head0 (fl : Nat) : Header := { bytes := headBytes fl, src := 11, seq := 1, pid := 0, vi := 0 }
def stHead (fl : Nat) : State := (mapped st0).modCluster 0 fun c => { c with inbox := [head0 fl] }
def stHead0 (fl : Nat) : State := (stHead fl).modCluster 0 fun c => { c with inbox := [] }
theorem some_of {α : Type} {r : Option α} (p : α → Bool) (h : (match r with | some x => p x | none => false) = true) : ∃ x, r = some x ∧ p x = true := by
  cases r with
  | some x => exact ⟨x, rfl, h⟩
  | none => cases h
theorem reportable0 : reportable (parseHead (headBytes 0)).reply := by
  refine ⟨?_, ?_, ?_⟩ <;> decide +kernel
theorem witness_header : ((stHead 0).cluster 0).inbox = head0 0 :: [] ∧ (stHead 0).stampOk 0 (head0 0).stamp = true ∧ (stHead 0).sys.launches = [] ∧
    (stHead 0).sys.retired = [] ∧ (stHead0 0).refuses 0 = false ∧ (parseHead (headBytes 0)).nstage = 0 := by decide +kernel
theorem witness_accepted : ∃ x : List Digest × State, (stHead0 0).readDigests 0 0 0x4000 [0] = some x ∧
    (decide (x.1.length = 1) && (x.2.refusal (parseHead (headBytes 0)) 0 (some []) (some x.1)).isNone) = true := some_of _ (by decide +kernel)
theorem witness_refused : ∃ x : List Digest × State, (stHead0 8).readDigests 0 0 0x4000 [0] = some x ∧
    (x.2.refusal (parseHead (headBytes 8)) 0 (some []) (some x.1) == some 0x01) = true := some_of _ (by decide +kernel)
theorem witness_room : ∀ c, ((stHead 0).cluster c).dir.length + 8 ≤ 4096 := by
  have h : ∀ e ∈ (stHead 0).clusters, e.2.dir.length + 8 ≤ 4096 := by decide +kernel
  exact get_all (fun c : Cluster => c.dir.length + 8 ≤ 4096) {} (by decide) (stHead 0).clusters h
def stFroze : State := let s := stHead 0; { s with sys := { s.sys with quarantined := [0] } }
theorem witness_frozen : (stFroze.modCluster 0 fun c => { c with inbox := [] }).refuses 0 = true ∧
    (let s := stHead 0; { s with sys := { s.sys with launches := [{ launch0 with id := s.launchId (head0 0), reply := 0x3000000000000000 }] } : State }).launch? ((stHead 0).launchId (head0 0)) ≠ none := by
  decide +kernel
/-- Its launch is checkpointed, and a fault has ended the team of its next activation. -/
def launchD : Launch := { launch5 with chk := 0, deadTeams := [teamKey launch5.widspec 0 (launch5.widOf 0)] }
theorem witness_dead : launchD.stopped = false ∧ launchD.finished = false ∧ launchD.nextEnum < launchD.total ∧ launchD.chk ≠ 0xFF ∧
    launchD.deadTeams.contains (teamKey launchD.widspec launchD.chk.toNat (launchD.widOf launchD.nextEnum)) = true := by decide +kernel
def stEnum (l : Launch) : State := let s := stG.modBlock 0 fun b => { b with chans := [(4, { bind := some bind4 })] }; { s with sys := { s.sys with launches := [l] } }
theorem witness_launches : (stEnum launch5).launch? 5 = some launch5 ∧ launch5.stopped = false ∧ launch5.finished = false ∧ launch5.nextEnum < launch5.total ∧ launch5.deadTeams.contains (teamKey launch5.widspec launch5.chk.toNat (launch5.widOf 0)) = false ∧
    ((stEnum launch5).block 0).chan (firstChan launch5) = { bind := some bind4 } ∧ (stEnum launch5).refuses launch5.pid = false ∧
    (stEnum { launch5 with dispatched := 1 }).channelsEmpty 5 = true ∧ (stEnum launch5).jobsDone 5 = true ∧ (stEnum launch5).owes 5 = false ∧ (stEnum launch5).releaseStalls (launch5.inbox / 32) = false := by decide +kernel
/-- Widths 4, 6, 10, 0, 0, 0. -/
theorem witness_radix : let l := { launch0 with widspec := 4 + 6 * 64 + 10 * 4096, exts := [16, 3, 5, 0, 1, 0] }
    l.exts.length = 6 ∧ ((List.range 6).map (widthOf l.widspec)).sum ≤ 64 ∧ ∀ k, k < 6 → if widthOf l.widspec k = 0 then l.exts.getD k 0 ≤ 1
      else fieldOf l.widspec l.base k + max 1 (l.exts.getD k 0) ≤ 2 ^ widthOf l.widspec k := by decide +kernel

/-- Thread 0 belongs to a checkpointed team whose epoch saved it and journalled one word; or its epoch is dead. -/
def launchT : Launch := { launch5 with chk := 0, widspec := 4 }
def epoch0 : Epoch := { launch := 5, team := 0, saved := [(0, { launch := 5, prio := 3 })], olds := [(bufBase 0 0 / 8, 5, true)] }
def stRep (e : Epoch) : State :=
  let s := (stG.modTh 0 fun x => { x with status := .stalled .replay, mcause := 0x16, act := { x.act with launch := 5 } }).modBlock 0 fun b => { b with epochs := [e] }
  { s with sys := { s.sys with launches := [launchT] } }
theorem witness_replay : ((stRep epoch0).th 0).status = .stalled .replay ∧ (stRep epoch0).teamOf ((stRep epoch0).th 0).act = some (5, 0) ∧ (stRep epoch0).mayReplay 0 = true ∧
    (stRep { epoch0 with dead := true }).mayReplay 0 = false ∧ (∀ e ∈ (stRep epoch0).actives, (stRep epoch0).teamOf e.2.act = some (5, 0) → e.1 = 0) ∧
    ((stRep epoch0).th 0).outst.any (·.busy) = false ∧ epoch0.rested = [] ∧ epoch0.msgs = [] ∧ epoch0.sends = [] ∧ (List.map Prod.fst (stRep epoch0).blocks).Pairwise (· < ·) ∧ (List.map Prod.fst (stRep epoch0).threads).Pairwise (· < ·) ∧
    ((stRep epoch0).block 0).epoch (5, 0) = some epoch0 := by decide +kernel
theorem calm_replay (o : Nat) : ((stRep epoch0).owner o).retry = [] := calmE [] o
theorem witness_replay_blocks (b : Nat) : ((stRep epoch0).block b).jobs = [] ∧ ((stRep epoch0).block b).displaced = [] ∧
    (b ≠ blockOf 0 → ((stRep epoch0).block b).epoch (5, 0) = none) := by
  have h : ∀ e ∈ (stRep epoch0).blocks, e.2.jobs = [] ∧ e.2.displaced = [] ∧ (e.1 ≠ 0 → e.2.epoch (5, 0) = none) := by decide +kernel
  have h0 : (stRep epoch0).blocks = [(0, (stRep epoch0).block 0)] := rfl
  have h1 := h (0, (stRep epoch0).block 0) (h0 ▸ List.mem_singleton.2 rfl)
  by_cases hb : b = 0
  · rw [hb]
    exact ⟨h1.1, h1.2.1, fun c => absurd rfl c⟩
  · have h2 : (stRep epoch0).block b = {} := by
      show Map.get {} (stRep epoch0).blocks b = {}
      rw [h0, Map.get, if_neg hb, Map.get]
    rw [h2]
    exact ⟨rfl, rfl, fun _ => rfl⟩

/-- A portable image of one line of NOPs. -/
def image0 : List Byte := leBytes 4 0x46524D4C ++ leBytes 4 1 ++ leBytes 4 1 ++ List.replicate 52 0 ++ (lineFor (encode .nop)).slots.flatMap (fun w => leBytes 12 w.toNat) ++
  leBytes 4 (lineFor (encode .nop)).lw.toNat
theorem witness_image : (checkPortable (sha256 image0) image0).isOk = true ∧ image0 ≠ [] ∧ sha256 image0 ≠ 5 := by decide +kernel
def entry5 (d : Digest) (i : Option Inst) : DirEntry := { pid := 0, digest := d, handle := 0x200, inst := i }
/-- Thread 0 waits for handle 0x200. -/
def stMiss (d : Digest) (i : Option Inst) (fs : List Fetch) : State :=
  (stG.modTh 0 fun x => { x with status := .stalled (.codeMiss 0x200 0), mode := .context }).modCluster 0 fun c => { c with dir := c.dir ++ [entry5 d i], fetches := fs }
def fetch0 (d : Digest) (source : BitVec 4) : Fetch := { pid := 0, handle := 0x200, digest := d, mask := 0, waiters := [(0, 0)], peers := [], source, askTrans := false }
theorem witness_misses : ((stMiss 5 (some fn0) []).th 0).status = .stalled (.codeMiss 0x200 0) ∧ ((stMiss 5 (some fn0) []).cluster 0).entry 0x200 = some (entry5 5 (some fn0)) ∧
    ((stMiss 5 none []).cluster 0).entry 0x200 = some (entry5 5 none) ∧ (stMiss 5 none []).fetch? 0 0x200 = none ∧ (stMiss 5 none []).peers 0 = [] ∧
    (stMiss 5 none [{ fetch0 5 4 with waiters := [] }]).fetch? 0 0x200 = some { fetch0 5 4 with waiters := [] } ∧
    ((stMiss 5 none [fetch0 5 4]).install 0 0 0x200 fn0).2 = true ∧ (stMiss 5 none [fetch0 5 4]).installWaits 0 = false ∧
    (fetch0 5 4).svc = none ∧ (stMiss 5 none [{ fetch0 5 4 with waiting := some fn0 }]).installWaits 0 = true := by decide +kernel
theorem oneWaits : OneWaits (stMiss 5 none [fetch0 5 4]) 0 0 0 0x200 (fetch0 5 4) := by constructor <;> decide +kernel
theorem witness_sources : (fetch0 5 4).waiting = none ∧ (fetch0 5 4).nrej ≠ 255 ∧ ({ fetch0 5 3 with peers := [1] } : Fetch).peers = [1] ∧
    ((stMiss 5 none [{ fetch0 5 4 with waiting := some fn0 }]).cluster 0).firstWaiting = some ({ fetch0 5 4 with waiting := some fn0 }, fn0) := by decide +kernel
theorem waits_for_room : OneWaits (stMiss 5 none [{ fetch0 5 4 with waiting := some fn0 }]) 0 0 0 0x200 { fetch0 5 4 with waiting := some fn0 } := by
  constructor <;> decide +kernel
/-- Chip 0 of a row of two, port 1 up towards chip 1; slot 0 holds key 0x77 for context 0, a job of two chips. -/
def stFab : State :=
  let f : Fab := { stG.fab with fgeom := 0x1000000000, ports := [(1, { reg := 0xBC00000000000001 })], pka := [(0, 0x8000000200000077)] }
  { stG with fab := { f with ranks := [(1, 0x80000001)], fmep := [(0, 0x8000000000000001)] } }
def pack (kind : Byte) (ndata : BitVec 3) (data : List Byte) : Packet := { pkind := kind, ndata, pkey := 0x77, dst := 0, src := 1, srcv := 9, addr := 0x4000, data, lo := 3 }
theorem comes (kind : Byte) (n : BitVec 3) (data : List Byte) (h : flitsOk kind n.toNat = true) : Comes stFab (pack kind n data) kind :=
  have hk : stFab.keyOk (pack 0 0 []) = true := by decide +kernel
  have hc : (0 : BitVec 22) = stFab.coord := by decide +kernel
  ⟨⟨rfl, h, fun c => absurd c (by decide : ¬ (2 : BitVec 2) = 3), .inr hk⟩, hc, fun c => absurd c Bool.false_ne_true⟩
theorem reach1 : reachable stFab 1 := ⟨{ pack 1 0 [] with dst := 1 }, rfl, rfl, by decide +kernel⟩
theorem witness_requests : deedOf (pack 1 0 []) 1 = some .load ∧ deedOf (pack 2 1 []) 2 = some .store ∧ deedOf { pack 3 1 [] with opkind := 4 } 3 = some .cas ∧
    stFab.inboundOf (pack 1 0 []) = none ∧ stFab.keptAnswer (pack 1 0 []) = none ∧ flitsOk 1 0 = true ∧ flitsOk 2 1 = true ∧ flitsOk 3 1 = true ∧
    flitsOk 1 1 = false ∧ stFab.keyOk { pack 1 0 [] with pkey := 0x78 } = false ∧ (0 : BitVec 22) = stFab.coord ∧ (pack 1 0 []).lanes = [] ∧ (pack 1 0 []).ftype ≠ 3 ∧ ({ pack 1 0 [] with ftype := 3 } : Packet).ftype = 3 := by
  refine ⟨rfl, rfl, rfl, ?_, ?_, ?_, ?_, ?_, ?_, ?_, ?_, rfl, ?_, ?_⟩ <;> decide +kernel
/-- Request 3 of chip 1 has been performed. -/
def inReq (err : Byte) : Req := { seq := 0, what := .load, sp := .d, sync := .plain, phase := .done, err, elems := [{ ea := 0x4000, size := 8, done := true }] }
def stIn (err : Byte) : State := (stFab.modTh 65539 fun x => { x with outst := [inReq err] }) |> fun s => { s with fab := { s.fab with inbound := [(3, pack 1 0 [])] } }
theorem witness_performed : (stIn 0).fab.inbound.find? (fun e => e.1 == 3) = some (3, pack 1 0 []) ∧ (stIn 6).req? 65539 0 = some (inReq 6) ∧ (inReq 6).phase = .done := by
  decide +kernel
/-- Channel c4 is bound to context 0 and has room, or none; c5 is bound by none, c6 by another context. -/
def stChan (n : Nat) : State := stFab.modBlock 0 fun b => { b with chans := [(4, { bind := some bind4, slots := List.replicate n (msgTo 0) }), (6, { bind := some { bind4 with pid := 9 } })] }
theorem witness_msg : maKind 0x5000000002000000 = 2 ∧ malformed 0x5000000002000000 = false ∧ (stChan 0).answerHere 0 0x5000000002000000 0 = .grant ∧
    (stChan 16).answerHere 0 0x5000000002000000 0 = .full ∧ (stChan 0).answerHere 0 0x5000000002800000 0 = .unbound ∧
    (stChan 0).answerHere 0 0x5000000003000000 0 = .refused ∧ maKind 0xD000000000000000 = 6 ∧ malformed 0xD000000000000000 = false ∧ flitsOk 4 1 = true ∧
    (stChan 0).fab.fullWait = [] ∧ stFab.ordTurn { pack 4 1 [] with ord := true, fseq := 5 } = false ∧ (stChan 0).keptAnswer (pack 4 1 []) = none := by decide +kernel
/-- A request of thread 0 to chip 1, or a SEND's message, waits for its answer. -/
def asked (m : Option Msg) (n : Nat) : Unacked := { pkt := { pack 1 0 [] with dst := 1, src := 0, fseq := 0 }, thread := 0, seq := 3, ixs := [0], msg := m, resends := n }
def remote0 : Req := { seq := 3, what := .load, sp := .d, sync := .plain, phase := .remote, elems := [{ ea := 0x4000, size := 8 }] }
def stAsk (m : Option Msg) (n : Nat) : State := (stFab.modTh 0 fun x => { x with outst := [remote0] }) |> fun s => { s with fab := { s.fab with unacked := [asked m n] } }
theorem witness_answered : (stAsk none 0).answered? (pack 8 1 []) = some (asked none 0) ∧ Awaits (stAsk none 0) (asked none 0) remote0 { ea := 0x4000, size := 8 } ∧
    flitsOk 8 1 = true ∧ flitsOk 9 1 = true ∧ flitsOk 0xA 0 = true ∧ flitsOk 0xD 0 = true ∧ flitsOk 0xF 0 = true ∧ (asked none 0).refused = false ∧
    4 ≤ (asked none 4).resends ∧ (asked none 0).pkt.val = false ∧ (asked none 0).pkt.pkind ≠ 0x05 ∧ (asked none 0).pkt.dst = 1 ∧
    (stAsk none 4).fab.unacked.find? (fun x => x.pkt.dst == (asked none 4).pkt.dst && x.pkt.fseq == (asked none 4).pkt.fseq && !x.refused) = some (asked none 4) := by
  refine ⟨?_, by constructor <;> decide +kernel, ?_, ?_, ?_, ?_, ?_, ?_, ?_, ?_, ?_, ?_, ?_⟩ <;> decide +kernel
theorem witness_answered_send : ({ msgTo 0 with origin := .thread 0 } : Msg).origin = .thread (asked (some { msgTo 0 with origin := .thread 0 }) 0).thread ∧
    (stSend.th 0).sendDst.any (·.nb) = false ∧ (stSend.th 0).status = .stalled .send := by decide +kernel
def flow0 : Flowlet := { core := 0, dst := 1, names := [(0, 1)] }
def stSeen : State := { stFab with fab := { stFab.fab with seen := [(1, { next := 4, past := [6] })], flowlets := [flow0] } }
theorem witness_seqnak : (stSeen.seenOf 1).has 5 = false ∧ (6 : BitVec 24) ∈ (stSeen.seenOf 1).past ∧ before24 5 6 = true ∧ flow0 ∈ stSeen.fab.flowlets := by
  decide +kernel
/-- Entry 2 of the group table: valid, local or not, parent port 1, forward port 1, key 0x77. -/
def stGrp (flags : Nat) : State := pokeAt [(grpAddr 2, 1, flags), (grpAddr 2 + 1, 1, 1), (grpAddr 2 + 2, 2, 2), (grpAddr 2 + 4, 2, 0x77)] stFab
def mcw0 : Packet := { pack 5 1 [] with lo := 2 * 2 ^ 14 }
theorem witness_mcw : WellSent (stGrp 1) mcw0 5 ∧ mcGroup mcw0 = 2 ∧ (stGrp 1).mcWait? mcw0 = none ∧ (stGrp 1).keptAnswer mcw0 = none ∧ grpValid ((stGrp 1).grp 2) = true ∧
    grpKey ((stGrp 1).grp 2) = mcw0.pkey ∧ grpPorts ((stGrp 1).grp 2) = [1] ∧ grpPorts ((stGrp 1).grp 2) ≠ [] ∧ grpLocal ((stGrp 1).grp 2) = false ∧ grpLocal ((stGrp 5).grp 2) = true ∧
    grpValid ((stGrp 0).grp 2) = false ∧ mcw0.ord = false := by
  refine ⟨⟨?_, ?_, ?_, .inr (by decide +kernel)⟩, ?_⟩ <;> decide +kernel
/-- An ORD copy whose predecessors have not come. -/
def mcw5 : Packet := { mcw0 with ord := true, fseq := 5 }
theorem witness_mcw_turn : WellSent (stGrp 1) mcw5 5 ∧ mcw5.ord = true ∧ (stGrp 1).ordTurn mcw5 = false := by
  refine ⟨⟨?_, ?_, ?_, .inr (by decide +kernel)⟩, ?_⟩ <;> decide +kernel
def wait0 (children : List Nat) : McWait := { pkt := mcw0, parent := some 1, children }
/-- The copy that left on port 4; its child answers. -/
def copy0 : Unacked := { pkt := { mcw0 with dst := 1, src := 0 }, ix := 4 }
def mcack0 : Packet := { mcw0 with pkind := 0xE }
def stMc (children : List Nat) : State := { stFab with fab := { stFab.fab with mcwaits := [wait0 children], unacked := [copy0] } }
theorem witness_mcack : CopyWaits (stMc [4, 5]) (wait0 [4, 5]) ∧ CopyWaits (stMc [4]) (wait0 [4]) ∧ WellSent (stMc [4]) mcack0 0xE ∧ (stMc [4]).answered? mcack0 = some copy0 ∧ copy0.pkt.pkind = 0x05 ∧ copy0.ix = 4 ∧ repeats (wait0 [4]).pkt copy0.pkt = true ∧
    (stMc [4]).fab.mcwaits.find? (fun v => mcGroup v.pkt == 2 && (v.children != [] || v.here)) = some (wait0 [4]) := by
  refine ⟨⟨?_, 1, ?_, ?_⟩, ⟨?_, 1, ?_, ?_⟩, ⟨?_, ?_, ?_, .inr (by decide +kernel)⟩, ?_, ?_, ?_, ?_, ?_⟩ <;> decide +kernel
def track2 (waiting : List Nat) : Track := { group := 2, waiting, nmem := 3, bitmap := 5, failed := true }
def stTrk (waiting : List Nat) : State := (setr 1 0x200000000 stFab).modMyAct fun a => { a with tracks := [(0, some (track2 waiting))] }
theorem witness_class11 : (stTrk [7]).me.act.tracksOf ((stTrk [7]).g 1) = [track2 [7]] ∧ ((stTrk []).g 1).extractLsb' 44 20 = 0 ∧ ((stTrk []).g 1).extractLsb' 0 30 = 0 ∧
    (stTrk []).me.act.tracksOf ((stTrk []).g 1) = [track2 []] ∧ selectorOk ((stTrk []).g 1) = true ∧ ((stTrk []).g 1).getLsbD 30 = false ∧ (track2 []).nmem ≤ 512 ∧ ((List.range 3).filter fun k => !(track2 []).bitmap.getLsbD k) = [1] ∧
    ((setr 1 0x100000000000 stFab).g 1).extractLsb' 44 20 ≠ 0 ∧ ((setr 1 1 stFab).g 1).extractLsb' 22 42 = 0 ∧ stFab.coordOf 0 1 = some 1 ∧ stFab.coordOf 0 0 = none ∧
    ¬ ((setr 1 0x400000 stFab).g 1 = BitVec.allOnes 64 ∨ ((setr 1 0x400000 stFab).g 1).extractLsb' 22 42 = 0) := by decide +kernel
def stPort (state : Nat) : State := stFab.modPort 3 fun _ => { reg := BitVec.ofNat 64 (state * 2 ^ 62 + 0x3C00000000000001) }
theorem witness_ports : stateOf (stPort 0) 3 = 0 ∧ stateOf (stPort 1) 3 = 1 ∧ stateOf (stPort 2) 3 = 2 ∧ ((stPort 1).port 3).reg.getLsbD 0 = true ∧ ((stPort 1).port 3).held = false ∧
    ((stPort 1).port 3).badLane = 15 ∧ (∀ e ∈ (stPort 2).fab.out, e.1 ≠ 3) ∧ 15 ≤ (((stPort 2).modPort 3 fun p => { p with refusals := 15 }).port 3).refusals ∧
    stFab.portUp 1 = true ∧ ((0, 0) : BitVec 22 × BitVec 32) ∉ stFab.fab.notices ∧
    ((0, 0) : BitVec 22 × BitVec 32) ∈ ({ stFab with fab := { stFab.fab with notices := [(0, 0)] } } : State).fab.notices := by decide +kernel
theorem witness_fgeom : (stFab.portUp 1 = true) ∧ (∀ q, q < 12 → st0.portUp q = false) ∧
    (((stFab.writePka 1 0x8000000000000078).pka 1).getLsbD 63 = true ∧ (0x8000000000000078 : Word).extractLsb' 0 16 = ((stFab.writePka 1 0x8000000000000078).pka 1).extractLsb' 0 16) := by
  decide +kernel
/-- A management packet of chip 1 that writes, or reads, 8 bytes at 0x10, its MAC under a key of zeros. -/
def managed (kind : Byte) (n : BitVec 3) (rest : List Byte) : Packet :=
  let k : Packet := { pkind := kind, ndata := n, pkey := 0, dst := 0, src := 1, addr := 0x10, aux := 8 }
  { k with data := leBytes 8 1 ++ digestBytes (hmac 0 (headerBytes k ++ leBytes 8 1 ++ rest)) ++ rest }
def mgw0 : Packet := managed 0x18 2 (List.replicate 24 0 ++ leBytes 8 5 ++ List.replicate 56 0)
def mgr0 : Packet := managed 0x19 1 (List.replicate 24 0)
theorem witness_managed : Comes stFab mgw0 0x18 ∧ Comes stFab mgr0 0x19 ∧ stFab.authentic (whole mgw0) = true ∧ stFab.authentic (whole mgr0) = true ∧
    stFab.authentic (whole { mgw0 with data := [] }) = false ∧ stFab.mgmtRead 0x10 = some 0x8000000000000001 ∧ mgw0.src = 1 := by
  refine ⟨⟨⟨?_, ?_, ?_, .inl (by decide +kernel)⟩, ?_, fun c => absurd c (by decide +kernel)⟩, ⟨⟨?_, ?_, ?_, .inl (by decide +kernel)⟩, ?_, fun c => absurd c (by decide +kernel)⟩, ?_, ?_, ?_, ?_, ?_⟩ <;> decide +kernel
/-- Chip 0 holds an image of digest 5; a resolution here waits for chip 1's. -/
def fnI : Inst := { fn0 with image := List.replicate 100 3 }
def stImg : State := stFab.modCluster 0 fun c => { c with dir := [{ pid := 0, digest := 5, handle := 0x200, inst := some fnI }] }
def cfreq0 (d : Digest) : Packet := { pack 0x10 1 (digestBytes d ++ [2]) with addr := 0 }
theorem witness_cfreq : stImg.imageFor 0 (digestOf (flitData (cfreq0 5))) (field (flitData (cfreq0 5)) 32 1 == 1) = some (List.replicate 100 3) ∧
    stImg.imageFor 0 (digestOf (flitData (cfreq0 6))) (field (flitData (cfreq0 6)) 32 1 == 1) = none ∧ flitsOk 0x10 1 = true ∧ flitsOk 0x11 1 = true ∧ flitsOk 0x12 0 = true := by
  decide +kernel
def stCf : State := { (stMiss 5 none [{ fetch0 5 3 with peers := [1] }]) with fab := { stFab.fab with unacked := [{ asked none 0 with thread := codeThread, seq := 0, ix := 0x200 }] } }
theorem witness_cfdat : (stCf.answered? { pack 0x11 1 [] with addr := 0, aux := 64 }).map (·.thread) = some codeThread ∧ (BitVec.ofNat 32 0x200 : BitVec 32) = 0x200 ∧
    stCf.fetch? 0 0x200 = some { fetch0 5 3 with peers := [1] } := by decide +kernel

/-- Entry 2 of the group table expects this chip's own measurement. -/
theorem beNat_snoc (bs : List Byte) (b : Byte) : beNat (bs ++ [b]) = beNat bs * 256 + b.toNat := by
  simp [beNat, List.foldl_append]
theorem beNat_leBytes (n x : Nat) : beNat (leBytes n x).reverse = x % 256 ^ n := by
  induction n generalizing x with
  | zero => simp [leBytes, beNat, Nat.mod_one]
  | succ n ih =>
    rw [leBytes, List.reverse_cons, beNat_snoc, ih, BitVec.toNat_ofNat]
    have h : (256 : Nat) ^ (n + 1) = 256 * 256 ^ n := Nat.pow_succ'
    rw [h, Nat.mod_mul]
    omega
theorem digestOf_digestBytes (d : Digest) : digestOf (digestBytes d) = d := by
  have hl : (digestBytes d).take 32 = digestBytes d := rfl
  rw [digestOf, hl, digestBytes, beBytes, beNat_leBytes]
  apply BitVec.eq_of_toNat_eq
  rw [BitVec.toNat_ofNat]
  have := d.isLt
  omega
def stMeas : State := stFab.modMem fun m => { m with bytes := (grpAddr 2, 5) :: ((List.range 32).map (grpAddr 2 + 0x20 + ·)).zip (digestBytes stFab.measurement) }
theorem witness_measurement : grpMeas (stMeas.grp 2) = stMeas.measurement ∧ grpLocal (stMeas.grp 2) = true ∧ grpValid (stMeas.grp 2) = true := by
  have h : (stMeas.grp 2).drop 0x20 = digestBytes stFab.measurement := rfl
  refine ⟨?_, rfl, rfl⟩
  rw [grpMeas, h, digestOf_digestBytes]
  rfl
/-- The monitor runs on thread 0, with its accesses protected, MEPC at slot 0 of fn0. -/
def stMo : State := (stG.modMyAct fun a => { a with launch := 5 }).modMe fun x => { x with mode := .monitor, mepc := codeAddr 0x100 0 }
theorem inMonitor : InMonitor stMo := ⟨by decide +kernel, by decide +kernel⟩
theorem witness_monitors : monitors .mret = true ∧ isAct st0.cur = true ∧ st0.me.mode = .context ∧ isAct stS.cur = false := by decide +kernel
def stMoL (l : Launch) (cause : Byte) : State := (stMo.modMe fun x => { x with mcause := cause, mcall := true }) |> fun s => { s with sys := { s.sys with launches := [l] } }
def launchR : Launch := { launch5 with chk := 0xFF, reply := 0x3000000000000000 }
theorem witness_mcall : st0.badVector st0.cur 0 = false ∧ stMo.refuses stMo.me.act.pid = false ∧ addrOk stMo.me.mepc = true ∧ stMo.me.mcause = 0 ∧
    (∃ e, stMo.entry? (clusterOf stMo.cur) stMo.me.act.pid false (handleOf stMo.me.mepc) = some e ∧
      (e.inst == some fn0 && decide (lineOf stMo.me.mepc < fn0.lines.length)) = true) ∧
    (stMoL launchR 0x0B).me.mcause = 0x0B ∧ (stMoL launchR 0x0B).me.status = .running ∧ within ((stMoL launchR 7).g 0) 0xFF ∧
    (stMoL launchR 7).launch? (stMoL launchR 7).me.act.launch = some launchR ∧ reportable launchR.reply ∧ ¬ within ((setr 1 0x100 stMo).g 1) 0xFF := by
  refine ⟨?_, ?_, ?_, ?_, some_of _ ?_, ?_, ?_, ?_, ?_, ⟨?_, ?_, ?_⟩, ?_⟩
  all_goals first | decide +kernel | (rw [within]; decide +kernel)
theorem witness_pent : (let x : Word := (setr 1 0x70003 stMo).g 1
    let y : Word := (setr 2 0x0003FFFF00000000 stMo).g 2
    x &&& ~~~0xFF070F0F = 0 ∧ y &&& ~~~0x003FFFFF003FFFFF = 0 ∧ (x.extractLsb' 8 4).toNat < 7 ∧ pentOk 0 0 0x3FFFF = true) ∧
    ((0x1000 : Word) &&& ~~~0xFF070F0F ≠ 0) ∧ Map.get none (stMo.owner (coreOf stMo.cur)).pents 3 = some (entry0 3) := by decide +kernel
theorem witness_keyslot : (∃ p : List Byte × State, stMo.readS (stMo.g 0) 64 64 = .ok p ∧ decide (p.1.length = 64) = true) ∧
    stMo.checkLocal stMo.cur .s false (stMo.g 0) 64 64 = .ok (bufBase 0 0, 1) ∧ (stMo.owner (ownerAt (bufBase 0 0))).retry = [] ∧
    (0x32 : Word).extractLsb' 4 2 = 3 ∧ (stMo.block 0).lock.getLsbD 1 = false ∧ stMo.slotInUse 0 0 0 1 = false ∧ stMo.readWaits (stMo.g 0) 64 = false ∧ stMo.heldIn (bufBase 0 0) 64 = false ∧
    ((stMo.modBlock 0 fun b => { b with lock := 2 }).block 0).lock.getLsbD 1 = true := by
  refine ⟨exists_ok _ (by decide +kernel), rfl, ?_⟩
  decide +kernel
def act7 : Act := { prio := 7 }
/-- Record 208 of block 0 holds an activation, as CTXSV leaves it. -/
def stSaved : State := (stMo.saveRecord 0 208 act7).modBlock 0 fun b => { b with records := [(208, act7, false)] }
theorem witness_records : 208 ≤ ((setr 1 208 stMo).g 1).toNat ∧ (setr 1 208 stMo).me.contextQuiet = true ∧
    (stSaved.block 0).records.find? (fun r => r.1 == 208 && !r.2.2) = some (208, act7, false) := by
  refine ⟨by decide +kernel, by decide +kernel, ?_⟩
  rw [stSaved, State.block_modBlock]
  rfl
theorem witness_intact : stSaved.recordIntact 0 208 = true := by
  have h := State.recordIntact_saveRecord stMo 0 208 act7
  have hb : (stSaved.block 0).savebase = ((stMo.saveRecord 0 208 act7).block 0).savebase := by
    rw [stSaved, State.block_modBlock, if_pos rfl]
  have hm : stSaved.mem = (stMo.saveRecord 0 208 act7).mem := by rw [stSaved, State.modBlock_mem]
  rw [State.recordIntact, State.recordAt] at h ⊢
  rw [hb, hm]
  exact h
/-- A record of zeros, with VALID. -/
def stRec : State := stMo.modMem fun m =>
  { m.write (stMo.recordAt 0 208 + 0x1287) 1 0x80 with
    keys := (wordsOf (stMo.recordAt 0 208) 0x1300).map fun w => (w, monitorStamp)
    macOk := (List.range 38).map fun i => (stMo.recordAt 0 208 / 128 + i, true) }
theorem witness_valid : stRec.recordValid 0 208 = true ∧ stRec.recordSealed 0 208 = false ∧ stMo.recordSealed 0 208 = false ∧
    ∀ i < 38, stRec.mem.unproved (stRec.recordAt 0 208 + 128 * i) = false := by
  refine ⟨?_, ?_, ?_, ?_⟩ <;> decide +kernel
/-- R400: the control word with PRIO in [55:53] stands at 0x11B0 of a record. -/
theorem test_record_places : (act7.stateBytes []).getD 0x11B6 0 = 0xE0 := by decide +kernel
theorem witness_quar : (∀ e ∈ stMo.blocks, (∀ r ∈ e.2.records, r.1 < 431) ∧ (∀ d ∈ e.2.displaced, ∀ n, d.place = some n → n < 431)) ∧
    (0 : BitVec 16) ∉ stMo.sys.quarantined := by
  refine ⟨?_, by decide +kernel⟩
  have h : (List.all stMo.blocks fun e : Nat × Block => e.2.records.isEmpty && e.2.displaced.isEmpty) = true := by decide +kernel
  intro e he
  have := List.all_eq_true.1 h e he
  rw [Bool.and_eq_true] at this
  rw [List.isEmpty_iff.1 this.1, List.isEmpty_iff.1 this.2]
  exact ⟨fun _ h => (List.not_mem_nil h).elim, fun _ h => (List.not_mem_nil h).elim⟩
theorem calmMo (o : Nat) : (stMo.owner o).retry = [] := by
  have h : ∀ e ∈ stMo.owners, e.2.retry = [] := by decide +kernel
  exact get_all (fun x : Owner => x.retry = []) {} rfl stMo.owners h o
theorem witness_scrub : let s := (setr 1 0xC000000000000080 ∘ setr 2 256) stMo
    (s.g 2).toNat % 128 = 0 ∧ 0 < (s.g 2).toNat ∧ (s.g 1).extractLsb' 62 2 = 3 ∧ ((s.g 1).extractLsb' 58 4).toNat = 0 ∧
    ((s.g 1).extractLsb' 0 58).toNat = 128 ∧ ((s.block (blockOf s.cur)).stampFor s.me.act.encl).isSome = true ∧
    (0x8000010000000080 : Word).extractLsb' 62 2 = 2 ∧ (0x8000010000000080 : Word) &&& ~~~0x80E001FFFFFFFFFF = 0 ∧
    ((0x8000010000000080 : Word).extractLsb' 0 40).toNat + 256 ≤ tierBytes 1 ∧ s.heldIn (bufBase 0 0 + 128) 256 = false := by decide +kernel
/-- An install descriptor at S 0 for the image at 0x4000 of device memory. -/
def stInst (dig : Digest) (inst : Option Inst) : State :=
  let s := poke [(0, 8, 0x4000), (8, 4, image0.length), (0x10, 32, leNat (digestBytes dig))] (mapped stMo)
  (pokeAt [(0x4000, 128, leNat image0)] s).modCluster 0 fun c => { c with dir := c.dir ++ [entry5 5 inst] }
theorem witness_codeinst : (∃ p : List Byte × State, (stInst 5 (some fn0)).readS 0 64 64 = .ok p ∧ (field p.1 0x0E 2 == 0 && field p.1 0xC 2 == 0 &&
      digestOf (p.1.drop 0x10) == 5) = true) ∧ ((stInst 5 (some fn0)).lookup 0 0 false 5).bind (·.inst) = some fn0 ∧
    (stInst 5 (some fn0)).lookup 0 0 false 6 = none ∧ ((stInst 6 none).imageAt 0 0x10000000000 1) = none ∧ (stInst 5 (some fn0)).readWaits 0 64 = false := by
  refine ⟨exists_ok _ (by decide +kernel), ?_, ?_, rfl, ?_⟩ <;> decide +kernel
theorem witness_install : (∃ p : List Byte × State, (stInst (sha256 image0) none).readS 0 64 64 = .ok p ∧
    (match p.2.imageAt 0 (BitVec.ofNat 64 (field p.1 0 8)) (field p.1 8 4) with
     | some (im, s2) => (checkPortable (sha256 image0) im).isOk && (match checkPortable (sha256 image0) im, s2.lookupOrCreate 0 0 false (sha256 image0) with
        | .ok i, (some h, s3) => (s3.install 0 0 h i).2 && !s3.installWaits 0
        | _, _ => false)
     | none => false) = true) := exists_ok _ (by decide +kernel)
theorem witness_evict : ((setr 1 0x100 stMo).g 1) &&& ~~~0xFFFFFFFF = 0 ∧ (stMo.entry? 0 stMo.me.act.pid false 0x100).isSome = true ∧
    (0x10000 : Word) &&& ~~~0x1FFFF = 0 ∧ (0x200001 : Word) &&& ~~~0xFFFFFF0003 = 0 ∧ 0x200001 % 4 = 1 ∧ 0x200001 / 2 ^ 16 * 2 ^ 16 % 2 ^ 21 = 0 := by decide +kernel
/-- Core 1 has a load outstanding that was translated at LVA 0. -/
def stTl : State := stMo.modTh 1 fun x => { x with outst := [{ seq := 0, what := .load, sp := .d, elems := [{ ea := 0x40, size := 8, loc := some (devBase, 0, 0) }] }] }
theorem witness_translated : stMo.translatedUnder (fun p => p == 0) 0 (stinvBits 0) = false ∧ stTl.translatedUnder (fun p => p == 0) 0 (stinvBits 0) = true := by
  decide +kernel
theorem witness_freeze : (∀ e ∈ stMo.threads, e.1 = stMo.cur → e.2 = stMo.me) ∧ (stMo.g 0) &&& ~~~0x3F = 0 ∧ (0 : BitVec 6) ∉ stMo.sys.frozen ∧
    (∃ k ∈ ({ stMo with sys := { stMo.sys with sealKeys := [(0, 5)] } } : State).sys.sealKeys, k.1 = 0) ∧ stMo.sys.sealKeys = [] := by
  refine ⟨?_, ?_, ?_, ⟨(0, 5), List.mem_singleton.2 rfl, rfl⟩, ?_⟩ <;> decide +kernel
/-- A request for the report of a kind. -/
def stAt (kind : Nat) : State := poke [(0, 1, kind)] stMo
theorem witness_report : ∀ k ∈ [1, 2], (stAt k).readWaits ((stAt k).g 0) 64 = false ∧
    ∃ p : List Byte × State, (stAt k).readS ((stAt k).g 0) 64 64 = .ok p ∧ (field p.1 0 1 == k) = true := by
  intro k hk
  simp only [List.mem_cons, List.mem_nil_iff, or_false] at hk
  rcases hk with rfl | rfl
  all_goals exact ⟨by decide +kernel, exists_ok _ (by decide +kernel)⟩
/-- An MCALL with number n waits for its service; the chip has coordinates and ranks, context 0 an entry of the table. -/
def stCall (n : Nat) : State := ((poke [(0, 32, leNat (digestBytes 5)), (0x100, 8, 1)] (mapped stFab)).modMe fun x =>
  { x with mode := .monitor, mcall := true, mtval := BitVec.ofNat 64 n }).modCluster 0 fun c => { c with dir := c.dir ++ [entry5 5 (some fnI)] }
theorem calls (n : Nat) (h : n ∈ [1, 2, 3, 4]) : Calls (stCall n) n := by
  simp only [List.mem_cons, List.mem_nil_iff, or_false] at h
  rcases h with rfl | rfl | rfl | rfl
  all_goals refine ⟨⟨?_, ?_⟩, ?_, ?_, ?_⟩ <;> decide +kernel
theorem witness_services : (∃ p : List Byte × State, (stCall 1).readS ((stCall 1).g 3) 32 8 = .ok p ∧ (digestOf p.1 == 5) = true) ∧
    (stCall 1).imageFor 0 5 false = some (List.replicate 100 3) ∧ ((stCall 1).lookup 0 0 false 5).bind (·.inst) = some fnI ∧
    (∃ p : List Byte × State, (setr 4 1 (setr 3 0x100 (stCall 2))).readS 0x100 8 8 = .ok p ∧ ((wordsOfBytes p.1).all fun w =>
      decide (w &&& ~~~0x3FFFFF = 0) && ((stCall 2).coordOf 0 (w.extractLsb' 0 22)).isSome) = true) ∧
    (∃ p : List Byte × State, (setr 2 0x200 (stCall 3)).readS 0x200 64 8 = .ok p ∧ ((wordsOfBytes p.1).all fun w => decide (w &&& ~~~0x80000000003FFFFF = 0)) = true) ∧
    (stCall 3).ctx? 0 = some 0 ∧ 63 < ((setr 2 64 (stCall 1)).g 2).toNat := by
  refine ⟨exists_ok _ (by decide +kernel), ?_, ?_, exists_ok _ (by decide +kernel), exists_ok _ (by decide +kernel), ?_, ?_⟩ <;>
    decide +kernel
/-- Trace is on for thread 0, with one entry in its open block and no record for 20,000 cycles. -/
def stTr : State := { (st0.modMe fun x => { x with trcfg := 6, trace := { x.trace with entries := { x.trace.entries with count := 1 } } }) with cycle := 20000 }
theorem witness_trace : stTr.me.trcfg.extractLsb' 1 2 = 3 ∧ stTr.me.trace.entries.count = 1 ∧ stTr.me.trace.entries.pid = stTr.me.act.pid ∧
    stTr.me.trace.entries.conf = stTr.me.trace.conf ∧ traceTen stTr.me = true ∧ traceTen st0.me = false ∧ st0.me.trcfg.extractLsb' 1 2 ≠ 3 ∧
    stTr.me.act.paused = false ∧ 16383 ≤ (stTr.cycle - stTr.me.trace.lastTime).toNat := by decide +kernel
theorem witness_parity : (∃ e, (st0.cluster (clusterOf st0.cur)).entry st0.here.1 = some e ∧ (e.refetched != some (lineOf st0.me.act.pc)) = true) ∧
    st0.badVector st0.cur 0x04 = false ∧ st0.badVector st0.cur 0x10 = false ∧ st0.here.1 ≠ 1 ∧ isAct st0.cur = true ∧ st0.me.mode = .context := by
  refine ⟨some_of _ ?_, ?_, ?_, ?_, ?_, ?_⟩ <;> decide +kernel
/-- The line came anew once; a service thread runs a routine. -/
def stPar : State := st0.modCluster 0 fun c => c.modEntry 0x100 fun e => { e with refetched := some (lineOf st0.me.act.pc) }
def stRout : State := stS.modMe fun x => { x with serve := some serve0 }
theorem witness_parity_again : (∃ e, (stPar.cluster (clusterOf stPar.cur)).entry stPar.here.1 = some e ∧ (e.refetched == some (lineOf stPar.me.act.pc)) = true) ∧
    stPar.badVector stPar.cur 0x10 = false ∧ isAct stRout.cur = false ∧ stRout.me.serve = some serve0 ∧ serve0.refetched ≠ some (lineOf stRout.me.act.pc) ∧
    serve0.thread ≠ stRout.cur ∧ stS.me.serve = none := by
  refine ⟨some_of _ ?_, ?_, ?_, ?_, ?_, ?_, ?_⟩ <;> decide +kernel
theorem witness_device : (115 : BitVec 8).toNat ≤ 115 ∧ st0.sys.voltageBad = false ∧ ({ st0 with sys := { st0.sys with voltageBad := true } } : State).sys.voltageBad = true ∧
    (st0.cluster 1).draining = none ∧ ((st0.modCluster 1 fun c => { c with draining := some 5 }).cluster 1).draining = some 5 ∧
    (∀ a ∈ (st0.modCluster 1 fun c => { c with draining := some 5 }).actives, clusterOf a.1 ≠ 1) ∧ (∃ a ∈ st0.actives, clusterOf a.1 = 0) ∧
    st0.tokenOk [] = false ∧ st0.sys.portOpen = false ∧ (∀ e ∈ st0.clusters, e.2.draining = none) ∧
    ((st0.modCluster 1 fun c => { c with draining := some 5 }).cluster 1).draining ≠ none ∧ (∀ e ∈ st0.sys.temps, e.2.toNat ≤ 105) ∧
    ∃ e ∈ ({ st0 with sys := { st0.sys with temps := [(2, 106)] } } : State).sys.temps, 105 < e.2.toNat := by
  refine ⟨?_, ?_, ?_, ?_, ?_, ?_, ⟨(0, st0.th 0), ?_, rfl⟩, rfl, ?_, ?_, ?_, ?_, ⟨(2, 106), ?_, ?_⟩⟩ <;> decide +kernel
/-- Where a signature of the vendor's verifies, a token that passes its checks exists. -/
theorem witness_token (c : Digest) (sig : List Byte) (h : sig.length = 384)
    (hv : ∀ b, Config.pssVerify Config.vendorDebugKey b sig = true) :
    ∃ tk, ({ st0 with sys := { st0.sys with challenge := some c } } : State).tokenOk tk = true := by
  have h1 : ∀ d : Digest, (digestBytes d).length = 32 := fun d => rfl
  refine ⟨[0x53, 0x58, 0x44, 0x54, 1, 0, BitVec.ofNat 8 Config.lifecycle.toNat, 0] ++ (digestBytes Config.deviceId ++ (digestBytes c ++ sig)), ?_⟩
  have hf : field ([0x53, 0x58, 0x44, 0x54, 1, 0, BitVec.ofNat 8 Config.lifecycle.toNat, 0] ++ (digestBytes Config.deviceId ++ (digestBytes c ++ sig))) 6 1 =
      Config.lifecycle.toNat := by
    have := Config.lifecycle.isLt
    show (BitVec.ofNat 8 Config.lifecycle.toNat).toNat + 256 * 0 = _
    rw [BitVec.toNat_ofNat]
    omega
  have hd : ∀ (d : Digest) (r : List Byte), digestOf (digestBytes d ++ r) = d := by
    intro d r
    have : (digestBytes d ++ r).take 32 = (digestBytes d).take 32 := by rw [List.take_append_of_le_length (by rw [h1])]
    rw [digestOf, this, ← digestOf, digestOf_digestBytes]
  have h40 : List.drop 32 (digestBytes Config.deviceId ++ (digestBytes c ++ sig)) = digestBytes c ++ sig := by
    rw [List.drop_append_of_le_length (by rw [h1]), List.drop_of_length_le (by rw [h1]), List.nil_append]
  have h72 : List.drop 32 (digestBytes c ++ sig) = sig := by
    rw [List.drop_append_of_le_length (by rw [h1]), List.drop_of_length_le (by rw [h1]), List.nil_append]
  have d8 : List.drop 8 ([0x53, 0x58, 0x44, 0x54, 1, 0, BitVec.ofNat 8 Config.lifecycle.toNat, 0] ++ (digestBytes Config.deviceId ++ (digestBytes c ++ sig))) =
      digestBytes Config.deviceId ++ (digestBytes c ++ sig) := rfl
  have d40 : List.drop 40 ([0x53, 0x58, 0x44, 0x54, 1, 0, BitVec.ofNat 8 Config.lifecycle.toNat, 0] ++ (digestBytes Config.deviceId ++ (digestBytes c ++ sig))) =
      digestBytes c ++ sig := h40
  have d72 : List.drop 72 ([0x53, 0x58, 0x44, 0x54, 1, 0, BitVec.ofNat 8 Config.lifecycle.toNat, 0] ++ (digestBytes Config.deviceId ++ (digestBytes c ++ sig))) = sig := by
    have : List.drop 72 ([0x53, 0x58, 0x44, 0x54, 1, 0, BitVec.ofNat 8 Config.lifecycle.toNat, 0] ++ (digestBytes Config.deviceId ++ (digestBytes c ++ sig))) =
      List.drop 32 (List.drop 32 (digestBytes Config.deviceId ++ (digestBytes c ++ sig))) := by rw [List.drop_drop]; rfl
    rw [this, h40, h72]
  have hl : List.length ([0x53, 0x58, 0x44, 0x54, 1, 0, BitVec.ofNat 8 Config.lifecycle.toNat, 0] ++ (digestBytes Config.deviceId ++ (digestBytes c ++ sig))) = 456 := by
    simp only [List.length_append, h1, h]
    rfl
  have h4 : List.take 4 ([0x53, 0x58, 0x44, 0x54, 1, 0, BitVec.ofNat 8 Config.lifecycle.toNat, 0] ++ (digestBytes Config.deviceId ++ (digestBytes c ++ sig))) =
    [0x53, 0x58, 0x44, 0x54] := rfl
  have h5 : field ([0x53, 0x58, 0x44, 0x54, 1, 0, BitVec.ofNat 8 Config.lifecycle.toNat, 0] ++ (digestBytes Config.deviceId ++ (digestBytes c ++ sig))) 4 2 = 1 := rfl
  rw [State.tokenOk, hl, h4, h5, hf, d8, d40, d72, hd, hv]
  simp only [hd, beq_self_eq_true, Bool.and_self]
/-- A word of block 8's S was written under a key. -/
def stKey : State := st0.modMem fun m => m.setStamp (bufBase 8 0 / 8) 7
theorem witness_lost : bufBase (8 * 1) 0 / 8 ≤ bufBase 8 0 / 8 ∧ bufBase 8 0 / 8 < bufBase (8 * 1 + 8) 0 / 8 ∧ stKey.mem.stamp (bufBase 8 0 / 8) ≠ 0 ∧ 7 ≠ lostStamp := by
  decide +kernel
theorem witness_parts : (st0.th 0).status = .running ∧ (stRep epoch0).replayable ((stRep epoch0).th 0).act = true ∧
    (((stRep epoch0).modTh 0 fun x => { x with status := .running }).th 0).status = .running ∧
    (let s := stMoL launchR 0; s.launch? (s.th 0).act.launch = some launchR) ∧ launchR.chk = 0xFF ∧ launchR.errStop = false ∧
    (∀ a ∈ st0.actives, clusterOf a.1 ≠ 1) ∧ (∀ b < 16, b / 8 = 1 → (st0.block b).jobs = [] ∧ ∀ e ∈ (st0.block b).chans, e.2.slots = []) ∧ ∀ e ∈ st0.fab.out, e.1 ≠ 0 := by decide +kernel
theorem witness_issues : Issues st0 0 (encode .nop) := by
  refine ⟨lineFor (encode .nop), ⟨.inl ?_, ?_, ?_, ?_, ?_, ?_, ?_, ?_, ⟨fn0, ?_, ?_, ?_⟩, ?_⟩, ?_⟩ <;> decide +kernel
theorem witness_issue : decode (encode .nop) = .ok .nop ∧ (issuing st0 0).select .nop = .nop ∧ ((issuing st0 0).before [.nop] ((issuing st0 0).counted ((issuing st0 0).select .nop) 1)).isNone = true ∧
    (match decode 0xFFC000000000000000000000 with | .ok i => decide (i = .unassignedOpcode 0xFFC000000000000000000000) | .error _ => false) = true := by decide +kernel
/-- A word with a reserved bit set. -/
def badWord : InstrWord := encode .nop + 1
theorem witness_error_word : refuses badWord = true ∧ Issues (placed badWord id) 0 badWord := by
  refine ⟨?_, lineFor badWord, ⟨.inl ?_, ?_, ?_, ?_, ?_, ?_, ?_, ?_, ⟨{ lines := [lineFor badWord] }, ?_, ?_, ?_⟩, ?_⟩, ?_⟩ <;> decide +kernel
/-- A line whose first two slots are a pair, and thread 0 at it. -/
def linePair (a b : Instr) : Line :=
  let slots := [encode a, encode b, encode .nop, encode .nop, encode .nop]
  { slots, lw := lineWord slots 0x21 }
def stPair (a b : Instr) : State := st0.modCluster 0 fun c => c.modEntry 0x100 fun e => { e with inst := some { lines := [linePair a b] } }
/-- Pairs of which both members complete, the second traps, the second stalls, the first stalls. -/
def pairs : List (Instr × Instr) := [(.add 1 2 3, .add 4 1 1), (.add 1 2 3, .trap 5), (.add 1 2 3, .qpop 7 0), (.qpop 7 0, .add 1 2 3)]
theorem witness_pairs : ∀ p ∈ pairs, IssuesPair (stPair p.1 p.2) 0 (encode p.1) (encode p.2) := by
  intro p hp
  refine ⟨linePair p.1 p.2, ⟨.inl ?_, ?_, ?_, ?_, ?_, ?_, ?_, ?_, ⟨{ lines := [linePair p.1 p.2] }, ?_, ?_, ?_⟩, ?_⟩, ?_⟩
  all_goals
    revert p
    decide +kernel
theorem witness_pair_outcomes : (pairs.map fun p =>
    let u := issuing (stPair p.1 p.2) 0
    if u.haz || (u.before [p.1, p.2] (u.counted p.2 2)).isSome then 9 else
    match exec p.1 u, exec p.2 (second u) with
    | .next sa, .next sb => if (firstTrap sa sb).isSome then 1 else if sa.stalledNow then 3 else if sb.stalledNow then 2 else 0
    | _, _ => 9) = [0, 1, 2, 3] := by decide +kernel
theorem witness_encoding : (Instr.bfi 1 2 3 63 1).hasWord = true ∧ (Instr.bfi 1 2 3 63 1).wellFormed = true ∧ (∀ w, Instr.bfi 1 2 3 63 1 ≠ .unassignedOpcode w) ∧
    Decode.rowOf (Decode.opOf 0xFFC000000000000000000000) = none :=
  ⟨by decide +kernel, by decide +kernel, fun w h => (nomatch h), rfl⟩
theorem reset_inv : State.reset.Inv := by
  rw [State.Inv]
  decide +kernel
theorem witness_step : (match step st0 with | .next _ => true | _ => false) = true := by decide +kernel

end Sys2Proof.Tests
end

section
/-! SUPPORT. The decoder and the encoder agree (R43–R50). The opcode map's readers come in shapes; each shape says which
fields the encoder writes for what the reader makes, and every row of the map has one. -/

namespace Sys2Proof.Decode

/-! ## Fields narrower than their place -/

/-- A field that fits in n bits is its low n bits, extended. -/
theorem setWidth_low_of_fits {w n : Nat} {x : BitVec w} (h : fits x n = true) : (low n x).setWidth w = x := by
  have hx : x.toNat < 2 ^ n := by simpa [fits] using h
  apply BitVec.eq_of_toNat_eq
  rw [low, BitVec.toNat_setWidth, BitVec.toNat_setWidth, Nat.mod_eq_of_lt hx, Nat.mod_eq_of_lt x.isLt]

@[simp] theorem fits_setWidth {w n : Nat} (y : BitVec n) : fits (y.setWidth w) n = true := by
  rw [fits, decide_eq_true_eq, BitVec.toNat_setWidth]
  exact (Nat.mod_le _ _).trans_lt y.isLt

@[simp] theorem low_setWidth {w n : Nat} (h : n ≤ w) (y : BitVec n) : low n (y.setWidth w) = y := by
  rw [low, BitVec.setWidth_setWidth_of_le _ h, BitVec.setWidth_eq]

/-- The bits of a field above those it fits in are zero. -/
theorem getElem_of_fits {w n : Nat} {x : BitVec w} (h : fits x n = true) (i : Nat) (hi : i < w) (hn : n ≤ i) : x[i] = false := by
  rw [← setWidth_low_of_fits h, BitVec.getElem_setWidth]
  exact BitVec.getLsbD_of_ge _ _ hn

/-! ## A code that is read is the code of what was read -/

theorem spaceCode_of_spaceOf : ∀ {x : BitVec 4} {sp : Space}, spaceOf x = some sp → spaceCode sp = x := by decide
theorem syncCode_of_syncOf : ∀ {x : BitVec 3} {sy : Sync}, syncOf x = some sy → syncCode sy = x := by decide
theorem sizeCode_of_sizeOf : ∀ {x : BitVec 3} {sz : Size}, sizeOf x = some sz → sizeCode sz = x := by decide
theorem scopeCode_of_scopeOf : ∀ {x : BitVec 3} {sc : Scope}, scopeOf x = some sc → scopeCode sc = x := by decide
theorem rmCode_of_rmOf : ∀ {x : BitVec 3} {rm : Rm}, rmOf x = some rm → rmCode rm = x := by decide

/-- A MOD that reads as a num layout is that layout's (R48). -/
theorem numMod_of_numOf {m : BitVec 16} {n : Num} (h : numOf m = some n) : numMod n = m := by
  unfold numOf at h
  split at h
  case h_2 => cases h
  case h_1 rm hrm =>
    cases h
    rw [numMod, rmCode_of_rmOf hrm]
    ext i hi
    simp
    grind

/-- A MOD that reads as a mem layout is that layout's: its bit 50 is zero (R46). -/
theorem memMod_of_memOf {m : BitVec 16} {f : MemF} (h : memOf m = some f) : memMod f = m := by
  unfold memOf at h
  split at h
  case h_2 => cases h
  case h_1 sp sy sz sc hsp hsy hsz hsc =>
    split at h
    · cases h
    · next h0 =>
      cases h
      rw [memMod, spaceCode_of_spaceOf hsp, syncCode_of_syncOf hsy, sizeCode_of_sizeOf hsz, scopeCode_of_scopeOf hsc]
      ext i hi
      simp
      grind

/-! ## The layouts of their own that entries give MOD and IMM48 -/

/-- JINIT's MOD: the cell below, and bit 6 (R154). -/
theorem jinitMod_of_fits {m : BitVec 16} (h : fits m 7 = true) : (BitVec.ofBool m[6] ++ low 6 m).setWidth 16 = m := by
  ext i hi
  have := getElem_of_fits h i hi
  simp [low]
  grind

/-- CHBIND's MOD: bit 0 (R136). -/
theorem bitMod_of_fits {m : BitVec 16} (h : fits m 1 = true) : (BitVec.ofBool m[0]).setWidth 16 = m := by
  ext i hi
  have := getElem_of_fits h i hi
  simp
  grind

/-- EQINIT's and EQRELABEL's MOD: bit 0, and n bits above it (R344, R353). -/
theorem flaggedMod_of_fits {m : BitVec 16} {n : Nat} (h : fits m (n + 1) = true) :
    (m.extractLsb' 1 n ++ BitVec.ofBool m[0]).setWidth 16 = m := by
  ext i hi
  have := getElem_of_fits h i hi
  simp [BitVec.getLsbD_append]
  grind

/-- The IMM48 of BFX and BFI: position and length, and zeros between and above (R86). -/
theorem bitField_of_fits {m : BitVec 48} (hm : m.extractLsb' 6 2 = 0) (h : fits m 15 = true) :
    bitField (low 6 m) (m.extractLsb' 8 7) = m := by
  ext i hi
  have h0 := getElem_of_fits h i hi
  have h6 : m[6] = false := by simpa using congrArg (·.getLsbD 0) hm
  have h7 : m[7] = false := by simpa using congrArg (·.getLsbD 1) hm
  simp [bitField, low]
  grind

/-- YIELD's IMM48: the deadline below, the mask of g registers above (R119). -/
theorem yieldImm (m : BitVec 48) : m.extractLsb' 16 32 ++ low 16 m = m := by
  ext i hi
  simp [low]
  grind

/-! ## A word of format G is the word of its fields -/

/-- No bit of a word with reserved bits zero lies outside its fields (R43). -/
theorem encG_fieldsOf {w : InstrWord} (h : w.extractLsb' 48 2 = 0) :
    encG (opOf w) (fieldsOf w).d (fieldsOf w).a (fieldsOf w).b (fieldsOf w).c (fieldsOf w).mod (fieldsOf w).imm = w := by
  rw [encG, opOf, fieldsOf, show 0#2 = _ from h.symm]
  iterate 7 rw [BitVec.extractLsb'_append_extractLsb'_eq_extractLsb' (by omega)]
  exact BitVec.extractLsb'_eq_self

theorem encW_fields {w : InstrWord} (h : w.extractLsb' 64 17 = 0) :
    encW (opOf w) (w.extractLsb' 81 5) (w.extractLsb' 0 64) = w := by
  rw [encW, opOf, show 0#17 = _ from h.symm]
  iterate 3 rw [BitVec.extractLsb'_append_extractLsb'_eq_extractLsb' (by omega)]
  exact BitVec.extractLsb'_eq_self

/-! ## The shapes of rows (R50) -/

/-- What a row of the opcode map is, by its shape: its reader, and the fields in which the encoder writes the operands
of the instructions that the reader makes. -/
inductive RowShape : BitVec 10 → (Fields → Except DecodeError Instr) → Prop where
  | li : RowShape 0x030 liF
  | ggg (mk) (h : ∀ d a b, encode (mk d a b) = encG op d a b 0 0 0) : RowShape op (ggg mk)
  | gg (mk) (h : ∀ d a, encode (mk d a) = encG op d a 0 0 0 0) : RowShape op (gg mk)
  | gggg (mk) (h : ∀ d a b c, encode (mk d a b c) = encG op d a b c 0 0) : RowShape op (gggg mk)
  | ggImm (mk) (h : ∀ d a imm, encode (mk d a imm) = encG op d a 0 0 0 imm) : RowShape op (ggImm mk)
  | ggSh (mk) (h : ∀ d a n, encode (mk d a n) = encG op d a 0 0 0 (n.setWidth 48)) : RowShape op (ggSh mk)
  | ggFld (mk) (h : ∀ d a n, encode (mk d a n) = encG op d a 0 0 0 (n.setWidth 48)) : RowShape op (ggFld mk)
  | ggCnt (mk) (h : ∀ d a n, encode (mk d a n) = encG op d a 0 0 0 (n.setWidth 48)) : RowShape op (ggCnt mk)
  | leaF (mk) (h : ∀ d a b e imm, encode (mk d a b e imm) = encG op d a b 0 (e.setWidth 16) imm) : RowShape op (leaF mk)
  | bpermF (mk) (h : ∀ d a c, encode (mk d a c) = encG op d a 0 (c.setWidth 5) 0 0) : RowShape op (bpermF mk)
  | bfxF (mk) (h : ∀ d a pos len, encode (mk d a pos len) = encG op d a 0 0 0 (bitField pos len)) : RowShape op (bfxF mk)
  | bfiF (mk) (h : ∀ d a b pos len, encode (mk d a b pos len) = encG op d a b 0 0 (bitField pos len)) : RowShape op (bfiF mk)
  | gggNum (mk) (h : ∀ d a b n, encode (mk d a b n) = encG op d a b 0 (numMod n) 0) : RowShape op (gggNum mk)
  | ggggNum (mk) (h : ∀ d a b c n, encode (mk d a b c n) = encG op d a b c (numMod n) 0) : RowShape op (ggggNum mk)
  | ggNum (mk) (h : ∀ d a n, encode (mk d a n) = encG op d a 0 0 (numMod n) 0) : RowShape op (ggNum mk)
  | abImm (mk) (h : ∀ a b imm, encode (mk a b imm) = encG op 0 a b 0 0 imm) : RowShape op (abImm mk)
  | offF (mk) (h : ∀ imm, encode (mk imm) = encG op 0 0 0 0 0 imm) : RowShape op (offF mk)
  | aF (mk) (h : ∀ a, encode (mk a) = encG op 0 a 0 0 0 0) : RowShape op (aF mk)
  | dF (mk) (h : ∀ d, encode (mk d) = encG op d 0 0 0 0 0) : RowShape op (dF mk)
  | abF (mk) (h : ∀ a b, encode (mk a b) = encG op 0 a b 0 0 0) : RowShape op (abF mk)
  | none0 (i) (h : encode i = encG op 0 0 0 0 0 0) : RowShape op (none0 i)
  | loopF (mk) (h : ∀ a len, encode (mk a len) = encG op 0 a 0 0 len 0) : RowShape op (loopF mk)
  | loopiF (mk) (h : ∀ len count, encode (mk len count) = encG op 0 0 0 0 len (count.setWidth 48)) : RowShape op (loopiF mk)
  | calldF (mk) (h : ∀ k, encode (mk k) = encG op 0 0 0 0 0 (k.setWidth 48)) : RowShape op (calldF mk)
  | yieldF (mk) (h : ∀ vmask deadline gmask, encode (mk vmask deadline gmask) = encG op 0 0 0 0 vmask (gmask ++ deadline)) :
      RowShape op (yieldF mk)
  | dOff (mk) (h : ∀ d imm, encode (mk d imm) = encG op d 0 0 0 0 imm) : RowShape op (dOff mk)
  | sendF (mk) (h : ∀ a b c n o, encode (mk a b c n o) = encG op 0 a b c (ordMod o) (n.setWidth 48)) : RowShape op (sendF mk)
  | sendnbF (mk) (h : ∀ d a b c n o, encode (mk d a b c n o) = encG op d a b c (ordMod o) (n.setWidth 48)) :
      RowShape op (sendnbF mk)
  | sendvF (mk) (h : ∀ a b c o, encode (mk a b c o) = encG op 0 a (b.setWidth 5) c (ordMod o) 0) : RowShape op (sendvF mk)
  | replyF (mk) (h : ∀ b n o, encode (mk b n o) = encG op 0 0 b 0 (ordMod o) (n.setWidth 48)) : RowShape op (replyF mk)
  | forkF (mk) (h : ∀ a b j imm, encode (mk a b j imm) = encG op 0 a b 0 (j.setWidth 16) imm) : RowShape op (forkF mk)
  | joinF (mk) (h : ∀ j, encode (mk j) = encG op 0 0 0 0 (j.setWidth 16) 0) : RowShape op (joinF mk)
  | jinitF (mk) (h : ∀ a j o, encode (mk a j o) = encG op 0 a 0 0 ((BitVec.ofBool o ++ j).setWidth 16) 0) :
      RowShape op (jinitF mk)
  | chbindF (mk) (h : ∀ c a b o, encode (mk c a b o) = encG op c a b 0 ((BitVec.ofBool o).setWidth 16) 0) :
      RowShape op (chbindF mk)
  | qpushF (mk) (h : ∀ q a, encode (mk q a) = encG op (q.setWidth 5) a 0 0 0 0) : RowShape op (qpushF mk)
  | qpopF (mk) (h : ∀ d q, encode (mk d q) = encG op d (q.setWidth 5) 0 0 0 0) : RowShape op (qpopF mk)
  | qtryF (mk) (h : ∀ d q b, encode (mk d q b) = encG op d (q.setWidth 5) b 0 0 0) : RowShape op (qtryF mk)
  | spopF (mk) (h : ∀ d x, encode (mk d x) = encG op d (x.setWidth 5) 0 0 0 0) : RowShape op (spopF mk)
  | stryF (mk) (h : ∀ d x b, encode (mk d x b) = encG op d (x.setWidth 5) b 0 0 0) : RowShape op (stryF mk)
  | getcF (mk) (h : ∀ d n, encode (mk d n) = encG op d 0 0 0 0 (n.setWidth 48)) : RowShape op (getcF mk)
  | setcF (mk) (h : ∀ a n, encode (mk a n) = encG op 0 a 0 0 0 (n.setWidth 48)) : RowShape op (setcF mk)
  | ggMem (mk) (h : ∀ d a b m imm, encode (mk d a b m imm) = encG op d a b 0 (memMod m) imm) : RowShape op (ggMem mk)
  | abcMem (mk) (h : ∀ a b c m imm, encode (mk a b c m imm) = encG op 0 a b c (memMod m) imm) : RowShape op (abcMem mk)
  | vldF (mk) (h : ∀ d a b m imm, encode (mk d a b m imm) = encG op (d.setWidth 5) a b 0 (memMod m) imm) : RowShape op (vldF mk)
  | vstF (mk) (h : ∀ a b c m imm, encode (mk a b c m imm) = encG op 0 a b (c.setWidth 5) (memMod m) imm) : RowShape op (vstF mk)
  | vldxF (mk) (h : ∀ d a b m imm, encode (mk d a b m imm) = encG op (d.setWidth 5) a (b.setWidth 5) 0 (memMod m) imm) :
      RowShape op (vldxF mk)
  | vstxF (mk) (h : ∀ a b c m imm, encode (mk a b c m imm) = encG op 0 a (b.setWidth 5) (c.setWidth 5) (memMod m) imm) :
      RowShape op (vstxF mk)
  | amoF (mk) (h : ∀ d a b c m fn, encode (mk d a b c m fn) = encG op d a b c (memMod m) (fn.setWidth 48)) :
      RowShape op (amoF mk)
  | casF (mk) (h : ∀ d a b c m imm, encode (mk d a b c m imm) = encG op d a b c (memMod m) imm) : RowShape op (casF mk)
  | vamoF (mk) (h : ∀ d a b c m fn, encode (mk d a b c m fn) =
      encG op (d.setWidth 5) a (b.setWidth 5) (c.setWidth 5) (memMod m) (fn.setWidth 48)) :
      RowShape op (vamoF mk)
  | fenceF (mk) (h : ∀ sc, encode (mk sc) = encG op 0 0 0 0 (scMod sc false) 0) : RowShape op (fenceF mk)
  | barrF (mk) (h : ∀ b sc o, encode (mk b sc o) = encG op 0 (b.setWidth 5) 0 0 (scMod sc o) 0) : RowShape op (barrF mk)
  | binitF (mk) (h : ∀ b a, encode (mk b a) = encG op 0 (b.setWidth 5) a 0 0 0) : RowShape op (binitF mk)
  | bF (mk) (h : ∀ b, encode (mk b) = encG op 0 (b.setWidth 5) 0 0 0 0) : RowShape op (bF mk)
  | tF (mk) (h : ∀ d, encode (mk d) = encG op (d.setWidth 5) 0 0 0 0 0) : RowShape op (tF mk)
  | vvvNum (mk) (h : ∀ d a b n, encode (mk d a b n) = encG op (d.setWidth 5) (a.setWidth 5) (b.setWidth 5) 0 (numMod n) 0) :
      RowShape op (vvvNum mk)
  | vvvvNum (mk) (h : ∀ d a b c n, encode (mk d a b c n) =
      encG op (d.setWidth 5) (a.setWidth 5) (b.setWidth 5) (c.setWidth 5) (numMod n) 0) :
      RowShape op (vvvvNum mk)
  | vvNum (mk) (h : ∀ d a n, encode (mk d a n) = encG op (d.setWidth 5) (a.setWidth 5) 0 0 (numMod n) 0) :
      RowShape op (vvNum mk)
  | vNum (mk) (h : ∀ d n, encode (mk d n) = encG op (d.setWidth 5) 0 0 0 (numMod n) 0) : RowShape op (vNum mk)
  | gvNum (mk) (h : ∀ d a n, encode (mk d a n) = encG op d (a.setWidth 5) 0 0 (numMod n) 0) : RowShape op (gvNum mk)
  | vgNum (mk) (h : ∀ d a n, encode (mk d a n) = encG op (d.setWidth 5) a 0 0 (numMod n) 0) : RowShape op (vgNum mk)
  | gvgNum (mk) (h : ∀ d a b n, encode (mk d a b n) = encG op d (a.setWidth 5) b 0 (numMod n) 0) : RowShape op (gvgNum mk)
  | vggNum (mk) (h : ∀ d a b n, encode (mk d a b n) = encG op (d.setWidth 5) a b 0 (numMod n) 0) : RowShape op (vggNum mk)
  | vvgNum (mk) (h : ∀ d a b n, encode (mk d a b n) = encG op (d.setWidth 5) (a.setWidth 5) b 0 (numMod n) 0) :
      RowShape op (vvgNum mk)
  | abNum (mk) (h : ∀ a b n, encode (mk a b n) = encG op 0 a b 0 (numMod n) 0) : RowShape op (abNum mk)
  | tgNum (mk) (h : ∀ a b n, encode (mk a b n) = encG op 0 (a.setWidth 5) b 0 (numMod n) 0) : RowShape op (tgNum mk)
  | cpysF (mk) (h : ∀ d a, encode (mk d a) = encG op (d.setWidth 5) a 0 0 0 0) : RowShape op (cpysF mk)
  | eqinitF (mk) (h : ∀ a o lg, encode (mk a o lg) = encG op 0 a 0 0 ((lg ++ BitVec.ofBool o).setWidth 16) 0) :
      RowShape op (eqinitF mk)
  | eqrelF (mk) (h : ∀ a b o red, encode (mk a b o red) = encG op 0 a b 0 ((red ++ BitVec.ofBool o).setWidth 16) 0) :
      RowShape op (eqrelF mk)
  | trmarkF (mk) (h : ∀ a imm, encode (mk a imm) = encG op 0 a 0 0 0 imm) : RowShape op (trmarkF mk)

/-! A reader accepts where each of its checks does. -/

@[simp] theorem guard_eq_ok {c : Prop} [Decidable c] {e : DecodeError} {r : Except DecodeError Instr} {i : Instr} :
    (if c then .error e else r) = .ok i ↔ ¬c ∧ r = .ok i := by
  by_cases h : c <;> simp [h]
@[simp] theorem check_eq_ok {c : Prop} [Decidable c] {e : DecodeError} {r : Except DecodeError Instr} {i : Instr} :
    (if c then r else .error e) = .ok i ↔ c ∧ r = .ok i := by
  by_cases h : c <;> simp [h]

/-- Each reader takes only what the encoder writes: the word of what it reads has the fields that it was read from. -/
theorem encode_eq_of_row {op : BitVec 10} {r : Fields → Except DecodeError Instr} (hr : RowShape op r) (hop : op ≠ 0x030)
    {f : Fields} {i : Instr} (h : r f = .ok i) : encode i = encG op f.d f.a f.b f.c f.mod f.imm := by
  cases hr with
  | li => exact absurd rfl hop
  | ggg mk he | gg mk he | gggg mk he | ggImm mk he | abImm mk he | offF mk he | aF mk he | dF mk he | abF mk he
    | none0 i he | loopF mk he | dOff mk he | trmarkF mk he =>
    simp [ggg, gg, gggg, ggImm, abImm, offF, aF, dF, abF, none0, loopF, dOff, trmarkF] at h
    obtain ⟨hz, rfl⟩ := h
    simp [he, hz]
  | ggSh mk he | ggFld mk he | ggCnt mk he | leaF mk he | bpermF mk he | loopiF mk he | calldF mk he | forkF mk he
    | joinF mk he | qpushF mk he | qpopF mk he | qtryF mk he | spopF mk he | stryF mk he | getcF mk he | setcF mk he
    | binitF mk he | bF mk he | tF mk he | cpysF mk he =>
    simp [ggSh, ggFld, ggCnt, leaF, bpermF, loopiF, calldF, forkF, joinF, qpushF, qpopF, qtryF, spopF, stryF, getcF, setcF,
      binitF, bF, tF, cpysF] at h
    obtain ⟨hz, hf, rfl⟩ := h
    simp [he, hz, setWidth_low_of_fits hf]
  | bfxF mk he | bfiF mk he =>
    simp [bfxF, bfiF] at h
    obtain ⟨hz, ⟨hm, hf⟩, rfl⟩ := h
    simp [he, hz, bitField_of_fits hm hf]
  | yieldF mk he =>
    simp [yieldF] at h
    obtain ⟨hz, rfl⟩ := h
    simp [he, hz, yieldImm]
  | sendF mk he | sendvF mk he | replyF mk he =>
    simp [sendF, sendvF, replyF] at h
    obtain ⟨hz, hm, hf, rfl⟩ := h
    simp [he, hz, ← hm, setWidth_low_of_fits hf]
  | sendnbF mk he =>
    simp [sendnbF] at h
    obtain ⟨hm, hf, rfl⟩ := h
    simp [he, ← hm, setWidth_low_of_fits hf]
  | jinitF mk he =>
    simp [jinitF] at h
    obtain ⟨hz, hf, rfl⟩ := h
    simp [he, hz, jinitMod_of_fits hf]
  | chbindF mk he =>
    simp [chbindF] at h
    obtain ⟨hz, hf, rfl⟩ := h
    simp [he, hz, bitMod_of_fits hf]
  | eqinitF mk he | eqrelF mk he =>
    simp [eqinitF, eqrelF] at h
    obtain ⟨hz, hf, rfl⟩ := h
    simp [he, hz, flaggedMod_of_fits hf]
  | gggNum mk he | ggggNum mk he | ggNum mk he | abNum mk he =>
    cases hn : numOf f.mod <;> simp [gggNum, ggggNum, ggNum, abNum, hn] at h
    obtain ⟨hz, rfl⟩ := h
    simp [he, hz, numMod_of_numOf hn]
  | vvvNum mk he | vvvvNum mk he | vvNum mk he | vvgNum mk he | vNum mk he | gvNum mk he | vgNum mk he | gvgNum mk he
    | vggNum mk he | tgNum mk he =>
    cases hn : numOf f.mod <;> simp [vvvNum, vvvvNum, vvNum, vvgNum, vNum, gvNum, vgNum, gvgNum, vggNum, tgNum, hn] at h
    obtain ⟨hz, hf, rfl⟩ := h
    simp [he, hz, hf, setWidth_low_of_fits, numMod_of_numOf hn]
  | ggMem mk he | abcMem mk he =>
    cases hn : memOf f.mod <;> simp [ggMem, abcMem, hn] at h
    obtain ⟨hz, rfl⟩ := h
    simp [he, hz, memMod_of_memOf hn]
  | vldF mk he | vstF mk he | vldxF mk he | vstxF mk he =>
    cases hn : memOf f.mod <;> simp [vldF, vstF, vldxF, vstxF, hn] at h
    obtain ⟨hz, hf, rfl⟩ := h
    simp [he, hz, hf, setWidth_low_of_fits, memMod_of_memOf hn]
  | amoF mk he =>
    cases hn : memOf f.mod <;> simp [amoF, hn] at h
    obtain ⟨hf, rfl⟩ := h
    simp [he, setWidth_low_of_fits hf, memMod_of_memOf hn]
  | casF mk he =>
    cases hn : memOf f.mod <;> simp [casF, hn] at h
    obtain rfl := h
    simp [he, memMod_of_memOf hn]
  | vamoF mk he =>
    cases hn : memOf f.mod <;> simp [vamoF, hn] at h
    obtain ⟨hf, hi, rfl⟩ := h
    simp [he, hf, hi, setWidth_low_of_fits, memMod_of_memOf hn]
  | fenceF mk he =>
    cases hn : scopeOf (f.mod.extractLsb' 1 3) <;> simp [fenceF, hn] at h
    obtain ⟨hz, hm, rfl⟩ := h
    simp [he, hz, ← hm]
  | barrF mk he =>
    cases hn : scopeOf (f.mod.extractLsb' 1 3) <;> simp [barrF, hn] at h
    obtain ⟨hz, hf, hm, rfl⟩ := h
    simp [he, hz, setWidth_low_of_fits hf, ← hm]

/-! ## The opcode map -/

/-- The rows of classes 0 and 1 have their shape, each with the opcode that the encoder writes. -/
theorem rowShape_of_mem_scalar : ∀ p ∈ rows0 ++ rows1, RowShape (BitVec.ofNat 10 p.1) p.2 := by
  simp only [rows0, rows1, List.cons_append, List.nil_append,
    List.forall_mem_cons, List.not_mem_nil, IsEmpty.forall_iff, implies_true, and_true]
  and_intros
  all_goals constructor
  all_goals
    intros
    rfl

/-- So have the rows of classes 2 to 5. -/
theorem rowShape_of_mem_control : ∀ p ∈ rows2 ++ rows3 ++ rows4 ++ rows5, RowShape (BitVec.ofNat 10 p.1) p.2 := by
  simp only [rows2, rows3, rows4, rows5, List.cons_append, List.nil_append,
    List.forall_mem_cons, List.not_mem_nil, IsEmpty.forall_iff, implies_true, and_true]
  and_intros
  all_goals constructor
  all_goals
    intros
    rfl

/-- So have the rows of classes 6 and 7. -/
theorem rowShape_of_mem_vector : ∀ p ∈ rows6 ++ rows7, RowShape (BitVec.ofNat 10 p.1) p.2 := by
  simp only [rows6, rows7, List.cons_append, List.nil_append,
    List.forall_mem_cons, List.not_mem_nil, IsEmpty.forall_iff, implies_true, and_true]
  and_intros
  all_goals constructor
  all_goals
    intros
    rfl

/-- So have the rows of classes 8 to 13. -/
theorem rowShape_of_mem_engines : 
    ∀ p ∈ rows8 ++ rows9 ++ rows10 ++ rows11 ++ rows12 ++ rows13, RowShape (BitVec.ofNat 10 p.1) p.2 := by
  simp only [rows8, rows9, rows10, rows11, rows12, rows13, List.cons_append, List.nil_append,
    List.forall_mem_cons, List.not_mem_nil, IsEmpty.forall_iff, implies_true, and_true]
  and_intros
  all_goals constructor
  all_goals
    intros
    rfl

theorem rowShape_of_mem_opcodeMap {p : Nat × (Fields → Except DecodeError Instr)} (h : p ∈ opcodeMap) :
    RowShape (BitVec.ofNat 10 p.1) p.2 := by
  have h0 := rowShape_of_mem_scalar p
  have h1 := rowShape_of_mem_control p
  have h2 := rowShape_of_mem_vector p
  have h3 := rowShape_of_mem_engines p
  simp only [opcodeMap, List.mem_append] at h h0 h1 h2 h3
  tauto

theorem mem_of_lookup {n : Nat} {r : Fields → Except DecodeError Instr} :
    ∀ {l : List (Nat × (Fields → Except DecodeError Instr))}, lookup n l = some r → (n, r) ∈ l
  | (k, q) :: t, h => by
    unfold lookup at h
    split at h
    · next hk => cases h; subst hk; exact List.mem_cons_self
    · exact List.mem_cons_of_mem _ (mem_of_lookup h)

theorem mem_opcodeMap_of_rowOf {op : BitVec 10} {r : Fields → Except DecodeError Instr} (h : rowOf op = some r) :
    (op.toNat, r) ∈ opcodeMap := by
  have hr := mem_of_lookup h
  simp only [opcodeMap, List.mem_append]
  split at hr <;> simp_all

theorem rowShape_of_rowOf {op : BitVec 10} {r : Fields → Except DecodeError Instr} (h : rowOf op = some r) :
    RowShape op r := by
  simpa using rowShape_of_mem_opcodeMap (mem_opcodeMap_of_rowOf h)

/-! ## From a word and back -/

/-- The row of LI is the one of format W. -/
theorem eq_liF_of_rowOf {r : Fields → Except DecodeError Instr} (h : rowOf 0x030 = some r) : r = liF := (Option.some.inj h).symm

theorem encode_eq_of_liF {w : InstrWord} {i : Instr} (hop : opOf w = 0x030) (h : liF (fieldsOf w) = .ok i) : encode i = w := by
  simp only [liF, check_eq_ok, beq_iff_eq, Except.ok.injEq] at h
  obtain ⟨hz, rfl⟩ := h
  have := encW_fields (w := w) hz
  rwa [hop] at this

/-- What a word that decodes has passed: it is of an unassigned opcode, or its row reads it and the instruction is well formed. -/
theorem decode_eq_ok {w : InstrWord} {i : Instr} (h : decode w = .ok i) :
    (rowOf (opOf w) = none ∧ i = .unassignedOpcode w) ∨
    ∃ r, rowOf (opOf w) = some r ∧ (opOf w = 0x030 ∨ w.extractLsb' 48 2 = 0) ∧ r (fieldsOf w) = .ok i ∧
      WellFormed.check i = none := by
  unfold decode at h
  split at h
  · next hr => cases h; exact .inl ⟨hr, rfl⟩
  · next r hr =>
    split at h
    · cases h
    · next hres =>
      split at h
      · cases h
      · next j hj =>
        split at h
        · cases h
        · next hc =>
          cases h
          refine .inr ⟨r, hr, ?_, hj, hc⟩
          simpa [Classical.or_iff_not_imp_left] using hres

/-- The word of an instruction decodes to j, where its row reads j from it and j is well formed. -/
theorem decode_encG {op : BitVec 10} {d a b c : BitVec 5} {mod : BitVec 16} {imm : BitVec 48}
    {r : Fields → Except DecodeError Instr} {j : Instr} (hr : rowOf op = some r)
    (hj : r ⟨d, a, b, c, mod, imm, encG op d a b c mod imm⟩ = .ok j) (hwf : WellFormed.check j = none) :
    decode (encG op d a b c mod imm) = .ok j := by
  simp only [decode, opOf_encG, reserved_encG, fieldsOf_encG, hr, hj, hwf]
  simp

theorem decode_encW {d : BitVec 5} {x : Word} : decode (encW 0x030 d x) = .ok (.li d x) := by
  obtain ⟨hd, hz, hx⟩ := fields_encW 0x030 d x
  have hrow : rowOf 0x030 = some liF := rfl
  simp only [decode, opOf_encW, hrow, liF, fieldsOf, hd, hz, hx]
  rfl

/-! ## The layouts of entries' own, read back (R86, R119, R154, R222, R344, R353) -/

@[simp] theorem reserved_bitField (pos : BitVec 6) (len : BitVec 7) : (bitField pos len).extractLsb' 6 2 = 0#2 := by
  ext i hi
  simp [bitField]
  grind
@[simp] theorem fits_bitField (pos : BitVec 6) (len : BitVec 7) : fits (bitField pos len) 15 = true := by
  have h : bitField pos len = (len ++ 0#2 ++ pos).setWidth 48 := by
    ext i hi
    simp [bitField]
    grind
  rw [h, fits_setWidth]
@[simp] theorem pos_bitField (pos : BitVec 6) (len : BitVec 7) : low 6 (bitField pos len) = pos := by
  ext i hi
  simp [bitField, low]
  grind
@[simp] theorem len_bitField (pos : BitVec 6) (len : BitVec 7) : (bitField pos len).extractLsb' 8 7 = len := by
  ext i hi
  simp [bitField]
  grind
theorem yieldImm_fields (g : BitVec 32) (d : BitVec 16) :
    low 16 (g ++ d : BitVec 48) = d ∧ (g ++ d : BitVec 48).extractLsb' 16 32 = g := by
  refine ⟨?_, ?_⟩
  all_goals
    ext i hi
    simp [low]
    grind
theorem jinitMod_fields (o : Bool) (j : BitVec 6) :
    low 6 ((BitVec.ofBool o ++ j : BitVec 7).setWidth 16) = j ∧ (BitVec.ofBool o ++ j : BitVec 7)[6] = o := by
  refine ⟨?_, by grind⟩
  ext i hi
  simp [low]
  grind
theorem flaggedMod_fields {n : Nat} (x : BitVec n) (o : Bool) (h : n + 1 ≤ 16) :
    (x ++ BitVec.ofBool o)[0] = o ∧ ((x ++ BitVec.ofBool o).setWidth 16).extractLsb' 1 n = x := by
  refine ⟨by simp [BitVec.getElem_append], ?_⟩
  ext i hi
  simp
  grind
@[simp] theorem scope_scMod (sc : Scope) (chk : Bool) : scopeOf ((scMod sc chk).extractLsb' 1 3) = some sc := by
  cases sc <;> cases chk <;> rfl
@[simp] theorem chk_scMod (sc : Scope) (chk : Bool) : (scMod sc chk)[0] = chk := by
  cases sc <;> cases chk <;> rfl

/-- An event has no word. -/
theorem not_hasWord_of_encode_eq_zero {i : Instr} (h : encode i = 0) : ¬ i.hasWord = true := by
  rw [Instr.hasWord, h]
  decide

open Sys2Proof.Claims in
/-- Each instruction's word has the opcode of a row whose reader takes the fields that the encoder wrote. -/
theorem decode_encode (i : Instr) (hi : ∀ w, i ≠ .unassignedOpcode w) (hw : i.hasWord = true)
    (hwf : WellFormed.check i = none) : decode (encode i) = .ok (wordRow i) := by
  cases i with
  | add | sub | mul | mulh | mulhu | div | divu | rem | remu | and | or | xor | andn | shl | shr | sra | rol | ror | min
    | max | minu | maxu | seq | sne | slt | sltu | bmm8 | bmm8x | bmm8t | pdep | pext | feq | flt | fle | equnite | eqsame
    | codeinst | clz | ctz | popc | bswap | brev | chinfo | jpoll | jcancel | eqfind | eqsize | mcwait | rankc | pentr | sel
    | addi | andi | ori | xori | slti | beq | bne | blt | bge | bltu | bgeu | jmp | trap | mcall | bkpt | jmpr | calldr
    | jwait | flowend | ctxsv | ctxld | mext | codeevict | quar | vifrz | trctlFlush | trctlPause | trctlResume | mstat
    | eqsnap | equndo | eqcommit | launch | cpy | pent | keyslot | scrub | stinv | atreqAttestation | atreqAllocation | ret
    | endAct | nop | trigger | mret | loop | leac | trmark =>
    exact decode_encG rfl (by simp [ggg, gg, gggg, ggImm, abImm, offF, aF, dF, abF, none0, loopF, dOff, trmarkF, wordRow])
      hwf
  | shli | shri | srai | widx | widc | sext | zext | lea | bperm | loopi | calld | fork | join | chbind | qpush | qpop
    | qpeek | qtry | spop | stry | getc | setc | binit | bwait | bdrop | mwait | mzero | cpys =>
    exact decode_encG rfl (by simp [ggSh, ggFld, ggCnt, leaF, bpermF, loopiF, calldF, forkF, joinF, chbindF, qpushF, qpopF,
      qtryF, spopF, stryF, getcF, setcF, binitF, bF, tF, cpysF, wordRow]) hwf
  | bfx | bfi =>
    exact decode_encG rfl (by simp [bfxF, bfiF, wordRow]) hwf
  | yield =>
    exact decode_encG rfl (by simp [yieldF, yieldImm_fields, wordRow]) hwf
  | send | sendnb | sendv | reply =>
    exact decode_encG rfl (by simp [sendF, sendnbF, sendvF, replyF, ordBit_ordMod, wordRow]) hwf
  | jinit =>
    exact decode_encG rfl (by simp [jinitF, jinitMod_fields, wordRow]) hwf
  | eqinit | eqrelabel =>
    exact decode_encG rfl (by simp [eqinitF, eqrelF, flaggedMod_fields, wordRow]) hwf
  | fadd | fsub | fmul | fmin | fmax | fma | fcvtif | fcvtfi | swmap | swred | swcvt | vadd | vsub | vmul | vmin | vmax
    | vcmp | vand | vor | vxor | vshl | vshr | vsra | vdiv | vperm | vbmm8 | vpdep | vpext | vbperm | vfma | vsel | vabs
    | vneg | vcvt | vexp2 | vlog2 | vrcp | vrsq | vsqrt | vmov | vscl | viota | vtag | vred | vbcast | mload | vext | vins
    | mma | mmab | mdrain =>
    exact decode_encG rfl (by simp [gggNum, ggggNum, ggNum, abNum, vvvNum, vvvvNum, vvNum, vvgNum, vNum, gvNum, vgNum,
      gvgNum, vggNum, tgNum, wordRow]) hwf
  | ld | ldx | tagrd | st | stx | tagwr | vld | vst | vldx | vstx | amo | amof | ams | cas | vamo =>
    exact decode_encG rfl (by simp [ggMem, abcMem, vldF, vstF, vldxF, vstxF, amoF, casF, vamoF, wordRow]) hwf
  | fence | barr | bsync =>
    exact decode_encG rfl (by simp [fenceF, barrF, wordRow]) hwf
  | li => exact decode_encW
  | unassignedOpcode w => exact absurd rfl (hi w)
  | _ => exact absurd hw (not_hasWord_of_encode_eq_zero rfl)

/-- A legal word is the word of what it decodes to. -/
theorem encode_of_decode {w : InstrWord} {i : Instr} (h : decode w = .ok i) : encode i = w := by
  obtain ⟨-, rfl⟩ | ⟨r, hr, hres, hi, -⟩ := decode_eq_ok h
  · rfl
  · by_cases hop : opOf w = 0x030
    · rw [hop] at hr
      rw [eq_liF_of_rowOf hr] at hi
      exact encode_eq_of_liF hop hi
    · rw [encode_eq_of_row (rowShape_of_rowOf hr) hop hi, encG_fieldsOf (hres.resolve_left hop)]

end Sys2Proof.Decode

namespace Sys2Proof

open Sys2Proof.Decode in
/-- Settles O59: an instruction of each row is read back from its word by the row's reader. -/
theorem encodingRoundTrips : Obligations.EncodingRoundTrips := by
  unfold Obligations.EncodingRoundTrips
  refine ⟨fun i hi hw hwf => decode_encode i hi hw (Option.isNone_iff_eq_none.1 hwf), fun w h => ?_⟩
  rw [decode, h]

open Sys2Proof.Decode in
/-- Settles O60: every row's reader takes only fields that the encoder writes, and a word has no bit outside its fields. -/
theorem decodingRoundTrips : Obligations.DecodingRoundTrips := by
  unfold Obligations.DecodingRoundTrips
  exact fun _ _ h => encode_of_decode h

/-- Settles O58, by running the decoder and the encoder on the eleven words. -/
theorem writtenWordsDecode : Obligations.WrittenWordsDecode := by
  unfold Obligations.WrittenWordsDecode
  decide +kernel

end Sys2Proof
end

section
/-! SUPPORT. A step of a thread that fetches, taken apart: the move, the checks before the issue, and the issue of a word or
a pair (R34, R36, R38, R42). -/

namespace Sys2Proof.Machine

open Sys2Proof.Claims

/-! ## The move -/

/-- The state that thread t fetches in: the move is taken off the agenda. -/
def fetching (s : State) (t : Nat) : State := { s with agenda := s.agenda.tail, cur := t, trap := none }

/-- The state that it issues from: it no longer stands at the entry of a transfer. -/
def arrived (s : State) (t : Nat) : State := (fetching s t).modMyAct fun a => { a with enter := 0 }

/-- The slot of its line that thread t stands at. -/
abbrev slotAt (s : State) (t : Nat) : Nat := linearOf (s.th t).act.pc % 5

/-- Thread t moves next: it is at the head of the agenda, or the agenda is empty and it is the current thread (log 1). -/
theorem step_of_moves {s : State} {t : Nat} (hm : (s.agenda = [] ∧ s.cur = t) ∨ (∃ rest, s.agenda = .thread t :: rest))
    (ht : isThread t = true) : step s = traced (({ s with agenda := s.agenda.tail } : State).issue t) := by
  obtain ⟨ha, rfl⟩ | ⟨rest, ha⟩ := hm
  · have hs : ({ s with agenda := s.agenda.tail } : State) = s := by
      cases s
      simp_all
    rw [hs, step, ha]
    simp only [State.moveThread, ht, if_true]
  · rw [step, ha]
    simp only [State.moveThread, ht, if_true, List.tail_cons]

theorem issue_of_running {s : State} {t : Nat} (hup : s.sys.stage = 8 ∧ s.sys.voltageBad = false)
    (hin : ({ s with cur := t } : State).overrun = false) (hrun : (s.th t).status = .running) :
    s.issue t = afterIssue t ({ s with cur := t, trap := none } : State).issueAt := by
  have hin' : ({ s with cur := t, trap := none } : State).overrun = false := hin
  have hrun' : ({ s with cur := t, trap := none } : State).me.status = .running := hrun
  simp [State.issue, hup, hin', hrun']

/-! ## The fetch -/

/-- What a thread that fetches issues: the word at its slot, or the pair that starts there. -/
theorem issueAt_of_fetches {s : State} {t : Nat} {l : Line} (h : Fetches s t l) :
    (fetching s t).issueAt =
      if l.pair (slotAt s t) then
        (arrived s t).issuePair (issuing s t) (l.slots.getD (slotAt s t) 0) (l.slots.getD (slotAt s t + 1) 0)
          ((frameOf (issuing s t).me.loops).any fun e =>
            e.handle == handleOf (s.th t).act.pc && e.last == linearOf (s.th t).act.pc)
      else (arrived s t).issueOne (issuing s t) (l.slots.getD (slotAt s t) 0) := by
  obtain ⟨f, hf, hlin, hl⟩ := h.code
  obtain ⟨hpar, hill⟩ := h.good
  have hinst : (fetching s t).instOf t (handleOf (s.th t).act.pc) = some f := hf
  have hme : (fetching s t).me = s.th t := rfl
  have hcur : (fetching s t).cur = t := rfl
  unfold State.issueAt
  simp only [hme, hcur, h.due, h.fetched, h.entered, hinst, ite_self, Nat.not_le.2 hlin, hl, hpar, hill]
  simp
  rfl

theorem step_of_fetches {s : State} {t : Nat} {l : Line} (h : Fetches s t l) :
    step s = traced (afterIssue t (
      if l.pair (slotAt s t) then
        (arrived s t).issuePair (issuing s t) (l.slots.getD (slotAt s t) 0) (l.slots.getD (slotAt s t + 1) 0)
          ((frameOf (issuing s t).me.loops).any fun e =>
            e.handle == handleOf (s.th t).act.pc && e.last == linearOf (s.th t).act.pc)
      else (arrived s t).issueOne (issuing s t) (l.slots.getD (slotAt s t) 0))) := by
  rw [step_of_moves h.moves h.thread, issue_of_running (s := { s with agenda := s.agenda.tail }) h.up h.inTime h.running]
  exact congrArg (fun o => traced (afterIssue t o)) (issueAt_of_fetches h)

/-! ## Noting the issue leaves every thread alone (R109) -/

@[simp] theorem State.issued_th (s : State) (t u : Nat) (h : BitVec 32) : (s.issued t h).th u = s.th u := by
  unfold State.issued
  split <;> rfl
@[simp] theorem State.issued_cur (s : State) (t : Nat) (h : BitVec 32) : (s.issued t h).cur = s.cur := by
  unfold State.issued
  split <;> rfl

theorem issuing_loops (s : State) (t : Nat) : (issuing s t).me.loops = (s.th t).loops := by
  have hme : (issuing s t).me = { s.th t with act := { (s.th t).act with enter := 0 } } := by
    rw [State.me, issuing, State.issued_cur, State.issued_th]
    unfold State.modMyAct State.modAct
    rw [State.th_modTh]
    exact if_pos rfl
  rw [hme]
  rfl

/-! ## The issue of a word and of a pair -/

theorem State.issueOne_ok {s0 u : State} {w : InstrWord} {i : Instr} (hd : decode w = .ok i)
    (hb : u.before [u.select i] (u.counted (u.select i) 1) = none) : s0.issueOne u w = exec (u.select i) u := by
  simp only [State.issueOne, hd, hb]

theorem State.issueOne_error {s0 u : State} {w : InstrWord} {e : DecodeError} (hd : decode w = .error e) :
    s0.issueOne u w = raise 0x01 (w.extractLsb' 32 64) u := by
  simp only [State.issueOne, hd]

theorem State.modMe_congr {s : State} {f g : Thread → Thread} (h : f s.me = g s.me) : s.modMe f = s.modMe g := by
  unfold State.modMe State.modTh
  exact congrArg _ h

/-- A pair that nothing holds back executes both members, and does what they leave (R38, R42). -/
theorem State.issuePair_ok {s0 u : State} {wa wb : InstrWord} {a b : Instr} {sa sb : State} (ha : decode wa = .ok a)
    (hb : decode wb = .ok b) (hh : u.haz = false) (hbef : u.before [a, b] (u.counted b 2) = none)
    (hsa : exec a u = .next sa) (hsb : exec b (second u) = .next sb) :
    s0.issuePair u wa wb false = match firstTrap sa sb with
      | some (_, v) => .next v
      | none => if sa.stalledNow then .next (sa.stallPair u.me.act.pc)
        else if sb.stalledNow then .next (sb.stallPair u.me.act.pc) else together u sa b := by
  have hsecond : (u.modMe fun x => { x with view := some x.snapshot, act := { x.act with
      pc := codeAddr (handleOf u.me.act.pc) (linearOf u.me.act.pc + 1) } }) = second u := State.modMe_congr rfl
  simp only [State.issuePair, ha, hb, hh, hbef, hsa, hsecond, hsb, Bool.false_and, Bool.false_eq_true, if_false]
  rfl

/-- Settles O57: a step of a thread that fetches is the issue of its word or pair, and nothing holds that back. -/
theorem stepRunsTheDecodedInstruction : Obligations.StepRunsTheDecodedInstruction := by
  unfold Obligations.StepRunsTheDecodedInstruction
  intro s t u
  refine ⟨?_, ?_⟩
  · rintro w ⟨l, hf, hp, hw⟩
    have hstep := step_of_fetches hf
    rw [hp, hw, if_neg Bool.false_ne_true] at hstep
    refine ⟨fun i hd hb => ?_, fun e hd => ?_⟩
    · rw [hstep, State.issueOne_ok hd hb]
    · rw [hstep, State.issueOne_error hd]
  · rintro wa wb a b sa sb ⟨l, hf, hp, hwa, hwb, hlast⟩ ha hb hh hbef hsa hsb
    have hstep := step_of_fetches hf
    have hend : ((frameOf (issuing s t).me.loops).any fun e =>
        e.handle == handleOf (s.th t).act.pc && e.last == linearOf (s.th t).act.pc) = false := by
      rw [issuing_loops, List.any_eq_false]
      intro e he
      simpa using hlast e he
    rw [hp, hwa, hwb, if_pos rfl, hend, State.issuePair_ok ha hb hh hbef hsa hsb] at hstep
    refine ⟨fun k v hv => ?_, fun hv => ⟨fun h1 => ?_, fun h1 h2 => ?_, fun h1 h2 => ?_⟩⟩
    · rw [hstep, hv]
    · rw [hstep, hv, h1]
      rfl
    · rw [hstep, hv, h1, h2]
      rfl
    · rw [hstep, hv, h1, h2]
      rfl

end Sys2Proof.Machine
end

section
/-! SUPPORT. Class 6: the vector unit's grant and its line (R22, R263), the lanes of a register (R246, R266), and the rows of
the lane-wise instructions (R267–R280). -/

namespace Sys2Proof.Machine

open Sys2Proof.Claims

/-! ## The unit released -/

/-- The state in which an instruction that has the unit executes: the unit is free again, its latches sound. -/
def State.released (s : State) : State :=
  s.modBlock (blockOf s.cur) fun b => { b with vgrant := none, unitBad := false }

@[simp] theorem State.released_rounding (s : State) (rm : Rm) : s.released.rounding rm = s.rounding rm := rfl

@[simp] theorem State.block_released (s : State) :
    s.released.block (blockOf s.cur) = { s.block (blockOf s.cur) with vgrant := none, unitBad := false } := by
  rw [State.released, State.block_modBlock, if_pos rfl]

/-- The values of DRM that name a mode (R88). -/
theorem drm_cases (x : BitVec 3) : (match x.toNat with
      | 1 => some Rm.rne | 2 => some .rtz | 3 => some .rdn | 4 => some .rup | 5 => some .rna | _ => none) =
    match Decode.rmOf x with | some .dyn => none | o => o := by
  revert x
  decide

theorem State.rounding_eq_roundMode (s : State) (rm : Rm) : s.rounding rm = roundMode s rm := by
  unfold State.rounding roundMode
  cases rm with
  | dyn =>
    dsimp only
    rw [if_neg (not_not_intro rfl : ¬Rm.dyn ≠ .dyn)]
    cases hc : isAct s.cur
    · rfl
    · exact drm_cases s.me.drm
  | _ => rfl

theorem vectorUnit_of_hasUnit {s : State} (h : HasUnit s) (i : Instr) (f : State → Out State) :
    vectorUnit i s f = f s.released := by
  unfold vectorUnit noService
  rw [if_pos h.act]
  dsimp only
  rw [if_pos h.grant, h.sound]
  rfl

theorem State.tagFault_of_tags {s : State} {f : BitVec 5} {rs : List VIdx} (h : ∀ r ∈ rs, (s.v r).tag = f) :
    s.tagFault f rs = none := by
  rw [State.tagFault, Option.map_eq_none_iff, List.find?_eq_none]
  intro r hr
  simp [h r hr]

theorem State.tagFault_of_tag {s : State} {f : BitVec 5} {r : VIdx} {before after : List VIdx}
    (hb : ∀ q ∈ before, (s.v q).tag = f) (hr : (s.v r).tag ≠ f) :
    s.tagFault f (before ++ r :: after) =
      some { code := 0x06, val := BitVec.ofNat 64 (r.toNat * 2 ^ 16 + f.toNat * 2 ^ 8 + (s.v r).tag.toNat) } := by
  have hfind : (before ++ r :: after).find? (fun q => (s.v q).tag != f) = some r := by
    rw [List.find?_append, List.find?_eq_none.2 (fun q hq => by simp [hb q hq]), Option.none_or,
      List.find?_cons_of_pos (by simpa using hr)]
  rw [State.tagFault, hfind]
  rfl

/-- The mode in which a class 6 instruction executes, where it has one. -/
theorem rounding_of_useRm {s : State} {n : Num} {useRm : Bool} {rm : Rm} (h : useRm = true → roundMode s n.rm = some rm) :
    (if useRm then s.rounding n.rm else some .rne) = some (if useRm then rm else .rne) := by
  cases useRm
  · rfl
  · simpa [State.rounding_eq_roundMode] using h rfl

section
variable {s : State} {i : Instr} {n : Num} {useRm : Bool} {rm : Rm} {srcs : List VIdx} {f : Rm → State → Out State}
  (hunit : HasUnit s) (hrm : useRm = true → roundMode s n.rm = some rm) (hfmt : Num.reserved n.fmt = false)
include hunit hrm hfmt

/-- With the unit, a mode, a format and the tags it asks for, a class 6 instruction executes (R42, R263, R267). -/
theorem vecOp_of_tags (htag : ∀ r ∈ srcs, (s.v r).tag = n.fmt) :
    vecOp i n useRm srcs s f = f (if useRm then rm else .rne) s.released := by
  have htag' : s.released.tagFault n.fmt srcs = none := State.tagFault_of_tags htag
  rw [vecOp, vectorUnit_of_hasUnit hunit]
  simp only [State.released_rounding, rounding_of_useRm hrm, hfmt, htag', Bool.false_eq_true, if_false]

/-- The first source whose tag is not FMT raises the format fault (R252). -/
theorem vecOp_of_tag {r : VIdx} {before after : List VIdx} (hsrcs : srcs = before ++ r :: after)
    (hb : ∀ q ∈ before, (s.v q).tag = n.fmt) (hr : (s.v r).tag ≠ n.fmt) :
    vecOp i n useRm srcs s f = .next (s.released.takeFault
      { code := 0x06, val := BitVec.ofNat 64 (r.toNat * 2 ^ 16 + n.fmt.toNat * 2 ^ 8 + (s.v r).tag.toNat) }) := by
  have htag := State.tagFault_of_tag (s := s.released) (after := after) hb hr
  rw [vecOp, vectorUnit_of_hasUnit hunit, hsrcs]
  simp only [State.released_rounding, rounding_of_useRm hrm, hfmt, htag, Bool.false_eq_true, if_false]
  rfl
end

/-! ## The line of the unit -/

theorem State.olderThan_iff (s : State) (t u : Nat) : s.olderThan t u = true ↔ GoesBefore s t u := by
  simp only [State.olderThan, GoesBefore, Bool.or_eq_true, Bool.and_eq_true, decide_eq_true_eq, beq_iff_eq, BitVec.toNat_inj]

theorem State.intoLine_spec (s : State) (t : Nat) : ∀ line : List Nat, ∃ before after, line = before ++ after ∧
    s.intoLine t line = before ++ t :: after ∧ (∀ u ∈ before, ¬GoesBefore s t u) ∧
    ∀ u, after.head? = some u → GoesBefore s t u
  | [] => ⟨[], [], rfl, rfl, by simp, by simp⟩
  | u :: us => by
    unfold State.intoLine
    by_cases h : s.olderThan t u = true
    · rw [if_pos h]
      exact ⟨[], u :: us, rfl, rfl, by simp, by simpa using (s.olderThan_iff t u).1 h⟩
    · obtain ⟨before, after, rfl, hin, hb, ha⟩ := s.intoLine_spec t us
      rw [if_neg h, hin]
      refine ⟨u :: before, after, rfl, rfl, ?_, ha⟩
      simpa using ⟨fun hg => h ((s.olderThan_iff t u).2 hg), hb⟩

/-! ## With and without the grant -/

/-- Whatever the unit is to do, an instruction without it stalls in the line (R263). -/
theorem vectorUnit_of_no_grant {s : State} (ha : isAct s.cur = true) (hg : (s.block (blockOf s.cur)).vgrant ≠ some s.cur)
    (i : Instr) (f : State → Out State) :
    vectorUnit i s f = .next ((s.modBlock (blockOf s.cur) fun b =>
      { b with vwait := if b.vwait.contains s.cur then b.vwait else s.intoLine s.cur b.vwait }).stall .vector) := by
  unfold vectorUnit noService
  rw [if_pos ha]
  exact if_neg hg

theorem vectorUnit_of_bad {s : State} (ha : isAct s.cur = true) (hg : (s.block (blockOf s.cur)).vgrant = some s.cur)
    (hb : (s.block (blockOf s.cur)).unitBad = true) (i : Instr) (f : State → Out State) :
    vectorUnit i s f = raiseOpen 0x16 s.released := by
  unfold vectorUnit noService
  rw [if_pos ha]
  dsimp only
  rw [if_pos hg, hb]
  rfl

theorem vectorUnit_of_service {s : State} (ha : isAct s.cur = false) (i : Instr) (f : State → Out State) :
    vectorUnit i s f = illegal i s := by
  unfold vectorUnit noService
  rw [ha]
  rfl

/-- All that stalling does. -/
theorem State.stall_stalls (s : State) (w : Wait) : Stalls s (s.stall w) w := by
  have hme : (s.stall w).me = { s.me with status := .stalled w } := State.me_modMe s _
  refine ⟨by rw [hme], by rw [hme], ⟨fun r => ?_, fun r => ?_⟩, rfl, rfl, fun u hu => State.th_modMe_ne s _ hu⟩
  · rw [State.reg, State.reg, hme]
    rfl
  · rw [State.vreg, State.vreg, hme]

theorem State.block_stall (s : State) (w : Wait) (b : Nat) : (s.stall w).block b = s.block b := rfl
theorem State.block_unstall (s : State) (t b : Nat) : (s.unstall t).block b = s.block b := rfl

/-- All that a change of a block before a stall does to the thread that stalls. -/
theorem State.stall_modBlock_stalls (s : State) (b : Nat) (f : Block → Block) (w : Wait) :
    Stalls s ((s.modBlock b f).stall w) w :=
  (s.modBlock b f).stall_stalls w

@[simp] theorem State.block_stall_modBlock (s : State) (b : Nat) (f : Block → Block) (w : Wait) :
    ((s.modBlock b f).stall w).block b = f (s.block b) := by
  rw [State.block_stall, State.block_modBlock, if_pos rfl]

/-- All that a grant does: the thread runs again, with the unit. -/
theorem State.grant_spec (s : State) (k t : Nat) (rest : List Nat) :
    let u := (s.modBlock k fun b => { b with vgrant := some t, vwait := rest }).unstall t
    (u.block k).vgrant = some t ∧ (u.block k).vwait = rest ∧ (u.th t).status = .running ∧ u.mem = s.mem ∧
      (u.th t).act = (s.th t).act ∧ ∀ v, v ≠ t → u.th v = s.th v := by
  have hblock : ((s.modBlock k fun b => { b with vgrant := some t, vwait := rest }).unstall t).block k =
      { s.block k with vgrant := some t, vwait := rest } := by
    rw [State.block_unstall, State.block_modBlock, if_pos rfl]
  have hth : ∀ v, ((s.modBlock k fun b => { b with vgrant := some t, vwait := rest }).unstall t).th v =
      if v = t then { s.th t with status := .running, paired := false } else s.th v := fun v => State.th_modTh _ t v _
  refine ⟨by rw [hblock], by rw [hblock], ?_, rfl, ?_, fun v hv => by rw [hth, if_neg hv]⟩ <;> rw [hth, if_pos rfl]

/-- The first thread in line of a free unit gets the grant (R263). -/
theorem execVectorGrant_of_waits {s : State} {k t : Nat} {rest : List Nat} (hfree : (s.block k).vgrant = none)
    (hline : (s.block k).vwait = t :: rest) (ht : (s.th t).status = .stalled .vector) (hrest : t ∉ rest) :
    execVectorGrant k s = .next ((s.modBlock k fun b => { b with vgrant := some t, vwait := rest }).unstall t) := by
  have hfind : (s.block k).vwait.find? (fun u => (s.th u).status == .stalled .vector) = some t := by
    rw [hline, List.find?_cons_of_pos (by simp [ht])]
  have hfilter : (s.block k).vwait.filter (· != t) = rest := by
    rw [hline, List.filter_cons_of_neg (by simp), List.filter_eq_self]
    exact fun u hu => by simpa using fun h : u = t => hrest (h ▸ hu)
  unfold execVectorGrant
  simp only [hfind, hfree, if_true, State.modBlock, hfilter]


/-! ## Packed lanes (R246, R266) -/

theorem packNat_lt (w : Nat) : ∀ xs : List Nat, packNat w xs < 2 ^ (w * xs.length)
  | [] => by simp [packNat]
  | x :: xs => by
    have hx : x % 2 ^ w < 2 ^ w := Nat.mod_lt _ (Nat.two_pow_pos w)
    have hxs : packNat w xs + 1 ≤ 2 ^ (w * xs.length) := packNat_lt w xs
    calc packNat w (x :: xs) < 2 ^ w * (packNat w xs + 1) := by rw [packNat, Nat.mul_add]; omega
      _ ≤ 2 ^ w * 2 ^ (w * xs.length) := Nat.mul_le_mul_left _ hxs
      _ = 2 ^ (w * (x :: xs).length) := by rw [← Nat.pow_add, List.length_cons, Nat.mul_succ, Nat.add_comm]

theorem packNat_lane (w : Nat) : ∀ (xs : List Nat) (k : Nat) (hk : k < xs.length),
    packNat w xs / 2 ^ (w * k) % 2 ^ w = xs[k] % 2 ^ w
  | x :: xs, 0, _ => by simp [packNat]
  | x :: xs, k + 1, hk => by
    have hw : 0 < 2 ^ w := Nat.two_pow_pos w
    have htail : packNat w (x :: xs) / 2 ^ w = packNat w xs := by
      rw [packNat, Nat.add_mul_div_left _ _ hw, Nat.div_eq_of_lt (Nat.mod_lt _ hw), Nat.zero_add]
    rw [Nat.mul_succ, Nat.add_comm, Nat.pow_add, ← Nat.div_div_eq_div_mul, htail,
      packNat_lane w xs k (Nat.lt_of_succ_lt_succ hk), List.getElem_cons_succ]

/-- The lanes of a format fill the register. -/
theorem fmtSlot_mul_lanes (f : BitVec 5) : fmtSlot f * Num.lanes f = 2048 := by
  revert f
  decide

theorem laneAt_eq_lane (f : BitVec 5) (v : BitVec 2048) (k : Nat) : laneAt f v k = lane (fmtSlot f) v k := by
  rw [laneAt, lane, BitVec.extractLsb'_toNat, Nat.shiftRight_eq_div_pow]

theorem toNat_ofNat_packNat {w bits : Nat} {xs : List Nat} (h : w * xs.length = bits) :
    (BitVec.ofNat bits (packNat w xs)).toNat = packNat w xs := by
  subst h
  rw [BitVec.toNat_ofNat, Nat.mod_eq_of_lt (packNat_lt w xs)]

/-- A register of lanes has each of them in its place. -/
theorem laneAt_vregOf (f : BitVec 5) (x : Nat → Nat) {k : Nat} (hk : k < Num.lanes f) :
    laneAt f (vregOf f ((List.range (Num.lanes f)).map x)).bits k = x k % 2 ^ fmtSlot f := by
  have hlen : ((List.range (Num.lanes f)).map x).length = Num.lanes f := by simp
  rw [laneAt_eq_lane, lane, vregOf, toNat_ofNat_packNat (by rw [hlen, fmtSlot_mul_lanes]),
    packNat_lane _ _ _ (hk.trans_eq hlen.symm)]
  simp

theorem rawLanes_eq (f : BitVec 5) (v : BitVec 2048) : rawLanes f v = (List.range (Num.lanes f)).map (laneAt f v) :=
  List.map_congr_left fun k _ => (laneAt_eq_lane f v k).symm

theorem lanesOf_eq (f : BitVec 5) (v : BitVec 2048) : lanesOf f v = (List.range (Num.lanes f)).map (elemAt f v) := by
  rw [lanesOf, rawLanes_eq, List.map_map]
  rfl

/-- The element of a register in lane k. -/
def State.elem (s : State) (f : BitVec 5) (r : VIdx) (k : Nat) : Nat := elemAt f (s.v r).bits k

theorem State.lanes2_eq (s : State) (f : BitVec 5) (a b : VIdx) :
    s.lanes2 f a b = (List.range (Num.lanes f)).map fun k => (s.elem f a k, s.elem f b k) := by
  rw [State.lanes2, lanesOf_eq, lanesOf_eq, List.zip_map']
  rfl

/-! ## Writing lanes -/

/-- Writes vD with lane k, and collects the flags of lane k, as r k gives them. -/
def State.writeLanes (s : State) (d : VIdx) (f tag : BitVec 5) (r : Nat → Nat × FFlags) : Out State :=
  s.vecWrite d { vregOf f ((List.range (Num.lanes f)).map fun k => (r k).1) with tag := tag }
    ((List.range (Num.lanes f)).foldl (fun fl k => fl ||| (r k).2) 0)

theorem State.writeLanes_congr (s : State) (d : VIdx) (f tag : BitVec 5) {r r' : Nat → Nat × FFlags}
    (h : ∀ k, k < Num.lanes f → r k = r' k) : s.writeLanes d f tag r = s.writeLanes d f tag r' := by
  have hmap : ((List.range (Num.lanes f)).map fun k => (r k).1) = (List.range (Num.lanes f)).map fun k => (r' k).1 :=
    List.map_congr_left fun k hk => by rw [h k (List.mem_range.1 hk)]
  have hfold : (List.range (Num.lanes f)).foldl (fun fl k => fl ||| (r k).2) 0 =
      (List.range (Num.lanes f)).foldl (fun fl k => fl ||| (r' k).2) 0 :=
    List.foldl_ext _ _ _ fun fl k hk => by rw [h k (List.mem_range.1 hk)]
  rw [State.writeLanes, State.writeLanes, hmap, hfold]

theorem State.vecLanes_map (s : State) (d : VIdx) (f : BitVec 5) (r : Nat → Nat × FFlags) :
    s.vecLanes d f ((List.range (Num.lanes f)).map r) = s.writeLanes d f f r := by
  rw [State.vecLanes, List.map_map, List.map_map, orAll, List.foldl_map]
  rfl

theorem foldl_or_zero (ks : List Nat) : ks.foldl (fun (fl : FFlags) _ => fl ||| 0) 0 = 0 := by
  induction ks with
  | nil => rfl
  | cons k ks ih => exact ih

theorem State.vecWrite_map (s : State) (d : VIdx) (f : BitVec 5) (x : Nat → Nat) :
    s.vecWrite d (vregOf f ((List.range (Num.lanes f)).map x)) 0 = s.writeLanes d f f fun k => (x k, 0) := by
  rw [State.writeLanes, foldl_or_zero]
  rfl

/-! ## The families of instructions -/

section
variable (i : Instr) (d a b : VIdx) (n : Num) (s : State)

theorem vecArith2_eq (fi : List Int → Int) (ff : Rm → List Fp → Exact × FFlags) :
    vecArith2 i fi ff d a b n s = vecOp i n (Num.isF n.fmt) [a, b] s fun m u =>
      u.writeLanes d n.fmt n.fmt fun k => arithLane n m fi (ff m) [u.elem n.fmt a k, u.elem n.fmt b k] := by
  simp only [vecArith2, State.lanes2_eq, List.map_map, State.vecLanes_map, Function.comp_def]

theorem vecPick_eq (isMax : Bool) :
    vecPick i isMax d a b n s = vecOp i n false [a, b] s fun _ u =>
      u.writeLanes d n.fmt n.fmt fun k => pickLane n.fmt isMax (u.elem n.fmt a k) (u.elem n.fmt b k) := by
  simp only [vecPick, State.lanes2_eq, List.map_map, State.vecLanes_map, Function.comp_def]

theorem vecEach_eq (useRm : Bool) (f : Rm → Nat → Nat × FFlags) :
    vecEach i useRm f d a n s = vecOp i n useRm [a] s fun m u => u.writeLanes d n.fmt n.fmt fun k => f m (u.elem n.fmt a k) := by
  simp only [vecEach, lanesOf_eq, List.map_map, State.vecLanes_map, Function.comp_def, State.elem]

theorem vecShift_eq (f : Nat → Nat → Nat → Nat) :
    vecShift i f d a b n s = vecOp i n false [a, b] s fun _ u => u.writeLanes d n.fmt n.fmt fun k =>
      (f (fmtSlot n.fmt) (u.elem n.fmt a k) (u.elem n.fmt b k % fmtSlot n.fmt), 0) := by
  simp only [vecShift, State.lanes2_eq, List.map_map, State.vecWrite_map, Function.comp_def]
end

/-! ## One lane -/

theorem intMin_le_intMax (f : BitVec 5) : intMin f ≤ intMax f := by
  revert f
  decide

/-- The model clamps with max and min what the specification clamps with comparisons (R268). -/
theorem intLane_eq_intResult (f : BitVec 5) (ovf : Bool) (v : Int) : intLane f ovf v = intResult f ovf v := by
  have hclamp : max (intMin f) (min (intMax f) v) = if v < intMin f then intMin f else if intMax f < v then intMax f else v := by
    have := intMin_le_intMax f
    split_ifs <;> omega
  rw [intLane, intCode, intResult, hclamp]

theorem fmtBits_pos (f : BitVec 5) : 0 < fmtBits f := by
  revert f
  decide

theorem fmtBits_le_fmtSlot (f : BitVec 5) : fmtBits f ≤ fmtSlot f := by
  revert f
  decide

theorem two_pow_fmtBits (f : BitVec 5) : 2 ^ fmtBits f = 2 * 2 ^ (fmtBits f - 1) := by
  rw [← Nat.pow_succ', Nat.succ_eq_add_one, Nat.sub_add_cancel (fmtBits_pos f)]

theorem State.elem_lt (s : State) (f : BitVec 5) (r : VIdx) (k : Nat) : s.elem f r k < 2 ^ fmtBits f :=
  Nat.mod_lt _ (Nat.two_pow_pos _)

theorem neg_fpDecode (f : BitVec 5) (x : Nat) : (fpDecode f x).neg = decide (2 ^ (fmtBits f - 1) ≤ x % 2 ^ fmtBits f) := by
  unfold fpDecode
  dsimp only
  split_ifs <;> rfl

/-- VABS of a number clears its sign bit (R270). -/
theorem signLane_abs (f : BitVec 5) (x : Nat) : signLane f true x =
    if (fpDecode f x).isNan then (fmtNan f, flIf (fpDecode f x).isSig flNV) else (x % 2 ^ (fmtBits f - 1), 0) := by
  simp [signLane, fmtSign]

/-- VNEG of a number inverts its sign bit (R270). -/
theorem signLane_neg (f : BitVec 5) {x : Nat} (hx : x < 2 ^ fmtBits f) : signLane f false x =
    if (fpDecode f x).isNan then (fmtNan f, flIf (fpDecode f x).isSig flNV)
    else ((x + 2 ^ (fmtBits f - 1)) % 2 ^ fmtBits f, 0) := by
  have hflip : x % 2 ^ (fmtBits f - 1) + fmtSign f (!(fpDecode f x).neg) = (x + 2 ^ (fmtBits f - 1)) % 2 ^ fmtBits f := by
    rw [neg_fpDecode, Nat.mod_eq_of_lt hx, fmtSign]
    have hb := two_pow_fmtBits f
    generalize 2 ^ (fmtBits f - 1) = h at *
    by_cases hs : h ≤ x
    · have hm : x % h = x - h := by rw [Nat.mod_eq_sub_mod hs, Nat.mod_eq_of_lt (by omega)]
      rw [hm, Nat.mod_eq_sub_mod (by omega), Nat.mod_eq_of_lt (by omega)]
      simp [hs]
      omega
    · rw [Nat.mod_eq_of_lt (Nat.not_le.1 hs), Nat.mod_eq_of_lt (by omega)]
      simp [hs]
  simp only [signLane, Bool.not_false, Bool.true_and, hflip]

/-- A lane of VABS, by its row. -/
theorem absLane_eq (n : Num) (x : Nat) : absLane n x =
    if Num.isI n.fmt then (intResult n.fmt n.ovf (intDecode n.fmt x).natAbs, 0)
    else if (fpDecode n.fmt x).isNan then (fmtNan n.fmt, flIf (fpDecode n.fmt x).isSig flNV)
    else (x % 2 ^ (fmtBits n.fmt - 1), 0) := by
  rw [absLane, intLane_eq_intResult, signLane_abs]

/-- A lane of VNEG, by its row. -/
theorem negLane_eq (n : Num) {x : Nat} (hx : x < 2 ^ fmtBits n.fmt) : negLane n x =
    if Num.isI n.fmt then (intResult n.fmt n.ovf (-(intDecode n.fmt x)), 0)
    else if (fpDecode n.fmt x).isNan then (fmtNan n.fmt, flIf (fpDecode n.fmt x).isSig flNV)
    else ((x + 2 ^ (fmtBits n.fmt - 1)) % 2 ^ fmtBits n.fmt, 0) := by
  rw [negLane, intLane_eq_intResult, signLane_neg _ hx]

/-- A lane of VMIN, by its row. -/
theorem pickLane_min (f : BitVec 5) (x y : Nat) : pickLane f false x y =
    if Num.isI f then (if intDecode f x ≤ intDecode f y then x else y, 0) else fpMinMax f false x y := by
  simp [pickLane]

/-- A lane of VMAX, by its row. -/
theorem pickLane_max (f : BitVec 5) (x y : Nat) : pickLane f true x y =
    if Num.isI f then (if intDecode f y ≤ intDecode f x then x else y, 0) else fpMinMax f true x y := by
  simp [pickLane]

/-- An arithmetic shift of a lane of w bits by c: the quotient, under copies of the sign bit. -/
def sraLane (w x c : Nat) : Nat := x / 2 ^ c + (if 2 ^ (w - 1) ≤ x then 2 ^ w - 2 ^ (w - c) else 0)

theorem toNat_sshiftRight_ofNat {w x c : Nat} (hx : x < 2 ^ w) (hc : c < w) :
    ((BitVec.ofNat w x).sshiftRight c).toNat = sraLane w x c := by
  unfold sraLane
  have hnat : (BitVec.ofNat w x).toNat = x := by rw [BitVec.toNat_ofNat, Nat.mod_eq_of_lt hx]
  have hmsb : (BitVec.ofNat w x).msb = decide (2 ^ (w - 1) ≤ x) := by rw [BitVec.msb_eq_decide, hnat]
  by_cases hs : 2 ^ (w - 1) ≤ x
  · rw [BitVec.sshiftRight_eq_of_msb_true (by rw [hmsb, decide_eq_true hs]), if_pos hs]
    simp only [BitVec.toNat_not, BitVec.toNat_ushiftRight, hnat, Nat.shiftRight_eq_div_pow]
    have hpow : 2 ^ w = 2 ^ c * 2 ^ (w - c) := by rw [← Nat.pow_add, Nat.add_sub_cancel' hc.le]
    have hq : (2 ^ w - 1 - x) / 2 ^ c = 2 ^ (w - c) - (x / 2 ^ c + 1) := by
      rw [Nat.sub_sub, Nat.add_comm 1 x, hpow, Nat.mul_sub_div _ _ _ (hpow ▸ hx)]
    have hle : 2 ^ (w - c) ≤ 2 ^ w := Nat.pow_le_pow_right (by omega) (by omega)
    have hxq : x / 2 ^ c < 2 ^ (w - c) := Nat.div_lt_of_lt_mul (hpow ▸ hx)
    have hsub : ∀ p q r : Nat, r < q → q ≤ p → p - 1 - (q - (r + 1)) = r + (p - q) := by omega
    rw [hq, hsub _ _ _ hxq hle]
  · rw [BitVec.sshiftRight_eq_of_msb_false (by rw [hmsb, decide_eq_false hs]), if_neg hs, BitVec.toNat_ushiftRight, hnat,
      Nat.shiftRight_eq_div_pow, Nat.add_zero]

/-- A lane of VSRA, by its row (R273). -/
theorem sraLane_elem (s : State) (f : BitVec 5) (a b : VIdx) (k : Nat) :
    sraLane (fmtSlot f) (s.elem f a k) (s.elem f b k % fmtSlot f) =
      ((BitVec.ofNat (fmtSlot f) (s.elem f a k)).sshiftRight (s.elem f b k % fmtSlot f)).toNat :=
  (toNat_sshiftRight_ofNat ((s.elem_lt f a k).trans_le (Nat.pow_le_pow_right (by decide) (fmtBits_le_fmtSlot f)))
    (Nat.mod_lt _ ((fmtBits_pos f).trans_le (fmtBits_le_fmtSlot f)))).symm

/-! ## The rows of the lane-wise instructions (R267–R280) -/

/-- A row of vecLane: the destination, the num field, the sources, the tag, whether RM is used, and the lanes. -/
abbrev LaneRow : Type := VIdx × Num × List VIdx × BitVec 5 × Bool × (Nat → Nat × FFlags)

/-- What a lane-wise instruction does beyond the checks: it writes the lanes that its row gives it. -/
def LaneWise (s : State) (rm : Rm) (i : Instr) : LaneRow → Prop
  | (d, n, srcs, tag, useRm, f) => ∃ g, exec i s = vecOp i n useRm srcs s g ∧
    (i.wellFormed = true → Num.reserved n.fmt = false →
      g (if useRm then rm else .rne) s.released = s.released.writeLanes d n.fmt tag f)

/-- The form that every family gives: the lanes that it writes are those of the row. -/
theorem LaneWise.intro {s : State} {rm : Rm} {i : Instr} {d : VIdx} {n : Num} {srcs : List VIdx} {tag : BitVec 5} {useRm : Bool}
    {f : Nat → Nat × FFlags} {r : Rm → State → Nat → Nat × FFlags}
    (hexec : exec i s = vecOp i n useRm srcs s fun m u => u.writeLanes d n.fmt tag (r m u))
    (hlane : i.wellFormed = true → Num.reserved n.fmt = false → ∀ k, k < Num.lanes n.fmt →
      r (if useRm then rm else .rne) s.released k = f k) : LaneWise s rm i (d, n, srcs, tag, useRm, f) :=
  ⟨_, hexec, fun hwf hres => State.writeLanes_congr _ _ _ _ (hlane hwf hres)⟩

/-- VADD, VSUB, VMUL and VFMA accept a format of I or F; those of F use RM. -/
theorem isF_of_arithmetic {n : Num}
    (h : (WellFormed.require (WellFormed.numUses n (Num.isI n.fmt || Num.isF n.fmt) (Num.isF n.fmt) true false false)
      .numField).isNone = true)
    (hres : Num.reserved n.fmt = false) (hI : ¬Num.isI n.fmt = true) : Num.isF n.fmt = true := by
  by_contra hF
  simp [WellFormed.require, WellFormed.numUses, hres, hI, hF] at h

/-- A lane of an arithmetic instruction, by its row. -/
theorem arithLane_eq {n : Num} {rm : Rm} {fi : List Int → Int} {ff : Rm → List Fp → Exact × FFlags} {xs : List Nat}
    (hF : ¬Num.isI n.fmt = true → Num.isF n.fmt = true) :
    arithLane n (if Num.isF n.fmt then rm else .rne) fi (ff (if Num.isF n.fmt then rm else .rne)) xs =
      if Num.isI n.fmt then (intResult n.fmt n.ovf (fi (xs.map (intDecode n.fmt))), 0)
      else roundWith n.fmt rm n.ovf (ff rm (xs.map (fpDecode n.fmt))) := by
  by_cases hI : Num.isI n.fmt = true
  · rw [arithLane, if_pos hI, if_pos hI, intLane_eq_intResult]
  · rw [arithLane, if_neg hI, if_neg hI, if_pos (hF hI)]

section
variable {s : State} {rm : Rm} {d a b : VIdx} {n : Num}

/-- An arithmetic instruction on two registers. -/
theorem laneWise_arith2 {i : Instr} {fi : List Int → Int} {ff : Rm → List Fp → Exact × FFlags}
    (hexec : exec i s = vecArith2 i fi ff d a b n s)
    (hwf : i.wellFormed = (WellFormed.require (WellFormed.numUses n (Num.isI n.fmt || Num.isF n.fmt) (Num.isF n.fmt) true
      false false) .numField).isNone) :
    LaneWise s rm i (d, n, [a, b], n.fmt, Num.isF n.fmt, fun k =>
      if Num.isI n.fmt then (intResult n.fmt n.ovf (fi [vecLane.i s n a k, vecLane.i s n b k]), 0)
      else roundWith n.fmt rm n.ovf (ff rm [vecLane.p s n a k, vecLane.p s n b k])) :=
  .intro (hexec.trans (vecArith2_eq ..)) fun h hres _ _ => arithLane_eq (isF_of_arithmetic (hwf ▸ h) hres)

/-- An instruction on one register. -/
theorem laneWise_each {i : Instr} {useRm : Bool} {r : Rm → Nat → Nat × FFlags} {f : Nat → Nat × FFlags}
    (hexec : exec i s = vecEach i useRm r d a n s)
    (hlane : ∀ k, r (if useRm then rm else .rne) (s.elem n.fmt a k) = f k) :
    LaneWise s rm i (d, n, [a], n.fmt, useRm, f) :=
  .intro (hexec.trans (vecEach_eq ..)) fun _ _ k _ => hlane k

theorem laneWise_pick {i : Instr} {isMax : Bool} {f : Nat → Nat × FFlags} (hexec : exec i s = vecPick i isMax d a b n s)
    (hlane : ∀ k, pickLane n.fmt isMax (s.elem n.fmt a k) (s.elem n.fmt b k) = f k) :
    LaneWise s rm i (d, n, [a, b], n.fmt, false, f) :=
  .intro (hexec.trans (vecPick_eq ..)) fun _ _ k _ => hlane k

theorem laneWise_shift {i : Instr} {r : Nat → Nat → Nat → Nat} {x : Nat → Nat} (hexec : exec i s = vecShift i r d a b n s)
    (hlane : ∀ k, r (fmtSlot n.fmt) (s.elem n.fmt a k) (s.elem n.fmt b k % fmtSlot n.fmt) = x k) :
    LaneWise s rm i (d, n, [a, b], n.fmt, false, fun k => (x k, 0)) :=
  .intro (hexec.trans (vecShift_eq ..)) fun _ _ k _ => congrArg (·, 0) (hlane k)
end

/-! ## The instructions that stand alone -/

section
variable (s : State) (d a b c : VIdx) (g h : GReg) (n : Num)

theorem exec_vfma : exec (.vfma d a b c n) s = vecOp (.vfma d a b c n) n (Num.isF n.fmt) [a, b, c] s fun m u =>
    u.writeLanes d n.fmt n.fmt fun k => arithLane n m fmaFi (fmaFf m) [u.elem n.fmt a k, u.elem n.fmt b k, u.elem n.fmt c k] := by
  show execVfma d a b c n s = _
  simp only [execVfma, State.lanes2_eq, lanesOf_eq, List.zip_map', List.map_map, State.vecLanes_map, Function.comp_def,
    State.elem]

theorem exec_vcmp : exec (.vcmp d a b n) s = vecOp (.vcmp d a b n) n false [a, b] s fun _ u =>
    u.writeLanes d n.fmt (signedOf n.fmt) fun k =>
      let r := condLane n.fmt n.opx.toNat (u.elem n.fmt a k) (u.elem n.fmt b k)
      (if r.1 then 2 ^ fmtSlot n.fmt - 1 else 0, r.2) := by
  show execVcmp d a b n s = _
  simp only [execVcmp, State.lanes2_eq, List.map_map, Function.comp_def, orAll, List.foldl_map]
  rfl

theorem exec_vsel : exec (.vsel d a b c n) s = vecOp (.vsel d a b c n) n false [b, c] s fun _ u =>
    u.writeLanes d n.fmt n.fmt fun k =>
      (if laneAt n.fmt (u.v a).bits k ≠ 0 then u.elem n.fmt b k else u.elem n.fmt c k, 0) := by
  show execVsel d a b c n s = _
  simp only [execVsel, State.lanes2_eq, rawLanes_eq, List.zip_map', List.map_map, State.vecWrite_map, Function.comp_def]

theorem exec_vdiv : exec (.vdiv d a b n) s = vecOp (.vdiv d a b n) n true [a, b] s fun m u =>
    u.writeLanes d n.fmt n.fmt fun k =>
      roundWith n.fmt m n.ovf (divExact (fpDecode n.fmt (u.elem n.fmt a k)) (fpDecode n.fmt (u.elem n.fmt b k))) := by
  show execVdiv d a b n s = _
  simp only [execVdiv, State.lanes2_eq, List.map_map, State.vecLanes_map, Function.comp_def]

theorem exec_vscl : exec (.vscl d a g n) s = vecOp (.vscl d a g n) n true [a] s fun m u =>
    u.writeLanes d n.fmt n.fmt fun k =>
      roundWith n.fmt m n.ovf (scaleExact (fpDecode n.fmt (u.elem n.fmt a k)) (u.g g).toInt) := by
  show execVscl d a g n s = _
  simp only [execVscl, lanesOf_eq, List.map_map, State.vecLanes_map, Function.comp_def, State.elem]

theorem exec_vbcast : exec (.vbcast d g n) s = vecOp (.vbcast d g n) n false [] s fun _ u =>
    u.writeLanes d n.fmt n.fmt fun _ => ((u.g g).toNat % 2 ^ fmtBits n.fmt, 0) := by
  have hrep : ∀ x : Nat, List.replicate (Num.lanes n.fmt) x = (List.range (Num.lanes n.fmt)).map fun _ => x := by simp
  show execVbcast d g n s = _
  simp only [execVbcast, hrep, State.vecWrite_map]

theorem exec_vins : exec (.vins d g h n) s = vecOp (.vins d g h n) n false [] s fun _ u =>
    u.writeLanes d n.fmt n.fmt fun k =>
      (if k = (u.g h).toNat % Num.lanes n.fmt then (u.g g).toNat % 2 ^ fmtBits n.fmt else laneAt n.fmt (u.v d).bits k, 0) := by
  have hset : ∀ (f : Nat → Nat) (m j x : Nat),
      ((List.range m).map f).set j x = (List.range m).map fun k => if k = j then x else f k := by
    intro f m j x
    apply List.ext_getElem (by simp)
    intro k hk _
    simp [List.getElem_set, eq_comm]
  show execVins d g h n s = _
  simp only [execVins, rawLanes_eq, hset, State.vecWrite_map]

theorem exec_viota : exec (.viota d n) s = vecOp (.viota d n) n false [] s fun _ u =>
    u.writeLanes d n.fmt n.fmt fun k => (iotaLane n.fmt k, 0) := by
  show execViota d n s = _
  simp only [execViota, State.vecWrite_map]

theorem exec_vperm : exec (.vperm d a b n) s = vecOp (.vperm d a b n) n false [a] s fun _ u =>
    u.writeLanes d n.fmt n.fmt fun k => (u.elem n.fmt a (laneAt n.fmt (u.v b).bits k % Num.lanes n.fmt), 0) := by
  show execVperm d a b n s = _
  simp only [execVperm, rawLanes_eq, List.map_map, State.vecWrite_map, Function.comp_def, State.elem, elemAt, laneAt_eq_lane]
end

theorem signedOf_eq (f : BitVec 5) :
    signedOf f = if fmtSlot f = 8 then 1 else if fmtSlot f = 16 then 3 else if fmtSlot f = 32 then 5 else 7 := by
  revert f
  decide

/-- A lane of VCMP, by its row: NE is the opposite of EQ (R271). -/
theorem cmpLane_eq (f : BitVec 5) (opx : BitVec 2) (x y : Nat) :
    (if (condLane f opx.toNat x y).1 then 2 ^ fmtSlot f - 1 else 0, (condLane f opx.toNat x y).2) =
    let op := if opx = 3 then 0 else opx.toNat
    let r : Bool × FFlags := if Num.isI f
      then (if op = 0 then intDecode f x == intDecode f y else if op = 1 then decide (intDecode f x < intDecode f y)
        else decide (intDecode f x ≤ intDecode f y), 0)
      else fpCompare op (fpDecode f x) (fpDecode f y)
    (if r.1 = (opx != 3) then 2 ^ fmtSlot f - 1 else 0, r.2) := by
  have hopx : opx = 0 ∨ opx = 1 ∨ opx = 2 ∨ opx = 3 := by
    revert opx
    decide
  obtain rfl | rfl | rfl | rfl := hopx <;> simp [condLane]

/-- The functions of R275, by their numbers. -/
theorem laneWise_fn {s : State} {rm : Rm} {i : Instr} {d a : VIdx} {n : Num} (fn : Nat) (hexec : exec i s = vecFn i fn d a n s) :
    LaneWise s rm i (d, n, [a], n.fmt, true, fun k => roundWith n.fmt rm n.ovf (specialExact fn (vecLane.p s n a k))) :=
  laneWise_each (useRm := true) (r := fun rm x => roundWith n.fmt rm n.ovf (specialExact fn (fpDecode n.fmt x))) hexec
    fun _ => rfl

/-- The number k in lane k: its low bits, or the datum that it rounds to (R280). -/
theorem iotaLane_eq (f : BitVec 5) (k : Nat) : iotaLane f k =
    if Num.isI f then k % 2 ^ fmtBits f else (fpRound f .rne false (.num false k 0 false)).1 := by
  have hcode : intCode f k = k % 2 ^ fmtBits f := by
    rw [intCode]
    norm_cast
  have hexact : exactOfInt k = .num false k 0 false := by
    rw [exactOfInt, decide_eq_false (Int.not_lt.2 (Int.natCast_nonneg k)), Int.natAbs_natCast]
  rw [iotaLane, hcode, hexact]

/-- Each lane-wise instruction writes the lanes of its row. -/
theorem laneWise_of_vecLane {s : State} {rm : Rm} {i : Instr} {p : LaneRow}
    (h : vecLane s rm i = some p) : LaneWise s rm i p := by
  cases i
  case vadd => cases h; exact laneWise_arith2 (fi := addFi) (ff := addFf) rfl rfl
  case vsub => cases h; exact laneWise_arith2 (fi := subFi) (ff := subFf) rfl rfl
  case vmul => cases h; exact laneWise_arith2 (fi := mulFi) (ff := fun _ => mulFf) rfl rfl
  case vfma => cases h; exact .intro (exec_vfma ..) fun h hres _ _ => arithLane_eq (ff := fmaFf) (isF_of_arithmetic h hres)
  case vmin => cases h; exact laneWise_pick (isMax := false) rfl fun _ => pickLane_min ..
  case vmax => cases h; exact laneWise_pick (isMax := true) rfl fun _ => pickLane_max ..
  case vabs d a n => cases h; exact laneWise_each (useRm := false) (r := fun _ => absLane n) rfl fun _ => absLane_eq ..
  case vneg d a n =>
    cases h
    exact laneWise_each (useRm := false) (r := fun _ => negLane n) rfl fun _ => negLane_eq n (State.elem_lt ..)
  case vcmp => cases h; rw [← signedOf_eq]; exact .intro (exec_vcmp ..) fun _ _ _ _ => cmpLane_eq ..
  case vsel => cases h; exact .intro (exec_vsel ..) fun _ _ _ _ => rfl
  case vshl => cases h; exact laneWise_shift (r := fun _ x c => x * 2 ^ c) rfl fun _ => rfl
  case vshr => cases h; exact laneWise_shift (r := fun _ x c => x / 2 ^ c) rfl fun _ => rfl
  case vsra => cases h; exact laneWise_shift (r := sraLane) rfl fun _ => sraLane_elem ..
  case vexp2 d a n => cases h; exact laneWise_fn 0 rfl
  case vlog2 d a n => cases h; exact laneWise_fn 1 rfl
  case vrcp d a n => cases h; exact laneWise_fn 2 rfl
  case vrsq d a n => cases h; exact laneWise_fn 3 rfl
  case vsqrt d a n => cases h; exact laneWise_fn 4 rfl
  case vdiv => cases h; exact .intro (exec_vdiv ..) fun _ _ _ _ => rfl
  case vscl => cases h; exact .intro (exec_vscl ..) fun _ _ _ _ => rfl
  case vbcast => cases h; exact .intro (exec_vbcast ..) fun _ _ _ _ => rfl
  case vins => cases h; exact .intro (exec_vins ..) fun _ _ _ _ => rfl
  case viota => cases h; exact .intro (exec_viota ..) fun _ _ k _ => congrArg (·, 0) (iotaLane_eq _ k)
  case vperm => cases h; exact .intro (exec_vperm ..) fun _ _ _ _ => rfl
  all_goals cases h

/-! ## Which instructions take the unit -/

theorem vectorUnit_of_vecOp {o : Out State} {i : Instr} {n : Num} {useRm : Bool} {srcs : List VIdx} {s : State}
    {g : Rm → State → Out State} (h : o = vecOp i n useRm srcs s g) : ∃ f, o = vectorUnit i s f :=
  ⟨_, h.trans (by unfold vecOp; rfl)⟩

theorem vectorUnit_of_vecRaw {o : Out State} {i : Instr} {d a : VIdx} {g : State → BitVec 2048} {s : State}
    (h : o = vecRaw i d a g s) : ∃ f, o = vectorUnit i s f :=
  ⟨_, h.trans (by unfold vecRaw; rfl)⟩

theorem vectorUnit_of_vec64 {o : Out State} {i : Instr} {d a b : VIdx} {g : Word → Word → Word} {s : State}
    (h : o = vec64 i g d a b s) : ∃ f, o = vectorUnit i s f :=
  vectorUnit_of_vecRaw (h.trans (by unfold vec64; rfl))

theorem vectorUnit_of_vecLane {s : State} {i : Instr} {p : LaneRow}
    (h : vecLane s .rne i = some p) : ∃ f, exec i s = vectorUnit i s f :=
  have ⟨_, hexec, _⟩ := laneWise_of_vecLane h
  vectorUnit_of_vecOp hexec

/-- Every instruction with a num field of class 6 goes through the unit (R263). -/
theorem exec_eq_vectorUnit {i : Instr} {n : Num} (h : vectorNum i = some n) (s : State) : ∃ f, exec i s = vectorUnit i s f := by
  cases i
  case vand d a b n => exact vectorUnit_of_vecRaw (g := fun s => (s.v a).bits &&& (s.v b).bits) rfl
  case vor d a b n => exact vectorUnit_of_vecRaw (g := fun s => (s.v a).bits ||| (s.v b).bits) rfl
  case vxor d a b n => exact vectorUnit_of_vecRaw (g := fun s => (s.v a).bits ^^^ (s.v b).bits) rfl
  case vmov d a n => exact vectorUnit_of_vecRaw (g := fun s => (s.v a).bits) rfl
  case vbperm d a b n =>
    exact vectorUnit_of_vecRaw (g := fun s => pack64 ((lanes64 (s.v a).bits).map (bperm (s.v b).bits))) rfl
  case vpdep d a b n => exact vectorUnit_of_vec64 (g := pdep) rfl
  case vpext d a b n => exact vectorUnit_of_vec64 (g := pext) rfl
  case vbmm8 d a b n => exact vectorUnit_of_vec64 (show execVbmm8 d a b n s = _ by unfold execVbmm8; rfl)
  case vtag d n => exact vectorUnit_of_vecOp (show execVtag d n s = _ by unfold execVtag; rfl)
  case vred d a n => exact vectorUnit_of_vecOp (show execVred d a n s = _ by unfold execVred; rfl)
  case vext d a b n => exact vectorUnit_of_vecOp (show execVext d a b n s = _ by unfold execVext; rfl)
  case vcvt d a n => exact ⟨_, (rfl : exec _ s = execVcvt d a n s).trans (by unfold execVcvt; rfl)⟩
  case vadd | vsub | vmul | vfma | vmin | vmax | vabs | vneg | vcmp | vsel | vshl | vshr | vsra | vexp2 | vlog2 | vrcp |
      vrsq | vsqrt | vdiv | vscl | vbcast | vins | viota | vperm =>
    all_goals exact vectorUnit_of_vecLane rfl
  all_goals cases h

/-! ## Writing a v register -/

/-- Writes a v register and ORs flags into FSTAT. -/
def Thread.takeV (d : VIdx) (w : VReg) (fl : FFlags) (x : Thread) : Thread :=
  { x.setV d w with act := { (x.setV d w).act with flags := x.act.flags ||| fl } }

theorem Thread.takeV_v (x : Thread) (d : VIdx) (w : VReg) (fl : FFlags) (r : VIdx) :
    Map.get {} (x.takeV d w fl).act.v r.toNat = if r = d then w else Map.get {} x.act.v r.toNat := by
  have h : Map.get {} (x.takeV d w fl).act.v r.toNat = if r.toNat = d.toNat then w else Map.get {} x.act.v r.toNat :=
    Map.get_set {} x.act.v d.toNat r.toNat w
  rw [h]
  simp only [BitVec.toNat_inj]

@[simp] theorem Thread.goOn_status (x : Thread) (t : Nat) (pc : Word) (ls : List Loop) : (x.goOn t pc ls).status = x.status := by
  by_cases ht : isAct t = true <;> by_cases hm : x.mode = .monitor <;>
    simp only [Thread.goOn, Thread.count, Thread.setPc, Thread.setLoops, ht, hm, if_true, if_false, Bool.not_true,
      Bool.not_false, Bool.false_eq_true]

/-- Falling through after a change of registers f retires the instruction. -/
theorem Retired.modMe (s : State) (f : Thread → Thread) (hmode : (f s.me).mode = s.me.mode)
    (hstatus : (f s.me).status = s.me.status) :
    Retired s (s.modMe fun x => Thread.goOn s.cur s.fallPc (loopFall s.here.1 s.here.2 s.me.loops).1 (f x)) where
  at' := by rw [State.me_modMe, Thread.goOn_pc]
  stack := by rw [State.me_modMe, Thread.goOn_loops]
  cur := rfl
  mode := by rw [State.me_modMe, Thread.goOn_mode, hmode]
  status := by rw [State.me_modMe, Thread.goOn_status, hstatus]
  others := fun _ hu => State.th_modMe_ne s _ hu
  trap := rfl
  bytes := fun _ => rfl

/-- Writing a v register with flags and retiring, as one change of the thread. -/
theorem State.setV_retire_eq (s : State) (h : isAct s.cur = true) (d : VIdx) (w : VReg) (fl : FFlags) :
    ((s.setV d w).orFlags fl).retire = s.modMe fun x =>
      Thread.goOn s.cur s.fallPc (loopFall s.here.1 s.here.2 s.me.loops).1 (x.takeV d w fl) := by
  have hor : (s.setV d w).orFlags fl =
      (s.setV d w).modMe fun x => { x with act := { x.act with flags := x.act.flags ||| fl } } := if_pos h
  have hwrite : (s.setV d w).orFlags fl = s.modMe (Thread.takeV d w fl) := by
    rw [hor, State.setV, State.modMe_modMe]
    rfl
  rw [hwrite, State.modMe_retire s (Thread.takeV d w fl) (fun _ => rfl) fun _ => rfl]

/-- All that a class 6 instruction does to its thread as it writes its v register and retires. -/
theorem State.setV_retire_spec (s : State) (h : isAct s.cur = true) (d : VIdx) (w : VReg) (fl : FFlags) :
    Retired s ((s.setV d w).orFlags fl).retire ∧ SetsV s ((s.setV d w).orFlags fl).retire d w fl := by
  rw [s.setV_retire_eq h]
  refine ⟨Retired.modMe s _ rfl rfl, ?_, ?_, ?_, ?_, ?_, ?_, ?_⟩
  · intro r; rw [State.reg, State.me_modMe, Thread.goOn_reg]; rfl
  · intro r; rw [State.vreg, State.me_modMe, Thread.goOn_v, Thread.takeV_v, State.vreg]
  · rw [State.me_modMe, Thread.goOn_marks]; rfl
  · rw [State.me_modMe, Thread.goOn_vErr]; rfl
  · rw [State.me_modMe, Thread.goOn_struck]; rfl
  · rw [State.me_modMe, Thread.goOn_vBad]; rfl
  · rw [State.me_modMe, Thread.goOn_flags, if_pos h]; rfl

/-- What retires after the unit was released has retired. -/
theorem Retired.of_released {s t : State} (h : Retired s.released t) : Retired s t :=
  ⟨⟨h.at', h.stack, h.cur, h.mode, h.status, h.others, h.trap⟩, h.bytes⟩

theorem SetsV.of_released {s t : State} {d : VIdx} {w : VReg} {fl : FFlags} (h : SetsV s.released t d w fl) : SetsV s t d w fl :=
  ⟨h.g, h.v, h.marks, h.vmarks, h.struck, h.vstruck, h.flags⟩

/-- An instruction that has the unit writes its v register, retires, and the unit is free again. -/
theorem State.released_vecWrite_spec {s : State} (h : isAct s.cur = true) (d : VIdx) (w : VReg) (fl : FFlags) :
    ∃ t, s.released.vecWrite d w fl = .next t ∧ Retired s t ∧ t.mem = s.mem ∧ (t.block (blockOf s.cur)).vgrant = none ∧
      SetsV s t d w fl := by
  obtain ⟨hret, hset⟩ := s.released.setV_retire_spec h d w fl
  refine ⟨_, rfl, Retired.of_released hret, ?_, ?_, SetsV.of_released hset⟩ <;> rw [s.released.setV_retire_eq h]
  · rfl
  · exact congrArg Block.vgrant s.block_released

/-! ## The obligations -/

/-- Settles O31: what the unit does with and without the grant, and the first source of the wrong tag. -/
theorem theVectorUnitIsGrantedInOrder : Obligations.TheVectorUnitIsGrantedInOrder := by
  unfold Obligations.TheVectorUnitIsGrantedInOrder
  intro s i n hn
  obtain ⟨f, hexec⟩ := exec_eq_vectorUnit hn s
  refine ⟨fun ha hg => ?_, fun k t rest hfree hline ht hrest => ?_, fun ha hg hb => ?_, fun ha => ?_, ?_⟩
  · rw [hexec, vectorUnit_of_no_grant ha hg]
    refine ⟨_, rfl, State.stall_modBlock_stalls .., ?_, fun hin => ?_, fun hout => ?_⟩
    · rw [State.block_stall_modBlock]
    · rw [State.block_stall_modBlock]
      exact if_pos (List.contains_iff_mem.2 hin)
    · obtain ⟨before, after, hline, hin, hbefore, hafter⟩ := s.intoLine_spec s.cur (s.block (blockOf s.cur)).vwait
      refine ⟨before, after, hline, ?_, hbefore, hafter⟩
      rw [State.block_stall_modBlock]
      exact (if_neg (mt List.contains_iff_mem.1 hout)).trans hin
  · exact ⟨_, execVectorGrant_of_waits hfree hline ht hrest, State.grant_spec ..⟩
  · exact ⟨s.released.takeFree.2, s.released.takeFree.1, hexec.trans (vectorUnit_of_bad ha hg hb i f), rfl, rfl,
      (congrArg Block.unitBad s.block_released).trans rfl⟩
  · rw [hexec, vectorUnit_of_service ha]
    rfl
  · intro rm d srcs tag useRm f r before after hrow hunit hrm hres hsrcs hbefore htag
    obtain ⟨g, hexec, -⟩ := laneWise_of_vecLane hrow
    exact ⟨s.released, hexec.trans (vecOp_of_tag hunit hrm hres hsrcs hbefore htag), rfl, rfl⟩

/-- Settles O29: each instruction writes the lanes of its row, which vD then holds. -/
theorem vectorInstructionsWriteEveryLane : Obligations.VectorInstructionsWriteEveryLane := by
  unfold Obligations.VectorInstructionsWriteEveryLane
  intro s rm i d n srcs tag useRm f hrow hwf hres hunit hrm htags
  obtain ⟨g, hexec, hlanes⟩ := laneWise_of_vecLane hrow
  rw [hexec, vecOp_of_tags hunit hrm hres htags, hlanes hwf hres]
  obtain ⟨t, hnext, hret, hmem, hgrant, hset⟩ := State.released_vecWrite_spec hunit.act d _ _
  exact ⟨t, _, hnext, hret, hmem, hgrant, rfl, hset, fun k hk => laneAt_vregOf n.fmt (fun k => (f k).1) hk⟩

end Sys2Proof.Machine
end

section
/-! SUPPORT. Classes 0 and 1: the integer instructions (R71–R86). Each writes one word and falls through; what the model writes is
the word that the tables of basicResult, wideResult and bitResult give. -/

namespace Sys2Proof.Machine

open Sys2Proof.Claims

/-! ## Writing one g register -/

/-- Instruction i completes with w in gD: it writes gD, retires, and does nothing else. -/
def Writes (s : State) (i : Instr) (d : GReg) (w : Word) : Prop := exec i s = .next (s.writeRetire d w)

theorem Writes.congr {s : State} {i : Instr} {d : GReg} {v w : Word} (h : Writes s i d v) (hw : v = w) : Writes s i d w :=
  hw ▸ h

theorem Writes.spec {s : State} {i : Instr} {d : GReg} {w : Word} (h : Writes s i d w) :
    ∃ t, exec i s = .next t ∧ FallsThrough s t ∧ SetsG s t d w 0 :=
  ⟨_, h, s.writeRetire_spec d w⟩

/-! ## The model's word functions are those of the word library (R74–R78, R81, R86) -/

theorem rol_eq_rotateLeft (a b : Word) : rol a (countShift b) = a.rotateLeft b.toNat := by
  have hrot : a.rotateLeft b.toNat = a <<< countShift b ||| a >>> (64 - countShift b) := rfl
  rw [hrot, rol]
  split
  next h => rw [h, BitVec.shiftLeft_zero, BitVec.ushiftRight_eq_zero (by decide), BitVec.or_zero]
  next => rfl

theorem ror_eq_rotateRight (a b : Word) : ror a (countShift b) = a.rotateRight b.toNat := by
  have hrot : a.rotateRight b.toNat = a >>> countShift b ||| a <<< (64 - countShift b) := rfl
  rw [hrot, ror]
  split
  next h => rw [h, BitVec.shiftLeft_eq_zero (by decide), BitVec.ushiftRight_zero, BitVec.or_zero]
  next => rfl

/-- Where the model takes the first of two words that are equal, the table takes the second. -/
theorem ite_le_eq_ite_lt {α β : Type*} [LinearOrder β] {f : α → β} (hf : Function.Injective f) (x y : α) :
    (if f x ≤ f y then x else y) = if f x < f y then x else y := by
  obtain h | h | h := lt_trichotomy (f x) (f y)
  · rw [if_pos h.le, if_pos h]
  · rw [hf h, ite_self, ite_self]
  · rw [if_neg h.not_ge, if_neg h.not_gt]

theorem minS_eq (x y : Word) : (if x.toInt ≤ y.toInt then x else y) = if x.slt y then x else y := by
  simp only [ite_le_eq_ite_lt (fun _ _ => BitVec.eq_of_toInt_eq), BitVec.slt_iff_toInt_lt]

theorem maxS_eq (x y : Word) : (if y.toInt ≤ x.toInt then x else y) = if x.slt y then y else x := by
  simp only [BitVec.slt_iff_toInt_lt, ← not_lt, ite_not]

theorem minU_eq (x y : Word) : (if x.toNat ≤ y.toNat then x else y) = if x < y then x else y :=
  ite_le_eq_ite_lt BitVec.toNat_injective x y

theorem maxU_eq (x y : Word) : (if y.toNat ≤ x.toNat then x else y) = if x < y then y else x := by
  simp only [BitVec.lt_def, ← not_lt, ite_not]

theorem boolWord_eq (x y : Word) : boolWord (x == y) = if x = y then 1 else 0 := by
  simp only [boolWord, beq_iff_eq]

theorem boolWord_ne (x y : Word) : boolWord (x != y) = if x = y then 0 else 1 := by
  simp only [boolWord, bne_iff_ne, ne_eq, ite_not]

theorem boolWord_slt (x y : Word) : boolWord (decide (x.toInt < y.toInt)) = if x.slt y then 1 else 0 := rfl

theorem boolWord_ult (x y : Word) : boolWord (decide (x.toNat < y.toNat)) = if x < y then 1 else 0 := by
  simp only [boolWord, decide_eq_true_eq, BitVec.lt_def]

theorem boolWord_slt_signExtend (x : Word) (imm : BitVec 48) :
    boolWord (decide (x.toInt < imm.toInt)) = if x.slt (imm.signExtend 64) then 1 else 0 := by
  rw [← boolWord_slt, BitVec.toInt_signExtend_of_le (by decide)]

/-! ## ADD to SLTU, the immediate forms and LI (R74, R75, R82) -/

/-- Each instruction of R74, R75 and R82 writes the result of its row. -/
theorem writes_of_basicResult {s : State} {i : Instr} {d : GReg} {w : Word} (h : basicResult s i = some (d, w)) :
    Writes s i d w := by
  cases i
  case add | sub | and | or | xor | andn | shl | shr | sra | addi | andi | ori | xori | shli | shri | srai | li =>
    all_goals cases h; rfl
  case rol => cases h; exact .congr rfl (rol_eq_rotateLeft ..)
  case ror => cases h; exact .congr rfl (ror_eq_rotateRight ..)
  case min => cases h; exact .congr rfl (minS_eq ..)
  case max => cases h; exact .congr rfl (maxS_eq ..)
  case minu => cases h; exact .congr rfl (minU_eq ..)
  case maxu => cases h; exact .congr rfl (maxU_eq ..)
  case seq => cases h; exact .congr rfl (boolWord_eq ..)
  case sne => cases h; exact .congr rfl (boolWord_ne ..)
  case slt => cases h; exact .congr rfl (boolWord_slt ..)
  case sltu => cases h; exact .congr rfl (boolWord_ult ..)
  case slti => cases h; exact .congr rfl (boolWord_slt_signExtend ..)
  all_goals cases h

/-- Settles O1: each row is the word that the model writes. -/
theorem basicIntegerInstructionsWriteTheirResult : Obligations.BasicIntegerInstructionsWriteTheirResult := by
  unfold Obligations.BasicIntegerInstructionsWriteTheirResult
  intro s i d w h
  exact (writes_of_basicResult h).spec

/-! ## Multiplication, division and extension (R76, R81) -/

theorem mulh_eq (x y : Word) : BitVec.ofInt 64 (x.toInt * y.toInt / 2 ^ 64) =
    (x.signExtend 128 * y.signExtend 128).extractLsb' 64 64 := by
  have hprod : x.signExtend 128 * y.signExtend 128 = BitVec.ofInt 128 (x.toInt * y.toInt) := (BitVec.ofInt_mul ..).symm
  rw [hprod]
  generalize x.toInt * y.toInt = p
  apply BitVec.eq_of_toNat_eq
  rw [BitVec.toNat_ofInt, BitVec.extractLsb'_toNat, BitVec.toNat_ofInt, Nat.shiftRight_eq_div_pow]
  push_cast
  omega

theorem mulhu_eq (x y : Word) : BitVec.ofNat 64 (x.toNat * y.toNat / 2 ^ 64) =
    (x.setWidth 128 * y.setWidth 128).extractLsb' 64 64 := by
  apply BitVec.eq_of_toNat_eq
  rw [BitVec.toNat_ofNat, BitVec.extractLsb'_toNat, BitVec.toNat_mul, BitVec.toNat_setWidth, BitVec.toNat_setWidth,
    Nat.shiftRight_eq_div_pow, ← Nat.mul_mod]
  omega

theorem ofInt_tdiv (x y : Word) : BitVec.ofInt 64 (Int.tdiv x.toInt y.toInt) = x.sdiv y := by
  apply BitVec.eq_of_toInt_eq
  rw [BitVec.toInt_ofInt, BitVec.toInt_sdiv]

theorem divS_eq (x y : Word) : divS x y = if y = 0 then BitVec.allOnes 64 else x.sdiv y := by
  unfold divS
  split_ifs with h0 hover
  · rfl
  · obtain ⟨hx, hy⟩ := hover
    rw [← ofInt_tdiv, hx, hy]
    rfl
  · exact ofInt_tdiv x y

theorem remS_eq (x y : Word) : remS x y = if y = 0 then x else x.srem y := by
  have hrem : BitVec.ofInt 64 (x.toInt - y.toInt * Int.tdiv x.toInt y.toInt) = x.srem y := by
    rw [← Int.tmod_def, ← BitVec.toInt_srem, BitVec.ofInt_toInt]
  unfold remS
  split_ifs with h0 hover
  · rfl
  · obtain ⟨hx, hy⟩ := hover
    rw [← hrem, hx, hy]
    rfl
  · exact hrem

theorem divU_eq (x y : Word) : divU x y = if y = 0 then BitVec.allOnes 64 else x / y := by
  have hdiv : BitVec.ofNat 64 (x.toNat / y.toNat) = x / y := by
    rw [← BitVec.toNat_udiv, BitVec.ofNat_toNat, BitVec.setWidth_eq]
  rw [divU, hdiv]

theorem remU_eq (x y : Word) : remU x y = if y = 0 then x else x % y := by
  have hrem : BitVec.ofNat 64 (x.toNat - y.toNat * (x.toNat / y.toNat)) = x % y := by
    rw [← Nat.mod_eq_sub_mul_div, ← BitVec.toNat_umod, BitVec.ofNat_toNat, BitVec.setWidth_eq]
  rw [remU, hrem]

theorem zextW_eq (x : Word) (n : Nat) : zextW x n = (x.setWidth n).setWidth 64 := by
  rw [zextW, ← BitVec.toNat_setWidth, BitVec.ofNat_toNat]

theorem sextW_eq (x : Word) {n : Nat} (hle : n ≤ 64) : sextW x n = (x.setWidth n).signExtend 64 := by
  have hpow : 2 ^ n ≤ 2 ^ 64 := Nat.pow_le_pow_right (by decide) hle
  have hlt : x.toNat % 2 ^ n < 2 ^ n := Nat.mod_lt _ (Nat.two_pow_pos n)
  apply BitVec.eq_of_toNat_eq
  rw [BitVec.toNat_signExtend, BitVec.msb_eq_decide, BitVec.toNat_setWidth, BitVec.toNat_setWidth, sextW]
  generalize x.toNat % 2 ^ n = y at *
  generalize 2 ^ (n - 1) = h
  generalize 2 ^ n = p at *
  by_cases hs : h ≤ y
  · rw [if_pos hs, if_pos (decide_eq_true hs), BitVec.toNat_ofNat]
    omega
  · rw [if_neg hs, if_neg (by rwa [decide_eq_true_eq]), BitVec.toNat_ofNat, Nat.add_zero]

/-! ## Counts (R81) -/

/-- Zero bits from the top of bits n to 0 down, after the 63 − n bits above them. -/
theorem clzAuxRec_eq (x : Word) : ∀ n, n < 64 → x.clzAuxRec n = BitVec.ofNat 64 (63 - n + clzFrom x (n + 1))
  | 0, _ => by
    rw [BitVec.clzAuxRec_zero, clzFrom, clzFrom]
    split <;> rfl
  | n + 1, hn => by
    rw [BitVec.clzAuxRec_succ, clzFrom]
    by_cases hbit : x.getLsbD (n + 1) = true
    · rw [if_pos hbit, if_pos hbit]
      exact congrArg (BitVec.ofNat 64) (by omega)
    · rw [if_neg hbit, if_neg hbit, clzAuxRec_eq x n (by omega), ← Nat.add_assoc, show 63 - (n + 1) + 1 = 63 - n by omega]

theorem clz_eq (x : Word) : BitVec.ofNat 64 (clzFrom x 64) = x.clz := by
  rw [BitVec.clz, clzAuxRec_eq x 63 (by decide), Nat.sub_self, Nat.zero_add]

theorem ctzFrom_eq_clzFrom_reverse (x : Word) : ∀ n i, i + n = 64 → ctzFrom x i n = clzFrom x.reverse n
  | 0, _, _ => rfl
  | n + 1, i, h => by
    have hbit : x.reverse.getLsbD n = x.getLsbD i := by
      rw [BitVec.getLsbD_reverse, BitVec.getMsbD_eq_getLsbD, decide_eq_true (by omega : n < 64), Bool.true_and,
        show 64 - 1 - n = i by omega]
    rw [ctzFrom, clzFrom, hbit, ctzFrom_eq_clzFrom_reverse x n (i + 1) (by omega)]

theorem ctz_eq (x : Word) : BitVec.ofNat 64 (ctzFrom x 0 64) = x.ctz := by
  rw [ctzFrom_eq_clzFrom_reverse x 64 0 rfl, clz_eq, BitVec.ctz]

@[simp] theorem onesBelow_zero (x : Word) : onesBelow x 0 = 0 := rfl

theorem onesBelow_succ (x : Word) (i : Nat) : onesBelow x (i + 1) = onesBelow x i + if x.getLsbD i then 1 else 0 := by
  rw [onesBelow, List.range_succ, List.countP_append, List.countP_singleton, onesBelow]

theorem popcFrom_eq_onesBelow (x : Word) : ∀ n, popcFrom x n = onesBelow x n
  | 0 => rfl
  | n + 1 => by rw [popcFrom, popcFrom_eq_onesBelow x n, onesBelow_succ]

theorem popc_eq (x : Word) :
    BitVec.ofNat 64 (popcFrom x 64) = BitVec.ofNat 64 ((List.range 64).countP fun i => x.getLsbD i) :=
  congrArg (BitVec.ofNat 64) (popcFrom_eq_onesBelow x 64)

/-! ## Words from their bits -/

theorem bitsOf_lt (f : Nat → Bool) : ∀ n, bitsOf f n < 2 ^ n
  | 0 => Nat.one_pos
  | n + 1 => by
    have := bitsOf_lt f n
    rw [bitsOf, Nat.pow_succ]
    split <;> omega

theorem testBit_bitsOf (f : Nat → Bool) (i : Nat) : ∀ n, (bitsOf f n).testBit i = (decide (i < n) && f i)
  | 0 => by simp [bitsOf]
  | n + 1 => by
    have hlt := bitsOf_lt f n
    rw [bitsOf]
    obtain h | h | h := lt_trichotomy i n
    · have hbit : (bitsOf f n + if f n then 2 ^ n else 0).testBit i = (bitsOf f n).testBit i := by
        split
        · rw [Nat.add_comm, Nat.testBit_two_pow_add_gt h]
        · rfl
      rw [hbit, testBit_bitsOf f i n]
      simp [h, Nat.lt_succ_of_lt h]
    · subst h
      cases f i <;> simp [Nat.add_comm (bitsOf f i), Nat.testBit_two_pow_add_eq, Nat.testBit_lt_two_pow hlt]
    · have hsum : (bitsOf f n + if f n then 2 ^ n else 0) < 2 ^ i :=
        (bitsOf_lt f (n + 1)).trans_le (Nat.pow_le_pow_right (by decide) h)
      rw [Nat.testBit_lt_two_pow hsum, decide_eq_false (by omega), Bool.false_and]

theorem getLsbD_ofNat_bitsOf (f : Nat → Bool) (m : Nat) {n : Nat} (hn : n < 64) :
    (BitVec.ofNat 64 (bitsOf f m)).getLsbD n = (decide (n < m) && f n) := by
  rw [BitVec.getLsbD_ofNat, testBit_bitsOf, decide_eq_true hn, Bool.true_and]

theorem getLsbD_wordOf (f : Nat → Bool) {n : Nat} (hn : n < 64) : (wordOf f).getLsbD n = f n := by
  rw [wordOf, getLsbD_ofNat_bitsOf f 64 hn, decide_eq_true hn, Bool.true_and]

theorem brev_eq (x : Word) : brev x = x.reverse := by
  apply BitVec.eq_of_getLsbD_eq
  intro i hi
  rw [brev, getLsbD_wordOf _ hi, BitVec.getLsbD_reverse, BitVec.getMsbD_eq_getLsbD, decide_eq_true hi, Bool.true_and]

/-! ## The rows of wideResult (R76–R78, R81, R86) -/

theorem count_le_of_sext {d a : GReg} {n : BitVec 7} (h : (Instr.sext d a n).wellFormed = true) : n.toNat ≤ 64 := by
  by_contra hn
  simp [Instr.wellFormed, WellFormed.check, WellFormed.require, hn] at h

/-- Each instruction of R76–R78, R81 and R86 writes the result of its row. -/
theorem writes_of_wideResult {s : State} {i : Instr} {d : GReg} {w : Word} (h : wideResult s i = some (d, w))
    (hwf : i.wellFormed = true) : Writes s i d w := by
  cases i
  case mul | lea => all_goals cases h; rfl
  case mulh => cases h; exact .congr rfl (mulh_eq ..)
  case mulhu => cases h; exact .congr rfl (mulhu_eq ..)
  case div => cases h; exact .congr rfl (divS_eq ..)
  case divu => cases h; exact .congr rfl (divU_eq ..)
  case rem => cases h; exact .congr rfl (remS_eq ..)
  case remu => cases h; exact .congr rfl (remU_eq ..)
  case sel => cases h; exact .congr rfl (ite_not ..).symm
  case sext => cases h; exact .congr rfl (sextW_eq _ (count_le_of_sext hwf))
  case zext => cases h; exact .congr rfl (zextW_eq ..)
  case bfx => cases h; exact .congr rfl (zextW_eq ..)
  case brev => cases h; exact .congr rfl (brev_eq ..)
  case clz => cases h; exact .congr rfl (clz_eq ..)
  case ctz => cases h; exact .congr rfl (ctz_eq ..)
  case popc => cases h; exact .congr rfl (popc_eq ..)
  all_goals cases h

/-- Settles O2: each row is the word that the model writes. -/
theorem wideIntegerInstructionsWriteTheirResult : Obligations.WideIntegerInstructionsWriteTheirResult := by
  unfold Obligations.WideIntegerInstructionsWriteTheirResult
  intro s i d w h hwf
  exact (writes_of_wideResult h hwf).spec

/-! ## Bit-matrix products and deposit (R83, R84) -/

/-- Sums over XOR or OR of eight products, as the model's one loop gives them (R83). -/
theorem getLsbD_bmm8_xor (ix : Nat → Nat → Nat) (x y : Word) {n : Nat} (hn : n < 64) :
    (bmm8 ix true x y).getLsbD n = (List.range 8).foldl (fun acc k =>
      Bool.xor acc (x.getLsbD (ix (n / 8) k) && y.getLsbD (8 * k + n % 8))) false :=
  getLsbD_wordOf _ hn

theorem foldl_or_eq_any (p : Nat → Bool) : ∀ (ks : List Nat) (b : Bool), ks.foldl (fun acc k => acc || p k) b = (b || ks.any p)
  | [], b => (Bool.or_false b).symm
  | k :: ks, b => by rw [List.foldl_cons, foldl_or_eq_any p ks, List.any_cons, Bool.or_assoc]

theorem getLsbD_bmm8_or (ix : Nat → Nat → Nat) (x y : Word) {n : Nat} (hn : n < 64) :
    (bmm8 ix false x y).getLsbD n = (List.range 8).any fun k =>
      x.getLsbD (ix (n / 8) k) && y.getLsbD (8 * k + n % 8) :=
  (getLsbD_wordOf _ hn).trans (foldl_or_eq_any _ _ false)

/-- Bit j of a deposit. -/
def depositBit (x y : Word) (j : Nat) : Bool := y.getLsbD j && x.getLsbD (onesBelow y j)

/-- The bits that PDEP places from position i on, over those it placed before. -/
theorem pdepFrom_add_bitsOf (x y : Word) : ∀ n i,
    pdepFrom x y i (onesBelow y i) n + bitsOf (depositBit x y) i = bitsOf (depositBit x y) (i + n)
  | 0, i => Nat.zero_add _
  | n + 1, i => by
    have ih := pdepFrom_add_bitsOf x y n (i + 1)
    rw [bitsOf, onesBelow_succ] at ih
    rw [pdepFrom, ← Nat.add_assoc, Nat.add_right_comm, ← ih, depositBit]
    cases y.getLsbD i
    · rfl
    · simp only [if_true, Bool.true_and]
      omega

theorem pdep_eq (x y : Word) : pdep x y = BitVec.ofNat 64 (bitsOf (depositBit x y) 64) :=
  congrArg (BitVec.ofNat 64) (pdepFrom_add_bitsOf x y 64 0)

theorem getLsbD_pdep (x y : Word) {n : Nat} (hn : n < 64) : (pdep x y).getLsbD n = depositBit x y n := by
  rw [pdep_eq, getLsbD_ofNat_bitsOf _ _ hn, decide_eq_true hn, Bool.true_and]

/-! ## Extract (R84) -/

theorem onesBelow_mono (y : Word) {i j : Nat} (h : i ≤ j) : onesBelow y i ≤ onesBelow y j :=
  (List.range_sublist.2 h).countP_le

/-- A set bit counts among the ones below every higher place. -/
theorem onesBelow_lt_of_set {y : Word} {i j : Nat} (hi : y.getLsbD i = true) (h : i < j) : onesBelow y i < onesBelow y j :=
  calc onesBelow y i < onesBelow y (i + 1) := by rw [onesBelow_succ, if_pos hi]; exact Nat.lt_succ_self _
    _ ≤ onesBelow y j := onesBelow_mono y h

/-- No two set bits have the same number of ones below them. -/
theorem eq_of_onesBelow_eq {y : Word} {i j : Nat} (hi : y.getLsbD i = true) (hj : y.getLsbD j = true)
    (h : onesBelow y i = onesBelow y j) : i = j := by
  obtain hlt | heq | hgt := lt_trichotomy i j
  · exact absurd h (onesBelow_lt_of_set hi hlt).ne
  · exact heq
  · exact absurd h (onesBelow_lt_of_set hj hgt).ne'

/-- Bit j of an extract. -/
def extractBit (x y : Word) (j : Nat) : Bool :=
  (List.range 64).any fun k => y.getLsbD k && x.getLsbD k && onesBelow y k == j

theorem extractBit_eq_true_iff {x y : Word} {j : Nat} : extractBit x y j = true ↔
    ∃ k < 64, y.getLsbD k = true ∧ x.getLsbD k = true ∧ onesBelow y k = j := by
  simp [extractBit, and_assoc]

/-- The bit at a set place of the mask goes where the ones below that place say. -/
theorem extractBit_onesBelow {x y : Word} {i : Nat} (hi : y.getLsbD i = true) (hlt : i < 64) :
    extractBit x y (onesBelow y i) = x.getLsbD i := by
  rw [Bool.eq_iff_iff, extractBit_eq_true_iff]
  constructor
  · rintro ⟨k, -, hk, hx, heq⟩
    rwa [← eq_of_onesBelow_eq hk hi heq]
  · exact fun hx => ⟨i, hlt, hi, hx, rfl⟩

theorem extractBit_of_ge {x y : Word} {j : Nat} (h : onesBelow y 64 ≤ j) : extractBit x y j = false := by
  rw [← Bool.not_eq_true, extractBit_eq_true_iff]
  rintro ⟨k, hk, hy, -, heq⟩
  exact absurd (onesBelow_lt_of_set hy hk) (by omega)

/-- The bits that PEXT gathers from position i on, over those it gathered before. -/
theorem pextFrom_add_bitsOf (x y : Word) : ∀ n i, i + n ≤ 64 →
    pextFrom x y i (onesBelow y i) n + bitsOf (extractBit x y) (onesBelow y i) = bitsOf (extractBit x y) (onesBelow y (i + n))
  | 0, i, _ => Nat.zero_add _
  | n + 1, i, h => by
    have ih := pextFrom_add_bitsOf x y n (i + 1) (by omega)
    rw [pextFrom, ← Nat.add_assoc, Nat.add_right_comm, ← ih, onesBelow_succ]
    cases hi : y.getLsbD i
    · rfl
    · simp only [if_true, bitsOf, extractBit_onesBelow hi (by omega)]
      omega

theorem pext_eq (x y : Word) : pext x y = BitVec.ofNat 64 (bitsOf (extractBit x y) (onesBelow y 64)) :=
  congrArg (BitVec.ofNat 64) (pextFrom_add_bitsOf x y 64 0 (by decide))

theorem getLsbD_pext (x y : Word) {n : Nat} (hn : n < 64) : (pext x y).getLsbD n = extractBit x y n := by
  rw [pext_eq, getLsbD_ofNat_bitsOf _ _ hn]
  by_cases h : n < onesBelow y 64
  · rw [decide_eq_true h, Bool.true_and]
  · rw [decide_eq_false h, Bool.false_and, extractBit_of_ge (not_lt.1 h)]

/-! ## Insert, byte order and BPERM (R81, R85, R86) -/

theorem getLsbD_bfi (x y : Word) (pos len : Nat) {n : Nat} (hn : n < 64) : (bfi x y pos len).getLsbD n =
    if pos ≤ n ∧ n < pos + len then y.getLsbD (n - pos) else x.getLsbD n := by
  have hmask : (BitVec.ofNat 64 ((2 ^ len - 1) * 2 ^ pos)).getLsbD n = decide (pos ≤ n ∧ n < pos + len) := by
    rw [BitVec.getLsbD_ofNat, decide_eq_true hn, Bool.true_and, Nat.testBit_mul_two_pow, Nat.testBit_two_pow_sub_one,
      ← Bool.decide_and]
    exact decide_eq_decide.2 (by omega)
  rw [bfi, BitVec.getLsbD_or, BitVec.getLsbD_and, BitVec.getLsbD_and, BitVec.getLsbD_not, hmask, BitVec.getLsbD_shiftLeft]
  by_cases h : pos ≤ n ∧ n < pos + len
  · simp [h, hn, not_lt.2 h.1]
  · simp [h, hn]

theorem packNat_map_range (w : Nat) : ∀ (m : Nat) (g : Nat → Nat),
    packNat w ((List.range m).map g) = ∑ k ∈ Finset.range m, g k % 2 ^ w * 2 ^ (w * k)
  | 0, _ => rfl
  | m + 1, g => by
    rw [List.range_succ_eq_map, List.map_cons, List.map_map, packNat, packNat_map_range w m, Finset.sum_range_succ', Finset.mul_sum,
      Nat.mul_zero, Nat.pow_zero, Nat.mul_one, Nat.add_comm]
    congr 1
    exact Finset.sum_congr rfl fun k _ => by rw [Nat.mul_succ, Nat.pow_add, Function.comp]; ring

/-- The byte-reversed word is packed from its bytes, the highest first (R81). -/
theorem bswap_eq (x : Word) :
    bswap x = BitVec.ofNat 64 (packNat 8 ((List.range 8).map fun k => x.toNat / 2 ^ (8 * (7 - k)))) := by
  have hsum : ((List.range 8).map fun i => x.toNat / 2 ^ (8 * i) % 256 * 2 ^ (8 * (7 - i))).sum =
      ∑ i ∈ Finset.range 8, x.toNat / 2 ^ (8 * i) % 256 * 2 ^ (8 * (7 - i)) := rfl
  rw [bswap, packNat_map_range, hsum, ← Finset.sum_range_reflect]
  refine congrArg (BitVec.ofNat 64) (Finset.sum_congr rfl fun k hk => ?_)
  rw [show 8 - 1 - k = 7 - k from rfl, Nat.sub_sub_self (Nat.le_of_lt_succ (Finset.mem_range.1 hk))]
  rfl

theorem getLsbD_bswap (x : Word) {n : Nat} (hn : n < 64) : (bswap x).getLsbD n = x.getLsbD (8 * (7 - n / 8) + n % 8) := by
  have hk : n / 8 < ((List.range 8).map fun i => x.toNat / 2 ^ (8 * (7 - i))).length := by
    rw [List.length_map, List.length_range]
    omega
  have hlane := congrArg (Nat.testBit · (n % 8)) (packNat_lane 8 _ (n / 8) hk)
  simp only [Nat.testBit_mod_two_pow, Nat.testBit_div_two_pow, List.getElem_map, List.getElem_range,
    decide_eq_true (Nat.mod_lt n (by decide : 8 > 0)), Bool.true_and] at hlane
  rw [bswap_eq, BitVec.getLsbD_ofNat, decide_eq_true hn, Bool.true_and, BitVec.getLsbD, Nat.add_comm _ (n % 8), ← hlane,
    Nat.mod_add_div]

theorem getLsbD_bperm (ctl : BitVec 2048) (x : Word) {k : Nat} (hk : k < 64) : (bperm ctl x).getLsbD k =
    (!(ctl.getLsbD (8 * k + 7)) && x.getLsbD ((ctl.extractLsb' (8 * k) 6).toNat)) := by
  have hsel : ctl.toNat / 2 ^ (8 * k) % 256 % 64 = (ctl.extractLsb' (8 * k) 6).toNat := by
    rw [BitVec.extractLsb'_toNat, Nat.shiftRight_eq_div_pow]
    omega
  have htop : ctl.getLsbD (8 * k + 7) = decide (128 ≤ ctl.toNat / 2 ^ (8 * k) % 256) := by
    rw [BitVec.getLsbD, Nat.add_comm, ← Nat.testBit_div_two_pow, Nat.testBit_eq_decide_div_mod_eq]
    exact decide_eq_decide.2 (by omega)
  rw [bperm, getLsbD_wordOf _ hk]
  dsimp only
  rw [hsel, htop]
  by_cases h : 128 ≤ ctl.toNat / 2 ^ (8 * k) % 256 <;> simp [h]

/-! ## Fields of an identifier (R79, R80) -/

theorem widthOf_eq (spec : BitVec 36) (k : Nat) : widthOf spec k = (spec.extractLsb' (6 * k) 6).toNat := by
  rw [widthOf, BitVec.extractLsb'_toNat, Nat.shiftRight_eq_div_pow]

/-- Field n lies above the fields after it: the widths of all, less those up to n (R80). -/
theorem fieldLow_eq (spec : BitVec 36) {n : Nat} (hn : n ≤ 5) :
    fieldLow spec n = ((List.range 6).map fun k => if n < k then (spec.extractLsb' (6 * k) 6).toNat else 0).sum := by
  simp only [← widthOf_eq, fieldLow]
  interval_cases n <;> simp [List.range_succ] <;> omega

/-! ## The rows of bitResult, BPERM, WIDX and WIDC -/

theorem exists_writes_of_row {s : State} {i : Instr} {d : GReg} {w : Word} {f : Nat → Bool}
    (hrow : ∀ n, bitResult s n i = some (d, f n)) (hw : Writes s i d w) (hbits : ∀ n, n < 64 → w.getLsbD n = f n) :
    ∃ w, Writes s i d w ∧ ∀ n, n < 64 → bitResult s n i = some (d, w.getLsbD n) :=
  ⟨w, hw, fun n hn => by rw [hrow, hbits n hn]⟩

/-- Each instruction of bitResult writes a word whose bits its row gives. -/
theorem exists_writes_of_bitResult {s : State} {i : Instr} {d : GReg} {b : Bool} (h : bitResult s 0 i = some (d, b)) :
    ∃ w, Writes s i d w ∧ ∀ n, n < 64 → bitResult s n i = some (d, w.getLsbD n) := by
  cases i
  case bmm8 => cases h; exact exists_writes_of_row (fun _ => rfl) rfl fun _ => getLsbD_bmm8_xor _ _ _
  case bmm8x => cases h; exact exists_writes_of_row (fun _ => rfl) rfl fun _ => getLsbD_bmm8_or _ _ _
  case bmm8t => cases h; exact exists_writes_of_row (fun _ => rfl) rfl fun _ => getLsbD_bmm8_xor _ _ _
  case pdep => cases h; exact exists_writes_of_row (fun _ => rfl) rfl fun _ => getLsbD_pdep _ _
  case pext => cases h; exact exists_writes_of_row (fun _ => rfl) rfl fun _ => getLsbD_pext _ _
  case bfi => cases h; exact exists_writes_of_row (fun _ => rfl) rfl fun _ => getLsbD_bfi _ _ _ _
  case bswap => cases h; exact exists_writes_of_row (fun _ => rfl) rfl fun _ => getLsbD_bswap _
  all_goals cases h

theorem bitInstructionsWriteEachBit : Claims.BitInstructionsWriteEachBit := by
  intro s i d b h _
  obtain ⟨w, hw, hbits⟩ := exists_writes_of_bitResult h
  obtain ⟨t, hexec, hfall, hset⟩ := hw.spec
  exact ⟨t, w, hexec, hfall, hset, hbits⟩

theorem bpermSelectsBits : Claims.BpermSelectsBits := by
  intro s d a c
  refine ⟨fun hact => ?_, fun hserve => ?_⟩
  · have hw : Writes s (.bperm d a c) d (bperm (s.v c).bits (s.g a)) := if_pos hact
    obtain ⟨t, hexec, hfall, hset⟩ := hw.spec
    exact ⟨t, _, hexec, hfall, hset, fun k hk => getLsbD_bperm _ _ hk⟩
  · exact if_neg (by rw [hserve]; decide)

theorem widxAndWidcReadFields : Claims.WidxAndWidcReadFields := by
  intro s d a n hn
  dsimp only
  rw [← fieldLow_eq _ hn, ← widthOf_eq, ← zextW_eq]
  exact ⟨Writes.spec (i := .widx d a n) rfl, Writes.spec (i := .widc d a n) rfl⟩

/-- Settles O3, from its three parts. -/
theorem bitInstructionsWriteTheirResult : Obligations.BitInstructionsWriteTheirResult := by
  unfold Obligations.BitInstructionsWriteTheirResult
  exact ⟨bitInstructionsWriteEachBit, bpermSelectsBits, widxAndWidcReadFields⟩

end Sys2Proof.Machine
end

section
/-! SUPPORT. Class 1: scalar FP32 (R87–R95). An instruction writes one word and its flags; comparisons order the places of
two data; rounding to FP32 gives a code of 32 bits, and rounding to an integer the integer of R253. -/

namespace Sys2Proof.Machine

open Sys2Proof.Claims

/-! ## Writing a g register with flags (R88) -/

/-- ORs flags into FSTAT. -/
def Thread.addFlags (fl : FFlags) (x : Thread) : Thread := { x with act := { x.act with flags := x.act.flags ||| fl } }

@[simp] theorem Thread.addFlags_rest (x : Thread) (t : Nat) (fl : FFlags) : (x.addFlags fl).rest t = x.rest t := by
  by_cases ht : isAct t = true <;> by_cases hm : x.mode = .monitor <;>
    simp only [Thread.addFlags, Thread.rest, ht, hm, if_true, if_false, Bool.false_eq_true]

/-- Writing a g register with flags and retiring, as one change of the thread. -/
theorem State.fpWrite_eq (s : State) (h : isAct s.cur = true) (d : GReg) (w : Word) (fl : FFlags) :
    s.fpWrite d (w, fl) = s.modMe fun x =>
      Thread.goOn s.cur s.fallPc (loopFall s.here.1 s.here.2 s.me.loops).1 ((x.setG d w).addFlags fl) := by
  have hor : (s.setG d w).orFlags fl = (s.setG d w).modMe (Thread.addFlags fl) := if_pos h
  have hwrite : (s.setG d w).orFlags fl = s.modMe fun x => (x.setG d w).addFlags fl := by
    rw [hor, State.setG, State.modMe_modMe]
  rw [State.fpWrite, hwrite]
  exact State.modMe_retire s _ (fun x => Thread.setG_pc x d w) fun x => Thread.setG_loops x d w

/-- All that a scalar FP32 instruction does to its thread as it writes gD with flags and retires. -/
theorem State.fpWrite_spec (s : State) (d : GReg) (w : Word) (fl : FFlags) :
    FallsThrough s (s.fpWrite d (w, fl)) ∧ SetsG s (s.fpWrite d (w, fl)) d w fl := by
  by_cases h : isAct s.cur = true
  · rw [s.fpWrite_eq h]
    refine ⟨Goes.modMe s _ _ (fun x => (x.setG d w).addFlags fl) (fun x t => by rw [Thread.addFlags_rest, Thread.setG_rest])
      (fun x => Thread.setG_serve x d w) (fun x t => Thread.setG_retired x t d w), ?_, ?_, ?_, ?_, ?_, ?_, ?_⟩
    · intro r; rw [State.reg, State.me_modMe, Thread.goOn_reg]; exact Thread.reg_setG s.me d w r
    · intro r; rw [State.vreg, State.me_modMe, Thread.goOn_v, State.vreg, ← Thread.setG_v s.me d w]; rfl
    · rw [State.me_modMe, Thread.goOn_marks]; exact Thread.setG_marks s.me d w
    · rw [State.me_modMe, Thread.goOn_vErr]; exact Thread.setG_vErr s.me d w
    · rw [State.me_modMe, Thread.goOn_struck]; exact Thread.setG_struck s.me d w
    · rw [State.me_modMe, Thread.goOn_vBad]; exact Thread.setG_vBad s.me d w
    · rw [State.me_modMe, Thread.goOn_flags, if_pos h, Thread.addFlags, Thread.setG_flags]
  · have hwrite : s.fpWrite d (w, fl) = s.writeRetire d w := congrArg State.retire (if_neg h)
    obtain ⟨hfall, hset⟩ := s.writeRetire_spec d w
    rw [hwrite]
    exact ⟨hfall, hset.g, hset.v, hset.marks, hset.vmarks, hset.struck, hset.vstruck,
      hset.flags.trans (by rw [if_neg h, if_neg h])⟩

/-! ## FP32 data (R87) -/

theorem fpDecode_mod (f : BitVec 5) (x : Nat) : fpDecode f (x % 2 ^ fmtBits f) = fpDecode f x := by
  rw [fpDecode, fpDecode, Nat.mod_mod]

theorem fp32_eq (s : State) (r : GReg) : fp32 (s.g r) = fpOf s r := (fpDecode_mod 8 (s.g r).toNat).symm

/-! ## Comparisons (R92) -/

theorem finValue_not (n : Bool) (m : Nat) (e : Int) : finValue (!n) m e = -finValue n m e := by
  cases n <;> simp [finValue]

/-- A magnitude m · 2^e in units of 2^e' below it. -/
theorem finValue_scale (n : Bool) (m : Nat) {e e' : Int} (h : e' ≤ e) :
    (((if n then -1 else 1) * ((m * 2 ^ (e - e').toNat : Nat) : Int) : Int) : ℚ) * 2 ^ e' = finValue n m e := by
  have hpow : (2 : ℚ) ^ e = 2 ^ (e - e').toNat * 2 ^ e' := by
    rw [← zpow_natCast, ← zpow_add₀ two_ne_zero, Int.toNat_of_nonneg (by omega), sub_add_cancel]
  rw [finValue, hpow]
  push_cast
  ring

/-- The exact sum of two finite numbers is an integer c of their smaller unit: its sign and its magnitude, where it is not 0. -/
theorem sumFin_eq (rm : Rm) (n1 : Bool) (m1 : Nat) (e1 : Int) (n2 : Bool) (m2 : Nat) (e2 : Int) :
    ∃ c : Int, (c : ℚ) * 2 ^ min e1 e2 = finValue n1 m1 e1 + finValue n2 m2 e2 ∧
      ∃ zneg, sumFin rm n1 m1 e1 n2 m2 e2 =
        if c = 0 then .num zneg 0 0 false else .num (decide (c < 0)) c.natAbs (min e1 e2) false := by
  refine ⟨_, ?_, _, rfl⟩
  rw [Int.cast_add, add_mul, finValue_scale n1 m1 (min_le_left e1 e2), finValue_scale n2 m2 (min_le_right e1 e2)]

/-- The order of two finite numbers is that of their values. -/
theorem cmp_fin (n1 : Bool) (m1 : Nat) (e1 : Int) (n2 : Bool) (m2 : Nat) (e2 : Int) :
    ((Fp.fin n1 m1 e1).cmp (.fin n2 m2 e2) = .eq ↔ finValue n1 m1 e1 = finValue n2 m2 e2) ∧
    ((Fp.fin n1 m1 e1).cmp (.fin n2 m2 e2) = .lt ↔ finValue n1 m1 e1 < finValue n2 m2 e2) := by
  obtain ⟨c, hval, zneg, hsum⟩ := sumFin_eq .rne n1 m1 e1 (!n2) m2 e2
  have hunit : (0 : ℚ) < 2 ^ min e1 e2 := zpow_pos two_pos _
  rw [finValue_not, ← sub_eq_add_neg] at hval
  have heq : finValue n1 m1 e1 = finValue n2 m2 e2 ↔ c = 0 := by
    rw [← sub_eq_zero, ← hval, mul_eq_zero, or_iff_left hunit.ne', Int.cast_eq_zero]
  have hlt : finValue n1 m1 e1 < finValue n2 m2 e2 ↔ c < 0 := by
    rw [← sub_neg, ← hval, mul_neg_iff, ← Int.cast_lt_zero (R := ℚ)]
    simp only [hunit, hunit.not_gt, and_true, and_false, false_or]
  rw [heq, hlt]
  unfold Fp.cmp
  dsimp only
  rw [hsum]
  obtain h | h | h := lt_trichotomy c 0
  · simp [h, h.ne]
  · simp [h]
  · simp [h.ne', h.le]

/-- The order of two data on the line is that of their places. -/
theorem cmp_iff_place {x y : Fp} {p q : Int × ℚ} (hx : fpPlace x = some p) (hy : fpPlace y = some q) :
    (x.cmp y = .eq ↔ p = q) ∧ (x.cmp y = .lt ↔ fpBelow p q) := by
  cases x with
  | nan => cases hx
  | inf n1 =>
    cases y with
    | nan => cases hy
    | inf n2 => cases hx; cases hy; cases n1 <;> cases n2 <;> simp [Fp.cmp, fpBelow]
    | fin n2 m2 e2 => cases hx; cases hy; cases n1 <;> simp [Fp.cmp, fpBelow]
  | fin n1 m1 e1 =>
    cases y with
    | nan => cases hy
    | inf n2 => cases hx; cases hy; cases n2 <;> simp [Fp.cmp, fpBelow]
    | fin n2 m2 e2 =>
      cases hx; cases hy
      obtain ⟨heq, hlt⟩ := cmp_fin n1 m1 e1 n2 m2 e2
      rw [heq, hlt]
      simp [fpBelow, finValue]

theorem isNan_iff (x : Fp) : x.isNan = true ↔ fpNan x := by
  cases x <;> simp [Fp.isNan, fpNan]

theorem isSig_iff (x : Fp) : x.isSig = true ↔ fpSignalling x := by
  cases x <;> simp [Fp.isSig, fpSignalling]

theorem fpNan_of_signalling {x : Fp} : fpSignalling x → fpNan x
  | ⟨neg, h⟩ => ⟨neg, true, h⟩

/-- A NaN has no place on the line, and every other datum has one. -/
theorem not_nan_of_fpPlace {x : Fp} {p : Int × ℚ} (h : fpPlace x = some p) : ¬fpNan x := by
  rintro ⟨neg, sig, rfl⟩
  cases h

theorem exists_fpPlace {x : Fp} (h : ¬fpNan x) : ∃ p, fpPlace x = some p := by
  cases x with
  | nan neg sig => exact absurd ⟨neg, sig, rfl⟩ h
  | inf neg => exact ⟨_, rfl⟩
  | fin neg m e => exact ⟨_, rfl⟩

/-- The relation that a comparison tests, of two places (R92). -/
def TestHolds (op : Nat) (p q : Int × ℚ) : Prop :=
  if op = 0 then p = q else if op = 1 then fpBelow p q else fpBelow p q ∨ p = q

/-- The operands that raise NV (R92). -/
def TestInvalid (op : Nat) (x y : Fp) : Prop :=
  if op = 0 then fpSignalling x ∨ fpSignalling y else fpNan x ∨ fpNan y

theorem fpCompare_of_nan (op : Nat) {x y : Fp} (h : fpNan x ∨ fpNan y) :
    fpCompare op x y = (false, flIf (op != 0 || x.isSig || y.isSig) flNV) := by
  rw [fpCompare, if_pos (by rwa [Bool.or_eq_true, isNan_iff, isNan_iff])]

theorem fpCompare_of_place (op : Nat) {x y : Fp} {p q : Int × ℚ} (hx : fpPlace x = some p) (hy : fpPlace y = some q) :
    ∃ b, fpCompare op x y = (b, 0) ∧ (b = true ↔ TestHolds op p q) := by
  have hnan : ¬(x.isNan || y.isNan) = true := by
    rw [Bool.or_eq_true, isNan_iff, isNan_iff]
    exact not_or.2 ⟨not_nan_of_fpPlace hx, not_nan_of_fpPlace hy⟩
  obtain ⟨heq, hlt⟩ := cmp_iff_place hx hy
  rw [fpCompare, if_neg hnan]
  refine ⟨_, rfl, ?_⟩
  obtain _ | _ | op := op
  · simpa [TestHolds] using heq
  · simpa [TestHolds] using hlt
  · simp only [TestHolds, ← heq, ← hlt]
    cases x.cmp y <;> simp

theorem flIf_flNV_iff (b : Bool) : flIf b flNV = flNV ↔ b = true := by
  revert b
  decide

theorem flIf_flNV_or (b : Bool) : flIf b flNV = 0 ∨ flIf b flNV = flNV := by
  revert b
  decide

/-- Flags of a comparison: NV alone, and only for the operands that R92 names. -/
theorem fpCompare_flags (op : Nat) (x y : Fp) : ((fpCompare op x y).2 = 0 ∨ (fpCompare op x y).2 = flNV) ∧
    ((fpCompare op x y).2 = flNV ↔ TestInvalid op x y) := by
  by_cases h : fpNan x ∨ fpNan y
  · rw [fpCompare_of_nan op h]
    refine ⟨flIf_flNV_or _, (flIf_flNV_iff _).trans ?_⟩
    obtain _ | op := op
    · simp [TestInvalid, isSig_iff]
    · simpa [TestInvalid] using h
  · have hvalid : ¬TestInvalid op x y := by
      rw [TestInvalid]
      split
      · exact fun hsig => h (hsig.imp fpNan_of_signalling fpNan_of_signalling)
      · exact h
    rw [not_or] at h
    obtain ⟨p, hx⟩ := exists_fpPlace h.1
    obtain ⟨q, hy⟩ := exists_fpPlace h.2
    obtain ⟨b, hcmp, -⟩ := fpCompare_of_place op hx hy
    rw [hcmp]
    exact ⟨.inl rfl, iff_of_false (by decide : ¬(0 : FFlags) = flNV) hvalid⟩

/-- A comparison is true of two places that are related, and false of a NaN. -/
theorem fpCompare_true_iff (op : Nat) (x y : Fp) :
    (fpCompare op x y).1 = true ↔ ∃ p q, fpPlace x = some p ∧ fpPlace y = some q ∧ TestHolds op p q := by
  by_cases h : fpNan x ∨ fpNan y
  · rw [fpCompare_of_nan op h]
    refine iff_of_false Bool.false_ne_true ?_
    rintro ⟨p, q, hx, hy, -⟩
    exact h.elim (not_nan_of_fpPlace hx) (not_nan_of_fpPlace hy)
  · rw [not_or] at h
    obtain ⟨p, hx⟩ := exists_fpPlace h.1
    obtain ⟨q, hy⟩ := exists_fpPlace h.2
    obtain ⟨b, hcmp, hb⟩ := fpCompare_of_place op hx hy
    rw [hcmp]
    simp only [hb, hx, hy, Option.some.injEq]
    exact ⟨fun h => ⟨p, q, rfl, rfl, h⟩, fun ⟨_, _, hp, hq, h⟩ => hp ▸ hq ▸ h⟩

theorem exec_of_fpTestOf {i : Instr} {d a b : GReg} {op : Nat} (h : fpTestOf i = some (d, a, b, op)) (s : State) :
    exec i s = .next (s.fpWrite d (boolWord (fpCompare op (fpOf s a) (fpOf s b)).1, (fpCompare op (fpOf s a) (fpOf s b)).2)) := by
  rw [← fp32_eq, ← fp32_eq]
  cases i
  case feq | flt | fle => all_goals cases h; rfl
  all_goals cases h

/-- Settles O4: each comparison writes what fpCompare says of its two data. -/
theorem scalarFpComparisonsWriteOneOrZero : Obligations.ScalarFpComparisonsWriteOneOrZero := by
  unfold Obligations.ScalarFpComparisonsWriteOneOrZero
  intro s i d a b op h
  obtain ⟨hfl, hnv⟩ := fpCompare_flags op (fpOf s a) (fpOf s b)
  have htest := fpCompare_true_iff op (fpOf s a) (fpOf s b)
  obtain ⟨hfall, hset⟩ := s.fpWrite_spec d (boolWord (fpCompare op (fpOf s a) (fpOf s b)).1)
    (fpCompare op (fpOf s a) (fpOf s b)).2
  refine ⟨_, _, _, exec_of_fpTestOf h s, hfall, hset, ?_, hfl, hnv, ?_⟩
  · cases (fpCompare op (fpOf s a) (fpOf s b)).1
    · exact .inl rfl
    · exact .inr rfl
  · refine Iff.trans ?_ htest
    cases (fpCompare op (fpOf s a) (fpOf s b)).1 <;> decide

/-! ## Codes of FP32 fit in 32 bits -/

theorem lt_two_pow_bitLen (m : Nat) : m < 2 ^ bitLen m := by
  rw [bitLen]
  split
  next h => rw [h]; exact Nat.two_pow_pos _
  next => exact Nat.lt_log2_self

/-- A rounded magnitude is the quotient or the next integer. -/
theorem roundShift_bounds (rm : Rm) (neg : Bool) (m : Nat) (sh : Int) (sticky : Bool) :
    m * 2 ^ (-sh).toNat / 2 ^ sh.toNat ≤ (roundShift rm neg m sh sticky).1 ∧
    (roundShift rm neg m sh sticky).1 ≤ m * 2 ^ (-sh).toNat / 2 ^ sh.toNat + 1 := by
  have hup : ∀ (b : Bool) (q : Nat), q ≤ (if b then q + 1 else q) ∧ (if b then q + 1 else q) ≤ q + 1 := by
    intro b q
    cases b <;> simp
  rw [roundShift]
  split
  next h => rw [Int.toNat_of_nonpos h, pow_zero, Nat.div_one]; exact hup _ _
  next h => rw [Int.toNat_of_nonpos (by omega : -sh ≤ 0), pow_zero, Nat.mul_one]; exact hup _ _

/-- A magnitude below 2^b rounds, in units of 2^sh, to at most 2^k, where k + sh reaches b. -/
theorem roundShift_le {rm : Rm} {neg : Bool} {m b k : Nat} {sh : Int} {sticky : Bool} (hm : m < 2 ^ b) (hk : (b : Int) ≤ k + sh) :
    (roundShift rm neg m sh sticky).1 ≤ 2 ^ k := by
  refine (roundShift_bounds rm neg m sh sticky).2.trans (Nat.div_lt_of_lt_mul ?_)
  calc m * 2 ^ (-sh).toNat < 2 ^ b * 2 ^ (-sh).toNat := Nat.mul_lt_mul_of_pos_right hm (Nat.two_pow_pos _)
    _ = 2 ^ (b + (-sh).toNat) := (Nat.pow_add ..).symm
    _ ≤ 2 ^ (sh.toNat + k) := Nat.pow_le_pow_right two_pos (by omega)
    _ = 2 ^ sh.toNat * 2 ^ k := Nat.pow_add ..

/-- A significand of 24 bits that is at most the largest FP32 value, by its exponent. -/
theorem exponent_le_of_leScaled {z : Nat} {x : Int} (h : leScaled z x (2 ^ 24 - 1) 104 = true) (hz : 2 ^ 23 ≤ z) :
    x ≤ 104 ∧ (z = 2 ^ 24 → x ≤ 103) := by
  rw [leScaled] at h
  split at h
  next hx =>
    refine ⟨hx, fun heq => ?_⟩
    by_contra hlt
    rw [show x = 104 by omega, decide_eq_true_eq, heq] at h
    exact absurd h (by decide)
  next hx =>
    have hpow : 2 ^ 1 ≤ 2 ^ (x - 104).toNat := Nat.pow_le_pow_right two_pos (by omega)
    have := (Nat.mul_le_mul hz hpow).trans (of_decide_eq_true h)
    omega

/-- The code of a significand and its exponent, below the code of the infinities. -/
theorem fpRoundNum_code_lt {z : Nat} {lsb : Int} (hz : z ≤ 2 ^ 24) (hlsb : 2 ^ 23 ≤ z → lsb ≤ 104 ∧ (z = 2 ^ 24 → lsb ≤ 103)) :
    (if z < 2 ^ 23 then z else if z = 2 ^ (23 + 1) then (lsb + 1 + (23 : Nat) + (127 : Nat)).toNat * 2 ^ 23
      else (lsb + (23 : Nat) + (127 : Nat)).toNat * 2 ^ 23 + (z - 2 ^ 23)) < 2 ^ 31 := by
  split_ifs <;> omega

theorem fpOverflow_lt (rm : Rm) (ovf neg : Bool) : fpOverflow 8 rm ovf neg < 2 ^ 32 := by
  cases rm <;> cases ovf <;> cases neg <;> decide

theorem fmtSign_le (neg : Bool) : fmtSign 8 neg ≤ 2 ^ 31 := by
  cases neg <;> decide

theorem fpRoundNum_lt (rm : Rm) (ovf neg : Bool) {m : Nat} (hm : m ≠ 0) (e : Int) (sticky : Bool) :
    (fpRoundNum 8 rm ovf neg m e sticky).1 < 2 ^ 32 := by
  obtain ⟨b, hb⟩ : ∃ b, bitLen m = b + 1 := ⟨Nat.log2 m, if_neg hm⟩
  have hhigh := hb ▸ lt_two_pow_bitLen m
  rw [fpRoundNum]
  dsimp only
  rw [show fmtFrac 8 = 23 from rfl, show fmtBias 8 = 127 from rfl, show fmtMax 8 = (2 ^ 24 - 1, 104) from rfl, hb]
  split
  next => exact fpOverflow_lt rm ovf neg
  next hmax =>
    refine Nat.add_lt_add_of_le_of_lt (fmtSign_le neg) (fpRoundNum_code_lt ?_ fun hz => ?_)
    · exact roundShift_le hhigh (by push_cast; omega)
    · obtain hsh | hsh := le_total (1 - ((127 : Nat) : Int) - (23 : Nat) - e) ((b + 1 : Nat) - ((23 : Nat) + 1))
      · rw [max_eq_left hsh] at hz ⊢
        exact exponent_le_of_leScaled (by simpa using hmax) hz
      · rw [max_eq_right hsh]
        omega

theorem fpRound_lt (rm : Rm) (ovf : Bool) (x : Exact) : (fpRound 8 rm ovf x).1 < 2 ^ 32 := by
  cases x with
  | nan => exact (by decide : fmtNan 8 < 2 ^ 32)
  | inf neg =>
    rw [fpRound]
    cases neg <;> decide
  | num neg m e sticky =>
    rw [fpRound]
    split
    next => exact (fmtSign_le neg).trans_lt (by decide)
    next hm => exact fpRoundNum_lt rm ovf neg hm e sticky

theorem roundWith_lt (rm : Rm) (ovf : Bool) (x : Exact × FFlags) : (roundWith 8 rm ovf x).1 < 2 ^ 32 := fpRound_lt rm ovf x.1

/-- FMIN and FMAX give one of two codes, or the canonical NaN (R91). -/
theorem fpMinMax_lt (isMax : Bool) {x y : Nat} (hx : x < 2 ^ 32) (hy : y < 2 ^ 32) : (fpMinMax 8 isMax x y).1 < 2 ^ 32 := by
  rw [fpMinMax]
  split_ifs
  · exact (by decide : fmtNan 8 < 2 ^ 32)
  all_goals assumption

/-! ## Instructions that round to FP32 (R90, R91, R93) -/

theorem withRm_of_mode {i : Instr} {rm m : Rm} {s : State} {f : Rm → State → Out State} (h : roundMode s rm = some m) :
    withRm i rm s f = f m s := by
  rw [withRm, State.rounding_eq_roundMode, h]

theorem withRm_of_no_mode {i : Instr} {rm : Rm} {s : State} {f : Rm → State → Out State} (h : roundMode s rm = none) :
    withRm i rm s f = illegal i s := by
  rw [withRm, State.rounding_eq_roundMode, h]

/-- Instruction i completes with the FP32 code r in gD and its flags. -/
def WritesFp (s : State) (i : Instr) (d : GReg) (r : Nat × FFlags) : Prop :=
  exec i s = .next (s.fpWrite d (ofCode r)) ∧ r.1 < 2 ^ 32

section
variable {s : State} {i : Instr} {d a b c : GReg} {n : Num} {rm : Rm}

theorem writesFp_of_fpOp {op : Rm → Fp → Fp → Exact × FFlags} (hexec : exec i s = fpOp i op d a b n s)
    (hrm : roundMode s n.rm = some rm) : WritesFp s i d (roundWith 8 rm false (op rm (fpOf s a) (fpOf s b))) := by
  refine ⟨?_, roundWith_lt _ _ _⟩
  rw [hexec, fpOp, withRm_of_mode hrm, fp32_eq, fp32_eq]

theorem writesFp_of_fpPick {isMax : Bool} (hexec : exec i s = fpPick i isMax d a b n s) (hrm : roundMode s n.rm = some rm) :
    WritesFp s i d (fpMinMax 8 isMax ((s.g a).toNat % 2 ^ 32) ((s.g b).toNat % 2 ^ 32)) := by
  refine ⟨?_, fpMinMax_lt _ (Nat.mod_lt _ (by decide)) (Nat.mod_lt _ (by decide))⟩
  rw [hexec, fpPick, withRm_of_mode hrm]

theorem writesFp_fma (hrm : roundMode s n.rm = some rm) :
    WritesFp s (.fma d a b c n) d (roundWith 8 rm false (fpFma rm (fpOf s a) (fpOf s b) (fpOf s c))) := by
  refine ⟨?_, roundWith_lt _ _ _⟩
  show execFma d a b c n s = _
  rw [execFma, withRm_of_mode hrm, fp32_eq, fp32_eq, fp32_eq]

theorem writesFp_fcvtif (hrm : roundMode s n.rm = some rm) (hfmt : Num.reserved n.fmt = false) :
    WritesFp s (.fcvtif d a n) d (fpRound 8 rm n.ovf (exactOfInt (intDecode n.fmt (s.g a).toNat))) := by
  refine ⟨?_, fpRound_lt _ _ _⟩
  show execFcvtif d a n s = _
  rw [execFcvtif, withRm_of_mode hrm, hfmt]
  rfl

/-- Each instruction of R90, R91 and R93 writes the code of its row. -/
theorem writesFp_of_fpResult {p : GReg × Num × Nat × FFlags} (h : fpResult s rm i = some p)
    (hrm : roundMode s p.2.1.rm = some rm) (hfmt : Num.reserved p.2.1.fmt = false) : WritesFp s i p.1 p.2.2 := by
  cases i
  case fadd => cases h; exact writesFp_of_fpOp (op := fpAdd) rfl hrm
  case fsub => cases h; exact writesFp_of_fpOp (op := fpSub) rfl hrm
  case fmul => cases h; exact writesFp_of_fpOp (op := fun _ => fpMul) rfl hrm
  case fma => cases h; exact writesFp_fma hrm
  case fmin => cases h; exact writesFp_of_fpPick rfl hrm
  case fmax => cases h; exact writesFp_of_fpPick rfl hrm
  case fcvtif => cases h; exact writesFp_fcvtif hrm hfmt
  all_goals cases h

/-! ## Without a mode, and reserved formats (R49, R95) -/

theorem eq_illegal_of_fpOp {o : Out State} {op : Rm → Fp → Fp → Exact × FFlags} (h : o = fpOp i op d a b n s)
    (hrm : roundMode s n.rm = none) : o = illegal i s := by
  rw [h, fpOp, withRm_of_no_mode hrm]

theorem eq_illegal_of_fpPick {o : Out State} {isMax : Bool} (h : o = fpPick i isMax d a b n s)
    (hrm : roundMode s n.rm = none) : o = illegal i s := by
  rw [h, fpPick, withRm_of_no_mode hrm]

/-- Each instruction with an RM field is illegal where DYN finds no mode. -/
theorem exec_of_no_mode (h : fpNum i = some n) (hrm : roundMode s n.rm = none) : exec i s = illegal i s := by
  cases i
  case fadd => cases h; exact eq_illegal_of_fpOp (op := fpAdd) rfl hrm
  case fsub => cases h; exact eq_illegal_of_fpOp (op := fpSub) rfl hrm
  case fmul => cases h; exact eq_illegal_of_fpOp (op := fun _ => fpMul) rfl hrm
  case fma d a b c _ => cases h; exact (by rw [execFma, withRm_of_no_mode hrm] : execFma d a b c n s = _)
  case fmin => cases h; exact eq_illegal_of_fpPick (isMax := false) rfl hrm
  case fmax => cases h; exact eq_illegal_of_fpPick (isMax := true) rfl hrm
  case fcvtif d a _ => cases h; exact (by rw [execFcvtif, withRm_of_no_mode hrm] : execFcvtif d a n s = _)
  case fcvtfi d a _ => cases h; exact (by rw [execFcvtfi, withRm_of_no_mode hrm] : execFcvtfi d a n s = _)
  all_goals cases h

theorem exec_conversion_of_reserved (h : (∃ d a, i = .fcvtif d a n) ∨ ∃ d a, i = .fcvtfi d a n)
    (hrm : roundMode s n.rm ≠ none) (hfmt : Num.reserved n.fmt = true) : exec i s = reservedFmt n.fmt s := by
  obtain ⟨rm, hrm⟩ := Option.ne_none_iff_exists'.1 hrm
  obtain ⟨d, a, rfl⟩ | ⟨d, a, rfl⟩ := h
  · show execFcvtif d a n s = _
    rw [execFcvtif, withRm_of_mode hrm, if_pos hfmt]
  · show execFcvtfi d a n s = _
    rw [execFcvtfi, withRm_of_mode hrm, if_pos hfmt]
end

theorem scalarFpWritesItsRoundedResult : Claims.ScalarFpWritesItsRoundedResult := by
  intro s i rm d n x fl h hrm _ hfmt
  obtain ⟨hexec, hx⟩ := writesFp_of_fpResult h hrm hfmt
  obtain ⟨hfall, hset⟩ := s.fpWrite_spec d (BitVec.ofNat 64 x) fl
  exact ⟨_, hexec, hfall, hset, hx⟩

theorem scalarFpWithoutModeIsIllegal : Claims.ScalarFpWithoutModeIsIllegal := by
  intro s i n h
  exact ⟨exec_of_no_mode h, fun hrm hfmt hconv => ⟨_, exec_conversion_of_reserved hconv hrm hfmt⟩⟩

/-! ## Rounding to an integer (R94, R253) -/

/-- Where a fraction lies: below, at or above the middle. -/
def halfOf (f : ℚ) : Ordering := if f < 1 / 2 then .lt else if f = 1 / 2 then .eq else .gt

theorem halfOf_lt {f : ℚ} (h : f < 1 / 2) : halfOf f = .lt := if_pos h
theorem halfOf_mid : halfOf (1 / 2) = .eq := by rw [halfOf, if_neg (lt_irrefl _), if_pos rfl]
theorem halfOf_gt {f : ℚ} (h : 1 / 2 < f) : halfOf f = .gt := by rw [halfOf, if_neg h.not_gt, if_neg h.ne']

/-- The magnitude q + f, rounded: q or q + 1 (R253). -/
def roundFraction (rm : Rm) (neg : Bool) (q : Nat) (f : ℚ) : Nat :=
  if roundUp rm neg q (decide (f = 0)) (halfOf f) then q + 1 else q

/-- A magnitude m · 2^e is a natural number and a fraction, and roundShift rounds their sum. -/
theorem roundShift_eq_roundFraction (rm : Rm) (neg : Bool) (m : Nat) (e : Int) :
    ∃ (q : Nat) (f : ℚ), (m : ℚ) * 2 ^ e = q + f ∧ 0 ≤ f ∧ f < 1 ∧
      roundShift rm neg m (-e) false = (roundFraction rm neg q f, !decide (f = 0)) := by
  rw [roundShift]
  split
  next he =>
    refine ⟨m * 2 ^ e.toNat, 0, ?_, le_rfl, one_pos, ?_⟩
    · rw [← Int.toNat_of_nonneg (by omega : 0 ≤ e), zpow_natCast, Int.toNat_natCast]
      push_cast
      ring
    · rw [roundFraction, decide_eq_true rfl, neg_neg]
      rfl
  next he =>
    generalize hd : 2 ^ (-e).toNat = d
    have hpow : (2 : ℚ) ^ e = (d : ℚ)⁻¹ := by
      rw [← hd, Nat.cast_pow, Nat.cast_ofNat, ← zpow_natCast, Int.toNat_of_nonneg (by omega), zpow_neg, inv_inv]
    have hpos : (0 : ℚ) < d := by rw [← hd]; positivity
    have hexact : ((m % d : Nat) / d : ℚ) = 0 ↔ m % d = 0 := by
      rw [div_eq_zero_iff, or_iff_left hpos.ne', Nat.cast_eq_zero]
    have hbelow : ((m % d : Nat) / d : ℚ) < 1 / 2 ↔ 2 * (m % d) < d := by
      rw [div_lt_div_iff₀ hpos two_pos, one_mul, mul_comm]
      norm_cast
    have hmid : ((m % d : Nat) / d : ℚ) = 1 / 2 ↔ 2 * (m % d) = d := by
      rw [div_eq_div_iff hpos.ne' two_ne_zero, one_mul, mul_comm]
      norm_cast
    refine ⟨m / d, (m % d : Nat) / d, ?_, by positivity, ?_, ?_⟩
    · have hdiv : (m : ℚ) = d * (m / d : Nat) + (m % d : Nat) := by exact_mod_cast (Nat.div_add_mod m d).symm
      rw [hpow]
      field_simp
      exact hdiv
    · rw [div_lt_one hpos]
      exact_mod_cast Nat.mod_lt m (by exact_mod_cast hpos)
    · rw [roundFraction, halfOf]
      simp only [hexact, hbelow, hmid, Bool.not_false, Bool.and_true, beq_iff_eq]
      rfl

/-- A rounding mode, seen from the other side of 0. -/
def mirror : Rm → Rm
  | .rdn => .rup
  | .rup => .rdn
  | rm => rm

theorem roundFraction_mirror (rm : Rm) (q : Nat) (f : ℚ) : roundFraction (mirror rm) false q f = roundFraction rm true q f := by
  cases rm <;> rfl

theorem roundsToInt_mirror {rm : Rm} {q : ℚ} {v : Int} (h : RoundsToInt rm (-q) v) : RoundsToInt (mirror rm) q (-v) := by
  have hdist : |q - (-v : Int)| = |-q - v| := by
    rw [← abs_neg]
    push_cast
    ring_nf
  cases rm with
  | rne => exact h.imp (hdist.trans_lt ·) fun ⟨hmid, heven⟩ => ⟨hdist.trans hmid, by omega⟩
  | rna => exact h.imp (hdist.trans_lt ·) fun ⟨hmid, hfar⟩ => ⟨hdist.trans hmid, by rwa [Int.cast_neg, abs_neg, ← abs_neg q]⟩
  | rdn => exact neg_eq_iff_eq_neg.2 (h.trans Int.floor_neg)
  | rup => exact neg_eq_iff_eq_neg.2 (h.trans Int.ceil_neg)
  | rtz =>
    have hv : v = if -q < 0 then ⌈-q⌉ else ⌊-q⌋ := h
    show -v = if q < 0 then ⌈q⌉ else ⌊q⌋
    rw [hv]
    obtain hq | rfl | hq := lt_trichotomy q 0
    · rw [if_neg (by linarith), if_pos hq, Int.floor_neg, neg_neg]
    · simp
    · rw [if_pos (by linarith), if_neg hq.not_gt, Int.ceil_neg, neg_neg]
  | dyn => exact h

section
variable {q : Nat} {f : ℚ} (hf0 : 0 ≤ f) (hf1 : f < 1)
include hf0 hf1

/-- An integer at most 1/2 away from q + f is q, where f is at most 1/2, or q + 1, where f is at least 1/2. -/
theorem eq_or_eq_succ_of_near {v : Int} (h : |(q : ℚ) + f - v| ≤ 1 / 2) :
    (v = q ∧ |(q : ℚ) + f - v| = f) ∨ (v = q + 1 ∧ |(q : ℚ) + f - v| = 1 - f) := by
  obtain ⟨hlow, hhigh⟩ := abs_le.1 h
  have hge : (q : Int) ≤ v := by
    have : ((q : Int) : ℚ) - 1 < v := by push_cast; linarith
    exact_mod_cast Int.sub_one_lt_iff.1 (by exact_mod_cast this)
  have hle : v < (q : Int) + 2 := by
    have : (v : ℚ) < ((q : Int) : ℚ) + 2 := by push_cast; linarith
    exact_mod_cast this
  obtain rfl | rfl : v = q ∨ v = q + 1 := by omega
  · left
    refine ⟨rfl, ?_⟩
    push_cast
    rw [add_sub_cancel_left, abs_of_nonneg hf0]
  · right
    refine ⟨rfl, ?_⟩
    push_cast
    rw [add_sub_add_left_eq_sub, abs_sub_comm, abs_of_pos (by linarith)]

theorem floor_add_fraction : ⌊(q : ℚ) + f⌋ = q := by
  rw [Int.floor_eq_iff]
  constructor <;> push_cast <;> linarith

theorem ceil_add_fraction : ⌈(q : ℚ) + f⌉ = if f = 0 then (q : Int) else q + 1 := by
  rw [Int.ceil_eq_iff]
  split
  next h => constructor <;> push_cast <;> linarith
  next h =>
    have : 0 < f := lt_of_le_of_ne hf0 (Ne.symm h)
    constructor <;> push_cast <;> linarith

/-- The integer that q + f rounds to is the one that the model takes (R253). -/
theorem eq_roundFraction {rm : Rm} {v : Int} (h : RoundsToInt rm (q + f) v) : v = roundFraction rm false q f := by
  have hfloor := floor_add_fraction hf0 hf1 (q := q)
  cases rm with
  | rtz =>
    have hnonneg : ¬(q : ℚ) + f < 0 := not_lt.2 (by positivity)
    rw [show v = _ from h, if_neg hnonneg, hfloor]
    simp [roundFraction, roundUp]
  | rdn =>
    rw [show v = _ from h, hfloor]
    simp [roundFraction, roundUp]
  | rup =>
    rw [show v = _ from h, ceil_add_fraction hf0 hf1]
    by_cases hf : f = 0 <;> simp [roundFraction, roundUp, hf]
  | rne =>
    have hnear : |(q : ℚ) + f - v| ≤ 1 / 2 := h.elim le_of_lt fun hmid => hmid.1.le
    obtain ⟨rfl, hdist⟩ | ⟨rfl, hdist⟩ := eq_or_eq_succ_of_near hf0 hf1 hnear <;> simp only [RoundsToInt, hdist] at h
    · obtain hlt | ⟨hmid, heven⟩ := h
      · simp [roundFraction, roundUp, halfOf_lt hlt]
      · have hodd : q % 2 ≠ 1 := by omega
        rw [roundFraction, hmid, halfOf_mid]
        simp [roundUp, hodd]
    · obtain hlt | ⟨hmid, heven⟩ := h
      · have hgt : 1 / 2 < f := by linarith
        simp [roundFraction, roundUp, halfOf_gt hgt, (one_half_pos.trans hgt).ne']
      · have hmid : f = 1 / 2 := by linarith
        have hodd : q % 2 = 1 := by omega
        rw [roundFraction, hmid, halfOf_mid]
        simp [roundUp, hodd]
  | rna =>
    have hnear : |(q : ℚ) + f - v| ≤ 1 / 2 := h.elim le_of_lt fun hmid => hmid.1.le
    obtain ⟨rfl, hdist⟩ | ⟨rfl, hdist⟩ := eq_or_eq_succ_of_near hf0 hf1 hnear <;> simp only [RoundsToInt, hdist] at h
    · obtain hlt | ⟨hmid, hfar⟩ := h
      · simp [roundFraction, roundUp, halfOf_lt hlt]
      · rw [abs_of_nonneg (by positivity), Int.cast_natCast, abs_of_nonneg (by positivity)] at hfar
        linarith
    · have hge : 1 / 2 ≤ f := by obtain h | h := h <;> linarith
      have hhalf : halfOf f ≠ .lt := by
        rw [halfOf, if_neg hge.not_gt]
        split <;> decide
      simp [roundFraction, roundUp, hhalf, (one_half_pos.trans_le hge).ne']
  | dyn => exact h.elim
end

theorem roundFraction_eq_iff (rm : Rm) (neg : Bool) {q : Nat} {f : ℚ} (hf1 : f < 1) :
    ((roundFraction rm neg q f : Nat) : ℚ) = q + f ↔ f = 0 := by
  constructor
  · rw [roundFraction]
    split
    next => intro h; push_cast at h; linarith
    next => intro h; linarith
  · rintro rfl
    simp [roundFraction, roundUp]

/-- A finite number rounds to the integer of R253, exactly where that integer is the number. -/
theorem roundInt_eq {rm : Rm} {neg : Bool} {m : Nat} {e v : Int} (h : RoundsToInt rm (finValue neg m e) v) :
    ∃ inexact, roundInt rm neg m e = (v, inexact) ∧ (inexact = false ↔ (v : ℚ) = finValue neg m e) := by
  obtain ⟨q, f, hval, hf0, hf1, hround⟩ := roundShift_eq_roundFraction rm neg m e
  cases neg
  · have hmag : finValue false m e = q + f := by rw [finValue, mul_assoc, hval]; exact one_mul _
    rw [hmag] at h ⊢
    have hv := eq_roundFraction hf0 hf1 h
    refine ⟨!decide (f = 0), by rw [roundInt, hround, hv]; rfl, ?_⟩
    rw [hv, Int.cast_natCast, roundFraction_eq_iff rm false hf1, Bool.not_eq_false', decide_eq_true_eq]
  · have hmag : finValue true m e = -(q + f) := by rw [finValue, mul_assoc, hval]; exact neg_one_mul _
    rw [hmag] at h ⊢
    have hv := eq_roundFraction hf0 hf1 (roundsToInt_mirror h)
    rw [roundFraction_mirror, neg_eq_iff_eq_neg] at hv
    refine ⟨!decide (f = 0), by rw [roundInt, hround, hv]; rfl, ?_⟩
    rw [hv, Int.cast_neg, neg_inj, Int.cast_natCast, roundFraction_eq_iff rm true hf1, Bool.not_eq_false', decide_eq_true_eq]

/-! ## FCVTFI (R94) -/

theorem intMin_le_zero (f : BitVec 5) : intMin f ≤ 0 := by
  revert f
  decide

theorem intMax_nonneg (f : BitVec 5) : 0 ≤ intMax f := by
  revert f
  decide

theorem intOutOfRange_inRange (f : BitVec 5) (ovf neg isNan : Bool) :
    intMin f ≤ intOutOfRange f ovf neg isNan ∧ intOutOfRange f ovf neg isNan ≤ intMax f := by
  have hmin := intMin_le_zero f
  have hmax := intMax_nonneg f
  rw [intOutOfRange]
  split_ifs <;> omega

/-- The result is an integer of the format, in range or not. -/
theorem fpToInt_inRange (f : BitVec 5) (rm : Rm) (ovf : Bool) (x : Fp) :
    intMin f ≤ (fpToInt f rm ovf x).1 ∧ (fpToInt f rm ovf x).1 ≤ intMax f := by
  cases x with
  | nan | inf => exact intOutOfRange_inRange ..
  | fin neg m e =>
    rw [fpToInt]
    split
    next h => exact h
    next => exact intOutOfRange_inRange ..

/-- A finite number that rounds to v gives v where it is in range, and what OVF says elsewhere. -/
theorem fpToInt_fin (f : BitVec 5) {rm : Rm} (ovf : Bool) {neg : Bool} {m : Nat} {e v : Int}
    (h : RoundsToInt rm (finValue neg m e) v) : fpToInt f rm ovf (.fin neg m e) =
      if intMin f ≤ v ∧ v ≤ intMax f then (v, if (v : ℚ) = finValue neg m e then 0 else flNX)
      else (intOutOfRange f ovf neg false, flNV) := by
  obtain ⟨inexact, hround, hexact⟩ := roundInt_eq h
  rw [fpToInt, hround]
  simp only [← hexact]
  cases inexact <;> rfl

theorem exec_fcvtfi {s : State} {d a : GReg} {n : Num} {rm : Rm} (hrm : roundMode s n.rm = some rm)
    (hfmt : Num.isI n.fmt = true) : exec (.fcvtfi d a n) s = .next (s.fpWrite d
      (BitVec.ofInt 64 (fpToInt n.fmt rm n.ovf (fpOf s a)).1, (fpToInt n.fmt rm n.ovf (fpOf s a)).2)) := by
  have hres : ¬Num.reserved n.fmt = true := by
    rw [Num.reserved, decide_eq_true_eq]
    have := of_decide_eq_true hfmt
    omega
  show execFcvtfi d a n s = _
  rw [execFcvtfi, withRm_of_mode hrm, if_neg hres, fp32_eq]

theorem fcvtfiWritesTheRoundedInteger : Claims.FcvtfiWritesTheRoundedInteger := by
  intro s d a n rm hrm hfmt
  obtain ⟨hfall, hset⟩ := s.fpWrite_spec d (BitVec.ofInt 64 (fpToInt n.fmt rm n.ovf (fpOf s a)).1)
    (fpToInt n.fmt rm n.ovf (fpOf s a)).2
  refine ⟨_, _, _, exec_fcvtfi hrm hfmt, hfall, hset, ⟨_, rfl, fpToInt_inRange ..⟩, ?_, ?_, ?_⟩
  · intro neg sig hx
    rw [hx]
    exact ⟨rfl, rfl⟩
  · intro neg hx
    rw [hx]
    exact ⟨rfl, rfl⟩
  · intro neg m e v hx hv
    rw [hx, fpToInt_fin n.fmt n.ovf hv]
    split
    next => exact ⟨rfl, rfl⟩
    next => exact ⟨rfl, rfl⟩

/-- Settles O5, from its three parts. -/
theorem scalarFpIsRoundedAsItsModeSays : Obligations.ScalarFpIsRoundedAsItsModeSays := by
  unfold Obligations.ScalarFpIsRoundedAsItsModeSays
  exact ⟨scalarFpWritesItsRoundedResult, fcvtfiWritesTheRoundedInteger, scalarFpWithoutModeIsIllegal⟩

end Sys2Proof.Machine
end

section
/-! SUPPORT. Class 2 without calls: transfers within a function (R37, R97–R99, R102), the stack of loops (R100–R102), and the
events that are faults (R32, R36, R50, R120, R121, R123). -/

namespace Sys2Proof.Machine

open Sys2Proof.Claims

/-! ## Going on at a pc (R102) -/

/-- All that going on at a pc with a loop stack does. -/
theorem State.goOn_spec (s : State) (pc : Word) (ls : List Loop) :
    Goes s (s.modMe (Thread.goOn s.cur pc ls)) pc ls ∧ KeepsRegs s (s.modMe (Thread.goOn s.cur pc ls)) :=
  ⟨Goes.modMe s pc ls id (fun _ _ => rfl) (fun _ => rfl) fun _ _ => rfl, KeepsRegs.goOn s pc ls⟩

/-! ## The checked slot of a transfer (R36, R37) -/

theorem Inst.tgt_iff (f : Inst) (lin : Nat) :
    f.tgt lin = true ↔ ∃ l, f.lines[lin / 5]? = some l ∧ l.lw.getLsbD (lin % 5) = true := by
  unfold Inst.tgt Inst.line
  cases f.lines[lin / 5]? <;> simp

/-- The model's target check is the TGT bit of the slot. -/
theorem State.targetOk_iff (s : State) (slot : Int) : s.targetOk slot = true ↔ isTarget s slot := by
  unfold State.targetOk isTarget
  cases s.myInst with
  | none => simp
  | some f => simp [Inst.tgt_iff]

theorem State.branch_of_target {s : State} {off : BitVec 48} (h : isTarget s (slotOfOffset s off)) :
    s.branch off = .next (s.jumpTo (slotOfOffset s off).toNat) := if_pos ((s.targetOk_iff _).2 h)

theorem State.branch_of_not_target {s : State} {off : BitVec 48} (h : ¬ isTarget s (slotOfOffset s off)) :
    s.branch off = .next (slotFault s (slotOfOffset s off)) := if_neg fun hok => h ((s.targetOk_iff _).1 hok)

/-! ## Branches and JMP (R97, R98) -/

/-- Instruction i transfers by its offset where c holds, and falls through elsewhere. -/
def BranchesIf (s : State) (i : Instr) (c : Prop) (off : BitVec 48) : Prop :=
  (c → exec i s = s.branch off) ∧ (¬ c → exec i s = .next s.retire)

theorem BranchesIf.of_branchIf {s : State} {i : Instr} {c : Prop} {off : BitVec 48} {p : Word → Word → Bool} {a b : GReg}
    (hexec : exec i s = branchIf p a b off s) (hp : p (s.g a) (s.g b) = true ↔ c) : BranchesIf s i c off :=
  ⟨fun h => hexec.trans (if_pos (hp.2 h)), fun h => hexec.trans (if_neg fun ht => h (hp.1 ht))⟩

/-- Each branch decides by the condition of its row. -/
theorem branchesIf_of_branchOf {s : State} {i : Instr} {c : Prop} {off : BitVec 48} (h : branchOf s i = some (c, off)) :
    BranchesIf s i c off := by
  cases i
  case beq => cases h; exact .of_branchIf rfl beq_iff_eq
  case bne => cases h; exact .of_branchIf rfl bne_iff_ne
  case blt => cases h; exact .of_branchIf rfl Iff.rfl
  case bge => cases h; exact .of_branchIf rfl Iff.rfl
  case bltu a b _ => 
    cases h
    exact .of_branchIf (p := fun x y => decide (x.toNat < y.toNat)) (a := a) (b := b) rfl decide_eq_true_iff
  case bgeu a b _ => 
    cases h
    exact .of_branchIf (p := fun x y => decide (y.toNat ≤ x.toNat)) (a := a) (b := b) rfl decide_eq_true_iff
  case jmp => cases h; exact ⟨fun _ => rfl, fun h => absurd trivial h⟩
  all_goals cases h

theorem branchesGoToTheirSlot : Claims.BranchesGoToTheirSlot := by
  unfold Claims.BranchesGoToTheirSlot
  intro s i c off h
  obtain ⟨htaken, hnot⟩ := branchesIf_of_branchOf h
  refine ⟨fun hc => ⟨_, hnot hc, s.retire_spec⟩, fun hc ht => ⟨_, ?_, s.jumpTo_spec _⟩, fun hc ht => ?_⟩
  · rw [htaken hc, State.branch_of_target ht]
  · rw [htaken hc, State.branch_of_not_target ht]

/-! ## JMPR and LEAC (R98, R99) -/

/-- The parts of a code address: its line and its slot (R36, R37). -/
theorem linearOf_eq_fields (w : Word) : linearOf w = (w.extractLsb' 6 26).toNat * 5 + (w.extractLsb' 0 3).toNat := by
  simp only [linearOf, lineOf, slotOf, BitVec.extractLsb'_toNat, Nat.shiftRight_eq_div_pow]
  omega

theorem addrOk_iff (w : Word) : addrOk w = true ↔ w.extractLsb' 3 3 = 0 ∧ (w.extractLsb' 0 3).toNat ≤ 4 := by
  rw [addrOk, Bool.and_eq_true, beq_iff_eq, decide_eq_true_iff, slotOf, BitVec.extractLsb'_toNat, Nat.shiftRight_zero]

theorem jmprStaysInItsFunction : Claims.JmprStaysInItsFunction := by
  unfold Claims.JmprStaysInItsFunction
  intro s a w ok
  have hok : (handleOf w = handleOf s.me.act.pc ∧ addrOk w = true ∧ s.targetOk (linearOf w) = true) ↔ ok := by
    rw [addrOk_iff, s.targetOk_iff, linearOf_eq_fields, and_assoc]
    rfl
  refine ⟨fun h => ⟨_, ?_, (s.jumpTo_spec _).symm⟩, fun h => if_neg fun hm => h (hok.1 hm)⟩
  rw [← linearOf_eq_fields]
  exact if_pos (hok.2 h)

/-- LEAC is checked against the slots of the function. -/
theorem exec_leac (d : GReg) (off : BitVec 48) (s : State) : exec (.leac d off) s =
    if 0 ≤ slotOfOffset s off ∧ slotOfOffset s off < slotsHere s then
      .next (s.writeRetire d (codeAddr s.here.1 (slotOfOffset s off).toNat))
    else .next (s.takeFault { code := 0x03, val := off.signExtend 64 }) := by
  have hexec : exec (.leac d off) s = execLeac d off s := rfl
  rw [hexec, execLeac, slotsHere]
  cases s.myInst <;> rfl

theorem leacWritesASlotAddress : Claims.LeacWritesASlotAddress := by
  unfold Claims.LeacWritesASlotAddress
  intro s d off slot
  rw [exec_leac]
  refine ⟨fun h0 hn => ⟨_, if_pos ⟨h0, hn⟩, s.writeRetire_spec d _⟩, fun h => if_neg ?_⟩
  rintro ⟨h0, hn⟩
  exact h.elim (not_lt.2 h0) fun hle => not_lt.2 hle hn

/-- Settles O7: a transfer is taken where the TGT bit of its slot is set, and LEAC asks for no TGT bit. -/
theorem jumpsGoToCheckedSlots : Obligations.JumpsGoToCheckedSlots := by
  unfold Obligations.JumpsGoToCheckedSlots
  exact ⟨branchesGoToTheirSlot, jmprStaysInItsFunction, leacWritesASlotAddress⟩

/-! ## LOOP and LOOPI (R100, R101) -/

theorem exec_of_loopOf {s : State} {i : Instr} {n : BitVec 32} {len : Nat} {fits : Bool}
    (h : Claims.loopOf s i = some (n, len, fits)) :
    exec i s = s.enterLoop len (!fits) n := by
  cases i
  case loop => cases h; exact congrArg (s.enterLoop _ _) (BitVec.setWidth_eq_extractLsb' (by decide))
  case loopi => cases h; rfl
  all_goals cases h

/-- A body that ends at a slot lies within the body of the top entry of the frame (R101). -/
def Nested (ls : List Loop) (last : Nat) : Prop := ∀ e rest, frameOf ls = e :: rest → last ≤ e.last

section
variable {s : State} {len : Nat} {n : BitVec 32}

/-- Check 2 of R101: the stack holds four entries. -/
theorem State.enterLoop_of_full (bad : Bool) (hfull : 4 ≤ s.me.loops.length) :
    s.enterLoop len bad n = .next (s.takeFault { code := 0x0D, val := 2 }) := if_pos hfull

variable (hroom : s.me.loops.length < 4)
include hroom

/-- Check 1: the count does not fit 32 bits. -/
theorem State.enterLoop_of_unfit : s.enterLoop len true n = .next (s.takeFault { code := 0x0D, val := 1 }) :=
  (if_neg (not_le.2 hroom)).trans (if_pos rfl)

/-- Check 5: the body ends past the function. -/
theorem State.enterLoop_of_outside (hout : slotsHere s ≤ s.here.2 + len) :
    s.enterLoop len false n = .next (s.takeFault { code := 0x0D, val := 5 }) :=
  (if_neg (not_le.2 hroom)).trans <| (if_neg Bool.false_ne_true).trans (if_pos hout)

variable (hin : s.here.2 + len < slotsHere s)
include hin

/-- Check 3: the body ends past that of the top entry of the frame. -/
theorem State.enterLoop_of_not_nested (hnest : ¬ Nested s.me.loops (s.here.2 + len)) :
    s.enterLoop len false n = .next (s.takeFault { code := 0x0D, val := 3 }) := by
  refine (if_neg (not_le.2 hroom)).trans <| (if_neg Bool.false_ne_true).trans <| (if_neg (not_le.2 hin)).trans (if_pos ?_)
  unfold Nested at hnest
  cases hf : frameOf s.me.loops with
  | nil => exact absurd (fun e rest he => by rw [hf] at he; cases he) hnest
  | cons e rest =>
    refine decide_eq_true (not_le.1 fun hle => hnest fun e' rest' he => ?_)
    rw [hf] at he
    cases he
    exact hle

/-- A loop that passes the checks and has iterations to make is pushed. -/
theorem State.enterLoop_of_count (hnest : Nested s.me.loops (s.here.2 + len)) (hn : n ≠ 0) :
    s.enterLoop len false n = .next (s.modMe (Thread.goOn s.cur (codeAddr s.here.1 (s.here.2 + 1))
      ({ handle := s.here.1, first := s.here.2 + 1, last := s.here.2 + len, count := n } :: s.me.loops))) := by
  refine (if_neg (not_le.2 hroom)).trans <| (if_neg Bool.false_ne_true).trans <| (if_neg (not_le.2 hin)).trans <|
    (if_neg ?_).trans <| (if_neg hn).trans rfl
  cases hf : frameOf s.me.loops with
  | nil => exact Bool.false_ne_true
  | cons e rest => exact fun h => not_lt.2 (hnest e rest hf) (of_decide_eq_true h)

/-- A loop of no iterations whose body ends before that of the frame's top entry is jumped over. -/
theorem State.enterLoop_of_zero (hnest : ∀ e rest, frameOf s.me.loops = e :: rest → s.here.2 + len < e.last) :
    s.enterLoop len false 0 = .next (s.jumpTo (s.here.2 + len + 1)) := by
  refine (if_neg (not_le.2 hroom)).trans <| (if_neg Bool.false_ne_true).trans <| (if_neg (not_le.2 hin)).trans <|
    (if_neg ?_).trans <| (if_pos rfl).trans ?_
  · cases hf : frameOf s.me.loops with
    | nil => exact Bool.false_ne_true
    | cons e rest => exact fun h => not_lt.2 (hnest e rest hf).le (of_decide_eq_true h)
  · cases hf : frameOf s.me.loops with
    | nil => rfl
    | cons e rest => exact if_neg (hnest e rest hf).ne'
end

theorem loopsAreCheckedInOrderAndPushed : Claims.LoopsAreCheckedInOrderAndPushed := by
  unfold Claims.LoopsAreCheckedInOrderAndPushed
  intro s i n len fits h first last nested
  rw [exec_of_loopOf h]
  refine ⟨?_, ?_, State.enterLoop_of_full _, ?_, ?_, ?_⟩
  · rintro hroom rfl hin hnest hn
    exact ⟨_, State.enterLoop_of_count hroom hin hnest hn, (s.goOn_spec _ _).symm⟩
  · rintro hroom rfl hin rfl hnest
    exact ⟨_, State.enterLoop_of_zero hroom hin hnest, (s.jumpTo_spec _).symm⟩
  · rintro hroom rfl
    exact State.enterLoop_of_unfit hroom
  · rintro hroom rfl hout
    exact State.enterLoop_of_outside hroom hout
  · rintro hroom rfl hin hnest
    exact State.enterLoop_of_not_nested hroom hin hnest

/-! ## The end of an iteration (R102) -/

/-- The loop entry ends at slot lin of the current frame's function. -/
def Loop.endsAt (h : BitVec 32) (lin : Nat) (e : Loop) : Prop := e.calls = 0 ∧ e.handle = h ∧ e.last = lin

theorem loopFall_of_more {h : BitVec 32} {lin : Nat} {e : Loop} (rest : List Loop) (he : e.endsAt h lin) (hn : 1 < e.count.toNat) :
    loopFall h lin (e :: rest) = ({ e with count := e.count - 1 } :: rest, some e.first) :=
  (if_pos he).trans (if_pos hn)

theorem loopFall_of_last {h : BitVec 32} {lin : Nat} {e : Loop} (rest : List Loop) (he : e.endsAt h lin) (hn : e.count = 1) :
    loopFall h lin (e :: rest) = loopFall h lin rest :=
  (if_pos he).trans (if_neg (by rw [hn]; decide))

theorem loopFall_of_not_ends {h : BitVec 32} {lin : Nat} {ls : List Loop} (hls : ∀ e rest, ls = e :: rest → ¬ e.endsAt h lin) :
    loopFall h lin ls = (ls, none) := by
  cases ls with
  | nil => rfl
  | cons e rest => exact if_neg (hls e rest rfl)

theorem not_endsAt_iff {h : BitVec 32} {lin : Nat} {e : Loop} :
    ¬ e.endsAt h lin ↔ e.calls ≠ 0 ∨ e.handle ≠ h ∨ e.last ≠ lin := by
  rw [Loop.endsAt, not_and_or, not_and_or]

theorem iterationsEndAtTheLastSlot : Claims.IterationsEndAtTheLastSlot := by
  unfold Claims.IterationsEndAtTheLastSlot
  intro s
  obtain ⟨hfall, hkeep⟩ := s.retire_spec
  have hpc := hfall.at'
  have hloops := hfall.stack
  rw [State.fallPc] at hpc
  refine ⟨_, rfl, hkeep, hfall.toOnlyThread, hfall.rest, fun e rest hs hc hh hl hn => ?_, fun e rest hs hc hh hl hn hrest => ?_,
    fun hs => ?_⟩
  · rw [hs, loopFall_of_more rest ⟨hc, hh, hl⟩ hn] at hpc hloops
    exact ⟨hpc, hloops⟩
  · have hend := loopFall_of_not_ends fun e r he => not_endsAt_iff.2 (hrest e r he)
    rw [hs, loopFall_of_last rest ⟨hc, hh, hl⟩ hn, hend] at hpc hloops
    exact ⟨hpc, hloops⟩
  · rw [loopFall_of_not_ends fun e r he => not_endsAt_iff.2 (hs e r he)] at hpc hloops
    exact ⟨hpc, hloops⟩

/-- Settles O8: the checks of a loop in their order, its push, and what the fall-through from its last slot does. -/
theorem loopsArePushedAndIterated : Obligations.LoopsArePushedAndIterated := by
  unfold Obligations.LoopsArePushedAndIterated
  exact ⟨loopsAreCheckedInOrderAndPushed, iterationsEndAtTheLastSlot⟩

/-! ## Instructions and events that are faults (R32, R36, R50, R120, R121, R123) -/

/-- Settles O12: each of them is the taking of its fault, by the definition of its meaning. -/
theorem trapsAndWatchdogsTakeTheirFault : Obligations.TrapsAndWatchdogsTakeTheirFault := by
  unfold Obligations.TrapsAndWatchdogsTakeTheirFault
  exact fun _ _ _ => ⟨rfl, rfl, rfl, rfl, rfl⟩

end Sys2Proof.Machine
end

section
/-! SUPPORT. Class 2: calls by digest and returns (R102, R105, R111, R112, R125). -/

namespace Sys2Proof.Machine

open Sys2Proof.Claims

/-! ## Writing a g register as control goes elsewhere -/

/-- All that writing gD and going on at a pc with a loop stack does. -/
theorem State.setG_goOn_spec (s : State) (d : GReg) (w pc : Word) (ls : List Loop) :
    let t := s.modMe fun x => Thread.goOn s.cur pc ls (x.setG d w)
    SetsG s t d w 0 ∧ Goes s t pc ls := by
  refine ⟨⟨fun r => ?_, fun r => ?_, ?_, ?_, ?_, ?_, ?_⟩, Goes.modMe s pc ls (fun x => x.setG d w)
    (fun x t => Thread.setG_rest x t d w) (fun x => Thread.setG_serve x d w) fun x t => Thread.setG_retired x t d w⟩
  · rw [State.reg, State.me_modMe, Thread.goOn_reg, Thread.reg_setG, State.reg]
  · rw [State.vreg, State.me_modMe, Thread.goOn_v, Thread.setG_v, State.vreg]
  · rw [State.me_modMe, Thread.goOn_marks, Thread.setG_marks]
  · rw [State.me_modMe, Thread.goOn_vErr, Thread.setG_vErr]
  · rw [State.me_modMe, Thread.goOn_struck, Thread.setG_struck]
  · rw [State.me_modMe, Thread.goOn_vBad, Thread.setG_vBad]
  · rw [State.me_modMe, Thread.goOn_flags, Thread.setG_flags]
    split <;> simp

/-! ## CALLD and CALLDR (R105, R111) -/

theorem State.lookupOrCreate_of_lookup {s : State} {cl : Nat} {pid : BitVec 16} {mon : Bool} {dig : Digest} {e : DirEntry}
    (h : s.lookup cl pid mon dig = some e) : s.lookupOrCreate cl pid mon dig = (some e.handle, s) := by
  rw [State.lookupOrCreate, h]

theorem State.callSite_eq {s : State} {f : Inst} {site : Nat} (hf : s.myInst = some f) (hsite : callSiteIs s f site) :
    s.callSite = site := by
  rw [State.callSite, hf]
  exact hsite

/-- The CALLS of the top entry can be raised (R102). -/
def Raisable (ls : List Loop) : Prop := ∀ l rest, ls = l :: rest → l.calls ≠ BitVec.allOnes 32

/-- A call whose function is resident enters it. -/
theorem State.call_of_resident {s : State} {k : Nat} {f callee : Inst} {dig : Digest} {e : DirEntry} {site : Nat}
    (hf : s.myInst = some f) (hdig : f.digs[k]? = some dig) (hsite : callSiteIs s f site)
    (hlook : s.lookup (clusterOf s.cur) s.me.act.pid (s.me.mode == .monitor) dig = some e)
    (hinst : (s.cluster (clusterOf s.cur)).inst e.handle = some callee) (htgt : callee.tgt 0 = true)
    (hcalls : Raisable s.me.loops) :
    s.call k = .next (s.modMe fun x => Thread.goOn s.cur (codeAddr e.handle 0) (callTop s.me.loops)
      (x.setG 31 (BitVec.ofNat 64 (s.here.1.toNat * 2 ^ 32 + site)))) := by
  unfold State.call
  simp only [hf, hdig, State.lookupOrCreate_of_lookup hlook, hinst, htgt, State.callSite_eq hf hsite]
  refine (if_neg ?_).trans ((if_neg (by decide)).trans ?_)
  · cases hl : s.me.loops with
    | nil => exact Bool.false_ne_true
    | cons l rest => exact mt beq_iff_eq.1 (hcalls l rest hl)
  rw [State.setG, State.modMe_modMe]
  refine congrArg _ (State.modMe_congr ?_)
  rw [Thread.setG_loops]
  rfl

/-- A digest-table index that CALLD or CALLDR gives is the one of the call. -/
theorem exec_call {s : State} {i : Instr} {k : Nat} (hact : isAct s.cur = true)
    (hi : (∃ n : BitVec 32, i = .calld n ∧ n.toNat = k) ∨ ∃ a, i = .calldr a ∧ (s.g a).toNat = k ∧ k < 2 ^ 32) :
    exec i s = s.call k := by
  obtain ⟨n, rfl, rfl⟩ | ⟨a, rfl, rfl, hk⟩ := hi
  · exact if_pos hact
  · have hhigh : ¬ (s.g a).extractLsb' 32 32 ≠ 0 := by
      rw [not_not, ← BitVec.toNat_inj, BitVec.extractLsb'_toNat, Nat.shiftRight_eq_div_pow, Nat.div_eq_of_lt hk]
      rfl
    refine (if_pos hact).trans ((if_neg hhigh).trans ?_)
    rw [Nat.mod_eq_of_lt hk]

theorem callTop_eq (ls : List Loop) :
    callTop ls = match ls with | [] => [] | l :: rest => { l with calls := l.calls + 1 } :: rest := by
  cases ls <;> rfl

theorem callsEnterTheResidentFunction : Claims.CallsEnterTheResidentFunction := by
  unfold Claims.CallsEnterTheResidentFunction
  intro s i k f callee dig e site hi hact hf hdig hsite hlook hinst htgt hcalls
  obtain ⟨hset, hgoes⟩ := s.setG_goOn_spec 31 (BitVec.ofNat 64 (s.here.1.toNat * 2 ^ 32 + site)) (codeAddr e.handle 0)
    (callTop s.me.loops)
  refine ⟨_, (exec_call hact hi).trans (State.call_of_resident hf hdig hsite hlook hinst htgt hcalls), hset, ?_⟩
  exact callTop_eq s.me.loops ▸ hgoes

theorem State.call_of_outside {s : State} {k : Nat} {f : Inst} (hf : s.myInst = some f) (hk : f.digs.length ≤ k) :
    s.call k = .next (s.takeFault { code := 0x03, val := BitVec.ofNat 64 k }) := by
  unfold State.call
  simp only [hf, List.getElem?_eq_none hk]
  rfl

theorem badCallsFault : Claims.BadCallsFault := by
  unfold Claims.BadCallsFault
  intro s k a f
  refine ⟨fun hact hf hk => ?_, fun hact hhigh => ?_, fun hserv => ?_⟩
  · exact (exec_call hact (.inl ⟨k, rfl, rfl⟩)).trans (State.call_of_outside hf hk)
  · exact (if_pos hact).trans (if_pos hhigh)
  · have hserv' : ¬ isAct s.cur = true := by rw [hserv]; exact Bool.false_ne_true
    exact ⟨if_neg hserv', if_neg hserv'⟩

/-! ## RET (R112) -/

/-- The entry that a link's handle names for the running thread. -/
theorem State.entry?_eq_some_iff (s : State) (h : BitVec 32) (e : DirEntry) :
    s.entry? (clusterOf s.cur) s.me.act.pid (s.me.mode == .monitor) h = some e ↔ mayName s h e := by
  unfold State.entry? mayName
  cases (s.cluster (clusterOf s.cur)).entry h with
  | none => exact ⟨fun h => (nomatch h), fun h => (nomatch h.1)⟩
  | some d =>
    simp only [Option.ite_none_right_eq_some, Option.some.injEq]
    rw [and_comm]
    refine and_congr_right ?_
    rintro rfl
    cases s.me.mode <;> simp

theorem State.entry?_eq_none {s : State} {h : BitVec 32} (hno : ∀ e, ¬ mayName s h e) :
    s.entry? (clusterOf s.cur) s.me.act.pid (s.me.mode == .monitor) h = none :=
  Option.eq_none_iff_forall_ne_some.2 fun e he => hno e ((s.entry?_eq_some_iff h e).1 he)

theorem belowFrame_eq_dropWhile (ls : List Loop) : belowFrame ls = ls.dropWhile fun l => l.calls == 0 := by
  induction ls with
  | nil => rfl
  | cons l ls ih =>
    by_cases hl : l.calls = 0
    · rw [belowFrame, if_pos hl, ih, List.dropWhile_cons, if_pos (beq_iff_eq.2 hl)]
    · rw [belowFrame, if_neg hl, List.dropWhile_cons, if_neg (mt beq_iff_eq.1 hl)]

theorem returnLoops_eq (ls : List Loop) : returnLoops ls = match ls.dropWhile fun l => l.calls == 0 with
    | [] => [] | l :: rest => { l with calls := l.calls - 1 } :: rest := by
  rw [returnLoops, belowFrame_eq_dropWhile]
  cases hd : ls.dropWhile fun l => l.calls == 0 with
  | nil => rfl
  | cons l rest =>
    have hl : l.calls ≠ 0 := by
      have := List.head?_dropWhile_not (fun l : Loop => l.calls == 0) ls
      rw [hd] at this
      simpa using this
    simp only [if_neg hl]

section
variable {s : State} (hact : isAct s.cur = true)
include hact

theorem exec_ret_of_zero (hlink : s.g 31 = 0) : exec .ret s = exec .endAct s := (if_pos hact).trans (if_pos hlink)

variable (hlink : s.g 31 ≠ 0)
include hlink

theorem exec_ret_of_unnamed (hno : ∀ e, ¬ mayName s (handleOf (s.g 31)) e) :
    exec .ret s = .next (s.takeFault { code := 0x03, val := s.g 31 }) := by
  refine (if_pos hact).trans ((if_neg hlink).trans ?_)
  rw [State.entry?_eq_none hno]
  rfl

variable {e : DirEntry} {f : Inst} (hname : mayName s (handleOf (s.g 31)) e) (hf : e.inst = some f)
include hname hf

theorem exec_ret_of_no_site (hn : f.calls.length ≤ (s.g 31).toNat % 2 ^ 32) :
    exec .ret s = .next (s.takeFault { code := 0x03, val := s.g 31 }) := by
  refine (if_pos hact).trans ((if_neg hlink).trans ?_)
  simp only [(s.entry?_eq_some_iff _ e).2 hname, hf, List.getElem?_eq_none hn]
  rfl

theorem exec_ret_of_site {site : Nat × BitVec 32} (hsite : f.calls[(s.g 31).toNat % 2 ^ 32]? = some site) :
    exec .ret s =
      .next (s.modMe (Thread.goOn s.cur (codeAddr (handleOf (s.g 31)) (site.1 + 1)) (returnLoops s.me.loops))) := by
  refine (if_pos hact).trans ((if_neg hlink).trans ?_)
  simp only [(s.entry?_eq_some_iff _ e).2 hname, hf, hsite]
  rfl
end

theorem retReturnsToTheCallSite : Claims.RetReturnsToTheCallSite := by
  unfold Claims.RetReturnsToTheCallSite
  intro s hact link h n
  have hn : n = link.toNat % 2 ^ 32 := by
    rw [show n = (link.extractLsb' 0 32).toNat from rfl, BitVec.extractLsb'_toNat, Nat.shiftRight_zero]
  refine ⟨fun e f site hlink hname hf hsite => ?_, fun e f hlink hname hf hlen => ?_, fun hlink hno => ?_, fun hlink => ?_⟩
  · obtain ⟨hgoes, hkeep⟩ := s.goOn_spec (codeAddr h (site.1 + 1)) (returnLoops s.me.loops)
    exact ⟨_, exec_ret_of_site hact hlink hname hf (hn ▸ hsite), hkeep, returnLoops_eq s.me.loops ▸ hgoes⟩
  · exact exec_ret_of_no_site hact hlink hname hf (hn ▸ hlen)
  · exact exec_ret_of_unnamed hact hlink hno
  · exact exec_ret_of_zero hact hlink

/-- Settles O9: a call enters its resident function and leaves the link, and RET goes where the link says. -/
theorem callsEnterAndReturn : Obligations.CallsEnterAndReturn := by
  unfold Obligations.CallsEnterAndReturn
  exact ⟨callsEnterTheResidentFunction, badCallsFault, retReturnsToTheCallSite⟩

end Sys2Proof.Machine
end

section
/-! SUPPORT. Class 2: YIELD and END (R119, R122, R162, R227, R400). -/

namespace Sys2Proof.Machine

open Sys2Proof.Claims

/-! ## The interval that YIELD opens (R119) -/

/-- What YIELD does to its thread beside retiring: it keeps the registers of its masks and starts the interval's counts. -/
def Thread.openInterval (vmask deadline : BitVec 16) (gmask : BitVec 32) (x : Thread) : Thread :=
  { x.keep vmask gmask with act := { (x.keep vmask gmask).act with
      retire := 0, dline := (if deadline = 0 then (x.keep vmask gmask).act.deadline else deadline).setWidth 32 * 256 } }

section
variable (x : Thread) (vmask deadline : BitVec 16) (gmask : BitVec 32)

/-- What of a thread YIELD's masks do not touch. -/
theorem Thread.keep_frame : (x.keep vmask gmask).mode = x.mode ∧ (x.keep vmask gmask).status = x.status ∧
    (x.keep vmask gmask).act.pc = x.act.pc ∧ (x.keep vmask gmask).act.deadline = x.act.deadline ∧
    (x.keep vmask gmask).act.prio = x.act.prio ∧ (x.keep vmask gmask).act.flags = x.act.flags ∧
    (x.keep vmask gmask).act.reply = x.act.reply ∧ (x.keep vmask gmask).act.wid = x.act.wid ∧
    (x.keep vmask gmask).act.streams = x.act.streams := by
  cases hm : x.mode <;> simp [Thread.keep, hm]

theorem Thread.keep_v (k : Nat) :
    Map.get {} (x.keep vmask gmask).act.v k = if vmask.getLsbD k = true then Map.get {} x.act.v k else {} := by
  have hv : (x.keep vmask gmask).act.v = Map.drop (fun k => !vmask.getLsbD k) x.act.v := by
    cases hm : x.mode <;> simp [Thread.keep, hm]
  rw [hv, Map.get_drop]
  cases vmask.getLsbD k <;> rfl

/-- The bank of the mode holds what its mask names. -/
theorem Thread.keep_reg (r : GReg) : (x.keep vmask gmask).reg r = if gmask.getLsbD r.toNat = true then x.reg r else 0 := by
  by_cases hr : r = 0
  · simp [Thread.reg, hr]
  · cases hm : x.mode <;> cases hg : gmask.getLsbD r.toNat <;> simp [Thread.reg, Thread.keep, hm, hg, Map.get_drop]

theorem Thread.keep_g_of_context (hm : x.mode = .context) (k : Nat) :
    Map.get 0 (x.keep vmask gmask).act.g k = if gmask.getLsbD k = true then Map.get 0 x.act.g k else 0 := by
  have hg : (x.keep vmask gmask).act.g = Map.drop (fun k => !gmask.getLsbD k) x.act.g := by simp [Thread.keep, hm]
  rw [hg, Map.get_drop]
  cases gmask.getLsbD k <;> rfl

theorem Thread.keep_g_of_monitor (hm : x.mode = .monitor) : (x.keep vmask gmask).act.g = x.act.g := by simp [Thread.keep, hm]
theorem Thread.keep_mg_of_context (hm : x.mode = .context) : (x.keep vmask gmask).mg = x.mg := by simp [Thread.keep, hm]
end

/-- DLINE counts cycles, 256 for each unit of the deadline. -/
theorem toNat_dline (d : BitVec 16) : (d.setWidth 32 * 256 : BitVec 32).toNat = 256 * d.toNat := by
  have := d.isLt
  rw [BitVec.toNat_mul, BitVec.toNat_setWidth, Nat.mod_eq_of_lt (by omega : d.toNat < 2 ^ 32)]
  show d.toNat * 256 % 2 ^ 32 = _
  omega

/-- The state in which YIELD has opened its interval, before it is known whether a candidate pre-empts it. -/
def State.yielded (s : State) (vmask deadline : BitVec 16) (gmask : BitVec 32) : State :=
  s.retire.modMe (Thread.openInterval vmask deadline gmask)

section
variable (x : Thread) (t : Nat) (pc : Word) (ls : List Loop)

/-- What of an activation going on leaves alone, beside its registers and marks. -/
theorem Thread.goOn_frame : (x.goOn t pc ls).mg = x.mg ∧ (x.goOn t pc ls).act.g = x.act.g ∧
    (x.goOn t pc ls).act.deadline = x.act.deadline ∧ (x.goOn t pc ls).act.prio = x.act.prio ∧
    (x.goOn t pc ls).act.reply = x.act.reply ∧ (x.goOn t pc ls).act.wid = x.act.wid ∧
    (x.goOn t pc ls).act.streams = x.act.streams := by
  cases ht : isAct t <;> cases hm : x.mode <;> simp [Thread.goOn, Thread.count, Thread.setPc, Thread.setLoops, ht, hm]
end

section
variable (s : State) (vmask deadline : BitVec 16) (gmask : BitVec 32)

theorem State.yielded_me : (s.yielded vmask deadline gmask).me =
    (Thread.goOn s.cur s.fallPc (loopFall s.here.1 s.here.2 s.me.loops).1 s.me).openInterval vmask deadline gmask := by
  rw [State.yielded, State.me_modMe, State.retire_eq, State.me_modMe]

theorem State.yielded_eq : s.yielded vmask deadline gmask = s.modMe fun x =>
    (Thread.goOn s.cur s.fallPc (loopFall s.here.1 s.here.2 s.me.loops).1 x).openInterval vmask deadline gmask := by
  rw [State.yielded, State.retire_eq, State.modMe_modMe]

theorem State.yielded_onlyThread : OnlyThread s (s.yielded vmask deadline gmask) := by
  rw [State.yielded_eq]
  exact OnlyThread.modMe s _

@[simp] theorem State.yielded_mode : (s.yielded vmask deadline gmask).me.mode = s.me.mode := by
  obtain ⟨hmode, -⟩ := (Thread.goOn s.cur s.fallPc (loopFall s.here.1 s.here.2 s.me.loops).1 s.me).keep_frame vmask gmask
  rw [State.yielded_me, Thread.openInterval, hmode, Thread.goOn_mode]

@[simp] theorem State.yielded_status : (s.yielded vmask deadline gmask).me.status = s.me.status := by
  obtain ⟨-, hstatus, -⟩ := (Thread.goOn s.cur s.fallPc (loopFall s.here.1 s.here.2 s.me.loops).1 s.me).keep_frame vmask gmask
  rw [State.yielded_me, Thread.openInterval, hstatus, Thread.goOn_status]

/-- The registers of the mode's bank that the mask names stay; the others read as zero. -/
theorem State.yielded_reg (r : GReg) :
    (s.yielded vmask deadline gmask).reg r = if gmask.getLsbD r.toNat = true then s.reg r else 0 := by
  have hreg := Thread.keep_reg (Thread.goOn s.cur s.fallPc (loopFall s.here.1 s.here.2 s.me.loops).1 s.me) vmask gmask r
  rw [Thread.goOn_reg] at hreg
  rw [State.reg, State.yielded_me]
  exact hreg

theorem State.yielded_mg (hm : s.me.mode = .context) : (s.yielded vmask deadline gmask).me.mg = s.me.mg := by
  obtain ⟨hmg, -⟩ := Thread.goOn_frame s.me s.cur s.fallPc (loopFall s.here.1 s.here.2 s.me.loops).1
  rw [State.yielded_me]
  exact (Thread.keep_mg_of_context _ vmask gmask (by rw [Thread.goOn_mode, hm])).trans hmg

/-- The v registers that the mask names stay; the others read as zero with tag NONE. -/
theorem State.yielded_v (r : VIdx) : Map.get {} (s.yielded vmask deadline gmask).me.act.v r.toNat =
    if vmask.getLsbD r.toNat = true then s.vreg r else {} := by
  have hv := Thread.keep_v (Thread.goOn s.cur s.fallPc (loopFall s.here.1 s.here.2 s.me.loops).1 s.me) vmask gmask r.toNat
  rw [Thread.goOn_v] at hv
  rw [State.yielded_me]
  exact hv

theorem State.yielded_g_of_context (hm : s.me.mode = .context) (k : Nat) : Map.get 0 (s.yielded vmask deadline gmask).me.act.g k =
    if gmask.getLsbD k = true then Map.get 0 s.me.act.g k else 0 := by
  obtain ⟨-, hg, -⟩ := Thread.goOn_frame s.me s.cur s.fallPc (loopFall s.here.1 s.here.2 s.me.loops).1
  have hk := Thread.keep_g_of_context (Thread.goOn s.cur s.fallPc (loopFall s.here.1 s.here.2 s.me.loops).1 s.me) vmask gmask
    (by rw [Thread.goOn_mode, hm]) k
  rw [hg] at hk
  rw [State.yielded_me]
  exact hk

theorem State.yielded_g_of_monitor (hm : s.me.mode = .monitor) : (s.yielded vmask deadline gmask).me.act.g = s.me.act.g := by
  obtain ⟨-, hg, -⟩ := Thread.goOn_frame s.me s.cur s.fallPc (loopFall s.here.1 s.here.2 s.me.loops).1
  rw [State.yielded_me]
  exact (Thread.keep_g_of_monitor _ vmask gmask (by rw [Thread.goOn_mode, hm])).trans hg

/-- The counts of the new interval, and what of the activation YIELD leaves alone. -/
theorem State.yielded_act :
    let a := (s.yielded vmask deadline gmask).me.act
    a.pc = s.fallPc ∧ a.retire = 0 ∧ a.dline.toNat = 256 * (if deadline = 0 then s.me.act.deadline else deadline).toNat ∧
      a.flags = s.me.act.flags ∧ a.reply = s.me.act.reply ∧ a.wid = s.me.act.wid ∧ a.streams = s.me.act.streams ∧
      a.prio = s.me.act.prio := by
  obtain ⟨-, -, hpc, hdl, hprio, hflags, hreply, hwid, hstreams⟩ :=
    (Thread.goOn s.cur s.fallPc (loopFall s.here.1 s.here.2 s.me.loops).1 s.me).keep_frame vmask gmask
  obtain ⟨-, -, hdl', hprio', hreply', hwid', hstreams'⟩ :=
    Thread.goOn_frame s.me s.cur s.fallPc (loopFall s.here.1 s.here.2 s.me.loops).1
  rw [State.yielded_me]
  refine ⟨hpc.trans (Thread.goOn_pc ..), rfl, ?_, hflags.trans (Thread.goOn_flags ..), hreply.trans hreply', hwid.trans hwid',
    hstreams.trans hstreams', hprio.trans hprio'⟩
  rw [Thread.openInterval, toNat_dline, hdl, hdl']
end

/-! ## The pre-emption point (R138, R162, R425) -/

section
variable {s : State} {ts : Map Thread} (hstatus : ∀ t, (Map.get {} ts t).status = (s.th t).status)
include hstatus

/-- What the dispatcher sees of a thread is its status. -/
theorem State.coreFree_congr : ({ s with threads := ts } : State).coreFree = s.coreFree := by
  funext t
  have ht : (({ s with threads := ts } : State).th t).status = (s.th t).status := hstatus t
  unfold State.coreFree
  rw [ht]
  rfl

theorem State.freeCore_congr : ({ s with threads := ts } : State).freeCore = s.freeCore := by
  funext blk
  rw [State.freeCore, State.coreFree_congr hstatus, State.freeCore]

theorem State.ready_congr : ({ s with threads := ts } : State).ready = s.ready := by
  funext d
  unfold State.ready
  rw [State.coreFree_congr hstatus]
  rfl

theorem State.candidates_congr : ({ s with threads := ts } : State).candidates = s.candidates := by
  funext blk
  unfold State.candidates
  rw [State.ready_congr hstatus]
  rfl
end

/-- Opening the interval changes nothing that pre-emption depends on. -/
theorem State.yielded_preempts (s : State) (vmask deadline : BitVec 16) (gmask : BitVec 32) :
    (s.yielded vmask deadline gmask).preempts = s.retire.preempts := by
  have hstatus : ∀ t, ((s.yielded vmask deadline gmask).th t).status = (s.retire.th t).status := by
    intro t
    by_cases ht : t = s.cur
    · have hretire : s.retire.me.status = s.me.status := by rw [State.retire_eq, State.me_modMe, Thread.goOn_status]
      rw [ht]
      exact (s.yielded_status vmask deadline gmask).trans hretire.symm
    · exact congrArg _ (State.th_modMe_ne s.retire _ ht)
  have hprio : (s.yielded vmask deadline gmask).me.act.prio = s.retire.me.act.prio := by
    obtain ⟨-, -, -, -, -, -, -, hprio⟩ := s.yielded_act vmask deadline gmask
    obtain ⟨-, -, -, hprio', -⟩ := Thread.goOn_frame s.me s.cur s.fallPc (loopFall s.here.1 s.here.2 s.me.loops).1
    rw [hprio, State.retire_eq, State.me_modMe, hprio']
  have hfree : (s.yielded vmask deadline gmask).freeCore = s.retire.freeCore := State.freeCore_congr hstatus
  have hcand : (s.yielded vmask deadline gmask).candidates = s.retire.candidates := State.candidates_congr hstatus
  unfold State.preempts
  rw [hprio, hfree, hcand]
  rfl

theorem State.yielded_drains (s : State) (vmask deadline : BitVec 16) (gmask : BitVec 32) :
    (s.yielded vmask deadline gmask).drains = s.drains := rfl

/-- With every access answered and no error recorded, YIELD opens its interval, and is displaced at the pre-emption point. -/
theorem exec_yield {s : State} {vmask deadline : BitVec 16} {gmask : BitVec 32} (hact : isAct s.cur = true) (hset : settled s)
    (hdef : s.me.act.deferred = none) :
    exec (.yield vmask deadline gmask) s = .next (
      if s.me.mode = .context ∧ (s.retire.preempts = true ∨ s.drains = true) then
        (s.yielded vmask deadline gmask).displace s.cur (s.yielded vmask deadline gmask).me.act none
      else s.yielded vmask deadline gmask) := by
  obtain ⟨hquiet, hops⟩ := hset
  refine (if_pos hact).trans ((if_neg (by simp [hquiet, hops])).trans ?_)
  rw [hdef, apply_ite Host.Outcome.next, ← State.yielded_preempts s vmask deadline gmask,
    ← State.yielded_drains s vmask deadline gmask, ← State.yielded_mode s vmask deadline gmask]
  rfl

/-! ## Displacement (R152, R162, R400) -/

/-- A record that is found lies among those that are looked through. -/
theorem Block.recordFrom_bounds {b : Block} {lo n k : Nat} (h : b.recordFrom lo n = some k) : lo ≤ k ∧ k < lo + n := by
  obtain ⟨i, hi, rfl⟩ := List.mem_map.1 (List.mem_of_find?_eq_some h)
  exact ⟨Nat.le_add_right lo i, Nat.add_lt_add_left (List.mem_range.1 hi) lo⟩

/-- Saving changes memory and takes free values, and nothing else. -/
theorem State.saveAt_eq (s : State) (blk : Nat) (n : Option Nat) (a : Act) :
    s.saveAt blk n a = { s with mem := (s.saveAt blk n a).mem, free := (s.saveAt blk n a).free } := by
  cases n with
  | none => rfl
  | some n => exact s.saveRecord_eq blk n a

@[simp] theorem State.saveAt_th (s : State) (blk : Nat) (n : Option Nat) (a : Act) (u : Nat) : (s.saveAt blk n a).th u = s.th u := by
  rw [State.saveAt_eq]
  rfl
@[simp] theorem State.saveAt_block (s : State) (blk : Nat) (n : Option Nat) (a : Act) (b : Nat) :
    (s.saveAt blk n a).block b = s.block b := by
  rw [State.saveAt_eq]
  rfl

theorem State.saveAt_outside (s : State) (blk : Nat) (n : Option Nat) (a : Act) (x : Nat)
    (h : ∀ k, n = some k → x < s.recordAt blk k ∨ s.recordAt blk k + 0x1300 ≤ x) :
    (s.saveAt blk n a).mem.byte x = s.mem.byte x := by
  cases n with
  | none => rfl
  | some n => exact s.saveRecord_outside blk n a x (h n rfl)

@[simp] theorem State.traceLeft_block (s : State) (t : Nat) (a : Act) (b : Nat) : (s.traceLeft t a).block b = s.block b := by
  unfold State.traceLeft
  split <;> rfl
@[simp] theorem State.traceLeft_cur (s : State) (t : Nat) (a : Act) : (s.traceLeft t a).cur = s.cur := by
  unfold State.traceLeft
  split <;> rfl
@[simp] theorem State.traceLeft_mem (s : State) (t : Nat) (a : Act) : (s.traceLeft t a).mem = s.mem := by
  unfold State.traceLeft
  split <;> rfl
theorem State.traceLeft_th_ne (s : State) (t : Nat) (a : Act) {u : Nat} (h : u ≠ t) : (s.traceLeft t a).th u = s.th u := by
  unfold State.traceLeft
  split
  · rw [State.th_modTh, if_neg h]
  · rfl
theorem State.traceLeft_th_mg (s : State) (t : Nat) (a : Act) : ((s.traceLeft t a).th t).mg = (s.th t).mg := by
  unfold State.traceLeft
  split
  · rw [State.th_modTh, if_pos rfl]
  · rfl

section
variable (s : State) (t : Nat) (a : Act) (atSend : Option Word)

/-- The record that a displaced activation of thread t goes into, where one is free. -/
def State.displaceRecord : Option Nat :=
  (s.block (blockOf t)).recordFrom (if atSend.isSome then 64 else 0) (if atSend.isSome then 128 else 64)

theorem State.displace_cur : (s.displace t a atSend).cur = s.cur := by
  have hcur : ((s.leaveBars t).saveAt (blockOf t) (s.displaceRecord t atSend) a).cur = s.cur := by
    rw [State.saveAt_eq]
    rfl
  unfold State.displace
  rw [State.modTh_cur, State.traceLeft_cur, State.modBlock_cur]
  exact hcur

theorem State.displace_th_ne {u : Nat} (h : u ≠ t) : (s.displace t a atSend).th u = s.th u := by
  unfold State.displace
  rw [State.th_modTh, if_neg h, State.traceLeft_th_ne _ t a h]
  exact State.saveAt_th (s.leaveBars t) _ _ a u

theorem State.displace_status : ((s.displace t a atSend).th t).status = .idle := by
  unfold State.displace
  rw [State.th_modTh, if_pos rfl]

theorem State.displace_mg : ((s.displace t a atSend).th t).mg = (s.th t).mg := by
  unfold State.displace
  rw [State.th_modTh, if_pos rfl]
  refine (State.traceLeft_th_mg _ t a).trans (congrArg Thread.mg ?_)
  exact State.saveAt_th (s.leaveBars t) _ _ a t

theorem State.displace_displaced : ((s.displace t a atSend).block (blockOf t)).displaced =
    (s.block (blockOf t)).displaced ++ [{ act := a, atSend, since := s.cycle, place := s.displaceRecord t atSend }] := by
  have hblock : ∀ u : State, ∀ f, (u.modTh t f).block (blockOf t) = u.block (blockOf t) := fun _ _ => rfl
  have hcycle : ((s.leaveBars t).saveAt (blockOf t) (s.displaceRecord t atSend) a).cycle = s.cycle := by
    rw [State.saveAt_eq]
    rfl
  unfold State.displace
  rw [hblock, State.traceLeft_block, State.block_modBlock, if_pos rfl, State.saveAt_block]
  rfl

theorem State.mem_displaced_displace : ({ act := a, atSend, since := s.cycle, place := s.displaceRecord t atSend } : Displaced) ∈
    ((s.displace t a atSend).block (blockOf t)).displaced := by
  rw [State.displace_displaced]
  exact List.mem_append_right _ (List.mem_singleton_self _)

theorem State.displace_byte (x : Nat)
    (h : ∀ n, s.displaceRecord t atSend = some n → x < s.recordAt (blockOf t) n ∨ s.recordAt (blockOf t) n + 0x1300 ≤ x) :
    (s.displace t a atSend).mem.byte x = s.mem.byte x := by
  unfold State.displace
  rw [State.modTh_mem, State.traceLeft_mem, State.modBlock_mem]
  exact State.saveAt_outside (s.leaveBars t) (blockOf t) _ a x h
end

theorem yieldOpensAnInterval : Claims.YieldOpensAnInterval := by
  unfold Claims.YieldOpensAnInterval
  intro s vmask deadline gmask hact hset hdef
  have hexec := exec_yield (vmask := vmask) (deadline := deadline) (gmask := gmask) hact hset hdef
  obtain ⟨hpc, hretire, hdline, hflags, hreply, hwid, hstreams, -⟩ := s.yielded_act vmask deadline gmask
  have hv := s.yielded_v vmask deadline gmask
  have hg := fun hm (r : GReg) => s.yielded_g_of_context vmask deadline gmask hm r.toNat
  have hgm := s.yielded_g_of_monitor vmask deadline gmask
  have honly := s.yielded_onlyThread vmask deadline gmask
  by_cases hpre : s.me.mode = .context ∧ (s.retire.preempts = true ∨ s.drains = true)
  · obtain ⟨hm, hcause⟩ := hpre
    rw [if_pos ⟨hm, hcause⟩] at hexec
    refine ⟨_, _, hexec, hpc, hretire, hdline, hv, hg, hgm, hflags, hreply, hwid, hstreams, fun u hu => ?_, ?_, fun hstay => ?_,
      fun _ _ => ?_⟩
    · rw [State.displace_th_ne _ _ _ _ hu, honly.others u hu]
    · rw [hm, if_neg nofun, State.me, State.displace_cur]
      exact (State.displace_mg ..).trans (s.yielded_mg vmask deadline gmask hm)
    · obtain hmon | ⟨hp, hd⟩ := hstay
      · cases hm.symm.trans hmon
      · simp [hp, hd] at hcause
    · refine ⟨?_, _, State.mem_displaced_displace .., rfl, rfl, fun n hn => ?_, fun x hx => ?_⟩
      · rw [State.me, State.displace_cur]
        exact State.displace_status ..
      · exact (Block.recordFrom_bounds hn).2
      · exact State.displace_byte _ _ _ _ x hx
  · rw [if_neg hpre] at hexec
    refine ⟨_, _, hexec, hpc, hretire, hdline, hv, hg, hgm, hflags, hreply, hwid, hstreams, honly.others, ?_, fun _ => ?_,
      fun hm hcause => absurd ⟨hm, hcause⟩ hpre⟩
    · cases hm : s.me.mode with
      | context => exact s.yielded_mg vmask deadline gmask hm
      | monitor => rfl
    · exact ⟨rfl, honly, rfl, s.yielded_mode .., s.yielded_status .., s.yielded_reg vmask deadline gmask⟩

/-! ## END (R122, R227) -/

section
variable (s : State) (t : Nat)

/-- Withdrawing the vector unit's grant touches nothing but the units of blocks. -/
theorem State.dropGrant_eq : s.dropGrant t = { s with blocks := (s.dropGrant t).blocks } := by
  unfold State.dropGrant
  dsimp only
  split <;> rfl

theorem State.dropGrant_block (b : Nat) : (s.dropGrant t).block b =
    { s.block b with vgrant := ((s.dropGrant t).block b).vgrant, vwait := ((s.dropGrant t).block b).vwait } := by
  unfold State.dropGrant
  dsimp only
  split
  · rw [State.block_modBlock]
    by_cases hb : b = blockOf t
    · subst hb
      rw [if_pos rfl]
    · rw [if_neg hb]
  · rfl

/-- An activation that ends changes the counts of its channel and of its launch. -/
theorem State.uncount_eq (k : Nat) (a : Act) :
    s.uncount k a = { s with blocks := (s.uncount k a).blocks, sys := (s.uncount k a).sys } := by
  unfold State.uncount
  dsimp only
  split <;> rfl

theorem State.uncount_block (k : Nat) (a : Act) (b : Nat) : (s.uncount k a).block b =
    if a.recruit = false ∧ b = k then (s.block k).modChan a.home fun c => { c with running := c.running - 1 } else s.block b := by
  unfold State.uncount
  cases hr : a.recruit
  · simp only [true_and, Bool.false_eq_true, if_false]
    exact State.block_modBlock s k b fun b => b.modChan a.home fun c => { c with running := c.running - 1 }
  · simp only [Bool.true_eq_false, false_and, if_false]
    rfl

@[simp] theorem State.dropGrant_th (u : Nat) : (s.dropGrant t).th u = s.th u := by
  rw [State.dropGrant_eq]
  rfl
@[simp] theorem State.uncount_th (k : Nat) (a : Act) (u : Nat) : (s.uncount k a).th u = s.th u := by
  rw [State.uncount_eq]
  rfl
end

theorem Block.chan_modChan (b : Block) (c d : CIdx) (f : Channel → Channel) :
    (b.modChan c f).chan d = if d = c then f (b.chan c) else b.chan d := by
  refine (Map.get_put ({} : Channel) b.chans c.toNat d.toNat _).trans ?_
  simp only [BitVec.toNat_inj]
  rfl

/-- Jobs, queues and the messages in channels are as they were. -/
structure KeepsWork (b b' : Block) : Prop where
  jobs : b'.jobs = b.jobs
  queues : b'.queues = b.queues
  slots : ∀ c, (b'.chan c).slots = (b.chan c).slots

theorem State.dropGrant_keepsWork (s : State) (t b : Nat) : KeepsWork (s.block b) ((s.dropGrant t).block b) := by
  rw [State.dropGrant_block]
  exact ⟨rfl, rfl, fun _ => rfl⟩

theorem State.uncount_keepsWork (s : State) (k : Nat) (a : Act) (b : Nat) : KeepsWork (s.block b) ((s.uncount k a).block b) := by
  rw [State.uncount_block]
  split
  · next h =>
    obtain ⟨-, rfl⟩ := h
    refine ⟨rfl, rfl, fun c => ?_⟩
    rw [Block.chan_modChan]
    split
    · next h => rw [h]
    · rfl
  · exact ⟨rfl, rfl, fun _ => rfl⟩

/-- The thread whose activation has ended: its registers and loop stack are discarded, and its core is free. -/
def Thread.freed (x : Thread) : Thread :=
  { x with act := { pid := x.act.pid, encl := x.act.encl, vi := x.act.vi }, status := .idle, mode := .context, entry := none, mloops := []
           view := none, paired := false, mcall := false, eqops := [], sendWait := 0, sendDst := none, sendAns := none, bound := none
           transfer := none, outst := x.outst.map fun r => { r with orphan := true, dst := .none } }

section
variable (s : State) (t : Nat)

/-- The chip as an activation that ends leaves it: it is taken out of the barrier cells, the vector unit and the counts. -/
def State.departed : State := (((s.disown t).leaveBars t).dropGrant t).uncount (blockOf t) (s.th t).act

theorem State.departed_eq : s.departed t = { s with
    blocks := (s.departed t).blocks, clusters := (s.leaveBars t).clusters, sys := (s.departed t).sys
    flight := (s.disown t).flight, fab := (s.disown t).fab } := by
  unfold State.departed
  refine (State.uncount_eq ..).trans ?_
  generalize (State.uncount _ _ _).blocks = bs, (State.uncount _ _ _).sys = y
  rw [State.dropGrant_eq]
  rfl

theorem State.freeThread_eq : s.freeThread t = (s.departed t).setTh t (s.th t).freed := by
  unfold State.freeThread State.modTh State.departed
  simp only [State.uncount_th, State.dropGrant_th]
  rfl

theorem State.freeThread_th (u : Nat) : (s.freeThread t).th u = if u = t then (s.th t).freed else s.th u := by
  rw [State.freeThread_eq, State.th_setTh, State.departed, State.uncount_th, State.dropGrant_th]
  rfl

theorem State.freeThread_keepsWork (b : Nat) : KeepsWork (s.block b) ((s.freeThread t).block b) := by
  have hdrop := ((s.disown t).leaveBars t).dropGrant_keepsWork t b
  have huncount := (((s.disown t).leaveBars t).dropGrant t).uncount_keepsWork (blockOf t) (s.th t).act b
  exact ⟨huncount.jobs.trans hdrop.jobs, huncount.queues.trans hdrop.queues, fun c => (huncount.slots c).trans (hdrop.slots c)⟩

theorem State.leaveBars_dir (c : Nat) : ((s.leaveBars t).cluster c).dir = (s.cluster c).dir := by
  unfold State.leaveBars
  rw [State.cluster_modCluster]
  split
  · next h => rw [h]
  · rfl

theorem State.freeThread_keepsUnits : KeepsUnits s (s.freeThread s.cur) where
  others u hu := by rw [State.freeThread_th, if_neg hu]
  bytes _ := by rw [State.freeThread_mem]
  mem := s.freeThread_mem s.cur
  jobs b := (s.freeThread_keepsWork s.cur b).jobs
  queues b := (s.freeThread_keepsWork s.cur b).queues
  slots b := (s.freeThread_keepsWork s.cur b).slots
  dirs c := by
    rw [State.freeThread_eq, State.departed_eq]
    exact s.leaveBars_dir s.cur c
  owners o := by
    rw [State.freeThread_eq, State.departed_eq]
    rfl
  cycle := by
    rw [State.freeThread_eq, State.departed_eq]
    rfl

theorem State.freeThread_me : (s.freeThread s.cur).me = s.me.freed := by
  have hcur : (s.freeThread s.cur).cur = s.cur := by
    rw [State.freeThread_eq, State.departed_eq]
    rfl
  rw [State.me, hcur, State.freeThread_th, if_pos rfl, State.me]
end

/-- With every access answered and every message delivered, END takes what is recorded, or frees the core. -/
theorem exec_endAct {s : State} (hact : isAct s.cur = true) (hfin : finished s) : exec .endAct s =
    match s.me.act.deferred, s.me.act.matrixFail, s.me.act.cardFail with
    | some tr, _, _ => .next (s.takeDeferred tr)
    | none, some tr, _ => .next ((s.modMyAct fun a => { a with mstat := mstatTaken a.mstat }).takeFault tr)
    | none, none, some tr => .next ((s.modMyAct fun a => { a with jstat := jstatTaken a.jstat }).takeFault tr)
    | none, none, none => .next (s.freeThread s.cur) := by
  obtain ⟨hdone, hops⟩ := hfin
  exact (if_neg (by simp [hact])).trans (if_neg (by simp [hdone, hops]))

theorem endFreesTheCore : Claims.EndFreesTheCore := by
  unfold Claims.EndFreesTheCore
  intro s hact hfin
  have hexec := exec_endAct hact hfin
  refine ⟨fun hd hm hc => ?_, fun tr hd => ?_, fun tr hd hm => ?_, fun tr hd hm hc => ?_⟩
  · rw [hd, hm, hc] at hexec
    refine ⟨_, hexec, s.freeThread_keepsUnits, ?_, ?_, fun r => ?_, fun r => ?_, ?_, ?_⟩
    · rw [State.freeThread_me, Thread.freed]
    · rw [State.freeThread_me, Thread.freed]
    · rw [State.reg, State.freeThread_me]
      exact ite_self _
    · rw [State.vreg, State.freeThread_me]
      rfl
    · rw [State.freeThread_me]
      rfl
    · rw [State.freeThread_me, Thread.freed]
  · rw [hexec, hd]
  · rw [hexec, hd, hm]
    rfl
  · rw [hexec, hd, hm, hc]
    rfl

/-- Settles O10: YIELD opens its interval and keeps what its masks name; END frees the core after what is recorded. -/
theorem intervalsAndActivationsEnd : Obligations.IntervalsAndActivationsEnd := by
  unfold Obligations.IntervalsAndActivationsEnd
  exact ⟨yieldOpensAnInterval, endFreesTheCore⟩

end Sys2Proof.Machine
end

section
/-! SUPPORT. Code misses (R109, R110, R113–R118): the directory of a kiln under installs and evictions, the list of resolutions,
and what their end does to the threads that wait. -/

namespace Sys2Proof.Machine

open Sys2Proof.Claims

/-! ## The directory (R107, R109) -/

/-- The handles of a cluster's directory, in its order. -/
def Cluster.handles (c : Cluster) : List (BitVec 32) := c.dir.map (·.handle)

@[simp] theorem Cluster.handles_modEntry (c : Cluster) (h : BitVec 32) {f : DirEntry → DirEntry} (hf : ∀ e, (f e).handle = e.handle) :
    (c.modEntry h f).handles = c.handles := by
  rw [Cluster.handles, Cluster.modEntry, List.map_map]
  refine List.map_congr_left fun e _ => ?_
  rw [Function.comp_apply, apply_ite DirEntry.handle, hf, ite_self]

/-- A handle that has an entry, and is none of the monitor's functions, stands in the directory. -/
theorem Cluster.mem_handles_of_entry {c : Cluster} {h : BitVec 32} {e : DirEntry} (he : c.entry h = some e)
    (hmon : 1 ≤ h.toNat ∧ h.toNat < 256 → monitorEntry c.monitor h = none) : h ∈ c.handles := by
  unfold Cluster.entry at he
  cases hd : c.dir.find? fun e => e.handle == h with
  | some d =>
    have hh := List.find?_some hd
    exact List.mem_map.2 ⟨d, List.mem_of_find?_eq_some hd, beq_iff_eq.1 hh⟩
  | none =>
    simp only [hd] at he
    split at he
    · next hr => rw [hmon hr] at he; cases he
    · cases he

/-- An entry of the directory has the code that is placed there. -/
theorem Cluster.inst_modEntry_of_mem {c : Cluster} {h : BitVec 32} {f : DirEntry → DirEntry} {i : Inst} (hmem : h ∈ c.handles)
    (hf : ∀ e, (f e).handle = e.handle) (hi : ∀ e, (f e).inst = some i) : (c.modEntry h f).inst h = some i := by
  have hsame : (fun e : DirEntry => e.handle == h) ∘ (fun e => if e.handle == h then f e else e) = fun e => e.handle == h := by
    funext e
    rw [Function.comp_apply, apply_ite DirEntry.handle, hf, ite_self]
  obtain ⟨d, hd, hdh⟩ := List.mem_map.1 hmem
  obtain ⟨e, he⟩ := Option.isSome_iff_exists.1 
    (List.find?_isSome (p := fun e : DirEntry => e.handle == h) |>.2 ⟨d, hd, beq_iff_eq.2 hdh⟩)
  have hentry : (c.modEntry h f).entry h = some (f e) := by
    have hh := List.find?_some he
    unfold Cluster.entry Cluster.modEntry
    simp only [List.find?_map, hsame, he, Option.map_some, hh, if_true]
  rw [Cluster.inst, hentry]
  exact hi e

/-- What evictions and installs leave of a cluster: its resolutions and its handles; and every thread. -/
structure KilnFrame (cl : Nat) (s u : State) : Prop where
  threads : u.threads = s.threads
  fetches : (u.cluster cl).fetches = (s.cluster cl).fetches
  handles : (u.cluster cl).handles = (s.cluster cl).handles

theorem KilnFrame.refl (cl : Nat) (s : State) : KilnFrame cl s s := ⟨rfl, rfl, rfl⟩
theorem KilnFrame.trans {cl : Nat} {s u v : State} (h : KilnFrame cl s u) (k : KilnFrame cl u v) : KilnFrame cl s v :=
  ⟨k.threads.trans h.threads, k.fetches.trans h.fetches, k.handles.trans h.handles⟩

theorem KilnFrame.modEntry (cl : Nat) (s : State) (h : BitVec 32) {f : DirEntry → DirEntry} (hf : ∀ e, (f e).handle = e.handle) :
    KilnFrame cl s (s.modCluster cl fun c => c.modEntry h f) := by
  refine ⟨rfl, ?_, ?_⟩ <;> rw [State.cluster_modCluster, if_pos rfl]
  · rfl
  · exact Cluster.handles_modEntry _ h hf

theorem State.evict_frame (s : State) (cl : Nat) (h : BitVec 32) : KilnFrame cl s (s.evict cl h) :=
  KilnFrame.modEntry cl s h fun _ => rfl

theorem State.makeRoom_frame (cl n : Nat) : ∀ (fuel : Nat) (s : State), KilnFrame cl s (s.makeRoom cl n fuel).1
  | 0, s => .refl cl s
  | fuel + 1, s => by
    unfold State.makeRoom
    dsimp only
    split
    · exact .refl cl s
    · split
      · next h _ => exact (s.evict_frame cl h).trans (State.makeRoom_frame cl n fuel _)
      · exact .refl cl s

theorem State.placeInst_frame (s : State) (cl : Nat) (pid : BitVec 16) (h : BitVec 32) (i : Inst) :
    KilnFrame cl s (s.placeInst cl pid h i) :=
  have hmod := KilnFrame.modEntry cl s h (f := fun e => { e with inst := some i, last := (s.cluster cl).issues }) fun _ => rfl
  ⟨hmod.threads, hmod.fetches, hmod.handles⟩

theorem State.inst_placeInst {s : State} {cl : Nat} {pid : BitVec 16} {h : BitVec 32} {i : Inst} (hmem : h ∈ (s.cluster cl).handles) :
    ((s.placeInst cl pid h i).cluster cl).inst h = some i := by
  have hcl : (s.placeInst cl pid h i).cluster cl =
      (s.cluster cl).modEntry h fun e => { e with inst := some i, last := (s.cluster cl).issues } :=
    (State.cluster_modCluster s cl cl fun c => c.modEntry h fun e => { e with inst := some i, last := c.issues }).trans (if_pos rfl)
  rw [hcl]
  exact Cluster.inst_modEntry_of_mem hmem (fun _ => rfl) fun _ => rfl

/-- An install that finds room leaves the code under its handle, and changes nothing but the kiln. -/
theorem State.install_of_room {s s1 : State} {cl : Nat} {pid : BitVec 16} {h : BitVec 32} {i : Inst}
    (hroom : s.install cl pid h i = (s1, true)) :
    KilnFrame cl s s1 ∧ (h ∈ (s.cluster cl).handles → (s1.cluster cl).inst h = some i) := by
  unfold State.install at hroom
  dsimp only at hroom
  generalize hq : (if s.quota cl pid ≤ s.resident cl pid then
      match s.victim cl fun e => e.pid == pid with | some v => s.evict cl v | none => s
    else s) = s0 at hroom
  have h0 : KilnFrame cl s s0 := by
    rw [← hq]
    split
    · split
      · exact s.evict_frame cl _
      · exact .refl cl s
    · exact .refl cl s
  have h2 := h0.trans (State.makeRoom_frame cl i.lines.length 4097 s0)
  split at hroom
  · next s2 hm =>
    cases hroom
    rw [hm] at h2
    exact ⟨h2.trans (s2.placeInst_frame cl pid h i), fun hmem => State.inst_placeInst (h2.handles ▸ hmem)⟩
  · cases hroom

/-! ## The list of resolutions (R110, R113) -/

section
variable {s : State} {cl : Nat} {h : BitVec 32} {f : Fetch}

theorem State.handle_of_fetch? (hf : s.fetch? cl h = some f) : f.handle = h := by
  have hh := List.find?_some hf
  exact beq_iff_eq.1 hh

theorem State.fetch?_modFetch (hf : s.fetch? cl h = some f) {g : Fetch → Fetch} (hg : ∀ x, (g x).handle = x.handle) :
    (s.modFetch cl h g).fetch? cl h = some (g f) := by
  have hsame : (fun x : Fetch => x.handle == h) ∘ (fun x => if x.handle = h then g x else x) = fun x => x.handle == h := by
    funext x
    rw [Function.comp_apply, apply_ite Fetch.handle, hg, ite_self]
  have hfind : (s.cluster cl).fetches.find? (fun x => x.handle == h) = some f := hf
  rw [State.fetch?, State.modFetch, State.cluster_modCluster, if_pos rfl, List.find?_map, hsame, hfind, Option.map_some,
    if_pos (State.handle_of_fetch? hf)]

/-- The source asked last is the host depot: no peer is left to be asked (R113). -/
theorem State.askSource_of_depot (hf : s.fetch? cl h = some f) (h4 : f.source = 4) (n : Nat) : s.askSource cl h n = s := by
  cases n with
  | zero => rfl
  | succ n =>
    rw [State.askSource, hf]
    simp only [h4]
    rfl

/-- After the depot no source is left, and the waiters get the code-unavailable fault (R113). -/
theorem State.nextSource_of_depot (hf : s.fetch? cl h = some f) (h4 : f.source = 4) :
    s.nextSource cl h = (s.dropRequests cl h).endFetch cl f 0x11 3 := by
  have hf' : (s.dropRequests cl h).fetch? cl h = some f := hf
  unfold State.nextSource
  simp only [hf', h4, if_true]

/-- After the last peer the depot is asked (R113). -/
theorem State.fetch?_nextSource_of_peer {r : BitVec 22} (hf : s.fetch? cl h = some f) (h3 : f.source = 3) (hp : f.peers = [r]) :
    (s.nextSource cl h).fetch? cl h =
      some { f with peers := [], source := 4, askTrans := f.mask != 0, parts := [], data := [] } := by
  have hf' : (s.dropRequests cl h).fetch? cl h = some f := hf
  have hmod := State.fetch?_modFetch hf'
    (g := fun f => { f with peers := [], source := 4, askTrans := f.mask != 0, parts := [], data := [] }) fun _ => rfl
  have hsrc : f.source ≠ 4 := by rw [h3]; decide
  unfold State.nextSource
  simp only [hf', if_neg hsrc, hp, List.drop_succ_cons, List.drop_nil, if_true]
  rw [State.askSource_of_depot hmod rfl, hmod]

/-- A thread that is not yet among the waiters joins the resolution under way (R110). -/
theorem State.resolveCode_joins {t : Nat} (hf : s.fetch? cl h = some f) (hnew : ∀ w ∈ f.waiters, w.1 ≠ t) (pid : BitVec 16)
    (svc : Option (BitVec 6)) (dig : Digest) (mask : Byte) (trig : BitVec 4) :
    (s.resolveCode t cl pid svc h dig mask trig).fetch? cl h = some { f with waiters := f.waiters ++ [(t, trig)] } := by
  have hany : ¬ (f.waiters.any fun w => w.1 == t) = true := by
    rw [List.any_eq_true]
    rintro ⟨w, hw, heq⟩
    exact hnew w hw (beq_iff_eq.1 heq)
  unfold State.resolveCode
  simp only [hf, if_neg hany]
  exact State.fetch?_modFetch hf fun _ => rfl

/-- Where none is under way and the context has no code peers, a resolution begins at the depot (R110, R113). -/
theorem State.resolveCode_opens {pid : BitVec 16} (hf : s.fetch? cl h = none) (hp : s.peers pid = []) (t : Nat)
    (svc : Option (BitVec 6)) (dig : Digest) (mask : Byte) (trig : BitVec 4) :
    (s.resolveCode t cl pid svc h dig mask trig).fetch? cl h =
      some { pid, svc, handle := h, digest := dig, mask, waiters := [(t, trig)], peers := [], source := 4, askTrans := mask != 0 } := by
  have hfind : (s.cluster cl).fetches.find? (fun f => f.handle == h) = none := hf
  unfold State.resolveCode
  simp only [hf, hp, if_true]
  generalize hx : ({ pid, svc, handle := h, digest := dig, mask, waiters := [(t, trig)], peers := [], source := 4,
                     askTrans := mask != 0 } : Fetch) = x
  have hnew : (s.modCluster cl fun c => { c with fetches := c.fetches ++ [x] }).fetch? cl h = some x := by
    rw [State.fetch?, State.cluster_modCluster, if_pos rfl, List.find?_append, hfind, Option.none_or, ← hx]
    exact List.find?_cons_of_pos (beq_self_eq_true h)
  rw [State.askSource_of_depot hnew (by rw [← hx]), hnew]
end

/-! ## The end of a resolution (R116, R117) -/

/-- Thread t waits for handle h. -/
def State.waitsFor (s : State) (h : BitVec 32) (t : Nat) : Prop := ∃ g, (s.th t).status = .stalled (.codeMiss h g)

/-- The model's test of it. -/
def State.codeWaiter (s : State) (h : BitVec 32) (t : Nat) : Bool :=
  match (s.th t).status with | .stalled (.codeMiss g _) => g == h | _ => false

theorem State.codeWaiter_iff (s : State) (h : BitVec 32) (t : Nat) : s.codeWaiter h t = true ↔ s.waitsFor h t := by
  unfold State.codeWaiter State.waitsFor
  split
  · next hs => rw [hs]; simp
  · next hs => exact ⟨fun h => absurd h Bool.false_ne_true, fun ⟨g, hg⟩ => absurd hg (hs h g)⟩

/-- CODEFLT as the end of a resolution writes it for a waiter (R116). -/
def Fetch.codeflt (f : Fetch) (reason : Byte) (inst trig : BitVec 4) : Word :=
  codefltWord (if inst = 3 then reason else f.reason) (if inst = 3 then 0 else f.source) trig inst f.rjsrc f.nrej f.handle

/-- What the end of a resolution does to one waiter. -/
def State.endWait (f : Fetch) (reason : Byte) (inst : BitVec 4) (s : State) (w : Nat × BitVec 4) : State :=
  if !s.codeWaiter f.handle w.1 then s else
  let s2 := if f.nrej != 0 || w.2 == 3 || inst == 3 then s.modAct w.1 fun a => { a with codeflt := f.codeflt reason inst w.2 } else s
  if inst = 3 then let r := (s2.unstall w.1).takeFree; r.2.faultAt w.1 { code := 0x10, val := r.1 }
  else s2.unstall w.1

/-- The resolution of a handle is over: nothing is fetched for it. -/
def State.dropFetch (s : State) (cl : Nat) (h : BitVec 32) : State :=
  s.modCluster cl fun c => { c with fetches := c.fetches.filter fun g => g.handle != h }

theorem State.cluster_dropFetch (s : State) (cl : Nat) (h : BitVec 32) : (s.dropFetch cl h).cluster cl =
    { s.cluster cl with fetches := (s.cluster cl).fetches.filter fun g => g.handle != h } :=
  (State.cluster_modCluster s cl cl _).trans (if_pos rfl)

theorem State.fetch?_dropFetch (s : State) (cl : Nat) (h : BitVec 32) : (s.dropFetch cl h).fetch? cl h = none := by
  rw [State.fetch?, State.cluster_dropFetch, List.find?_eq_none]
  intro g hg
  simpa using (List.mem_filter.1 hg).2

theorem State.endFetch_eq (s : State) (cl : Nat) (f : Fetch) (reason : Byte) (inst : BitVec 4) :
    s.endFetch cl f reason inst = f.waiters.foldl (State.endWait f reason inst) (s.dropFetch cl f.handle) := rfl

@[simp] theorem State.takeFree_th (s : State) (t : Nat) : s.takeFree.2.th t = s.th t := rfl
theorem State.th_unstall_self (s : State) (t : Nat) :
    (s.unstall t).th t = { s.th t with status := .running, paired := false } := by
  rw [State.unstall, State.th_modTh, if_pos rfl]
theorem State.th_modAct_self (s : State) (t : Nat) (f : Act → Act) : (s.modAct t f).th t = { s.th t with act := f (s.th t).act } := by
  rw [State.modAct, State.th_modTh, if_pos rfl]

/-- Thread t runs again, and no other thread and no kiln has changed. -/
structure Wakes (s u : State) (t : Nat) : Prop where
  clusters : u.clusters = s.clusters
  running : (u.th t).status = .running
  others : ∀ v, v ≠ t → u.th v = s.th v

section
variable {f : Fetch} {reason : Byte} {inst : BitVec 4}

theorem State.endWait_of_not_waits {s : State} {w : Nat × BitVec 4} (h : ¬ s.waitsFor f.handle w.1) :
    s.endWait f reason inst w = s := by
  refine if_pos ?_
  rw [Bool.eq_false_iff.2 (mt (s.codeWaiter_iff f.handle w.1).1 h)]
  rfl

variable (hinst : inst ≠ 3)
include hinst

theorem State.endWait_of_waits {s : State} {w : Nat × BitVec 4} (h : s.waitsFor f.handle w.1) :
    Wakes s (s.endWait f reason inst w) w.1 := by
  unfold State.endWait
  simp only [(s.codeWaiter_iff f.handle w.1).2 h, Bool.not_true, Bool.false_eq_true, if_false, if_neg hinst]
  refine ⟨?_, ?_, fun v hv => ?_⟩
  · split <;> rfl
  · rw [State.th_unstall_self]
  · rw [State.unstall, State.th_modTh, if_neg hv]
    split
    · rw [State.modAct, State.th_modTh, if_neg hv]
    · rfl

theorem State.foldl_endWait_clusters (ws : List (Nat × BitVec 4)) (s : State) :
    (ws.foldl (State.endWait f reason inst) s).clusters = s.clusters := by
  induction ws generalizing s with
  | nil => rfl
  | cons w ws ih =>
    rw [List.foldl_cons, ih]
    by_cases hw : s.waitsFor f.handle w.1
    · exact (State.endWait_of_waits hinst hw).clusters
    · rw [State.endWait_of_not_waits hw]

/-- A thread that runs goes on, and a waiter runs again (R117). -/
theorem State.foldl_endWait_running (ws : List (Nat × BitVec 4)) (s : State) (t : Nat)
    (h : (s.th t).status = .running ∨ t ∈ ws.map Prod.fst ∧ s.waitsFor f.handle t) :
    ((ws.foldl (State.endWait f reason inst) s).th t).status = .running := by
  induction ws generalizing s with
  | nil => simpa using h
  | cons w ws ih =>
    rw [List.foldl_cons]
    refine ih _ ?_
    by_cases hw : s.waitsFor f.handle w.1
    · obtain ⟨-, hrun, hothers⟩ := State.endWait_of_waits (reason := reason) hinst hw
      by_cases ht : t = w.1
      · exact .inl (ht ▸ hrun)
      · rw [State.waitsFor, hothers t ht]
        refine h.imp id fun ⟨hmem, hwait⟩ => ⟨?_, hwait⟩
        exact (List.mem_cons.1 hmem).resolve_left ht
    · rw [State.endWait_of_not_waits hw]
      refine h.imp id fun ⟨hmem, hwait⟩ => ⟨?_, hwait⟩
      refine (List.mem_cons.1 hmem).resolve_left fun ht => hw ?_
      rw [← ht]
      exact hwait

/-- Where something was installed its waiters go on, and the resolution is over. -/
theorem State.endFetch_of_installed (s : State) (cl : Nat) :
    (s.endFetch cl f reason inst).fetch? cl f.handle = none ∧
      (∀ h, ((s.endFetch cl f reason inst).cluster cl).inst h = (s.cluster cl).inst h) ∧
      ∀ w ∈ f.waiters, s.waitsFor f.handle w.1 → ((s.endFetch cl f reason inst).th w.1).status = .running := by
  have hcl : (s.endFetch cl f reason inst).cluster cl = (s.dropFetch cl f.handle).cluster cl := by
    rw [State.cluster, State.endFetch_eq, State.foldl_endWait_clusters hinst, State.cluster]
  refine ⟨?_, fun h => ?_, fun w hw hwait => ?_⟩
  · rw [State.fetch?, hcl]
    exact s.fetch?_dropFetch cl f.handle
  · rw [hcl, State.cluster_dropFetch]
    rfl
  · rw [State.endFetch_eq]
    exact State.foldl_endWait_running hinst f.waiters _ w.1 (.inr ⟨List.mem_map_of_mem hw, hwait⟩)
end

/-! ## The code-unavailable fault (R116, R117) -/

/-- What an entry into the monitor makes of its thread (R391); it touches no kiln. -/
theorem State.monitorEntry_of_vector {s : State} {t : Nat} {tr : Trap} (hvec : s.badVector t tr.code = false) :
    ((s.monitorEntry t tr).th t).mode = .monitor ∧ ((s.monitorEntry t tr).th t).mcause = tr.code ∧
      ((s.monitorEntry t tr).th t).act = { (s.th t).act with pc := codeAddr 1 (5 * tr.code.toNat) } ∧
      (s.monitorEntry t tr).clusters = s.clusters := by
  have hno : ¬ s.badVector t tr.code = true := by rw [hvec]; exact Bool.false_ne_true
  unfold State.monitorEntry
  dsimp only
  rw [if_neg hno, State.th_setTh, if_pos rfl, State.setTh_clusters, State.dropGrant_eq]
  exact ⟨rfl, rfl, rfl, rfl⟩

/-- The code-unavailable fault of a thread in context mode, whoever runs, enters the monitor. -/
theorem State.faultAt_codeUnavailable {s : State} {t : Nat} (val : Word) (hact : isAct t = true) (hmode : (s.th t).mode = .context)
    (hvec : s.badVector t 0x10 = false) :
    let u := s.faultAt t { code := 0x10, val }
    (u.th t).mode = .monitor ∧ (u.th t).mcause = 0x10 ∧ (u.th t).act.codeflt = (s.th t).act.codeflt ∧
      u.clusters = s.clusters := by
  have hfault : ({ s with cur := t } : State).takeFault { code := 0x10, val } =
      ({ s with cur := t, trap := some { code := 0x10, val } } : State).monitorEntry t { code := 0x10, val } :=
    State.takeFault_context { s with cur := t } _ hact hmode
      fun h => absurd h (show ¬((0x10 : Byte) = 0x16 ∨ (0x10 : Byte) = 0x0A) by decide)
  obtain ⟨hm, hc, ha, hcl⟩ := State.monitorEntry_of_vector (s := { s with cur := t, trap := some { code := 0x10, val } }) (t := t)
    (tr := { code := 0x10, val }) hvec
  unfold State.faultAt
  rw [hfault]
  exact ⟨hm, hc, (congrArg Act.codeflt ha :), hcl⟩

/-- Thread t, in context mode, waits for handle h, and the code-unavailable fault has its vector. -/
structure CanMiss (s : State) (t : Nat) (h : BitVec 32) : Prop where
  act : isAct t = true
  waits : s.waitsFor h t
  mode : (s.th t).mode = .context
  vector : s.badVector t 0x10 = false

theorem canMiss_of_oneWaits {s : State} {cl t : Nat} {trig : BitVec 4} {h : BitVec 32} {f : Fetch} (hw : OneWaits s cl t trig h f) :
    CanMiss s t h := ⟨hw.act, ⟨trig, hw.status⟩, hw.mode, hw.vector⟩

theorem State.inst_modFetches (s : State) (cl : Nat) (g : List Fetch → List Fetch) (k : Nat) (h : BitVec 32) :
    ((s.modCluster cl fun c => { c with fetches := g c.fetches }).cluster k).inst h = (s.cluster k).inst h := by
  rw [State.cluster_modCluster]
  split
  · next hk => rw [hk]; rfl
  · rfl

theorem CanMiss.modFetches {s : State} {t : Nat} {h : BitVec 32} (hc : CanMiss s t h) (cl : Nat) (g : List Fetch → List Fetch) :
    CanMiss (s.modCluster cl fun c => { c with fetches := g c.fetches }) t h := by
  refine ⟨hc.act, hc.waits, hc.mode, ?_⟩
  rw [← hc.vector, State.badVector, State.badVector, State.inst_modFetches]

theorem CanMiss.dropRequests {s : State} {t : Nat} {h : BitVec 32} (hc : CanMiss s t h) (cl : Nat) (g : BitVec 32) :
    CanMiss (s.dropRequests cl g) t h := ⟨hc.act, hc.waits, hc.mode, hc.vector⟩

/-- Where nothing was installed a waiter takes the code-unavailable fault. -/
theorem State.endWait_of_unavailable {s : State} {t : Nat} {f : Fetch} (hc : CanMiss s t f.handle) (reason : Byte) (trig : BitVec 4) :
    CodeUnavailable (s.endWait f reason 3 (t, trig)) t reason trig f.rjsrc f.nrej f.handle ∧
      (s.endWait f reason 3 (t, trig)).clusters = s.clusters := by
  have hwaits := (s.codeWaiter_iff f.handle t).2 hc.waits
  have hth : (((s.modAct t fun a => { a with codeflt := f.codeflt reason 3 trig }).unstall t).takeFree.2.th t) =
      { s.th t with act := { (s.th t).act with codeflt := f.codeflt reason 3 trig }, status := .running, paired := false } := by
    rw [State.takeFree_th, State.th_unstall_self, State.th_modAct_self]
  obtain ⟨hm, hcause, hflt, hcl⟩ := State.faultAt_codeUnavailable
    (s := ((s.modAct t fun a => { a with codeflt := f.codeflt reason 3 trig }).unstall t).takeFree.2)
    (Config.freeValue s.free) hc.act (by rw [hth, hc.mode]) hc.vector
  unfold State.endWait
  simp only [hwaits, beq_self_eq_true, Bool.or_true, Bool.not_true, Bool.false_eq_true, if_false, if_true]
  exact ⟨⟨hm, hcause, hflt.trans (by rw [hth]; rfl)⟩, hcl⟩

/-- The end of a resolution of a single waiter with nothing installed. -/
theorem State.endFetch_of_unavailable {s : State} {cl t : Nat} {trig : BitVec 4} {f : Fetch} (hone : f.waiters = [(t, trig)])
    (hc : CanMiss s t f.handle) (reason : Byte) : (s.endFetch cl f reason 3).fetch? cl f.handle = none ∧
      CodeUnavailable (s.endFetch cl f reason 3) t reason trig f.rjsrc f.nrej f.handle := by
  obtain ⟨hflt, hcl⟩ := State.endWait_of_unavailable (hc.modFetches cl fun fs => fs.filter fun g => g.handle != f.handle) reason trig
  have hend : s.endFetch cl f reason 3 = (s.dropFetch cl f.handle).endWait f reason 3 (t, trig) := by
    rw [State.endFetch_eq, hone]
    rfl
  rw [hend]
  refine ⟨?_, hflt⟩
  rw [State.fetch?, State.cluster, State.dropFetch, hcl]
  exact s.fetch?_dropFetch cl f.handle

/-! ## CODE_MISS (R110, R113) -/

section
variable {s : State} {t : Nat} {trig : BitVec 4} {h : BitVec 32} {e : DirEntry} (hact : isAct t = true)
  (hstatus : (s.th t).status = .stalled (.codeMiss h trig)) (hentry : (s.cluster (clusterOf t)).entry h = some e)
include hact hstatus hentry

theorem exec_codeMiss_of_resident {i : Inst} (hinst : e.inst = some i) :
    ∃ u, exec (.codeMiss t) s = .next u ∧ (u.th t).status = .running ∧ u.mem = s.mem := by
  have hexec : exec (.codeMiss t) s = execCodeMiss t s := rfl
  unfold execCodeMiss at hexec
  simp only [hstatus, hact, hentry, hinst, Bool.not_true, Bool.false_eq_true, if_false] at hexec
  refine ⟨_, hexec, by rw [State.th_unstall_self], ?_⟩
  rw [State.unstall_mem]
  split <;> rfl

theorem exec_codeMiss_of_missing (hinst : e.inst = none) : exec (.codeMiss t) s = .next (s.resolveCode t (clusterOf t) e.pid none h
    e.digest (if trig = 4 then s.initMask e.pid else (s.th t).act.ttlmask) trig) := by
  have hexec : exec (.codeMiss t) s = execCodeMiss t s := rfl
  unfold execCodeMiss at hexec
  simp only [hstatus, hact, hentry, hinst, Bool.not_true, Bool.false_eq_true, if_false] at hexec
  exact hexec
end

/-- The resolution with an offer of its source rejected for a reason (R116). -/
def Fetch.rejected (reason : Byte) (f : Fetch) : Fetch :=
  { f with nrej := if f.nrej = 255 then 255 else f.nrej + 1, rjsrc := f.source, reason }

/-! ## CODE_INSTALL and the kiln's retry (R109, R114) -/

/-- What an install that found room does with a resolution: the code stands under its handle, nothing is fetched for it,
and its waiters go on. -/
theorem State.endFetch_of_room {s s1 : State} {cl : Nat} {f : Fetch} {i : Inst} {inst : BitVec 4}
    (hroom : s.install cl f.pid f.handle i = (s1, true)) (hmem : f.handle ∈ (s.cluster cl).handles) (hinst : inst ≠ 3) :
    let u := s1.endFetch cl f 0 inst
    (u.cluster cl).inst f.handle = some i ∧ u.fetch? cl f.handle = none ∧
      ∀ w ∈ f.waiters, s.waitsFor f.handle w.1 → (u.th w.1).status = .running := by
  obtain ⟨hframe, hplaced⟩ := State.install_of_room hroom
  obtain ⟨hfetch, hinsts, hrun⟩ := State.endFetch_of_installed (f := f) (reason := 0) hinst s1 cl
  refine ⟨(hinsts f.handle).trans (hplaced hmem), hfetch, fun w hw hwait => hrun w hw ?_⟩
  rw [State.waitsFor, State.th, hframe.threads]
  exact hwait

theorem instCode_ne_three (b : Bool) : (if b = true then 2 else 1 : BitVec 4) ≠ 3 := by
  cases b <;> decide

section
variable {s : State} {cl : Nat} {h : BitVec 32} {f : Fetch} {i : Inst}

theorem State.installFetched_of_room {s1 : State} (hsvc : f.svc = none) (hwait : s.installWaits cl = false)
    (hroom : s.install cl f.pid f.handle i = (s1, true)) :
    s.installFetched cl f i = s1.endFetch cl f 0 (if i.trans then 2 else 1) := by
  unfold State.installFetched
  simp only [hsvc, hwait, Bool.false_eq_true, if_false, hroom]

/-- What was accepted stands behind the installs that wait already (R109). -/
theorem State.installFetched_of_waits (hsvc : f.svc = none) (hwait : s.installWaits cl = true) :
    s.installFetched cl f i = s.modCluster cl fun c => { c with
      fetches := (c.fetches.filter fun x => x.handle != f.handle) ++ [{ f with waiting := some i }] } := by
  unfold State.installFetched
  simp only [hsvc, hwait, if_true]

variable {bs : List Byte} (hf : s.fetch? cl h = some f) (hnw : f.waiting = none) (h4 : f.source = 4) (hbs : bs ≠ [])
include hf hnw h4 hbs

theorem exec_codeInstall_of_depot : exec (.codeInstall cl h bs) s = .next (s.takeOffer cl f bs) := by
  have hexec : exec (.codeInstall cl h bs) s = execCodeInstall cl h bs s := rfl
  unfold execCodeInstall at hexec
  simp only [hf, hnw, h4, hbs, Option.isSome_none, Bool.false_eq_true, if_false, if_true] at hexec
  exact hexec

variable (hask : f.askTrans = false)
include hask

theorem exec_codeInstall_of_good (hgood : checkPortable f.digest bs = .ok i) :
    exec (.codeInstall cl h bs) s = .next (s.installFetched cl f i) := by
  rw [exec_codeInstall_of_depot hf hnw h4 hbs, State.takeOffer]
  simp only [hask, Bool.false_eq_true, if_false, hgood]

/-- An image of another digest is counted as rejected, and as the depot is the last source the resolution ends (R113, R116). -/
theorem exec_codeInstall_of_wrong (hwrong : sha256 bs ≠ f.digest) : exec (.codeInstall cl h bs) s =
    .next (((s.modFetch cl h (Fetch.rejected 0x10)).dropRequests cl h).endFetch cl (f.rejected 0x10) 0x11 3) := by
  have hbad : checkPortable f.digest bs = .error 0x10 := if_pos hwrong
  have hmod := State.fetch?_modFetch hf (g := Fetch.rejected 0x10) fun _ => rfl
  rw [exec_codeInstall_of_depot hf hnw h4 hbs, State.takeOffer]
  simp only [hask, Bool.false_eq_true, if_false, hbad, State.handle_of_fetch? hf]
  exact congrArg _ (State.nextSource_of_depot hmod h4)
end

theorem exec_codeSourceTimeout {s : State} {cl : Nat} {h : BitVec 32} {f : Fetch} (hf : s.fetch? cl h = some f)
    (hnw : f.waiting = none) : exec (.codeSourceTimeout cl h) s = .next (s.nextSource cl h) := by
  have hexec : exec (.codeSourceTimeout cl h) s = execCodeSourceTimeout cl h s := rfl
  rw [hexec, execCodeSourceTimeout, hf]
  simp only [hnw, Option.isSome_none, Bool.false_eq_true, if_false]

section
variable {s : State} {cl : Nat} {f : Fetch} {i : Inst} (hfirst : (s.cluster cl).firstWaiting = some (f, i))
include hfirst

theorem exec_kilnInstallRetry_of_room {s1 : State} (hroom : s.install cl f.pid f.handle i = (s1, true)) :
    exec (.kilnInstallRetry cl) s = .next (s1.endFetch cl f 0 (if i.trans then 2 else 1)) := by
  have hexec : exec (.kilnInstallRetry cl) s = execKilnInstallRetry cl s := rfl
  unfold execKilnInstallRetry at hexec
  simp only [hfirst, hroom] at hexec
  exact hexec

theorem exec_kilnInstallTimeout : exec (.kilnInstallTimeout cl) s = .next (s.endFetch cl f 0x15 3) := by
  have hexec : exec (.kilnInstallTimeout cl) s = execKilnInstallTimeout cl s := rfl
  unfold execKilnInstallTimeout at hexec
  simp only [hfirst] at hexec
  exact hexec
end

/-! ## An install behind others (R109, R110) -/

/-- A resolution with what was accepted for it, if it waits for room. -/
def Fetch.waits (f : Fetch) : Option (Fetch × Inst) := f.waiting.map fun i => (f, i)

theorem findSome?_waits_filter {q : Fetch → Bool} {g : Fetch × Inst} (hq : q g.1 = true) :
    ∀ {fs : List Fetch}, fs.findSome? Fetch.waits = some g → (fs.filter q).findSome? Fetch.waits = some g
  | x :: fs, hg => by
    cases hx : x.waits with
    | some g' =>
      rw [List.findSome?_cons, hx] at hg
      cases hg
      obtain ⟨i, -, rfl⟩ := Option.map_eq_some_iff.1 hx
      rw [List.filter_cons, if_pos hq, List.findSome?_cons, hx]
    | none =>
      rw [List.findSome?_cons, hx] at hg
      have ih := findSome?_waits_filter hq hg
      by_cases hqx : q x = true
      · rw [List.filter_cons, if_pos hqx, List.findSome?_cons, hx]
        exact ih
      · rw [List.filter_cons, if_neg hqx]
        exact ih

/-- The kiln's line with one more resolution behind it. -/
theorem State.cluster_enqueue (s : State) (cl : Nat) (x : Fetch) :
    (s.modCluster cl fun c => { c with fetches := (c.fetches.filter fun y => y.handle != x.handle) ++ [x] }).cluster cl =
      { s.cluster cl with fetches := ((s.cluster cl).fetches.filter fun y => y.handle != x.handle) ++ [x] } :=
  (State.cluster_modCluster s cl cl _).trans (if_pos rfl)

theorem State.fetch?_enqueue (s : State) (cl : Nat) (x : Fetch) :
    (s.modCluster cl fun c => { c with fetches := (c.fetches.filter fun y => y.handle != x.handle) ++ [x] }).fetch? cl x.handle =
      some x := by
  have hgone : ((s.cluster cl).fetches.filter fun y => y.handle != x.handle).find? (fun y => y.handle == x.handle) = none := by
    rw [List.find?_eq_none]
    intro y hy
    simpa using (List.mem_filter.1 hy).2
  rw [State.fetch?, State.cluster_enqueue, List.find?_append, hgone, Option.none_or]
  exact List.find?_cons_of_pos (beq_self_eq_true x.handle)

/-- The first of the line stays the first. -/
theorem State.firstWaiting_enqueue {s : State} {cl : Nat} {g : Fetch × Inst} (x : Fetch)
    (hg : (s.cluster cl).firstWaiting = some g) (hne : g.1.handle ≠ x.handle) :
    ((s.modCluster cl fun c => { c with fetches := (c.fetches.filter fun y => y.handle != x.handle) ++ [x] }).cluster cl).firstWaiting =
      some g := by
  have hkept := findSome?_waits_filter (q := fun y => y.handle != x.handle) (bne_iff_ne.2 hne) hg
  rw [State.cluster_enqueue]
  refine (List.findSome?_append ..).trans ?_
  rw [show ((s.cluster cl).fetches.filter fun y => y.handle != x.handle).findSome? (fun f => f.waiting.map fun i => (f, i)) = some g
    from hkept]
  rfl

/-! ## All clauses, and the monitor's functions (R390) -/

theorem monitorEntry_eq_none_iff (v : Option Digest) (h : BitVec 32) : monitorEntry v h = none ↔ Config.monitorCode v h = [] := by
  unfold monitorEntry
  dsimp only
  rw [← List.map_eq_nil_iff (f := fun l : List InstrWord × BitVec 32 => ({ slots := l.1, lw := l.2 } : Line))]
  split
  · next hl => exact iff_of_true rfl hl
  · next hl => exact iff_of_false nofun hl

/-- Where no function of the monitor has code, a handle with an entry stands in the directory, and every clause holds. -/
theorem codeMissesAreResolved_of_no_monitorCode
    (hmon : ∀ (v : Option Digest) (h : BitVec 32), 1 ≤ h.toNat → h.toNat < 256 → Config.monitorCode v h = []) :
    Obligations.CodeMissesAreResolved := by
  have hmem : ∀ {c : Cluster} {h : BitVec 32} {e : DirEntry}, c.entry h = some e → h ∈ c.handles := fun he =>
    Cluster.mem_handles_of_entry he fun hr => (monitorEntry_eq_none_iff _ _).2 (hmon _ _ hr.1 hr.2)
  unfold Obligations.CodeMissesAreResolved
  intro s cl t trig h
  refine ⟨fun e i hact hst he hi => exec_codeMiss_of_resident hact hst he hi, ?_, ?_, ?_, ?_, ?_, ?_, ?_, ?_⟩
  · intro e f hact hst he hi hf hnew
    exact ⟨_, _, exec_codeMiss_of_missing hact hst he hi, State.resolveCode_joins hf hnew _ _ _ _ _, rfl, rfl⟩
  · intro e hact hst he hi hf hp
    refine ⟨_, _, exec_codeMiss_of_missing hact hst he hi, State.resolveCode_opens hf hp _ _ _ _ _, rfl, rfl, rfl, rfl, ?_, ?_⟩
    · exact bne_iff_ne
    · exact fun hne => if_neg hne
  · intro f i e bs hf hnw hsvc h4 hask he hbs hgood
    obtain rfl := State.handle_of_fetch? hf
    refine ⟨?_, fun hwait => ?_⟩
    · rintro hwait ⟨s1, hroom⟩
      have hexec := exec_codeInstall_of_good hf hnw h4 hbs hask hgood
      rw [State.installFetched_of_room hsvc hwait hroom] at hexec
      exact ⟨_, hexec, State.endFetch_of_room hroom (hmem he) (instCode_ne_three _)⟩
    · have hexec := exec_codeInstall_of_good hf hnw h4 hbs hask hgood
      rw [State.installFetched_of_waits hsvc hwait] at hexec
      refine ⟨_, hexec, ?_, State.fetch?_enqueue s cl { f with waiting := some i },
        fun g hg hne => State.firstWaiting_enqueue { f with waiting := some i } hg hne⟩
      exact (congrArg Cluster.dir (State.cluster_enqueue s cl { f with waiting := some i }) :)
  · intro f bs hone hnw h4 hask hnrej hbs hwrong
    obtain rfl := State.handle_of_fetch? hone.fetch
    have hmiss := (canMiss_of_oneWaits hone).modFetches cl
      fun fs => fs.map fun x => if x.handle = f.handle then x.rejected 0x10 else x
    refine ⟨_, exec_codeInstall_of_wrong hone.fetch hnw h4 hbs hask hwrong, ?_⟩
    obtain ⟨-, hflt⟩ := State.endFetch_of_unavailable (cl := cl) (f := f.rejected 0x10) hone.only (hmiss.dropRequests cl f.handle) 0x11
    have hn : (f.rejected 0x10).nrej = f.nrej + 1 := if_neg hnrej
    have hr : (f.rejected 0x10).rjsrc = 4 := h4
    rw [hn, hr] at hflt
    exact hflt
  · intro f hone hnw h4
    obtain rfl := State.handle_of_fetch? hone.fetch
    have hexec := exec_codeSourceTimeout hone.fetch hnw
    rw [State.nextSource_of_depot hone.fetch h4] at hexec
    exact ⟨_, hexec, State.endFetch_of_unavailable hone.only ((canMiss_of_oneWaits hone).dropRequests cl f.handle) 0x11⟩
  · intro f r hf hnw h3 hp
    exact ⟨_, _, exec_codeSourceTimeout hf hnw, State.fetch?_nextSource_of_peer hf h3 hp, rfl, rfl, rfl⟩
  · intro f i s1 e hfirst hf he hroom
    obtain rfl := State.handle_of_fetch? hf
    exact ⟨_, exec_kilnInstallRetry_of_room hfirst hroom, State.endFetch_of_room hroom (hmem he) (instCode_ne_three _)⟩
  · intro f i hone hfirst
    obtain rfl := State.handle_of_fetch? hone.fetch
    exact ⟨_, exec_kilnInstallTimeout hfirst, State.endFetch_of_unavailable hone.only (canMiss_of_oneWaits hone) 0x15⟩

/-! ## What the obligation asks of the monitor's code

The monitor's functions have entries and stand in no directory (R390), so that what is placed under the handle of one is
not what the kiln then reads there. Whether there is such a function is what Config.monitorCode says, which has no body (log 10). -/

/-- Code that is none of the monitor's: it has an image. -/
def strayInst : Inst := { lines := [], image := [1] }
/-- A resolution for a handle, whose accepted code waits for room. -/
def strayFetch (h : BitVec 32) : Fetch :=
  { pid := 0, handle := h, digest := 0, mask := 0, waiters := [], peers := [], source := 4, askTrans := false, waiting := some strayInst }
/-- A chip with monitor v on which an install waits under handle h in cluster 0, whose directory is empty. -/
def strayState (v : Option Digest) (h : BitVec 32) : State :=
  { clusters := [(0, { monitor := v, fetches := [strayFetch h] })] }

theorem strayState_install (v : Option Digest) (h : BitVec 32) :
    (strayState v h).install 0 0 h strayInst = ((strayState v h).placeInst 0 0 h strayInst, true) := rfl

theorem image_of_monitorEntry {v : Option Digest} {h : BitVec 32} {e : DirEntry} {i : Inst} (he : monitorEntry v h = some e)
    (hi : e.inst = some i) : i.image = [] := by
  unfold monitorEntry at he
  dsimp only at he
  split at he
  · cases he
  · cases he
    cases hi
    rfl

/-- An install under the handle of a monitor's function with code, as the kiln's retry makes it, is not found under its handle. -/
theorem no_monitorCode_of_codeMissesAreResolved (hall : Obligations.CodeMissesAreResolved) (v : Option Digest) (h : BitVec 32)
    (h1 : 1 ≤ h.toNat) (h256 : h.toNat < 256) : Config.monitorCode v h = [] := by
  by_contra hcode
  obtain ⟨e, he⟩ := Option.ne_none_iff_exists'.1 (mt (monitorEntry_eq_none_iff v h).1 hcode)
  have hfirst : ((strayState v h).cluster 0).firstWaiting = some (strayFetch h, strayInst) := rfl
  have hfetch : (strayState v h).fetch? 0 h = some (strayFetch h) := List.find?_cons_of_pos (beq_self_eq_true h)
  have hentry : ((strayState v h).cluster 0).entry h = some e := (if_pos ⟨h1, h256⟩).trans he
  have hplaced : (((strayState v h).placeInst 0 0 h strayInst).cluster 0).inst h = e.inst :=
    congrArg (Option.bind · DirEntry.inst) hentry
  obtain ⟨-, -, -, -, -, -, -, hretry, -⟩ := hall (strayState v h) 0 0 0 h
  obtain ⟨u, hexec, hinst, -⟩ := hretry (strayFetch h) strayInst _ e hfirst hfetch hentry (strayState_install v h)
  rw [exec_kilnInstallRetry_of_room hfirst (strayState_install v h)] at hexec
  cases hexec
  obtain ⟨-, hinsts, -⟩ := State.endFetch_of_installed (f := strayFetch h) (reason := 0) (instCode_ne_three strayInst.trans)
    ((strayState v h).placeInst 0 0 h strayInst) 0
  rw [hinsts, hplaced] at hinst
  exact absurd (image_of_monitorEntry he hinst) (by decide)

/-- The obligation holds exactly where no function of the monitor has code: as Config.monitorCode has no body, neither it nor its
negation can be proved. Its clauses on installs would have to leave the monitor's handles out. -/
theorem codeMissesAreResolved_iff : Obligations.CodeMissesAreResolved ↔
    ∀ (v : Option Digest) (h : BitVec 32), 1 ≤ h.toNat → h.toNat < 256 → Config.monitorCode v h = [] :=
  ⟨no_monitorCode_of_codeMissesAreResolved, codeMissesAreResolved_of_no_monitorCode⟩

end Sys2Proof.Machine
end

section
/-! SUPPORT. Launches: the work identifiers that enumeration counts through (R80, R146). -/

namespace Sys2Proof.Machine

open Sys2Proof.Claims

/-! ## Fields of a work identifier (R80) -/

theorem sum_widths_succ (spec : BitVec 36) (n : Nat) :
    ((List.range (n + 1)).map (widthOf spec)).sum = ((List.range n).map (widthOf spec)).sum + widthOf spec n := by
  rw [List.range_succ, List.map_append, List.sum_append, List.map_singleton, List.sum_singleton]

theorem sum_widths_mono (spec : BitVec 36) : Monotone fun n => ((List.range n).map (widthOf spec)).sum :=
  monotone_nat_of_le_succ fun n => (sum_widths_succ spec n).symm ▸ Nat.le_add_right _ _

/-- A field ends within the 64 bits, and fields do not overlap: field i stands below those of lower numbers. -/
theorem fieldLow_bounds {spec : BitVec 36} (hsum : ((List.range 6).map (widthOf spec)).sum ≤ 64) {i : Nat} (hi : i < 6) :
    fieldLow spec i + widthOf spec i ≤ 64 ∧ ∀ j, j < i → fieldLow spec i + widthOf spec i ≤ fieldLow spec j := by
  have hsucc := sum_widths_succ spec i
  have hle := sum_widths_mono spec (show i + 1 ≤ 6 from hi)
  unfold fieldLow
  dsimp only at hle
  refine ⟨by omega, fun j hj => ?_⟩
  have hji := sum_widths_mono spec (show j + 1 ≤ i from hj)
  dsimp only at hji
  omega

/-- The number a with its bits from lo on, n of them, replaced by x. -/
theorem testBit_replaceBits {a lo n x : Nat} (hx : x < 2 ^ n) (k : Nat) :
    (a - a / 2 ^ lo % 2 ^ n * 2 ^ lo + x * 2 ^ lo).testBit k =
      if lo ≤ k ∧ k < lo + n then x.testBit (k - lo) else a.testBit k := by
  have hsplit : a = a % 2 ^ lo + 2 ^ lo * (a / 2 ^ lo % 2 ^ n + 2 ^ n * (a / 2 ^ lo / 2 ^ n)) := by
    rw [Nat.mod_add_div, Nat.mod_add_div]
  have hnew : a - a / 2 ^ lo % 2 ^ n * 2 ^ lo + x * 2 ^ lo = 2 ^ lo * (2 ^ n * (a / 2 ^ lo / 2 ^ n) + x) + a % 2 ^ lo := by
    have := Nat.mul_comm (a / 2 ^ lo % 2 ^ n) (2 ^ lo)
    have := Nat.mul_comm x (2 ^ lo)
    rw [Nat.mul_add] at hsplit ⊢
    omega
  have hlow := Nat.mod_lt a (Nat.two_pow_pos lo)
  rw [hnew, Nat.testBit_two_pow_mul_add _ hlow]
  by_cases hk : k < lo
  · rw [if_pos hk, if_neg (by omega), Nat.testBit_mod_two_pow]
    simp [hk]
  · rw [if_neg hk, Nat.testBit_two_pow_mul_add _ hx, Nat.testBit_div_two_pow, Nat.testBit_div_two_pow]
    by_cases hn : k - lo < n
    · rw [if_pos hn, if_pos (by omega)]
    · rw [if_neg hn, if_neg (by omega)]
      congr 1
      omega

theorem testBit_fieldOf (spec : BitVec 36) (w : Word) (j k : Nat) :
    (fieldOf spec w j).testBit k = (decide (k < widthOf spec j) && w.toNat.testBit (k + fieldLow spec j)) := by
  rw [fieldOf, Nat.testBit_mod_two_pow, Nat.testBit_div_two_pow]

section
variable {spec : BitVec 36} (hsum : ((List.range 6).map (widthOf spec)).sum ≤ 64)
include hsum

theorem toNat_withField {i x : Nat} (hi : i < 6) (hx : x < 2 ^ widthOf spec i) (w : Word) (k : Nat) :
    (withField spec w i x).toNat.testBit k = if fieldLow spec i ≤ k ∧ k < fieldLow spec i + widthOf spec i then
      x.testBit (k - fieldLow spec i) else w.toNat.testBit k := by
  obtain ⟨hend, -⟩ := fieldLow_bounds hsum hi
  rw [withField, fieldOf, BitVec.toNat_ofNat, Nat.testBit_mod_two_pow, testBit_replaceBits hx]
  by_cases hk : k < 64
  · simp [hk]
  · rw [if_neg (by omega), BitVec.testBit_toNat, BitVec.getLsbD_of_ge w k (by omega), Bool.and_false]

/-- A field that is replaced holds its new number; the others stay. -/
theorem fieldOf_withField {i j x : Nat} (hi : i < 6) (hj : j < 6) (hx : x < 2 ^ widthOf spec i) (w : Word) :
    fieldOf spec (withField spec w i x) j = if j = i then x else fieldOf spec w j := by
  refine Nat.eq_of_testBit_eq fun k => ?_
  rw [testBit_fieldOf, toNat_withField hsum hi hx]
  by_cases hji : j = i
  · subst hji
    rw [if_pos rfl]
    by_cases hk : k < widthOf spec j
    · rw [if_pos (by omega), decide_eq_true hk, Bool.true_and, Nat.add_sub_cancel]
    · rw [decide_eq_false hk, Bool.false_and, Nat.testBit_lt_two_pow (hx.trans_le (Nat.pow_le_pow_right (by omega) (by omega)))]
  · rw [if_neg hji, testBit_fieldOf]
    by_cases hk : k < widthOf spec j
    · obtain hlt | hgt := Nat.lt_or_gt_of_ne hji
      · have := (fieldLow_bounds hsum hi).2 j hlt
        rw [if_neg (by omega)]
      · have := (fieldLow_bounds hsum hj).2 i hgt
        rw [if_neg (by omega)]
    · rw [decide_eq_false hk, Bool.false_and, Bool.false_and]

/-! ## The count of the activations (R146) -/

/-- Raising the fields from k on of BASE by the numbers of a list. -/
theorem fieldOf_foldl_withField {base : Word} {i : Nat} (hi : i < 6) : ∀ (xs : List Nat) (k : Nat) (w : Word), k + xs.length ≤ 6 →
    (∀ e ∈ xs.zipIdx k, widthOf spec e.2 ≠ 0 → fieldOf spec base e.2 + e.1 < 2 ^ widthOf spec e.2) → 
    fieldOf spec ((xs.zipIdx k).foldl (fun w e => if widthOf spec e.2 = 0 then w
        else withField spec w e.2 (fieldOf spec base e.2 + e.1)) w) i =
      if widthOf spec i ≠ 0 ∧ k ≤ i ∧ i < k + xs.length then fieldOf spec base i + xs.getD (i - k) 0 else fieldOf spec w i
  | [], k, w, _, _ => by rw [if_neg (by simp)]; rfl
  | x :: xs, k, w, hlen, hfit => by
    rw [List.length_cons] at hlen
    rw [List.zipIdx_cons] at hfit ⊢
    rw [List.foldl_cons, fieldOf_foldl_withField hi xs (k + 1) _ (by omega) fun e he => hfit e (List.mem_cons_of_mem _ he)]
    have hx := hfit (x, k) (List.mem_cons_self ..)
    by_cases hik : i = k
    · subst hik
      by_cases hw : widthOf spec i = 0
      · simp [hw]
      · rw [if_neg (by omega), if_neg hw, fieldOf_withField hsum hi hi (hx hw), if_pos rfl,
          if_pos ⟨hw, Nat.le_refl _, by simp⟩, Nat.sub_self]
        rfl
    · have hrest : fieldOf spec (if widthOf spec k = 0 then w else withField spec w k (fieldOf spec base k + x)) i = fieldOf spec w i := by
        split
        · rfl
        · next hw => rw [fieldOf_withField hsum (by omega) hi (hx hw), if_neg hik]
      rw [hrest]
      by_cases hin : widthOf spec i ≠ 0 ∧ k + 1 ≤ i ∧ i < k + 1 + xs.length
      · obtain ⟨hw, hki, hlt⟩ := hin
        rw [if_pos ⟨hw, hki, hlt⟩, if_pos ⟨hw, by omega, by rw [List.length_cons]; omega⟩,
          show i - k = i - (k + 1) + 1 by omega, List.getD_cons_succ]
      · rw [if_neg hin, if_neg (by rw [List.length_cons]; omega)]
end

@[simp] theorem length_mixedRadix (es : List Nat) (m : Nat) : (mixedRadix es m).length = es.length := by
  induction es generalizing m with
  | nil => rfl
  | cons e es ih => rw [mixedRadix, List.length_cons, List.length_cons, ih]

/-- A digit of a mixed radix count: what is left after those before it, modulo its own radix. -/
theorem getElem_mixedRadix (es : List Nat) (m i : Nat) (hi : i < es.length) :
    (mixedRadix es m)[i]'(by simpa using hi) = m / (es.take i).prod % es[i] := by
  induction es generalizing m i with
  | nil => cases hi
  | cons e es ih =>
    cases i with
    | zero => simp [mixedRadix]
    | succ i =>
      simp only [mixedRadix, List.getElem_cons_succ, List.take_succ_cons, List.prod_cons]
      rw [ih (m / e) i (by simpa using hi), Nat.div_div_eq_div_mul]

/-- The index of field i, the last field changing fastest. -/
theorem getElem_indexes (es : List Nat) (m i : Nat) (hi : i < es.length) :
    (mixedRadix es.reverse m).reverse[i]'(by simpa using hi) = m / (es.drop (i + 1)).prod % es[i] := by
  rw [List.getElem_reverse, getElem_mixedRadix _ _ _ (by simp; omega), List.getElem_reverse]
  simp only [length_mixedRadix, List.length_reverse]
  rw [List.take_reverse, List.prod_reverse, show es.length - (es.length - 1 - i) = i + 1 by omega]
  congr 2
  omega

/-- Settles O40: the fold over the fields raises each by its digit, and digits stay within their extents. -/
theorem enumerationCountsInMixedRadix : Obligations.EnumerationCountsInMixedRadix := by
  unfold Obligations.EnumerationCountsInMixedRadix
  intro l m i hlen hi hsum hfit
  have hidx : ∀ k (hk : k < 6), (mixedRadix (l.exts.map (max 1)).reverse m).reverse[k]'(by simp [hlen, hk]) =
      m / ((l.exts.drop (k + 1)).map (max 1)).prod % max 1 (l.exts.getD k 0) := by
    intro k hk
    rw [getElem_indexes _ _ _ (by simp [hlen, hk]), List.map_drop, List.getElem_map, List.getD_eq_getElem _ _ (by omega)]
  have hbound : ∀ e ∈ (mixedRadix (l.exts.map (max 1)).reverse m).reverse.zipIdx, widthOf l.widspec e.2 ≠ 0 →
      fieldOf l.widspec l.base e.2 + e.1 < 2 ^ widthOf l.widspec e.2 := by
    rintro ⟨x, k⟩ he hw
    obtain ⟨hk, hx⟩ := List.mem_zipIdx' he
    have hk6 : k < 6 := by simpa [hlen] using hk
    have := hfit k hk6
    rw [if_neg hw] at this
    have hlt := Nat.mod_lt (m / ((l.exts.drop (k + 1)).map (max 1)).prod) (Nat.lt_of_lt_of_le Nat.one_pos (Nat.le_max_left 1 (l.exts.getD k 0)))
    dsimp only
    rw [hx, hidx k hk6]
    omega
  have hfold := fieldOf_foldl_withField hsum (base := l.base) hi (mixedRadix (l.exts.map (max 1)).reverse m).reverse 0 l.base
    (by simp [hlen]) hbound
  refine hfold.trans ?_
  by_cases hw : widthOf l.widspec i = 0
  · have h1 := hfit i hi
    rw [if_pos hw] at h1
    rw [if_neg (by simp [hw]), Nat.max_eq_left h1, Nat.mod_one, Nat.add_zero]
  · rw [if_pos ⟨hw, Nat.zero_le _, by simp [hlen, hi]⟩, Nat.sub_zero, List.getD_eq_getElem _ _ (by simp [hlen, hi]), hidx i hi]

end Sys2Proof.Machine
end

section
/-! SUPPORT. Class 3 instructions: what one of them does before it retires, and that it retires then. A class 3
instruction changes a unit (a queue register, a channel, a cell, a launch) or a field of its activation, and falls through. -/

namespace Sys2Proof.Machine

open Sys2Proof.Claims

/-! ## What going on leaves of a thread -/

/-- Going on changes the pc, the loop stack and the count of retirements, and nothing else of a thread. -/
theorem Thread.goOn_eq (x : Thread) (t : Nat) (pc : Word) (ls : List Loop) : ∃ loops retire mloops mretire serve,
    x.goOn t pc ls = { x with act := { x.act with pc, loops, retire }, mloops, mretire, serve } := by
  cases hm : x.mode <;> cases ht : isAct t <;>
    simp only [Thread.goOn, Thread.count, Thread.setPc, Thread.setLoops, hm, ht, if_true, if_false, Bool.not_true, Bool.not_false,
      Bool.false_eq_true, reduceCtorEq] <;>
    exact ⟨_, _, _, _, _, rfl⟩

/-- Writing a g register changes the banks and their error marks, and nothing else of a thread. -/
theorem Thread.setG_eq (x : Thread) (d : GReg) (w : Word) : ∃ g gErr gBad mg mgErr mgBad,
    x.setG d w = { x with act := { x.act with g, gErr, gBad }, mg, mgErr, mgBad } := by
  unfold Thread.setG
  split
  · exact ⟨_, _, _, _, _, _, rfl⟩
  · split <;> exact ⟨_, _, _, _, _, _, rfl⟩

/-- The fields of a thread that no fall-through and no write of a g register touches, as far as statements name them. -/
structure SameUnit (x y : Thread) : Prop where
  streams : y.act.streams = x.act.streams
  triggered : y.act.triggered = x.act.triggered
  launch : y.act.launch = x.act.launch
  prio : y.act.prio = x.act.prio
  drm : y.act.drm = x.act.drm
  codeflt : y.act.codeflt = x.act.codeflt
  pid : y.act.pid = x.act.pid
  encl : y.act.encl = x.act.encl
  vi : y.act.vi = x.act.vi
  flags : y.act.flags = x.act.flags
  count : y.act.count = x.act.count
  mcause : y.mcause = x.mcause
  mepc : y.mepc = x.mepc
  mtval : y.mtval = x.mtval
  wdcfg : y.wdcfg = x.wdcfg

theorem SameUnit.goOn (x : Thread) (t : Nat) (pc : Word) (ls : List Loop) : SameUnit x (x.goOn t pc ls) := by
  obtain ⟨_, _, _, _, _, h⟩ := x.goOn_eq t pc ls
  rw [h]
  constructor <;> rfl

theorem SameUnit.setG (x : Thread) (d : GReg) (w : Word) : SameUnit x (x.setG d w) := by
  obtain ⟨_, _, _, _, _, _, h⟩ := x.setG_eq d w
  rw [h]
  constructor <;> rfl

theorem SameUnit.trans {x y z : Thread} (h : SameUnit x y) (k : SameUnit y z) : SameUnit x z where
  streams := k.streams.trans h.streams
  triggered := k.triggered.trans h.triggered
  launch := k.launch.trans h.launch
  prio := k.prio.trans h.prio
  drm := k.drm.trans h.drm
  codeflt := k.codeflt.trans h.codeflt
  pid := k.pid.trans h.pid
  encl := k.encl.trans h.encl
  vi := k.vi.trans h.vi
  flags := k.flags.trans h.flags
  count := k.count.trans h.count
  mcause := k.mcause.trans h.mcause
  mepc := k.mepc.trans h.mepc
  mtval := k.mtval.trans h.mtval
  wdcfg := k.wdcfg.trans h.wdcfg

theorem State.retire_me (s : State) : s.retire.me = s.me.goOn s.cur s.fallPc (loopFall s.here.1 s.here.2 s.me.loops).1 := by
  rw [State.retire_eq, State.me_modMe]

theorem State.retire_sameUnit (s : State) : SameUnit s.me s.retire.me := by
  rw [State.retire_me]
  exact SameUnit.goOn ..

theorem State.setG_sameUnit (s : State) (d : GReg) (w : Word) : SameUnit s.me (s.setG d w).me := by
  rw [State.setG, State.me_modMe]
  exact SameUnit.setG ..

theorem State.writeRetire_sameUnit (s : State) (d : GReg) (w : Word) : SameUnit s.me (s.writeRetire d w).me :=
  (s.setG_sameUnit d w).trans (State.retire_sameUnit _)

/-! ## Quiet changes, which a retirement follows -/

/-- u is s but for units and for fields of the running thread that control and registers do not see. -/
structure Quietly (s u : State) : Prop where
  cur : u.cur = s.cur
  others : ∀ v, v ≠ s.cur → u.th v = s.th v
  trap : u.trap = s.trap
  bytes : ∀ a, u.mem.byte a = s.mem.byte a
  pc : u.me.act.pc = s.me.act.pc
  loops : u.me.loops = s.me.loops
  mode : u.me.mode = s.me.mode
  status : u.me.status = s.me.status
  regs : ∀ r, u.reg r = s.reg r
  vregs : ∀ r, u.vreg r = s.vreg r

theorem Quietly.of_threads {s u : State} (hth : u.threads = s.threads) (hcur : u.cur = s.cur) (htrap : u.trap = s.trap)
    (hbytes : ∀ a, u.mem.byte a = s.mem.byte a) : Quietly s u := by
  have hall : ∀ v, u.th v = s.th v := fun v => by rw [State.th, hth]; rfl
  have hme : u.me = s.me := by rw [State.me, hcur, hall]; rfl
  exact ⟨hcur, fun v _ => hall v, htrap, hbytes, by rw [hme], by rw [hme], by rw [hme], by rw [hme],
    fun r => by rw [State.reg, hme]; rfl, fun r => by rw [State.vreg, hme]; rfl⟩

theorem Quietly.refl (s : State) : Quietly s s := Quietly.of_threads rfl rfl rfl fun _ => rfl

theorem Quietly.trans {s u v : State} (h : Quietly s u) (k : Quietly u v) : Quietly s v where
  cur := k.cur.trans h.cur
  others w hw := (k.others w (h.cur ▸ hw)).trans (h.others w hw)
  trap := k.trap.trans h.trap
  bytes a := (k.bytes a).trans (h.bytes a)
  pc := k.pc.trans h.pc
  loops := k.loops.trans h.loops
  mode := k.mode.trans h.mode
  status := k.status.trans h.status
  regs r := (k.regs r).trans (h.regs r)
  vregs r := (k.vregs r).trans (h.vregs r)

theorem Quietly.modBlock (s : State) (b : Nat) (f : Block → Block) : Quietly s (s.modBlock b f) :=
  Quietly.of_threads rfl rfl rfl fun _ => rfl
theorem Quietly.modCluster (s : State) (c : Nat) (f : Cluster → Cluster) : Quietly s (s.modCluster c f) :=
  Quietly.of_threads rfl rfl rfl fun _ => rfl
theorem Quietly.modLaunch (s : State) (l : Word) (f : Launch → Launch) : Quietly s (s.modLaunch l f) :=
  Quietly.of_threads rfl rfl rfl fun _ => rfl

/-- A change of the running thread that control and registers do not see. -/
theorem Quietly.modMe (s : State) (f : Thread → Thread) (hpc : (f s.me).act.pc = s.me.act.pc) (hloops : (f s.me).loops = s.me.loops)
    (hmode : (f s.me).mode = s.me.mode) (hstatus : (f s.me).status = s.me.status) (hreg : ∀ r, (f s.me).reg r = s.me.reg r)
    (hv : (f s.me).act.v = s.me.act.v) : Quietly s (s.modMe f) where
  cur := rfl
  others _ hv := State.th_modMe_ne s f hv
  trap := rfl
  bytes _ := rfl
  pc := by rw [State.me_modMe, hpc]
  loops := by rw [State.me_modMe, hloops]
  mode := by rw [State.me_modMe, hmode]
  status := by rw [State.me_modMe, hstatus]
  regs r := by rw [State.reg, State.me_modMe, hreg, State.reg]
  vregs r := by rw [State.vreg, State.me_modMe, hv, State.vreg]

/-- A change of the running activation beside its pc, loop stack and registers. -/
theorem Quietly.modMyAct (s : State) (f : Act → Act) (hpc : (f s.me.act).pc = s.me.act.pc) (hloops : (f s.me.act).loops = s.me.act.loops)
    (hg : (f s.me.act).g = s.me.act.g) (hv : (f s.me.act).v = s.me.act.v) : Quietly s (s.modMyAct f) := by
  refine Quietly.modMe s (fun x => { x with act := f x.act }) hpc ?_ rfl rfl (fun r => ?_) hv
  · simp only [Thread.loops, hloops]
  · simp only [Thread.reg, hg]

section
variable {s u : State} (h : Quietly s u)
include h

theorem Quietly.here : u.here = s.here := by rw [State.here, h.pc, State.here]
theorem Quietly.fallPc : u.fallPc = s.fallPc := by rw [State.fallPc, h.here, h.loops, State.fallPc]

/-- After a quiet change the instruction retires, and no register has changed. -/
theorem Quietly.retire : Retired s u.retire ∧ NoReg s u.retire := by
  have hret : Retired u u.retire := by
    rw [State.retire_eq]
    exact Retired.modMe u (fun x => x) rfl rfl
  obtain ⟨-, hkeep⟩ := u.retire_spec
  refine ⟨⟨⟨?_, ?_, hret.cur.trans h.cur, hret.mode.trans h.mode, hret.status.trans h.status, fun v hv => ?_,
    hret.trap.trans h.trap⟩, fun a => (hret.bytes a).trans (h.bytes a)⟩, fun r => (hkeep.g r).trans (h.regs r),
    fun r => (hkeep.v r).trans (h.vregs r)⟩
  · rw [hret.at', h.fallPc]
  · rw [hret.stack, h.here, h.loops]
  · rw [hret.others v (h.cur ▸ hv), h.others v hv]

/-- After a quiet change the instruction writes gD and retires, and no other register has changed. -/
theorem Quietly.writeRetire (d : GReg) (w : Word) : Retired s (u.writeRetire d w) ∧ OnlyReg s (u.writeRetire d w) d w := by
  have hret : Retired u (u.writeRetire d w) := by
    rw [State.writeRetire, State.setG, State.modMe_retire u _ (fun x => Thread.setG_pc x d w) (fun x => Thread.setG_loops x d w)]
    refine Retired.modMe u (fun x => x.setG d w) (Thread.setG_mode ..) ?_
    obtain ⟨_, _, _, _, _, _, h⟩ := u.me.setG_eq d w
    rw [h]
  obtain ⟨-, hset⟩ := u.writeRetire_spec d w
  refine ⟨⟨⟨?_, ?_, hret.cur.trans h.cur, hret.mode.trans h.mode, hret.status.trans h.status, fun v hv => ?_,
    hret.trap.trans h.trap⟩, fun a => (hret.bytes a).trans (h.bytes a)⟩, fun r => (hset.g r).trans ?_,
    fun r => (hset.v r).trans (h.vregs r)⟩
  · rw [hret.at', h.fallPc]
  · rw [hret.stack, h.here, h.loops]
  · rw [hret.others v (h.cur ▸ hv), h.others v hv]
  · rw [h.regs]

end

/-- Two writes of g registers before the retirement. -/
theorem Quietly.setG_writeRetire {s u : State} (h : Quietly s u) (d b : GReg) (w x : Word) :
    Retired s ((u.setG d w).writeRetire b x) ∧
      ∀ r, ((u.setG d w).writeRetire b x).reg r = if r = b ∧ r ≠ 0 then x else if r = d ∧ r ≠ 0 then w else s.reg r := by
  have hmid : (u.setG d w).fallPc = u.fallPc ∧ (u.setG d w).here = u.here ∧ (u.setG d w).me.loops = u.me.loops := by
    have hpc : (u.setG d w).me.act.pc = u.me.act.pc := by rw [State.setG, State.me_modMe, Thread.setG_pc]
    have hls : (u.setG d w).me.loops = u.me.loops := by rw [State.setG, State.me_modMe, Thread.setG_loops]
    have hh : (u.setG d w).here = u.here := by rw [State.here, hpc, State.here]
    exact ⟨by rw [State.fallPc, hh, hls, State.fallPc], hh, hls⟩
  obtain ⟨hfall, hhere, hloops⟩ := hmid
  obtain ⟨hret, hreg⟩ := (Quietly.refl (u.setG d w)).writeRetire b x
  have hwrite : ∀ r, (u.setG d w).reg r = if r = d ∧ r ≠ 0 then w else s.reg r := fun r => by
    rw [State.reg, State.setG, State.me_modMe, Thread.reg_setG, ← h.regs, State.reg]
  have hsame : (u.setG d w).me.mode = u.me.mode ∧ (u.setG d w).me.status = u.me.status := by
    obtain ⟨_, _, _, _, _, _, h⟩ := u.me.setG_eq d w
    rw [State.setG, State.me_modMe, h]
    exact ⟨rfl, rfl⟩
  refine ⟨⟨⟨?_, ?_, hret.cur.trans h.cur, hret.mode.trans (hsame.1.trans h.mode), hret.status.trans (hsame.2.trans h.status),
    fun v hv => ?_, hret.trap.trans h.trap⟩, fun a => (hret.bytes a).trans (h.bytes a)⟩, fun r => ?_⟩
  · rw [hret.at', hfall, h.fallPc]
  · rw [hret.stack, hhere, hloops, h.here, h.loops]
  · have hv' : v ≠ u.cur := h.cur ▸ hv
    rw [hret.others v hv', State.setG, State.th_modMe_ne _ _ hv', h.others v hv]
  · rw [hreg.1, hwrite]

end Sys2Proof.Machine
end

section
/-! SUPPORT. Queue and stream registers (R157, R158). -/

namespace Sys2Proof.Machine

open Sys2Proof.Claims

/-! ## Queue registers -/

@[simp] theorem Block.queue_modQueue (b : Block) (q : QIdx) (f : Queue → Queue) : (b.modQueue q f).queue q = f (b.queue q) := by
  rw [Block.queue, Block.modQueue, Map.get_put, if_pos rfl]

@[simp] theorem State.queue_modQueue (s : State) (k : Nat) (q : QIdx) (f : Queue → Queue) :
    ((s.modBlock k fun b => b.modQueue q f).block k).queue q = f ((s.block k).queue q) := by
  rw [State.block_modBlock, if_pos rfl, Block.queue_modQueue]

@[simp] theorem State.block_retire (s : State) (k : Nat) : s.retire.block k = s.block k := rfl
@[simp] theorem State.block_writeRetire (s : State) (d : GReg) (w : Word) (k : Nat) : (s.writeRetire d w).block k = s.block k := rfl
@[simp] theorem State.block_setG (s : State) (d : GReg) (w : Word) (k : Nat) : (s.setG d w).block k = s.block k := rfl

/-- Leaving the line of a queue register leaves its words. -/
@[simp] theorem State.items_leaveQueue (s : State) (q : QIdx) :
    (((s.leaveQueue q).block (blockOf s.cur)).queue q).items = ((s.block (blockOf s.cur)).queue q).items := by
  rw [State.leaveQueue, State.leaveLine, State.queue_modQueue]

@[simp] theorem State.items_lineUp (s : State) (k : Nat) (q : QIdx) (p : Nat) :
    (((s.lineUp k q p).block k).queue q).items = ((s.block k).queue q).items := by
  rw [State.lineUp, State.queue_modQueue]

@[simp] theorem State.items_joinQueue (s : State) (q : QIdx) (pop : Bool) :
    (((s.joinQueue q pop).block (blockOf s.cur)).queue q).items = ((s.block (blockOf s.cur)).queue q).items :=
  s.items_lineUp (blockOf s.cur) q s.cur

theorem Quietly.leaveQueue (s : State) (q : QIdx) : Quietly s (s.leaveQueue q) :=
  Quietly.of_threads rfl rfl rfl fun _ => rfl

/-- A thread that joins a queue register's line has stalled there. -/
theorem State.joinQueue_stalls (s : State) (q : QIdx) (pop : Bool) : Stalls s (s.joinQueue q pop) (.queue q pop) :=
  s.stall_modBlock_stalls _ _ _

section
variable {s : State} {q : QIdx} {d a b : GReg} (hact : isAct s.cur = true) (hacq : s.acqWaits = false)
include hact hacq

theorem queueUser_of_act (f : State → Out State) : queueUser s f = f s := by
  rw [queueUser, hact, hacq]
  rfl

theorem exec_qpush (hset : s.settled s.cur = true) : exec (.qpush q a) s =
    if 1 ≤ (s.myQueue q).room ∧ s.myTurn q false then
      .next ((s.leaveQueue q).modBlock (blockOf s.cur) fun b => b.modQueue q fun r => { r with items := r.items ++ [s.g a] }).retire
    else .next (s.joinQueue q false) := by
  have huser : execQpush q a s = _ := queueUser_of_act hact hacq _
  rw [hset] at huser
  exact huser

theorem exec_qpop : exec (.qpop d q) s = match (s.myQueue q).items with
    | w :: rest => if s.myTurn q true then
        .next (((s.leaveQueue q).modBlock (blockOf s.cur) fun b => b.modQueue q fun r => { r with items := rest }).writeRetire d w)
      else .next (s.joinQueue q true)
    | [] => .next (s.joinQueue q true) :=
  (queueUser_of_act hact hacq _ : execQpop d q s = _)

theorem exec_qpeek : exec (.qpeek d q) s = match (s.myQueue q).items with
    | w :: _ => .next ((s.leaveQueue q).writeRetire d w)
    | [] => .next (s.joinQueue q true) :=
  (queueUser_of_act hact hacq _ : execQpeek d q s = _)

theorem exec_qtry : exec (.qtry d q b) s = match (s.myQueue q).items with
    | w :: rest => .next (((s.modBlock (blockOf s.cur) fun x => x.modQueue q fun r => { r with items := rest }).setG d w).writeRetire b 1)
    | [] => .next (s.writeRetire b 0) :=
  (queueUser_of_act hact hacq _ : execQtry d q b s = _)

end

theorem queueRegistersAreFirstInFirstOut : Claims.QueueRegistersAreFirstInFirstOut := by
  intro s q d a hact hacq blk items after
  have hitems : (s.myQueue q).items = items := rfl
  refine ⟨fun hset hroom hturn => ?_, fun hset hfull => ?_, fun w rest hw hturn => ?_, fun w rest hw => ?_, fun hempty => ⟨?_, ?_⟩,
    fun w rest hw => ?_, fun hempty => ?_⟩
  case refine_1 =>
    have hfree : 1 ≤ (s.myQueue q).room := by
      show 1 ≤ 8 - items.length - ((s.block blk).queue q).reserved
      omega
    have hexec := (exec_qpush (a := a) hact hacq hset).trans (if_pos ⟨hfree, hturn⟩)
    obtain ⟨hret, hreg⟩ := ((Quietly.leaveQueue s q).trans (Quietly.modBlock _ (blockOf s.cur) fun b => b.modQueue q fun r =>
      { r with items := r.items ++ [s.g a] })).retire
    exact ⟨_, hexec, hret, hreg, by simp [after, items, blk]⟩
  case refine_2 =>
    have hfree : ¬ (1 ≤ (s.myQueue q).room ∧ s.myTurn q false = true) := by
      show ¬ (1 ≤ 8 - items.length - ((s.block blk).queue q).reserved ∧ _)
      omega
    exact ⟨_, (exec_qpush hact hacq hset).trans (if_neg hfree), s.joinQueue_stalls q false, s.items_joinQueue q false⟩
  case refine_3 =>
    have hexec : exec (.qpop d q) s = _ := exec_qpop hact hacq
    rw [hitems, hw] at hexec
    obtain ⟨hret, hreg⟩ := ((Quietly.leaveQueue s q).trans (Quietly.modBlock _ (blockOf s.cur) fun b => b.modQueue q fun r =>
      { r with items := rest })).writeRetire d w
    exact ⟨_, hexec.trans (if_pos hturn), hret, hreg, by simp [after, blk]⟩
  case refine_4 =>
    have hexec : exec (.qpeek d q) s = _ := exec_qpeek hact hacq
    rw [hitems, hw] at hexec
    obtain ⟨hret, hreg⟩ := (Quietly.leaveQueue s q).writeRetire d w
    exact ⟨_, hexec, hret, hreg, by simp [after, items, blk]⟩
  case refine_5 =>
    have hexec : exec (.qpop d q) s = _ := exec_qpop hact hacq
    rw [hitems, hempty] at hexec
    exact ⟨_, hexec, s.joinQueue_stalls q true⟩
  case refine_6 =>
    have hexec : exec (.qpeek d q) s = _ := exec_qpeek hact hacq
    rw [hitems, hempty] at hexec
    exact ⟨_, hexec, s.joinQueue_stalls q true⟩
  case refine_7 =>
    have hexec : exec (.qtry d q a) s = _ := exec_qtry hact hacq
    rw [hitems, hw] at hexec
    obtain ⟨hret, hreg⟩ := (Quietly.modBlock s (blockOf s.cur) fun x => x.modQueue q fun r =>
      { r with items := rest }).setG_writeRetire d a w 1
    exact ⟨_, hexec, hret, by simp [after, blk], hreg⟩
  case refine_8 =>
    have hexec : exec (.qtry d q a) s = _ := exec_qtry hact hacq
    rw [hitems, hempty] at hexec
    obtain ⟨hret, hreg⟩ := (Quietly.refl s).writeRetire a 0
    exact ⟨_, hexec, hret, hreg, hempty⟩

/-! ## Stream registers -/

theorem Quietly.setStream (s : State) (x : SIdx) (v : Option Stream) : Quietly s (s.setStream s.cur x v) :=
  Quietly.modMyAct s (fun a => { a with streams := Map.set none a.streams x.toNat v }) rfl rfl rfl rfl

@[simp] theorem State.stream_setStream (s : State) (x : SIdx) (v : Option Stream) :
    (s.setStream s.cur x v).me.act.stream x = v := by
  have hme : (s.setStream s.cur x v).me = { s.me with act := { s.me.act with streams := Map.set none s.me.act.streams x.toNat v } } :=
    State.me_modMe s _
  rw [hme, Act.stream, Map.get_set, if_pos rfl]

theorem SameUnit.stream {x y : Thread} (h : SameUnit x y) (r : SIdx) : y.act.stream r = x.act.stream r := by
  rw [Act.stream, h.streams, Act.stream]

section
variable {s : State} {x : SIdx} {d b : GReg} (hact : isAct s.cur = true) (hacq : s.acqWaits = false)
include hact hacq

theorem exec_spop_of_bound {st : Stream} (hst : s.me.act.stream x = some st) : exec (.spop d x) s = match st.buf with
    | w :: rest => .next ((s.takeElement x st rest).writeRetire d w)
    | [] => if st.ended then raiseOpen 0x0E (s.setStream s.cur x none) else .next (s.stall (.stream x)) := by
  have huser : execSpop d x s = _ := queueUser_of_act hact hacq _
  rw [hst] at huser
  exact huser

theorem exec_stry_of_bound {st : Stream} (hst : s.me.act.stream x = some st) : exec (.stry d x b) s = match st.buf with
    | w :: rest => .next (((s.takeElement x st rest).setG d w).writeRetire b 1)
    | [] => if st.ended then .next ((s.setStream s.cur x none).writeRetire b 2) else .next (s.writeRetire b 0) := by
  have huser : execStry d x b s = _ := queueUser_of_act hact hacq _
  rw [hst] at huser
  exact huser

theorem exec_stry_of_unbound (hst : s.me.act.stream x = none) : exec (.stry d x b) s = .next (s.writeRetire b 2) := by
  have huser : execStry d x b s = _ := queueUser_of_act hact hacq _
  rw [hst] at huser
  exact huser

end

theorem streamRegistersGiveTheirElements : Claims.StreamRegistersGiveTheirElements := by
  intro s x d b hact hacq
  refine ⟨?_, fun st hst hbuf hended => ?_, fun hst => ?_⟩
  · intro st w rest hst hbuf left
    have hquiet : Quietly s (s.takeElement x st rest) := Quietly.setStream ..
    have hleft : (s.takeElement x st rest).me.act.stream x = left := State.stream_setStream ..
    have hpop : exec (.spop d x) s = _ := exec_spop_of_bound hact hacq hst
    have htry : exec (.stry d x b) s = _ := exec_stry_of_bound hact hacq hst
    rw [hbuf] at hpop htry
    obtain ⟨hret, hreg⟩ := hquiet.writeRetire d w
    obtain ⟨hret2, hreg2⟩ := hquiet.setG_writeRetire d b w 1
    refine ⟨⟨_, hpop, hret, hreg, ?_⟩, _, htry, hret2, ?_, hreg2⟩
    · rw [(State.writeRetire_sameUnit _ d w).stream, hleft]
    · rw [((State.setG_sameUnit _ d w).trans (State.writeRetire_sameUnit _ b 1)).stream, hleft]
  · have hpop : exec (.spop d x) s = _ := exec_spop_of_bound hact hacq hst
    have htry : exec (.stry d x b) s = _ := exec_stry_of_bound hact hacq hst
    rw [hbuf, hended] at hpop htry
    obtain ⟨hret, hreg⟩ := (Quietly.refl s).writeRetire b 0
    exact ⟨⟨_, hpop, s.stall_stalls _⟩, _, htry, hret, hreg⟩
  · obtain ⟨hret, hreg⟩ := (Quietly.refl s).writeRetire b 2
    exact ⟨_, exec_stry_of_unbound hact hacq hst, hret, hreg⟩

/-- Settles O16: each instruction by its own equation, and the change of its unit is followed by the retirement. -/
theorem queuesAndStreamsAreFirstInFirstOut : Obligations.QueuesAndStreamsAreFirstInFirstOut :=
  ⟨queueRegistersAreFirstInFirstOut, streamRegistersGiveTheirElements⟩

end Sys2Proof.Machine
end

section
/-! SUPPORT. Sends on the own die, LAUNCH and TRIGGER (R141, R148, R149). -/

namespace Sys2Proof.Machine

open Sys2Proof.Claims

/-! ## What a release and a read of S leave -/

theorem State.reach_of_maySend {s : State} {dst : Word} (h : MaySend s dst) : s.reach dst = .die := by
  simp only [State.reach, h.here, h.die, Bool.not_true, Bool.false_eq_true, if_false, if_true]

/-- Reading a word under a key takes at most a free value. -/
theorem State.readWord_eq (s : State) (key w : Nat) : ∃ k, (s.readWord key w).2 = { s with free := k } := by
  unfold State.readWord
  split <;> exact ⟨_, rfl⟩

/-- Reading words under a key takes at most free values. -/
theorem State.readWords_eq (s : State) (key w n : Nat) : ∃ k, (s.readWords key w n).2 = { s with free := k } := by
  induction n generalizing s w with
  | zero => exact ⟨_, rfl⟩
  | succ n ih =>
    obtain ⟨k, hk⟩ := s.readWord_eq key w
    obtain ⟨j, hj⟩ := ih (s.readWord key w).2 (w + 1)
    refine ⟨j, hj.trans ?_⟩
    rw [hk]

/-- Reading a structure from S takes at most free values. -/
theorem State.eq_of_readS {s s1 : State} {ea : Word} {n al : Nat} {bs : List Byte} (h : s.readS ea n al = .ok (bs, s1)) :
    ∃ k, s1 = { s with free := k } := by
  unfold State.readS at h
  split at h
  · cases h
  · dsimp only at h
    split at h
    · cases h
    · simp only [Except.ok.injEq, Prod.mk.injEq] at h
      rw [← h.2]
      exact State.readWords_eq ..

theorem Quietly.free (s : State) (k : Nat) : Quietly s { s with free := k } := Quietly.of_threads rfl rfl rfl fun _ => rfl

/-- Making a team non-replayable changes blocks only. -/
theorem State.killEpoch_eq (s : State) (a : Act) : s.killEpoch a = { s with blocks := (s.killEpoch a).blocks } := by
  unfold State.killEpoch
  split <;> rfl

theorem Quietly.killEpoch (s : State) (a : Act) : Quietly s (s.killEpoch a) := by
  rw [State.killEpoch_eq]
  exact Quietly.of_threads rfl rfl rfl fun _ => rfl

/-- Numbering a message changes a thread's counters only. -/
theorem Quietly.nextSeqTo (s : State) (dest : Word) : Quietly s (s.nextSeqTo s.cur dest).2 :=
  Quietly.modMe s (fun x => { x with seqs := (dest, (s.nextSeqTo s.cur dest).1 + 1) :: x.seqs.filter fun p => p.1 != dest })
    rfl rfl rfl rfl (fun _ => rfl) rfl

/-! ## LAUNCH (R148) -/

/-- The header that LAUNCH puts into an inbox. -/
def State.launchHeader (s : State) (dst : Word) (bs : List Byte) : Header :=
  { bytes := bs, src := sourceOf s.cur, seq := (s.nextSeqTo s.cur dst).1, pid := s.me.act.pid, vi := s.me.act.vi, wid := s.me.act.wid, stamp := [] }

/-- A LAUNCH whose inbox is on the own die puts its header there and retires. -/
theorem exec_launch_of_die {s s1 : State} {a b : GReg} {bs : List Byte} (hsend : MaySend s (s.g b)) (hform : malformed (s.g b) = false)
    (hkind : maKind (s.g b) = 6) (hwait : s.readWaits (s.g a) 128 = false) (hread : s.readS (s.g a) 128 64 = .ok (bs, s1)) :
    exec (.launch a b) s = .next (((s1.killEpoch s1.me.act).nextSeqTo s.cur (s.g b)).2.modCluster (maCluster (s.g b)) fun c =>
      { c with inbox := c.inbox ++ [(s1.killEpoch s1.me.act).launchHeader (s.g b) bs] }).retire := by
  obtain ⟨k, rfl⟩ := State.eq_of_readS hread
  have hreach : ({ s with free := k } : State).reach (s.g b) = .die :=
    (State.reach_of_maySend hsend : s.reach (s.g b) = .die)
  have hready : ({ s with free := k } : State).releaseReady .die = true := hsend.quiet
  have hclean : ({ s with free := k } : State).me.act.deferred = none := hsend.clean
  have hcur : (({ s with free := k } : State).killEpoch ({ s with free := k } : State).me.act).cur = s.cur := by
    rw [State.killEpoch_eq]
  show execLaunch a b s = _
  unfold execLaunch noService
  simp only [hsend.act, hwait, hread, hform, hkind, hsend.fresh, hreach, hready, hclean, hcur, State.launchHeader, if_true, if_false, Bool.false_eq_true,
    ne_eq, not_true_eq_false, or_self, Bool.not_true, reduceCtorEq]

theorem launchPutsTheHeaderIntoTheInbox : Claims.LaunchPutsTheHeaderIntoTheInbox := by
  intro s s1 a b bs hsend hform hkind hwait hread
  have hexec := exec_launch_of_die hsend hform hkind hwait hread
  obtain ⟨k, rfl⟩ := State.eq_of_readS hread
  obtain ⟨hquiet, hcl, hact⟩ : Quietly s (({ s with free := k } : State).killEpoch ({ s with free := k } : State).me.act) ∧
      (∀ c, (({ s with free := k } : State).killEpoch ({ s with free := k } : State).me.act).cluster c = s.cluster c) ∧
      (({ s with free := k } : State).killEpoch ({ s with free := k } : State).me.act).me.act = s.me.act := by
    refine ⟨(Quietly.free s k).trans (Quietly.killEpoch _ _), fun c => ?_, ?_⟩ <;> rw [State.killEpoch_eq] <;> rfl
  generalize State.killEpoch _ _ = u at *
  rw [← hquiet.cur] at hexec
  obtain ⟨hret, hreg⟩ := ((hquiet.trans (Quietly.nextSeqTo u (s.g b))).trans (Quietly.modCluster _ (maCluster (s.g b)) fun c =>
    { c with inbox := c.inbox ++ [u.launchHeader (s.g b) bs] })).retire
  refine ⟨_, u.launchHeader (s.g b) bs, hexec, hret, hreg, ?_, rfl, congrArg sourceOf hquiet.cur, congrArg Act.pid hact,
    congrArg Act.wid hact, congrArg Act.vi hact⟩
  have hput := State.cluster_modCluster (u.nextSeqTo u.cur (s.g b)).2 (maCluster (s.g b)) (maCluster (s.g b)) fun c =>
    { c with inbox := c.inbox ++ [u.launchHeader (s.g b) bs] }
  rw [if_pos rfl] at hput
  refine (congrArg Cluster.inbox hput).trans ?_
  rw [← hcl]
  rfl

/-! ## TRIGGER (R149) -/

theorem State.launch?_modLaunch {s : State} {id : Word} {l : Launch} (hl : s.launch? id = some l) (f : Launch → Launch)
    (hid : ∀ l, (f l).id = l.id) : (s.modLaunch id f).launch? id = some (f l) := by
  have hfun : ((fun x : Launch => x.id == id) ∘ fun l : Launch => if l.id == id then f l else l) = fun x => x.id == id := by
    funext x
    simp only [Function.comp]
    split
    · rw [hid]
    · rfl
  have hid' : (l.id == id) = true := List.find?_some (p := fun l : Launch => l.id == id) hl
  have hmap : (s.modLaunch id f).launch? id = (s.launch? id).map fun l => if l.id == id then f l else l := by
    simp only [State.launch?, State.modLaunch, List.find?_map, hfun]
  rw [hmap, hl, Option.map_some, if_pos hid']

/-- TRIGGER of an activation that counts no release only retires. -/
theorem exec_trigger {s : State} (hact : isAct s.cur = true) (hset : s.settled s.cur = true) : exec .trigger s =
    if s.me.act.triggered ∨ s.me.act.recruit ∨ (s.me.act.stage ≠ 0xFF ∧ 1 ≤ s.me.act.stage.toNat) then .next (s.killEpoch s.me.act).retire
    else
      let s2 := (s.killEpoch s.me.act).modMyAct fun a => { a with triggered := true }
      .next (if s.me.act.enumNo.isSome then s2.modLaunch s.me.act.launch fun l => { l with released := l.released + 1 } else s2).retire := by
  show execTrigger s = _
  unfold execTrigger noService
  simp only [hact, hset, if_true, Bool.not_true, Bool.false_eq_true, if_false]

/-- The release of a launch that TRIGGER counts. -/
theorem State.triggered_spec {s u : State} (hq : Quietly s u) (hsys : u.sys = s.sys) (counts : Bool) (id : Word) :
    let s2 := u.modMyAct fun a => { a with triggered := true }
    let t := (if counts then s2.modLaunch id fun l => { l with released := l.released + 1 } else s2).retire
    Retired s t ∧ NoReg s t ∧ t.me.act.triggered = true ∧ ∀ l, s.launch? id = some l →
      ∃ l', t.launch? id = some l' ∧ l'.released = l.released + (if counts then 1 else 0) := by
  intro s2 t
  have hmine : Quietly s s2 := hq.trans (Quietly.modMyAct u (fun a => { a with triggered := true }) rfl rfl rfl rfl)
  have hmark : s2.me.act.triggered = true := congrArg (fun x : Thread => x.act.triggered) (State.me_modMe u _)
  have hl2 : s2.launch? id = s.launch? id := by
    show u.launch? id = s.launch? id
    rw [State.launch?, hsys]
    rfl
  cases counts
  · obtain ⟨hret, hreg⟩ := hmine.retire
    exact ⟨hret, hreg, (State.retire_sameUnit s2).triggered.trans hmark, fun l hl => ⟨l, hl2.trans hl, rfl⟩⟩
  · obtain ⟨hret, hreg⟩ := (hmine.trans (Quietly.modLaunch s2 id fun l => { l with released := l.released + 1 })).retire
    exact ⟨hret, hreg, (State.retire_sameUnit _).triggered.trans hmark, fun l hl =>
      ⟨{ l with released := l.released + 1 }, State.launch?_modLaunch (hl2.trans hl) _ fun _ => rfl, rfl⟩⟩

theorem triggerReleasesOnce : Claims.TriggerReleasesOnce := by
  intro s hact hset a idle
  have hexec := exec_trigger hact hset
  have hquiet := Quietly.killEpoch s s.me.act
  have hsys : (s.killEpoch s.me.act).sys = s.sys := by rw [State.killEpoch_eq]
  by_cases hidle : idle
  · rw [if_pos hidle] at hexec
    obtain ⟨hret, hreg⟩ := hquiet.retire
    exact ⟨_, hexec, hret, hreg, fun _ => hsys, fun h => absurd hidle h⟩
  · rw [if_neg hidle] at hexec
    obtain ⟨hret, hreg, hmark, hrel⟩ := State.triggered_spec hquiet hsys s.me.act.enumNo.isSome s.me.act.launch
    exact ⟨_, hexec, hret, hreg, fun h => absurd h hidle, fun _ => ⟨hmark, hrel⟩⟩

/-- Settles O15: the header's checks pass by the premises, and what comes before the inbox changes neither control nor
registers; a release is counted in the launch's entry alone. -/
theorem launchAndTriggerAct : Obligations.LaunchAndTriggerAct :=
  ⟨launchPutsTheHeaderIntoTheInbox, triggerReleasesOnce⟩

end Sys2Proof.Machine
end

section
/-! SUPPORT. CHBIND and CHINFO (R135–R137). -/

namespace Sys2Proof.Machine

open Sys2Proof.Claims

/-! ## CHBIND (R136) -/

theorem leNat_lt (bs : List Byte) : leNat bs < 256 ^ bs.length := by
  induction bs with
  | nil => exact Nat.one_pos
  | cons b bs ih =>
    rw [leNat, List.length_cons, Nat.pow_succ]
    have := b.isLt
    omega

theorem field_lt (bs : List Byte) (off n : Nat) : field bs off n < 256 ^ n :=
  (leNat_lt _).trans_le (Nat.pow_le_pow_right (by decide) (List.length_take_le _ _))

/-- The binding that CHBIND makes of the 16 bytes at gA for a function's handle (R136). -/
def State.newBinding (s : State) (ch : Channel) (h : BitVec 32) (bs : List Byte) : Binding :=
  { handle := h, prio := BitVec.ofNat 3 (field bs 1 1), stage := BitVec.ofNat 8 (field bs 2 1)
    deadline := if field bs 4 2 = 0 then 0xFFFF else BitVec.ofNat 16 (field bs 4 2)
    launch := match ch.bind with | some o => o.launch | none => s.me.act.launch, pid := s.me.act.pid }

theorem extractLsb'_high_eq_zero {w : Word} (h : w.toNat < 2 ^ 32) : w.extractLsb' 32 32 = 0 := by
  apply BitVec.eq_of_toNat_eq
  rw [BitVec.extractLsb'_toNat, Nat.shiftRight_eq_div_pow, Nat.div_eq_of_lt h]
  rfl

/-- The number of the channel that a context's channel number is mapped to in the running thread's block (R26, R135). -/
def State.myChanNo (s : State) (c : CIdx) : CIdx := s.chanNo (blockOf s.cur) s.me.act.pid c
def State.myChan (s : State) (c : CIdx) : Channel := (s.block (blockOf s.cur)).chan (s.myChanNo c)

section
variable {s s1 : State} {c : CIdx} {a b : GReg} {keep : Bool} {f : Inst} {dig : Digest} {bs : List Byte} {e : DirEntry}

/-- CHBIND of a good structure onto a channel that may be bound. -/
theorem exec_chbind_of_good (hact : isAct s.cur = true) (hwait : s.readWaits (s.g a) 16 = false) (hinst : s.myInst = some f)
    (hk : (s.g b).toNat < 2 ^ 32) (hdig : f.digs[(s.g b).toNat]? = some dig) (hread : s.readS (s.g a) 16 16 = .ok (bs, s1))
    (hlook : s1.lookup (clusterOf s.cur) s.me.act.pid (s.me.mode == .monitor) dig = some e)
    (hprio : field bs 1 1 ≤ 7) (hstage : field bs 2 1 ≤ 7 ∨ field bs 2 1 = 0xFF) (h3 : field bs 3 1 = 0) (h6 : field bs 6 2 = 0)
    (h12 : field bs 12 4 = 0) (howned : (s.myChan c).ownedBy s.me.act.pid = true)
    (hidle : ¬ ((0 < (s.myChan c).slots.length + (s.myChan c).reserved ∨ 0 < (s.myChan c).running) ∧ (!keep) = true)) :
    exec (.chbind c a b keep) s = .next (s1.modBlock (blockOf s.cur) fun k => k.modChan (s.myChanNo c) fun h =>
      { h with bind := some (s.newBinding (s.myChan c) e.handle bs) }).retire := by
  obtain ⟨k, rfl⟩ := State.eq_of_readS hread
  have hbad : ¬ (7 < field bs 1 1 ∨ (7 < field bs 2 1 ∧ field bs 2 1 ≠ 0xFF) ∨ field bs 3 1 ≠ 0 ∨ field bs 6 2 ≠ 0 ∨ field bs 12 4 ≠ 0) := by
    omega
  have hfound := State.lookupOrCreate_of_lookup hlook
  show execChbind c a b keep s = _
  unfold execChbind noService
  rw [if_pos hact]
  dsimp only
  rw [if_neg (by rw [hwait]; decide), hinst, extractLsb'_high_eq_zero hk, if_pos rfl, hdig, hread]
  dsimp only
  rw [if_neg hbad]
  show (if (!(s.myChan c).ownedBy s.me.act.pid) = true then _ else
    if _ then _ else match State.lookupOrCreate { s with free := k } (clusterOf s.cur) s.me.act.pid (s.me.mode == Mode.monitor) dig with
      | (none, s2) => _ | (some h, s2) => _) = _
  rw [if_neg (by rw [howned]; decide)]
  refine (if_neg hidle).trans ?_
  rw [hfound]
  rfl
end

/-! ## CHINFO (R137) -/

/-- What CHINFO writes for a channel that belongs to the context (R137). -/
def chinfoWord (n : Binding) (slots running : Nat) : Word :=
  BitVec.ofNat 64 (min 16 slots * 2 ^ 15 + min 16 running * 2 ^ 10) |||
    BitVec.ofNat 64 (n.handle.toNat * 2 ^ 32 + 2 ^ 31 + n.prio.toNat * 2 ^ 28 + n.stage.toNat * 2 ^ 20)

theorem or_of_counts {h p g lo : Nat} (hlo : lo < 2 ^ 20) :
    lo ||| (h * 2 ^ 32 + 2 ^ 31 + p * 2 ^ 28 + g * 2 ^ 20) = h * 2 ^ 32 + 2 ^ 31 + p * 2 ^ 28 + g * 2 ^ 20 + lo := by
  have hor := Nat.two_pow_add_eq_or_of_lt hlo (h * 2 ^ 12 + 2 ^ 11 + p * 2 ^ 8 + g)
  have htop : h * 2 ^ 32 + 2 ^ 31 + p * 2 ^ 28 + g * 2 ^ 20 = 2 ^ 20 * (h * 2 ^ 12 + 2 ^ 11 + p * 2 ^ 8 + g) := by ring
  rw [htop, Nat.or_comm, ← hor]

theorem toNat_chinfoWord (n : Binding) (slots running : Nat) : (chinfoWord n slots running).toNat =
    n.handle.toNat * 2 ^ 32 + 2 ^ 31 + n.prio.toNat * 2 ^ 28 + n.stage.toNat * 2 ^ 20 +
      (min 16 slots * 2 ^ 15 + min 16 running * 2 ^ 10) := by
  have bound : ∀ h p g : Nat, h < 2 ^ 32 → p < 2 ^ 3 → g < 2 ^ 8 → h * 2 ^ 32 + 2 ^ 31 + p * 2 ^ 28 + g * 2 ^ 20 < 2 ^ 64 := by omega
  have hlow : min 16 slots * 2 ^ 15 + min 16 running * 2 ^ 10 < 2 ^ 20 := by omega
  rw [chinfoWord, BitVec.toNat_or, BitVec.toNat_ofNat, BitVec.toNat_ofNat, Nat.mod_eq_of_lt (hlow.trans (by decide)),
    Nat.mod_eq_of_lt (bound _ _ _ n.handle.isLt n.prio.isLt n.stage.isLt), or_of_counts hlow]

theorem extractLsb'_of_toNat {w : Word} {lo len k : Nat} {x : BitVec len} (h : w.toNat / 2 ^ lo = k * 2 ^ len + x.toNat) :
    w.extractLsb' lo len = x := by
  apply BitVec.eq_of_toNat_eq
  rw [BitVec.extractLsb'_toNat, Nat.shiftRight_eq_div_pow, h, Nat.mul_add_mod', Nat.mod_eq_of_lt x.isLt]

theorem chinfoWord_fields (n : Binding) (slots running : Nat) :
    let w := chinfoWord n slots running
    w.extractLsb' 32 32 = n.handle ∧ w.getLsbD 31 = true ∧ w.extractLsb' 28 3 = n.prio ∧ w.extractLsb' 20 8 = n.stage ∧
      (w.extractLsb' 15 5).toNat = min 16 slots ∧ (w.extractLsb' 10 5).toNat = min 16 running ∧ w.extractLsb' 0 10 = 0 := by
  intro w
  have hw : w.toNat = _ := toNat_chinfoWord n slots running
  have hh := n.handle.isLt
  have hp := n.prio.isLt
  have hs := n.stage.isLt
  refine ⟨extractLsb'_of_toNat (k := 0) ?_, ?_, extractLsb'_of_toNat (k := n.handle.toNat * 2 + 1) ?_,
    extractLsb'_of_toNat (k := n.handle.toNat * 2 ^ 4 + 2 ^ 3 + n.prio.toNat) ?_, ?_, ?_, ?_⟩
  · omega
  · rw [BitVec.getLsbD, Nat.testBit_eq_decide_div_mod_eq, decide_eq_true_iff]
    omega
  · omega
  · omega
  · rw [BitVec.extractLsb'_toNat, Nat.shiftRight_eq_div_pow]
    omega
  · rw [BitVec.extractLsb'_toNat, Nat.shiftRight_eq_div_pow]
    omega
  · apply BitVec.eq_of_toNat_eq
    rw [BitVec.extractLsb'_toNat, Nat.shiftRight_eq_div_pow]
    show _ = 0
    omega

theorem writes_chinfo {s : State} {d : GReg} {c : CIdx} {n : Binding} (hact : isAct s.cur = true)
    (hbind : (s.myChan c).bind = some n) (hpid : n.pid = s.me.act.pid) :
    Writes s (.chinfo d c) d (chinfoWord n (s.myChan c).slots.length (s.myChan c).running) := by
  have howned : (s.myChan c).ownedBy s.me.act.pid = true := by
    rw [Channel.ownedBy, hbind]
    exact beq_iff_eq.mpr hpid
  show execChinfo d c s = _
  unfold execChinfo noService
  rw [if_pos hact]
  show Host.Outcome.next (s.writeRetire d (if (!(s.myChan c).ownedBy s.me.act.pid) = true then 0 else match (s.myChan c).bind with
    | none => _ | some n => _)) = _
  rw [howned, hbind]
  rfl

/-- Settles O17: CHBIND passes its checks by the premises and stores the binding in the mapped channel; CHINFO's word is the
sum of its parts, which do not overlap. -/
theorem channelsAreBoundAndReported : Obligations.ChannelsAreBoundAndReported := by
  intro s c d a b keep hact blk no ch
  refine ⟨fun hwait f dig e bs s1 hinst hk hdig hread hlook hprio hstage h3 h6 h12 howned hkeep => ?_, fun n hbind hpid => ?_⟩
  · have hidle : ¬ ((0 < ch.slots.length + ch.reserved ∨ 0 < ch.running) ∧ (!keep) = true) := by
      rintro ⟨hbusy, hk⟩
      rcases hkeep with rfl | ⟨h1, h2, h3⟩
      · cases hk
      · rw [h1, h2, h3] at hbusy
        rcases hbusy with h | h <;> cases h
    have hexec := exec_chbind_of_good hact hwait hinst hk hdig hread hlook hprio hstage h3 h6 h12 howned hidle
    obtain ⟨k, rfl⟩ := State.eq_of_readS hread
    obtain ⟨hret, hreg⟩ := ((Quietly.free s k).trans (Quietly.modBlock _ blk fun b => b.modChan no fun h =>
      { h with bind := some (s.newBinding ch e.handle bs) })).retire
    refine ⟨_, s.newBinding ch e.handle bs, hexec, hret, hreg, ?_, rfl, ?_, ?_, rfl, ?_⟩
    · have hput := State.block_modBlock { s with free := k } blk blk fun b => b.modChan no fun h =>
        { h with bind := some (s.newBinding ch e.handle bs) }
      rw [if_pos rfl] at hput
      refine (congrArg (fun b : Block => (b.chan no).bind) hput).trans ?_
      rw [Block.chan_modChan, if_pos rfl]
    · exact (BitVec.toNat_ofNat _ _).trans (Nat.mod_eq_of_lt (by omega))
    · exact (BitVec.toNat_ofNat _ _).trans (Nat.mod_eq_of_lt (by omega))
    · have hlt := field_lt bs 4 2
      show (if field bs 4 2 = 0 then (0xFFFF : BitVec 16) else BitVec.ofNat 16 (field bs 4 2)).toNat = _
      split
      · rfl
      · exact (BitVec.toNat_ofNat _ _).trans (Nat.mod_eq_of_lt hlt)
  · obtain ⟨t, hexec, hfall, hset⟩ := (writes_chinfo (d := d) hact hbind hpid).spec
    exact ⟨t, _, hexec, hfall, hset, chinfoWord_fields n _ _⟩

end Sys2Proof.Machine
end

section
/-! SUPPORT. Control registers: GETC and SETC (R159–R161, R393). -/

namespace Sys2Proof.Machine

open Sys2Proof.Claims

/-! ## Two fields in one word -/

/-- A field above the low byte, beside one within it. -/
theorem shl8_or_eq_ofNat {v w : Nat} {hi : BitVec v} {lo : BitVec w} (hv : v ≤ 8) (hw : w ≤ 8) :
    (hi.setWidth 64 <<< 8) ||| lo.setWidth 64 = BitVec.ofNat 64 (hi.toNat * 256 + lo.toNat) := by
  have hhi : hi.toNat < 2 ^ 8 := hi.isLt.trans_le (Nat.pow_le_pow_right (by decide) hv)
  have hlo : lo.toNat < 2 ^ 8 := lo.isLt.trans_le (Nat.pow_le_pow_right (by decide) hw)
  have hor := Nat.two_pow_add_eq_or_of_lt hlo hi.toNat
  apply BitVec.eq_of_toNat_eq
  rw [BitVec.toNat_or, BitVec.toNat_shiftLeft, BitVec.toNat_setWidth, BitVec.toNat_setWidth, BitVec.toNat_ofNat, Nat.shiftLeft_eq,
    Nat.mod_eq_of_lt (hhi.trans (by decide)), Nat.mod_eq_of_lt (hlo.trans (by decide)), Nat.mod_eq_of_lt (by omega),
    Nat.mod_eq_of_lt (by omega), Nat.mul_comm, ← hor, Nat.mul_comm]

theorem append_eq_ofNat (hi lo : BitVec 32) : (hi ++ lo : Word) = BitVec.ofNat 64 (hi.toNat * 2 ^ 32 + lo.toNat) := by
  have hor := Nat.two_pow_add_eq_or_of_lt lo.isLt hi.toNat
  have hhi := hi.isLt
  have hlo := lo.isLt
  apply BitVec.eq_of_toNat_eq
  rw [BitVec.toNat_append, BitVec.toNat_ofNat, Nat.shiftLeft_eq, Nat.mul_comm, ← hor, Nat.mod_eq_of_lt (by omega)]

theorem setWidth_eq_ofNat {v : Nat} (x : BitVec v) : x.setWidth 64 = BitVec.ofNat 64 x.toNat := (BitVec.ofNat_toNat 64 x).symm

/-! ## GETC (R159) -/

/-- The value of LC0 to LC3 (R100). -/
def Thread.level (x : Thread) (k : Nat) : Word :=
  match x.loops.reverse[k]? with
  | some l => BitVec.ofNat 64 (l.calls.toNat * 2 ^ 32 + l.count.toNat)
  | none => 0

theorem Thread.loopReg_eq (x : Thread) (k : Nat) : x.loopReg k = x.level k := by
  rw [Thread.loopReg, Thread.level]
  cases x.loops.reverse[k]? with
  | some l => exact append_eq_ofNat l.calls l.count
  | none => rfl

/-- The registers of an activation thread by number, with what GETC reads (R159–R161). -/
def State.activationRegs (s : State) : List (Nat × Word) :=
  [(0x000, BitVec.ofNat 64 s.cur), (0x001, BitVec.ofNat 64 (s.me.act.stage.toNat * 256 + s.me.act.chan.toNat)),
    (0x002, BitVec.ofNat 64 s.me.act.prio.toNat), (0x003, s.me.act.wid), (0x004, BitVec.ofNat 64 s.me.act.widspec.toNat), (0x005, s.cycle),
    (0x006, BitVec.ofNat 64 s.me.act.dline.toNat), (0x007, BitVec.ofNat 64 s.me.act.retire),
    (0x008, BitVec.ofNat 64 (s.me.drm.toNat * 256 + s.me.flagsRead.toNat)), (0x00A, s.me.act.codeflt),
    (0x00B, s.me.level 0), (0x00C, s.me.level 1), (0x00D, s.me.level 2), (0x00E, s.me.level 3),
    (0x012, BitVec.ofNat 64 s.me.act.eqlast.toNat), (0x016, s.me.act.rfault), (0x017, s.me.act.ticket), (0x018, s.me.act.mcack),
    (0x019, 0x00030001), (0x01A, BitVec.ofNat 64 s.me.act.ttlmask.toNat)]

theorem isCore_of_isAct {t : Nat} (h : isAct t = true) : isCore t = true := by
  simp only [isAct, isCore, decide_eq_true_iff] at *
  omega

/-- For an activation thread the low registers hold these values; none of them is one that a service thread reads as 0. -/
theorem State.lowReg_of_mem {s : State} (hact : isAct s.cur = true) : ∀ p ∈ s.activationRegs, s.lowReg p.1 = .value p.2 s := by
  have hcore : s.coreReg = .value (BitVec.ofNat 64 s.cur) s := if_pos (isCore_of_isAct hact)
  have hserv : ∀ n, (!isAct s.cur && serviceless n) = false := fun n => by rw [hact]; rfl
  have hstage := shl8_or_eq_ofNat (hi := s.me.act.stage) (lo := s.me.act.chan) (by decide) (by decide)
  have hflags := shl8_or_eq_ofNat (hi := s.me.drm) (lo := s.me.flagsRead) (by decide) (by decide)
  simp only [State.activationRegs, List.forall_mem_cons, List.not_mem_nil, false_imp_iff, implies_true, and_true]
  simp [State.lowReg, hserv, hcore, hstage, fstatWord, hflags, Thread.loopReg_eq]

theorem lt_of_mem_activationRegs {s : State} : ∀ p ∈ s.activationRegs, p.1 < 0x800 := by
  simp [State.activationRegs]

/-- A register below 0x800 that is there is read. -/
theorem writes_getc_low {s : State} {d : GReg} {n : BitVec 12} {w : Word} (hn : n.toNat < 0x800) (h : s.lowReg n.toNat = .value w s) :
    Writes s (.getc d n) d w := by
  have hname : s.mayNotName n = false := by
    rw [State.mayNotName, decide_eq_false (by omega)]
    rfl
  show execGetc d n s = _
  rw [execGetc, hname, if_pos hn, h]
  rfl

theorem getcReadsTheActivationRegisters : Claims.GetcReadsTheActivationRegisters := by
  intro s d n w hact hany
  obtain ⟨p, hp, heq⟩ := List.any_eq_true.mp hany
  have hreg : ((n.toNat, w) : Nat × Word) ∈ s.activationRegs := of_decide_eq_true heq ▸ hp
  exact (writes_getc_low (lt_of_mem_activationRegs _ hreg) (State.lowReg_of_mem hact _ hreg)).spec

/-! ## SETC (R161) -/

section
variable {s : State} {a : GReg} {n : BitVec 12}

theorem exec_setc_low (hn : n.toNat < 0x800) : exec (.setc a n) s = match s.writeLow n.toNat (s.g a) with
    | some x => .next (s.modMyAct fun _ => x).retire
    | none => illegal (.setc a n) s := by
  have hname : s.mayNotName n = false := by
    rw [State.mayNotName, decide_eq_false (by omega)]
    rfl
  show execSetc a n s = _
  rw [execSetc, hname, if_pos hn]
  rfl

/-- SETC that writes a field of the activation beside its pc, loops and registers. -/
theorem setc_low_of_some {x : Act} (hn : n.toNat < 0x800) (hw : s.writeLow n.toNat (s.g a) = some x)
    (hsame : x.pc = s.me.act.pc ∧ x.loops = s.me.act.loops ∧ x.g = s.me.act.g ∧ x.v = s.me.act.v) :
    ∃ t, exec (.setc a n) s = .next t ∧ Retired s t ∧ NoReg s t ∧ SameUnit { s.me with act := x } t.me := by
  obtain ⟨hpc, hloops, hg, hv⟩ := hsame
  have hexec : exec (.setc a n) s = _ := exec_setc_low hn
  rw [hw] at hexec
  obtain ⟨hret, hreg⟩ := (Quietly.modMyAct s (fun _ => x) hpc hloops hg hv).retire
  refine ⟨_, hexec, hret, hreg, ?_⟩
  have hme : (s.modMyAct fun _ => x).me = { s.me with act := x } := State.me_modMe s _
  rw [← hme]
  exact State.retire_sameUnit _

theorem setc_low_of_none (hn : n.toNat < 0x800) (hw : s.writeLow n.toNat (s.g a) = none) :
    exec (.setc a n) s = .next (s.takeFault { code := 0x01, val := (encode (.setc a n)).extractLsb' 32 64 }) := by
  have hexec : exec (.setc a n) s = _ := exec_setc_low hn
  rw [hw] at hexec
  exact hexec

/-- A low register that only reads, or that is not there. -/
theorem State.writeLow_eq_none {k : Nat} (h2 : k ≠ 0x02) (h8 : k ≠ 0x08) (hA : k ≠ 0x0A) (h14 : k ≠ 0x14) (h1A : k ≠ 0x1A) (w : Word) :
    s.writeLow k w = none := by
  unfold State.writeLow
  split
  · rfl
  · split <;> trivial

end

/-- In an activation thread SETC may write PRIO, FSTAT and CODEFLT. -/
theorem State.writeLow_of_act {s : State} (hact : isAct s.cur = true) (w : Word) :
    s.writeLow 0x02 w = (if s.me.act.prio.toNat < w.toNat % 8 then none else some { s.me.act with prio := w.setWidth 3 }) ∧
      s.writeLow 0x08 w = some { s.me.act with drm := w.extractLsb' 8 3, flags := w.setWidth 5 } ∧
      s.writeLow 0x0A w = some { s.me.act with codeflt := w } := by
  have hserv : ∀ n, (!isAct s.cur && serviceless n) = false := fun n => by rw [hact]; rfl
  simp [State.writeLow, hserv]

theorem toNat_extractLsb'_low3 (w : Word) : (w.extractLsb' 0 3).toNat = w.toNat % 8 := by
  rw [BitVec.extractLsb'_toNat, Nat.shiftRight_zero]

theorem setcWritesWhatItMay : Claims.SetcWritesWhatItMay := by
  intro s a hact w
  obtain ⟨hprio, hfstat, hcodeflt⟩ := State.writeLow_of_act hact w
  have hwidth : ∀ k, k ≤ 64 → w.setWidth k = w.extractLsb' 0 k := fun k hk => BitVec.setWidth_eq_extractLsb' hk
  refine ⟨fun hle => ?_, fun hlt => ?_, ?_, ?_, fun n hn => ?_⟩
  · rw [toNat_extractLsb'_low3] at hle
    obtain ⟨t, hexec, hret, hreg, hsame⟩ := setc_low_of_some (a := a) (n := 0x002) (by decide) (hprio.trans (if_neg (by omega))) ⟨rfl, rfl, rfl, rfl⟩
    exact ⟨t, hexec, hret, hreg, hsame.prio.trans (hwidth 3 (by decide))⟩
  · rw [toNat_extractLsb'_low3] at hlt
    exact setc_low_of_none (by decide) (hprio.trans (if_pos hlt))
  · obtain ⟨t, hexec, hret, hreg, hsame⟩ := setc_low_of_some (a := a) (n := 0x008) (by decide) hfstat ⟨rfl, rfl, rfl, rfl⟩
    exact ⟨t, hexec, hret, hreg, hsame.drm, hsame.flags.trans (hwidth 5 (by decide))⟩
  · obtain ⟨t, hexec, hret, hreg, hsame⟩ := setc_low_of_some (a := a) (n := 0x00A) (by decide) hcodeflt ⟨rfl, rfl, rfl, rfl⟩
    exact ⟨t, hexec, hret, hreg, hsame.codeflt⟩
  · have hno : n.toNat < 0x800 ∧ n.toNat ≠ 0x02 ∧ n.toNat ≠ 0x08 ∧ n.toNat ≠ 0x0A ∧ n.toNat ≠ 0x14 ∧ n.toNat ≠ 0x1A := by
      simp only [List.mem_cons, List.not_mem_nil, or_false] at hn
      rcases hn with rfl | rfl | rfl | rfl | rfl | rfl | rfl | rfl | rfl | rfl <;> decide
    obtain ⟨hlow, h2, h8, hA, h14, h1A⟩ := hno
    exact setc_low_of_none hlow (State.writeLow_eq_none h2 h8 hA h14 h1A _)

/-! ## The monitor's registers (R393) -/

section
variable {s : State} {r : GReg} {n : BitVec 12}

theorem raisesOpen_raiseOpen (s : State) (code : Byte) : RaisesOpen s code (raiseOpen code s) :=
  ⟨s.takeFree.2, s.takeFree.1, rfl, rfl⟩

theorem State.mayNotName_of_high (hn : 0x800 ≤ n.toNat) : s.mayNotName n = !(isAct s.cur && s.me.mode == .monitor) := by
  rw [State.mayNotName, decide_eq_true hn]
  rfl

/-- Outside monitor mode nobody may name the monitor's registers. -/
theorem raises_of_mayNotName (h : s.mayNotName n = true) :
    RaisesOpen s 0x15 (exec (.getc r n) s) ∧ RaisesOpen s 0x15 (exec (.setc r n) s) := by
  have hget : exec (.getc r n) s = raiseOpen 0x15 s := if_pos h
  have hset : exec (.setc r n) s = raiseOpen 0x15 s := if_pos h
  rw [hget, hset]
  exact ⟨raisesOpen_raiseOpen s _, raisesOpen_raiseOpen s _⟩

variable (hact : isAct s.cur = true) (hmode : s.me.mode = .monitor) (hn : 0x800 ≤ n.toNat)
include hact hmode hn

theorem State.mayName_of_monitor : s.mayNotName n = false := by
  rw [State.mayNotName_of_high hn, hact, hmode]
  rfl

theorem writes_getc_high {w : Word} (h : s.highReg n.toNat = .value w s) : Writes s (.getc r n) r w := by
  show execGetc r n s = _
  rw [execGetc, State.mayName_of_monitor hact hmode hn, if_neg (Nat.not_lt.mpr hn), h]
  rfl

/-- SETC of a register of the monitor that it may write. -/
theorem setc_high_of_some {u : State} (hw : s.writeHigh n.toNat (s.g r) = some u) (hq : Quietly s u) :
    ∃ t, exec (.setc r n) s = .next t ∧ Retired s t ∧ NoReg s t ∧ SameUnit u.me t.me := by
  have hexec : execSetc r n s = .next u.retire := by
    rw [execSetc, State.mayName_of_monitor hact hmode hn, if_neg (Nat.not_lt.mpr hn), hw]
    rfl
  obtain ⟨hret, hreg⟩ := hq.retire
  exact ⟨_, hexec, hret, hreg, u.retire_sameUnit⟩

end

/-- The registers of the monitor that a GETC reads by the statement (R393). -/
def State.monitorRegs (s : State) : List (Nat × Word) :=
  [(0x801, BitVec.ofNat 64 s.me.mcause.toNat), (0x802, s.me.mepc), (0x803, s.me.mtval), (0x804, BitVec.ofNat 64 s.me.act.pid.toNat),
    (0x805, BitVec.ofNat 64 s.me.act.encl.toNat), (0x808, BitVec.ofNat 64 s.me.act.vi.toNat),
    (0x80A, BitVec.ofNat 64 s.me.wdcfg.toNat), (0x80B, (s.block (blockOf s.cur)).savebase)]

theorem State.highReg_of_mem (s : State) : ∀ p ∈ s.monitorRegs, s.highReg p.1 = .value p.2 s := by
  simp only [State.monitorRegs, List.forall_mem_cons, List.not_mem_nil, false_imp_iff, implies_true, and_true]
  simp [State.highReg]

/-- A change of the running thread beside its activation, its banks, loops, mode and status. -/
theorem Quietly.modMonitor (s : State) (f : Thread → Thread)
    (hf : ∀ x, (f x).act = x.act ∧ (f x).mloops = x.mloops ∧ (f x).mode = x.mode ∧ (f x).status = x.status ∧ (f x).mg = x.mg) :
    Quietly s (s.modMe f) := by
  obtain ⟨hact, hloops, hmode, hstatus, hmg⟩ := hf s.me
  refine Quietly.modMe s f (by rw [hact]) ?_ hmode hstatus (fun r => ?_) (by rw [hact])
  · simp only [Thread.loops, hact, hloops, hmode]
  · simp only [Thread.reg, hact, hmg, hmode]

theorem monitorRegistersAreTheMonitors : Claims.MonitorRegistersAreTheMonitors := by
  intro s r n hn
  refine ⟨fun hout => raises_of_mayNotName ?_, fun hact hmode => ⟨fun w hw => ?_, fun hset => ?_⟩⟩
  · rw [State.mayNotName_of_high hn]
    rcases hout with h | h <;> rw [h]
    · rfl
    · rw [Bool.and_comm]
      rfl
  · exact (writes_getc_high hact hmode hn (s.highReg_of_mem _ hw)).spec
  · have hwidth : ∀ k, k ≤ 64 → (s.g r).setWidth k = (s.g r).extractLsb' 0 k := fun k hk => BitVec.setWidth_eq_extractLsb' hk
    have hmon : ∀ f : Thread → Thread, (∀ x, (f x).act = x.act ∧ (f x).mloops = x.mloops ∧ (f x).mode = x.mode ∧ (f x).status = x.status ∧
        (f x).mg = x.mg) → s.writeHigh n.toNat (s.g r) = some (s.modMe f) →
        ∃ t, exec (.setc r n) s = .next t ∧ Retired s t ∧ NoReg s t ∧ SameUnit (f s.me) t.me := fun f hf hw => by
      rw [← State.me_modMe s f]
      exact setc_high_of_some hact hmode hn hw (Quietly.modMonitor s f hf)
    have hctx : ∀ f : Act → Act, ((f s.me.act).pc = s.me.act.pc ∧ (f s.me.act).loops = s.me.act.loops ∧ (f s.me.act).g = s.me.act.g ∧
        (f s.me.act).v = s.me.act.v) → s.writeHigh n.toNat (s.g r) = some (s.modMyAct f) →
        ∃ t, exec (.setc r n) s = .next t ∧ Retired s t ∧ NoReg s t ∧ SameUnit { s.me with act := f s.me.act } t.me :=
      fun f ⟨hpc, hls, hg, hv⟩ hw => by
        have hme : (s.modMyAct f).me = { s.me with act := f s.me.act } := State.me_modMe s _
        rw [← hme]
        exact setc_high_of_some hact hmode hn hw (Quietly.modMyAct s f hpc hls hg hv)
    simp only [List.mem_cons, List.not_mem_nil, or_false] at hset
    rcases hset with h | h | h | h | h | h | h <;> rw [h] at hmon hctx ⊢
    · obtain ⟨t, hexec, hret, hreg, hsame⟩ := hmon (fun x => { x with mcause := (s.g r).setWidth 8 }) (fun _ => ⟨rfl, rfl, rfl, rfl, rfl⟩) rfl
      exact ⟨t, hexec, hret, hreg, by simp [hsame.mcause, hwidth]⟩
    · obtain ⟨t, hexec, hret, hreg, hsame⟩ := hmon (fun x => { x with mepc := s.g r }) (fun _ => ⟨rfl, rfl, rfl, rfl, rfl⟩) rfl
      exact ⟨t, hexec, hret, hreg, by simp [hsame.mepc]⟩
    · obtain ⟨t, hexec, hret, hreg, hsame⟩ := hmon (fun x => { x with mtval := s.g r }) (fun _ => ⟨rfl, rfl, rfl, rfl, rfl⟩) rfl
      exact ⟨t, hexec, hret, hreg, by simp [hsame.mtval]⟩
    · obtain ⟨t, hexec, hret, hreg, hsame⟩ := hctx (fun a => { a with pid := (s.g r).setWidth 16 }) ⟨rfl, rfl, rfl, rfl⟩ rfl
      exact ⟨t, hexec, hret, hreg, by simp [hsame.pid, hwidth]⟩
    · obtain ⟨t, hexec, hret, hreg, hsame⟩ := hctx (fun a => { a with encl := (s.g r).setWidth 8 }) ⟨rfl, rfl, rfl, rfl⟩ rfl
      exact ⟨t, hexec, hret, hreg, by simp [hsame.encl, hwidth]⟩
    · obtain ⟨t, hexec, hret, hreg, hsame⟩ := hctx (fun a => { a with vi := (s.g r).setWidth 6 }) ⟨rfl, rfl, rfl, rfl⟩ rfl
      exact ⟨t, hexec, hret, hreg, by simp [hsame.vi, hwidth]⟩
    · obtain ⟨t, hexec, hret, hreg, hsame⟩ := hmon (fun x => { x with wdcfg := (s.g r).setWidth 16 }) (fun _ => ⟨rfl, rfl, rfl, rfl, rfl⟩) rfl
      exact ⟨t, hexec, hret, hreg, by simp [hsame.wdcfg, hwidth]⟩

/-- Settles O19: each register by its number, its value as the activation or the thread holds it. -/
theorem controlRegistersAreReadAndWritten : Obligations.ControlRegistersAreReadAndWritten :=
  ⟨getcReadsTheActivationRegisters, setcWritesWhatItMay, monitorRegistersAreTheMonitors⟩

end Sys2Proof.Machine
end

section
/-! SUPPORT. A send that is refused after it has waited (R141): the thread's note of its wait goes before the fault. -/

namespace Sys2Proof.Machine

open Sys2Proof.Claims

/-- Channel 4 of block 0, which is not bound. -/
def unboundChannel : Word := 0x5000000002000000

/-- Thread 0, in context mode, tries again a SEND to a channel that is no longer bound: it has waited for it, and so names it
as what it waits for. -/
def waitedSender : State := { State.reset with
  cur := 0
  threads := [(0, { act := { g := [(5, unboundChannel)] }, mode := .context, status := .running
                    sendDst := some { dst := unboundChannel, words := 1 } })]
  clusters := [(0, { dir := [{ pid := 0, digest := 0, handle := 1, inst := none }] })] }

theorem waitedSender_maySend : MaySend waitedSender unboundChannel := by constructor <;> decide +kernel

theorem waitedSender_answer : waitedSender.answerTo waitedSender.cur waitedSender.me.act.pid unboundChannel 1 = .unbound := by
  decide +kernel

/-- What an outcome leaves of thread 0's note of its wait. -/
def sendDstAfter : Host.Outcome State Fault Refusal → Option SendWait
  | .next t => (t.th 0).sendDst
  | _ => none

/-- The model ends the wait before it takes the fault; the statement's fault is taken in the state as it was. -/
theorem waitedSender_sendDst : sendDstAfter (exec (.send 5 1 0 1 false) waitedSender) = none ∧
    sendDstAfter (.next (waitedSender.takeFault { code := 0x0F, val := unboundChannel })) = some { dst := unboundChannel, words := 1 } := by
  decide +kernel

/-- Refutes O14: a SEND that had stalled on a full channel and then finds it unbound ends its wait (its sendDst) as it raises the
send-refused fault, where the statement's next state still holds it. -/
theorem not_sendsAreGrantedOrRefused : ¬ Obligations.SendsAreGrantedOrRefused := by
  rintro ⟨-, hnot, -⟩
  obtain ⟨-, hgood⟩ := hnot waitedSender (.send 5 1 0 1 false) unboundChannel 0 [0] none none rfl waitedSender_maySend.act
  obtain ⟨-, -, hraise⟩ := hgood (by decide) waitedSender_maySend _ rfl
  have hexec := hraise rfl (.inl waitedSender_answer)
  obtain ⟨hnone, hsome⟩ := waitedSender_sendDst
  rw [hexec, hsome] at hnone
  cases hnone

end Sys2Proof.Machine
end

section
/-! SUPPORT. What starting an activation on a thread changes: the thread, the journal of its team and the trace (R138, R139, R163, R416). -/

namespace Sys2Proof.Machine

open Sys2Proof.Claims

/-! ## The trace unit -/

/-- u is s but for memory and for what the trace unit keeps of thread t. -/
structure TraceFrame (t : Nat) (s u : State) : Prop where
  others : ∀ v, v ≠ t → u.th v = s.th v
  traced : ∃ trace, u.th t = { s.th t with trace }
  rest : u = { s with threads := u.threads, mem := u.mem }

theorem TraceFrame.refl (t : Nat) (s : State) : TraceFrame t s s := ⟨fun _ _ => rfl, ⟨_, rfl⟩, rfl⟩

theorem TraceFrame.trans {t : Nat} {s u v : State} (h : TraceFrame t s u) (k : TraceFrame t u v) : TraceFrame t s v := by
  obtain ⟨hoth, ⟨tr, htr⟩, hrest⟩ := h
  obtain ⟨koth, ⟨kr, kkr⟩, krest⟩ := k
  refine ⟨fun w hw => (koth w hw).trans (hoth w hw), ⟨kr, ?_⟩, ?_⟩
  · rw [kkr, htr]
  · rw [krest, hrest]

theorem TraceFrame.modTh (s : State) (t : Nat) (f : Thread → Thread) (hf : ∀ x, ∃ trace, f x = { x with trace }) :
    TraceFrame t s (s.modTh t f) := by
  refine ⟨fun v hv => by rw [State.th_modTh, if_neg hv], ?_, rfl⟩
  rw [State.th_modTh, if_pos rfl]
  exact hf _

theorem TraceFrame.ringPut (s : State) (t type : Nat) (b : TraceBlock) : TraceFrame t s (s.ringPut t type b) := by
  unfold State.ringPut
  split
  · exact TraceFrame.refl ..
  · split
    · exact TraceFrame.refl ..
    · next bs _ =>
      exact TraceFrame.trans (u := s.monitorWrite (ringBase (s.th t).trcfg + (s.th t).trace.head % ringSize (s.th t).trcfg) bs)
        ⟨fun _ _ => rfl, ⟨_, rfl⟩, rfl⟩ (TraceFrame.modTh _ t _ fun _ => ⟨_, rfl⟩)

theorem TraceFrame.openBlock (s : State) (t type : Nat) (b : TraceBlock) : TraceFrame t s (s.openBlock t type b).2 := by
  unfold State.openBlock
  dsimp only
  split
  · exact TraceFrame.refl ..
  · split
    · exact TraceFrame.refl ..
    · exact TraceFrame.ringPut ..

theorem TraceFrame.traceEntry (s : State) (t : Nat) (e : List Byte) : TraceFrame t s (s.traceEntry t e) := by
  unfold State.traceEntry
  dsimp only
  refine TraceFrame.trans ?_ (TraceFrame.modTh _ t _ fun _ => ⟨_, rfl⟩)
  refine TraceFrame.trans (TraceFrame.openBlock s t 1 (s.th t).trace.entries) ?_
  split
  · exact TraceFrame.ringPut ..
  · exact TraceFrame.refl ..

theorem TraceFrame.noteConf (s : State) (t : Nat) : TraceFrame t s (s.noteConf t) := TraceFrame.modTh _ t _ fun _ => ⟨_, rfl⟩

/-- The record of a dispatch changes what the trace unit keeps, and the ring. -/
theorem TraceFrame.traceDispatch (s : State) (t : Nat) (resumed : Bool) : TraceFrame t s (s.traceDispatch t resumed) := by
  unfold State.traceDispatch
  dsimp only
  split
  · exact ((TraceFrame.noteConf s t).trans (TraceFrame.traceEntry ..)).trans (TraceFrame.modTh _ t _ fun _ => ⟨_, rfl⟩)
  · exact TraceFrame.noteConf ..

/-- With the trace off, nothing is written. -/
theorem State.traceDispatch_mem {s : State} {t : Nat} (h : traceTen (s.th t) = false) (resumed : Bool) :
    (s.traceDispatch t resumed).mem = s.mem := by
  have hten : traceTen ((s.noteConf t).th t) = false := by
    rw [State.noteConf, State.th_modTh, if_pos rfl]
    exact h
  unfold State.traceDispatch
  dsimp only
  rw [hten]
  rfl

/-! ## Starting an activation -/

/-- A thread on which activation a starts in context mode. -/
def Thread.started (x : Thread) (a : Act) (now : Word) : Thread :=
  { x with act := a, mode := .context, status := .running, mloops := [], mcall := false, served := false
           view := none, eqops := [], sendWait := 0, sendDst := none, bound := none, transfer := none
           head := now, headOf := (a.pc, a.retire, x.mretire, a.id) }

theorem State.startAct_eq (s : State) (t : Nat) (a : Act) :
    s.startAct t a = { s with nextAct := max s.nextAct (a.id + 1) }.modTh t fun x => x.started a s.cycle := rfl

theorem State.startAct_th (s : State) (t u : Nat) (a : Act) :
    (s.startAct t a).th u = if u = t then (s.th t).started a s.cycle else s.th u := by
  rw [State.startAct_eq, State.th_modTh]
  rfl

/-- The journal of a team stands in a block. -/
theorem State.journalMsg_eq (s : State) (blk t : Nat) (a : Act) (m : Option Msg) :
    s.journalMsg blk t a m = { s with blocks := (s.journalMsg blk t a m).blocks } := by
  unfold State.journalMsg
  split
  · rfl
  · dsimp only
    split <;> split <;> rfl

/-- u has the blocks of s, but for their teams' epochs. -/
def SameButEpochs (s u : State) : Prop := ∀ b, ∃ epochs, u.block b = { s.block b with epochs }

theorem SameButEpochs.refl (s : State) : SameButEpochs s s := fun _ => ⟨_, rfl⟩

theorem SameButEpochs.trans {s u v : State} (h : SameButEpochs s u) (k : SameButEpochs u v) : SameButEpochs s v := fun b => by
  obtain ⟨e, he⟩ := h b
  obtain ⟨e', he'⟩ := k b
  exact ⟨e', by rw [he', he]⟩

theorem SameButEpochs.modBlock (s : State) (k : Nat) (f : Block → Block) (hf : ∀ b, ∃ epochs, f b = { b with epochs }) :
    SameButEpochs s (s.modBlock k f) := fun b => by
  rw [State.block_modBlock]
  split
  · next h =>
    rw [h]
    exact hf _
  · exact ⟨_, rfl⟩

theorem State.journalMsg_sameButEpochs (s : State) (blk t : Nat) (a : Act) (m : Option Msg) : SameButEpochs s (s.journalMsg blk t a m) := by
  have hopen : ∀ (team : Word × Word), SameButEpochs s (if ((s.block blk).epoch team).isSome then s
      else s.modBlock blk fun b => { b with epochs := b.epochs ++ [{ launch := team.1, team := team.2 }] }) := fun team => by
    split
    · exact SameButEpochs.refl s
    · exact SameButEpochs.modBlock s blk _ fun _ => ⟨_, rfl⟩
  unfold State.journalMsg
  split
  · exact SameButEpochs.refl s
  · next team _ =>
    cases m with
    | none => exact hopen team
    | some m => exact (hopen team).trans (SameButEpochs.modBlock _ blk _ fun _ => ⟨_, rfl⟩)

/-- An activation started on thread t of state s, journalled and recorded: the thread runs it in context mode, no other thread is
touched, and beside the numbers of activations, the journal and the trace nothing else changes. -/
structure Started (t : Nat) (a : Act) (s u : State) : Prop where
  others : ∀ v, v ≠ t → u.th v = s.th v
  runs : ∃ trace, u.th t = { (s.th t).started a s.cycle with trace }
  rest : u = { s with threads := u.threads, mem := u.mem, blocks := u.blocks, nextAct := max s.nextAct (a.id + 1) }
  blocks : SameButEpochs s u
  mem : traceTen (s.th t) = false → u.mem = s.mem

theorem Started.traceDispatch {t : Nat} {a : Act} {s v : State} (hv : v = { s.startAct t a with blocks := v.blocks })
    (hblocks : SameButEpochs s v) (resumed : Bool) : Started t a s (v.traceDispatch t resumed) := by
  have h := TraceFrame.traceDispatch v t resumed
  have hth : ∀ w, v.th w = (s.startAct t a).th w := fun w => by
    rw [hv]
    rfl
  obtain ⟨tr, htr⟩ := h.traced
  refine ⟨fun w hw => ?_, ⟨tr, ?_⟩, ?_, ?_, fun hoff => ?_⟩
  · rw [h.others w hw, hth, State.startAct_th, if_neg hw]
  · rw [htr, hth, State.startAct_th, if_pos rfl]
  · rw [h.rest, hv]
    rfl
  · refine hblocks.trans ?_
    rw [h.rest]
    exact SameButEpochs.refl v
  · have hten : traceTen (v.th t) = false := by
      rw [hth, State.startAct_th, if_pos rfl]
      exact hoff
    rw [State.traceDispatch_mem hten, hv]
    rfl

/-- The start of an activation, as a dispatch or a recruitment makes it. -/
theorem State.startAct_started (s : State) (t : Nat) (a : Act) (blk : Nat) (m : Option Msg) (resumed : Bool) :
    Started t a s (((s.startAct t a).journalMsg blk t a m).traceDispatch t resumed) :=
  Started.traceDispatch (State.journalMsg_eq ..) (State.journalMsg_sameButEpochs (s.startAct t a) blk t a m) resumed

/-- The start of an activation that goes on, whose team is not journalled again. -/
theorem State.startAct_resumed (s : State) (t : Nat) (a : Act) (resumed : Bool) :
    Started t a s ((s.startAct t a).traceDispatch t resumed) :=
  Started.traceDispatch (v := s.startAct t a) rfl (SameButEpochs.refl s) resumed

section
variable {t : Nat} {a : Act} {s u : State} (h : Started t a s u)
include h

theorem Started.status : (u.th t).status = .running := by
  obtain ⟨tr, htr⟩ := h.runs
  rw [htr]
  rfl
theorem Started.mode : (u.th t).mode = .context := by
  obtain ⟨tr, htr⟩ := h.runs
  rw [htr]
  rfl
theorem Started.act : (u.th t).act = a := by
  obtain ⟨tr, htr⟩ := h.runs
  rw [htr]
  rfl
theorem Started.mg : (u.th t).mg = (s.th t).mg := by
  obtain ⟨tr, htr⟩ := h.runs
  rw [htr]
  rfl
theorem Started.cur : u.cur = s.cur := by rw [h.rest]
theorem Started.clusters : u.clusters = s.clusters := by rw [h.rest]

/-- In context mode a register is what the activation holds. -/
theorem Started.reg (r : GReg) : (u.th t).reg r = if r = 0 then 0 else Map.get 0 a.g r.toNat := by
  rw [Thread.reg, h.mode, h.act, if_neg (by decide : ¬ Mode.context = Mode.monitor)]
end

end Sys2Proof.Machine
end

section
/-! SUPPORT. Join cells and FORK (R153–R156). -/

namespace Sys2Proof.Machine

open Sys2Proof.Claims

/-! ## Join cells -/

@[simp] theorem Cluster.join_modJoin (c : Cluster) (j : JIdx) (f : JoinCell → JoinCell) : (c.modJoin j f).join j = f (c.join j) := by
  rw [Cluster.join, Cluster.modJoin, Map.get_put, if_pos rfl]

theorem State.myCell_modMyCell (s : State) (j : JIdx) (f : JoinCell → JoinCell) :
    ((s.modMyCell j f).cluster (clusterOf s.cur)).join j = f (s.myCell j) := by
  rw [State.modMyCell, State.cluster_modCluster, if_pos rfl, Cluster.join_modJoin]
  rfl

theorem Quietly.modMyCell (s : State) (j : JIdx) (f : JoinCell → JoinCell) : Quietly s (s.modMyCell j f) :=
  Quietly.of_threads rfl rfl rfl fun _ => rfl

theorem JoinCell.not_foreign {c : JoinCell} {pid : BitVec 16} (h : c.pid = pid) : c.foreign pid = false := by
  rw [JoinCell.foreign, h, bne_self_eq_false, Bool.and_false]

section
variable {s : State} {a : GReg} {j : JIdx} {count : Bool} (hact : isAct s.cur = true)
include hact

/-- The cell that JINIT sets up (R154). -/
def State.armed (s : State) (a : GReg) (j : JIdx) (count : Bool) : JoinCell :=
  if count then { mode := some true, count := (s.g a).setWidth 32, pid := s.me.act.pid, owed := (s.myCell j).owed }
  else { mode := some false, cont := s.g a, pid := s.me.act.pid, owed := (s.myCell j).owed }

theorem exec_jinit_of_free (hown : (s.myCell j).foreign s.me.act.pid = false) (hcount : (s.myCell j).count = 0)
    (hfit : count = true → (s.g a).toNat < 2 ^ 32) :
    exec (.jinit a j count) s = .next (s.modMyCell j fun _ => s.armed a j count).retire := by
  have hbad : ¬ ((s.myCell j).count ≠ 0 ∨ (count = true ∧ (s.g a).extractLsb' 32 32 ≠ 0)) := by
    rintro (h | ⟨hc, h⟩)
    · exact h hcount
    · exact h (extractLsb'_high_eq_zero (hfit hc))
  show execJinit a j count s = _
  unfold execJinit noService
  rw [if_pos hact]
  dsimp only
  rw [hown, if_neg Bool.false_ne_true, if_neg hbad]
  rfl

theorem exec_join_of_count (hmode : (s.myCell j).mode = some true) (hpid : (s.myCell j).pid = s.me.act.pid) :
    exec (.join j) s = if (s.myCell j).count = 0 then .next s.retire else .next (s.stall (.join j)) := by
  show execJoin j s = _
  unfold execJoin noService
  rw [if_pos hact]
  dsimp only
  rw [JoinCell.not_foreign hpid, if_neg Bool.false_ne_true, hmode]

/-- An activation with nothing outstanding or recorded ends. -/
theorem State.endNow_of_done (hdone : s.allDone s.cur = true) (hops : s.me.eqops = []) (hdef : s.me.act.deferred = none)
    (hmat : s.me.act.matrixFail = none) (hcard : s.me.act.cardFail = none) : s.endNow = .next (s.freeThread s.cur) := by
  have hend : s.endNow = _ := exec_endAct hact ⟨hdone, hops⟩
  rw [hdef, hmat, hcard] at hend
  exact hend

theorem exec_join_of_fork (hmode : (s.myCell j).mode = some false) (hpid : (s.myCell j).pid = s.me.act.pid)
    (hmany : 1 < (s.myCell j).count.toNat) (hset : s.settled s.cur = true) (hend : s.endNow = .next (s.freeThread s.cur)) :
    exec (.join j) s = .next ((s.freeThread s.cur).modMyCell j fun c => { c with count := c.count - 1 }) := by
  have h0 : (s.myCell j).count ≠ 0 := fun h => by rw [h] at hmany; exact absurd hmany (by decide)
  have h1 : (s.myCell j).count ≠ 1 := fun h => by rw [h] at hmany; exact absurd hmany (by decide)
  have hidle : ((s.freeThread s.cur).th s.cur).status = .idle := by
    rw [State.freeThread_th, if_pos rfl]
    rfl
  show execJoin j s = _
  unfold execJoin noService
  rw [if_pos hact]
  dsimp only
  rw [JoinCell.not_foreign hpid, if_neg Bool.false_ne_true, hmode]
  dsimp only
  rw [if_neg h0, hset, if_neg (by decide), if_neg h1, hend]
  exact if_pos hidle
end

theorem State.freeThread_join (s : State) (t c : Nat) (j : JIdx) : ((s.freeThread t).cluster c).join j = (s.cluster c).join j := by
  have hcl : (s.freeThread t).cluster c = (s.leaveBars t).cluster c := by
    rw [State.freeThread_eq, State.departed_eq]
    rfl
  rw [hcl, State.leaveBars, State.cluster_modCluster]
  split
  · next h => rw [h]; rfl
  · rfl

theorem State.freeThread_cur (s : State) (t : Nat) : (s.freeThread t).cur = s.cur := by
  rw [State.freeThread_eq, State.departed_eq]
  rfl

theorem joinCellsCountDown : Claims.JoinCellsCountDown := by
  intro s a j count hact cell after
  refine ⟨fun hown hcount hfit => ?_, fun hmode hpid => ⟨fun h0 => ?_, fun h0 => ?_⟩, fun hmode hpid hmany hset hquiet hops hdef hmat hcard => ?_⟩
  · obtain ⟨hret, hreg⟩ := (Quietly.modMyCell s j fun _ => s.armed a j count).retire
    have hafter : after (s.modMyCell j fun _ => s.armed a j count).retire = s.armed a j count := s.myCell_modMyCell j _
    refine ⟨_, exec_jinit_of_free hact hown hcount hfit, hret, hreg, ?_⟩
    rw [hafter]
    cases count
    · exact ⟨rfl, rfl, rfl, fun h => absurd h Bool.false_ne_true, fun _ => ⟨rfl, rfl⟩⟩
    · exact ⟨rfl, rfl, rfl, fun _ => rfl, fun h => absurd h.symm Bool.false_ne_true⟩
  · exact ⟨_, (exec_join_of_count hact hmode hpid).trans (if_pos h0), s.retire_spec⟩
  · exact ⟨_, (exec_join_of_count hact hmode hpid).trans (if_neg h0), s.stall_stalls _⟩
  · have hdone : s.allDone s.cur = true := by
      obtain ⟨-, hdel⟩ := Bool.and_eq_true_iff.mp hset
      exact Bool.and_eq_true_iff.mpr ⟨hquiet, hdel⟩
    have hend := State.endNow_of_done hact hdone hops hdef hmat hcard
    refine ⟨_, exec_join_of_fork hact hmode hpid hmany hset hend, ?_, ?_, ?_⟩
    · show (((s.freeThread s.cur).modMyCell j _).th (s.freeThread s.cur).cur).status = _
      rw [State.freeThread_cur]
      show ((s.freeThread s.cur).th s.cur).status = _
      rw [State.freeThread_th, if_pos rfl]
      rfl
    · have hcell := (s.freeThread s.cur).myCell_modMyCell j fun c => { c with count := c.count - 1 }
      rw [State.freeThread_cur] at hcell
      refine (congrArg JoinCell.count hcell).trans ?_
      show ((s.freeThread s.cur).myCell j).count - 1 = cell.count - 1
      rw [State.myCell, State.freeThread_cur, State.freeThread_join]
    · exact s.freeThread_mem s.cur

/-! ## The registers of a participant (R155) -/

theorem Map.get_foldl_set_zipIdx (regs : List Word) : ∀ (n : Nat) (m : Map Word) (k : Nat),
    Map.get 0 ((regs.zipIdx n).foldl (fun g e => Map.set 0 g (e.2 + 1) e.1) m) k =
      if n < k ∧ k ≤ n + regs.length then regs.getD (k - 1 - n) 0 else Map.get 0 m k := by
  induction regs with
  | nil =>
    intro n m k
    exact (if_neg fun h => absurd h.1 (Nat.not_lt.mpr h.2)).symm
  | cons x xs ih =>
    intro n m k
    rw [List.zipIdx_cons, List.foldl_cons, ih, Map.get_set]
    simp only [List.length_cons]
    by_cases hk : k = n + 1
    · subst hk
      rw [if_neg (by omega), if_pos rfl, if_pos (by omega), show n + 1 - 1 - n = 0 by omega, List.getD_cons_zero]
    · by_cases hin : n + 1 < k ∧ k ≤ n + 1 + xs.length
      · rw [if_pos hin, if_pos (by omega), show k - 1 - n = (k - 1 - (n + 1)) + 1 by omega, List.getD_cons_succ]
      · rw [if_neg hin, if_neg hk, if_neg (by omega)]

/-- A participant has the forker's first registers, the bounds of its chunks and its number. -/
theorem get_forkRegs (regs : List Word) (hlen : regs.length = 11) (lo hi i k : Nat) :
    Map.get 0 (forkRegs regs lo hi i) k = if k = 14 then BitVec.ofNat 64 i else if k = 13 then BitVec.ofNat 64 hi
      else if k = 12 then BitVec.ofNat 64 lo else if 1 ≤ k ∧ k ≤ 11 then regs.getD (k - 1) 0 else 0 := by
  rw [forkRegs, Map.get_set, Map.get_set, Map.get_set, Map.get_foldl_set_zipIdx, hlen, Map.get_nil]
  simp only [Nat.zero_add, Nat.sub_zero, Nat.lt_iff_add_one_le]

theorem getD_upTo_map (f : GReg → Word) {r : GReg} (h1 : 1 ≤ r.toNat) (h11 : r.toNat ≤ 11) : ((upTo 11).map f).getD (r.toNat - 1) 0 = f r := by
  have hr : BitVec.ofNat 5 (r.toNat - 1 + 1) = r := by
    rw [Nat.sub_add_cancel h1]
    exact BitVec.ofNat_toNat 5 r ▸ BitVec.setWidth_eq r
  rw [List.getD_eq_getElem?_getD, List.getElem?_map, upTo, List.getElem?_map, List.getElem?_range (by omega)]
  exact congrArg f hr

/-- T items in chunks of G: the chunks reach to the end. -/
theorem min_chunks (t : Nat) {g : Nat} (hg : g ≠ 0) : chunkHi ((t + g - 1) / g) 1 g t 0 = t := by
  rw [chunkHi, Nat.zero_add, Nat.one_mul, Nat.div_one]
  have hdiv := Nat.div_add_mod (t + g - 1) g
  have hmod := Nat.mod_lt (t + g - 1) (Nat.pos_of_ne_zero hg)
  have hcomm := Nat.mul_comm g ((t + g - 1) / g)
  exact Nat.min_eq_left (by omega)

/-! ## FORK (R155) -/

section
variable (s : State) (a b : GReg) (j : JIdx) (off : BitVec 48)

def State.forkChunks : Nat := ((s.g a).toNat + (s.g b).toNat - 1) / (s.g b).toNat
/-- The cores that FORK recruits. -/
def State.forkIdle : List Nat := (s.idleOf (s.blocksIn (clusterOf s.cur) s.me.act.launch)).take (s.forkChunks a b)
/-- The number of participants. -/
def State.forkCount : Nat := max (s.forkIdle a b).length 1
/-- The registers of participant i. -/
def State.forkGs (i : Nat) : Map Word :=
  forkRegs ((upTo 11).map s.g) (chunkLo (s.forkChunks a b) (s.forkCount a b) (s.g b).toNat i)
    (chunkHi (s.forkChunks a b) (s.forkCount a b) (s.g b).toNat (s.g a).toNat i) i
/-- The cell counts the participants. -/
def State.forked : State := s.modMyCell j fun k => { k with
  count := BitVec.ofNat 32 (s.forkCount a b), wid := s.me.act.wid, prio := s.me.act.prio, deadline := s.me.act.deadline
  chan := s.me.act.chan, stage := s.me.act.stage, launch := s.me.act.launch
  blocks := s.blocksIn (clusterOf s.cur) s.me.act.launch, member := s.me.act.count :: s.me.act.member }
/-- The running activation as the one participant: its registers are the participant's, and its v registers are reset. -/
def Thread.soloFork (gs : Map Word) (x : Thread) : Thread :=
  let x1 : Thread := if x.mode = .monitor then { x with mg := gs, mgErr := 0, mgBad := 0 } else { x with act := { x.act with g := gs, gErr := 0, gBad := 0 } }
  { x1 with act := { x1.act with v := [], vErr := 0, vBad := 0 } }
/-- The cores of the list start as participants. -/
def State.recruitAll (s : State) (g : Nat → Map Word) (pc : Word) (l : List (Nat × Nat)) : State :=
  l.foldl (fun s e => s.recruit e.1 e.2 (g e.2) pc) s

variable {s a b j off}

theorem exec_fork (hact : isAct s.cur = true) (hmode : (s.myCell j).mode = some false) (hpid : (s.myCell j).pid = s.me.act.pid)
    (hcount : (s.myCell j).count = 0) (hg : s.g b ≠ 0) (htgt : isTarget s (slotOfOffset s off)) : exec (.fork a b j off) s =
    if s.forkIdle a b = [] then .next (((s.forked a b j).modMe (Thread.soloFork (s.forkGs a b 0))).jumpTo (slotOfOffset s off).toNat)
    else .next (((s.forked a b j).recruitAll (s.forkGs a b) (codeAddr s.here.1 (slotOfOffset s off).toNat)
      (s.forkIdle a b).zipIdx).modMyAct fun a => { a with count := a.count + 1 }).retire := by
  have hgn : (s.g b).toNat ≠ 0 := fun h => hg (BitVec.eq_of_toNat_eq h)
  have hbad : ¬ ((s.g b).toNat = 0 ∨ (s.myCell j).mode ≠ some false ∨ (s.myCell j).count ≠ 0) := by
    rintro (h | h | h)
    · exact hgn h
    · exact h hmode
    · exact h hcount
  have htarget := (State.targetOk_iff s _).mpr htgt
  show execFork a b j off s = _
  unfold execFork noService
  rw [if_pos hact]
  dsimp only
  rw [JoinCell.not_foreign hpid, if_neg Bool.false_ne_true, if_neg hbad]
  refine (if_neg ?_).trans ?_
  · show ¬ (!s.targetOk (slotOfOffset s off)) = true
    rw [htarget]
    decide
  · rfl
end

/-! ### The one participant -/

theorem Thread.soloFork_eq (gs : Map Word) (x : Thread) :
    (x.soloFork gs).act.pc = x.act.pc ∧ (x.soloFork gs).loops = x.loops ∧ (x.soloFork gs).mode = x.mode ∧ (x.soloFork gs).act.v = [] ∧
      ∀ r, (x.soloFork gs).reg r = if r = 0 then 0 else Map.get 0 gs r.toNat := by
  by_cases hm : x.mode = .monitor
  · refine ⟨?_, ?_, ?_, ?_, fun r => ?_⟩ <;> simp only [Thread.soloFork, Thread.loops, Thread.reg, hm, if_true]
  · refine ⟨?_, ?_, ?_, ?_, fun r => ?_⟩ <;> simp only [Thread.soloFork, Thread.loops, Thread.reg, hm, if_false]

/-- The registers of the one participant. -/
theorem reg_soloFork {s : State} {a b : GReg} (hg : s.g b ≠ 0) (hidle : s.forkIdle a b = []) (x : Thread) (r : GReg) :
    (x.soloFork (s.forkGs a b 0)).reg r = if 1 ≤ r.toNat ∧ r.toNat ≤ 11 then s.g r else if r = 13 then s.g a else 0 := by
  obtain ⟨-, -, -, -, hreg⟩ := x.soloFork_eq (s.forkGs a b 0)
  have hgn : (s.g b).toNat ≠ 0 := fun h => hg (BitVec.eq_of_toNat_eq h)
  have hcount : s.forkCount a b = 1 := by rw [State.forkCount, hidle]; rfl
  have hhi : chunkHi (s.forkChunks a b) 1 (s.g b).toNat (s.g a).toNat 0 = (s.g a).toNat := min_chunks _ hgn
  have hlo : chunkLo (s.forkChunks a b) 1 (s.g b).toNat 0 = 0 := by simp [chunkLo]
  have hno : ∀ {k : GReg}, r = k ↔ r.toNat = k.toNat := ⟨congrArg _, BitVec.eq_of_toNat_eq⟩
  have h0 : r = 0 ↔ r.toNat = 0 := hno
  have h13 : r = 13 ↔ r.toNat = 13 := hno
  rw [hreg, State.forkGs, get_forkRegs _ (by simp [upTo]), hcount, hhi, hlo]
  simp only [h0, h13]
  by_cases hin : 1 ≤ r.toNat ∧ r.toNat ≤ 11
  · rw [if_pos hin, if_neg (by omega), if_neg (by omega), if_neg (by omega), if_neg (by omega), if_pos hin, getD_upTo_map _ hin.1 hin.2]
  · rw [if_neg hin, if_neg hin]
    by_cases h13 : r.toNat = 13
    · rw [if_pos h13, if_pos h13, if_neg (by omega), if_neg (by omega), BitVec.ofNat_toNat, BitVec.setWidth_eq]
    · rw [if_neg h13, if_neg h13]
      simp only [BitVec.ofNat_eq_ofNat, ite_self]

/-! ### Recruits -/

/-- A thread that runs as a participant with registers g from a pc. -/
structure Recruited (g : Map Word) (pc : Word) (x : Thread) : Prop where
  status : x.status = .running
  mode : x.mode = .context
  pc : x.act.pc = pc
  recruit : x.act.recruit = true
  g : x.act.g = g

theorem Recruited.reg {g : Map Word} {pc : Word} {x : Thread} (h : Recruited g pc x) {r : GReg} (hr : r ≠ 0) :
    x.reg r = Map.get 0 g r.toNat := by
  rw [Thread.reg, h.mode, h.g, if_neg hr, if_neg (by decide : ¬ Mode.context = Mode.monitor)]

/-- All that recruiting thread u does. -/
theorem State.recruit_spec (s : State) (u i : Nat) (g : Map Word) (pc : Word) :
    Recruited g pc ((s.recruit u i g pc).th u) ∧ (∀ v, v ≠ u → (s.recruit u i g pc).th v = s.th v) ∧
      (s.recruit u i g pc).cur = s.cur ∧ (s.recruit u i g pc).clusters = s.clusters := by
  obtain ⟨n, hn, hpc, hrec, hg⟩ : ∃ n : Act, s.recruit u i g pc =
      (((s.modLaunch s.me.act.launch fun l => { l with running := l.running + 1 }).startAct u n).journalMsg (blockOf u) u n none).traceDispatch u false ∧
        n.pc = pc ∧ n.recruit = true ∧ n.g = g := ⟨_, rfl, rfl, rfl, rfl⟩
  have hst := (s.modLaunch s.me.act.launch fun l => { l with running := l.running + 1 }).startAct_started u n (blockOf u) none false
  rw [hn]
  refine ⟨⟨hst.status, hst.mode, ?_, ?_, ?_⟩, hst.others, hst.cur, hst.clusters⟩ <;> rw [hst.act] <;> assumption

theorem State.recruitAll_spec (g : Nat → Map Word) (pc : Word) : ∀ (l : List (Nat × Nat)) (s : State), (l.map Prod.fst).Nodup →
    (∀ e ∈ l, Recruited (g e.2) pc ((s.recruitAll g pc l).th e.1)) ∧ (∀ v, v ∉ l.map Prod.fst → (s.recruitAll g pc l).th v = s.th v) ∧
      (s.recruitAll g pc l).cur = s.cur ∧ (s.recruitAll g pc l).clusters = s.clusters := by
  intro l
  induction l with
  | nil => exact fun s _ => ⟨fun e he => absurd he List.not_mem_nil, fun _ _ => rfl, rfl, rfl⟩
  | cons e l ih =>
    intro s hnodup
    obtain ⟨hnew, hrest⟩ := List.nodup_cons.mp hnodup
    obtain ⟨hrec, hoth, hcur, hcl⟩ := s.recruit_spec e.1 e.2 (g e.2) pc
    obtain ⟨ihrec, ihoth, ihcur, ihcl⟩ := ih (s.recruit e.1 e.2 (g e.2) pc) hrest
    refine ⟨fun d hd => ?_, fun v hv => ?_, ihcur.trans hcur, ihcl.trans hcl⟩
    · rcases List.mem_cons.mp hd with rfl | hd
      · rw [← ihoth d.1 hnew] at hrec
        exact hrec
      · exact ihrec d hd
    · obtain ⟨hne, hnot⟩ := not_or.mp fun h => hv (List.mem_cons.mpr h)
      exact (ihoth v hnot).trans (hoth v hne)

theorem State.status_of_mem_idleOf {s : State} {blocks : List Nat} {t : Nat} (h : t ∈ s.idleOf blocks) : (s.th t).status = .idle := by
  have hfree := (List.mem_filter.mp h).2
  simp only [State.coreFree, Bool.and_eq_true] at hfree
  exact beq_iff_eq.mp hfree.1.1.1.1

theorem forkRecruitsIdleCores : Claims.ForkRecruitsIdleCores := by
  intro s a b j off hact cell after chunks idle hmode hpid hcount hg htgt
  have hexec : exec (.fork a b j off) s = _ := exec_fork (a := a) hact hmode hpid hcount hg htgt
  have hcell : after (s.forked a b j) = { cell with
      count := BitVec.ofNat 32 (s.forkCount a b), wid := s.me.act.wid, prio := s.me.act.prio, deadline := s.me.act.deadline
      chan := s.me.act.chan, stage := s.me.act.stage, launch := s.me.act.launch
      blocks := s.blocksIn (clusterOf s.cur) s.me.act.launch, member := s.me.act.count :: s.me.act.member } := s.myCell_modMyCell j _
  refine ⟨fun hidle => ?_, fun hidle hnodup hlen hrun => ?_⟩
  · obtain ⟨hpc, hloops, -, hv, -⟩ := s.me.soloFork_eq (s.forkGs a b 0)
    have hme : ((s.forked a b j).modMe (Thread.soloFork (s.forkGs a b 0))).me = s.me.soloFork (s.forkGs a b 0) := State.me_modMe _ _
    have hcnt : s.forkCount a b = 1 := by rw [State.forkCount, show s.forkIdle a b = [] from hidle]; rfl
    obtain ⟨hjump, hkeep⟩ := ((s.forked a b j).modMe (Thread.soloFork (s.forkGs a b 0))).jumpTo_spec (slotOfOffset s off).toNat
    have hhere : ((s.forked a b j).modMe (Thread.soloFork (s.forkGs a b 0))).here = s.here := by rw [State.here, hme, hpc, State.here]
    refine ⟨_, hexec.trans (if_pos hidle), ?_, ?_, ?_, rfl, fun r => ?_, fun r => ?_, fun u hu => ?_⟩
    · rw [hjump.at', hhere]
    · rw [hjump.stack, hhere, hme, hloops]
    · refine (congrArg JoinCell.count hcell).trans ?_
      rw [hcnt]
      rfl
    · rw [hkeep.g, State.reg, hme]
      exact reg_soloFork hg hidle s.me r
    · rw [hkeep.v, State.vreg, hme, hv]
      rfl
    · exact (hjump.others u hu).trans (State.th_modMe_ne _ _ hu)
  · have hfst : (idle.zipIdx.map Prod.fst) = idle := List.zipIdx_map_fst _ _
    obtain ⟨hrec, hoth, hcur, hcl⟩ := State.recruitAll_spec (s.forkGs a b) (codeAddr s.here.1 (slotOfOffset s off).toNat) idle.zipIdx
      (s.forked a b j) (by rw [hfst]; exact hnodup)
    have hnot : s.cur ∉ idle := fun h => by
      have := State.status_of_mem_idleOf (List.mem_of_mem_take h)
      rw [show s.th s.cur = s.me from rfl, hrun] at this
      cases this
    have hcnt : s.forkCount a b = idle.length := Nat.max_eq_left (List.length_pos_of_ne_nil hidle)
    have hwas : (s.forked a b j).cur = s.cur := rfl
    have hmine : (State.recruitAll (s.forked a b j) (s.forkGs a b) (codeAddr s.here.1 (slotOfOffset s off).toNat) idle.zipIdx).me = s.me := by
      rw [State.me, hcur]
      exact hoth s.cur (by rw [hfst]; exact hnot)
    have hgo := hexec.trans (if_neg hidle)
    rw [show s.forkIdle a b = idle from rfl] at hgo
    generalize State.recruitAll _ _ _ _ = v at hrec hoth hcur hcl hmine hgo
    have hquiet := Quietly.modMyAct v (fun a => { a with count := a.count + 1 }) rfl rfl rfl rfl
    obtain ⟨hret, hregs, hvregs⟩ := hquiet.retire
    refine ⟨_, hgo, ?_, ⟨fun r => ?_, fun r => ?_⟩, ?_, fun k u hk => ?_⟩
    · rw [hret.at', State.fallPc, State.here, hmine, State.fallPc, State.here]
    · rw [hregs, State.reg, hmine, State.reg]
    · rw [hvregs, State.vreg, hmine, State.vreg]
    · have hafter : after (v.modMyAct fun a => { a with count := a.count + 1 }).retire = after (s.forked a b j) := by
        show (Map.get {} v.clusters (clusterOf s.cur)).join j = _
        rw [hcl]
        rfl
      rw [hafter, hcell, hcnt]
      exact (BitVec.toNat_ofNat _ _).trans (Nat.mod_eq_of_lt (by omega))
    · have hmem : (u, k) ∈ idle.zipIdx := List.mk_mem_zipIdx_iff_getElem?.mpr hk
      have hu : u ≠ v.cur := fun h => hnot (by rw [← hwas, ← hcur, ← h]; exact List.mem_of_getElem? hk)
      rw [hret.others u hu]
      have hr := hrec _ hmem
      refine ⟨hr.status, hr.mode, hr.pc, hr.recruit, ?_, ?_⟩
      · rw [hr.reg (by decide), State.forkGs, get_forkRegs _ (by simp [upTo])]
        rfl
      · rw [hr.reg (by decide), State.forkGs, get_forkRegs _ (by simp [upTo]), hcnt]
        rfl

/-- Settles O18: the cells by their equations, FORK by what recruiting one core does, along the list of the idle cores. -/
theorem joinsAndForksCountTheirParticipants : Obligations.JoinsAndForksCountTheirParticipants :=
  ⟨joinCellsCountDown, forkRecruitsIdleCores⟩

end Sys2Proof.Machine
end

section
/-! SUPPORT. The dispatcher: candidates, dispatches, owed continuations and displaced senders (R138, R139, R150, R152, R156). -/

namespace Sys2Proof.Machine

open Sys2Proof.Claims

/-! ## The choice (R138) -/

theorem blockOf_add {blk i : Nat} (hb : blk < 1024) (hi : i < 16) : blockOf (16 * blk + i) = blk := by
  rw [blockOf, Nat.mod_eq_of_lt (by omega)]
  omega

/-- The free core that a dispatch takes is the lowest one. -/
theorem State.freeCore_lowest {s : State} {blk t : Nat} (hb : blk < 1024) (h : s.freeCore blk = some t) :
    blockOf t = blk ∧ s.coreFree t = true ∧ ∀ v, blockOf v = blk → isAct v = true → v < t → s.coreFree v = false := by
  obtain ⟨hfree, pre, post, hsplit, hpre⟩ := List.find?_eq_some_iff_append.mp h
  have hlen : pre.length < 16 := by
    have := congrArg List.length hsplit
    simp only [List.length_map, List.length_range, List.length_append, List.length_cons] at this
    omega
  have hget : ∀ i, i < 16 → (pre ++ t :: post)[i]? = some (16 * blk + i) := fun i hi => by
    rw [← hsplit, List.getElem?_map, List.getElem?_range hi, Option.map_some]
  have ht : t = 16 * blk + pre.length := by
    have := hget pre.length hlen
    rw [List.getElem?_append_right le_rfl, Nat.sub_self, List.getElem?_cons_zero] at this
    exact Option.some.inj this
  refine ⟨ht ▸ blockOf_add hb hlen, hfree, fun v hv hact hlt => ?_⟩
  have hvlt : v < 16384 := of_decide_eq_true hact
  rw [blockOf, Nat.mod_eq_of_lt hvlt] at hv
  have hi : v - 16 * blk < pre.length := by omega
  have hmem : v ∈ pre := by
    have := hget (v - 16 * blk) (by omega)
    rw [List.getElem?_append_left hi, show 16 * blk + (v - 16 * blk) = v by omega] at this
    exact List.mem_of_getElem? this
  exact Bool.eq_false_of_not_eq_true fun hf => by simpa [hf] using hpre v hmem

/-- The best candidate has the highest effective priority of all. -/
theorem bestOf_spec : ∀ {cs : List (Cand × Nat)} {c : Cand × Nat}, bestOf cs = some c → c ∈ cs ∧ ∀ e ∈ cs, e.2 ≤ c.2
  | [], _, h => by cases h
  | x :: cs, c, h => by
    rw [bestOf] at h
    cases hb : bestOf cs with
    | none =>
      rw [hb] at h
      cases h
      have hnil : cs = [] := by
        cases cs with
        | nil => rfl
        | cons y ys =>
          rw [bestOf] at hb
          split at hb
          · split at hb <;> cases hb
          · cases hb
      subst hnil
      exact ⟨List.mem_singleton_self _, fun e he => (List.mem_singleton.mp he) ▸ le_rfl⟩
    | some d =>
      rw [hb] at h
      obtain ⟨hd, hmax⟩ := bestOf_spec hb
      dsimp only at h
      split at h
      · next hlt =>
        cases h
        refine ⟨List.mem_cons_of_mem _ hd, fun e he => ?_⟩
        rcases List.mem_cons.mp he with rfl | he
        · exact hlt.le
        · exact hmax e he
      · next hge =>
        cases h
        refine ⟨List.mem_cons_self, fun e he => ?_⟩
        rcases List.mem_cons.mp he with rfl | he
        · exact le_rfl
        · exact (hmax e he).trans (Nat.le_of_not_lt hge)

/-! ## A message's activation (R139) -/

theorem get_dispatchRegs (m : Msg) (k : Nat) : Map.get 0 (dispatchRegs m) k =
    if 1 ≤ k ∧ k ≤ 8 then (m.payload.take 8).getD (k - 1) 0 else if k = 9 then m.reply else if k = 10 then m.wid
      else if k = 11 then m.src else 0 := by
  have hlen : (m.payload.take 8).length ≤ 8 := List.length_take_le _ _
  rw [dispatchRegs, Map.get_set, Map.get_set, Map.get_set, Map.get_foldl_set_zipIdx, Map.get_nil]
  by_cases hk : 1 ≤ k ∧ k ≤ 8
  · rw [if_pos hk, if_neg (by omega), if_neg (by omega), if_neg (by omega)]
    split
    · rfl
    · rw [List.getD_eq_getElem?_getD, List.getElem?_eq_none (by omega)]
      rfl
  · rw [if_neg hk, if_neg (c := 0 < k ∧ _) (by omega)]
    by_cases h9 : k = 9
    · rw [if_pos h9, if_neg (by omega), if_neg (by omega), if_pos h9]
    · rw [if_neg h9, if_neg h9]
      by_cases h10 : k = 10
      · rw [if_pos h10, if_pos h10, if_neg (by omega)]
      · rw [if_neg h10, if_neg h10]

/-- The activation that the head message of a channel starts on thread t. -/
def State.messageAct (s : State) (t : Nat) (n : Binding) (m : Msg) (c : CIdx) (since : Word) : Act :=
  { s.freshAct t n.pid n.launch n.deadline with
    g := dispatchRegs m, v := match m.vec with | some x => Map.set {} [] 0 x | none => [], pc := codeAddr n.handle 0, enter := 4
    reply := m.reply, wid := m.wid, prio := BitVec.ofNat 3 (s.aged n.prio since), chan := maChan m.dest, home := c, stage := n.stage
    enumNo := m.enumNo, src := m.src }

/-- The chip as the dispatch of a message leaves it before the thread starts. -/
def State.taken (s : State) (blk t : Nat) (c : CIdx) (n : Binding) (m : Msg) (rest : List Msg) : State :=
  ((s.modBlock blk fun b => { b.modChan c (fun h => { h with slots := rest, running := h.running + 1, since := s.cycle }) with lastChan := c }).modLaunch
    n.launch fun l => { l with running := l.running + 1, dispatched := l.dispatched + (if m.enumNo.isSome then 1 else 0) }).acquireStamp (dieOf t) m.stamp

theorem State.acquireStamp_eq (s : State) (d : Nat) (v : List (BitVec 16)) :
    s.acquireStamp d v = { s with dies := (s.acquireStamp d v).dies } := by
  unfold State.acquireStamp
  split <;> rfl

theorem State.taken_eq (s : State) (blk t : Nat) (c : CIdx) (n : Binding) (m : Msg) (rest : List Msg) :
    s.taken blk t c n m rest = { s with
      blocks := (s.taken blk t c n m rest).blocks, sys := (s.taken blk t c n m rest).sys, dies := (s.taken blk t c n m rest).dies } := by
  unfold State.taken
  rw [State.acquireStamp_eq]
  rfl

theorem State.taken_block (s : State) (blk t : Nat) (c : CIdx) (n : Binding) (m : Msg) (rest : List Msg) :
    (s.taken blk t c n m rest).block blk =
      { (s.block blk).modChan c (fun h => { h with slots := rest, running := h.running + 1, since := s.cycle }) with lastChan := c } := by
  unfold State.taken
  rw [State.acquireStamp_eq]
  refine (State.block_modBlock s blk blk fun b =>
    { b.modChan c (fun h => { h with slots := rest, running := h.running + 1, since := s.cycle }) with lastChan := c }).trans (if_pos rfl)

section
variable {s : State} {blk t : Nat} {c : CIdx} {p : Nat} {n : Binding} {m : Msg} {rest : List Msg}

theorem exec_dispatch_of_chan (hcore : s.freeCore blk = some t) (hbest : bestOf (s.candidates blk) = some (.chan c, p))
    (hbind : ((s.block blk).chan c).bind = some n) (hslots : ((s.block blk).chan c).slots = m :: rest) :
    exec (.dispatch blk) s = .next ((((s.taken blk t c n m rest).startAct t
      (s.messageAct t n m c ((s.block blk).chan c).since)).journalMsg blk t (s.messageAct t n m c ((s.block blk).chan c).since) (some m)).traceDispatch t false) := by
  show Host.Outcome.next (s.dispatchOne blk) = _
  rw [State.dispatchOne, hcore, hbest]
  show Host.Outcome.next (s.dispatchMsg blk t c) = _
  rw [State.dispatchMsg, hbind, hslots]
  rfl

/-- The activation of a message has what R139 gives it. -/
theorem starts_of_act {u : State} {since : Word} (hstatus : (u.th t).status = .running) (hmode : (u.th t).mode = .context)
    (hact : (u.th t).act = s.messageAct t n m c since) : Starts u t m n.handle := by
  refine ⟨hstatus, hmode, ?_, fun k => ?_, fun k => ?_, ?_, ?_, ?_, ?_⟩ <;> rw [hact]
  · rfl
  · exact get_dispatchRegs m k
  · show Map.get {} (match m.vec with | some x => Map.set {} [] 0 x | none => []) k = _
    cases m.vec with
    | some x => exact Map.get_set {} [] 0 k x
    | none => exact (ite_self _).symm
  · rfl
  · rfl
  · rfl
  · exact ⟨rfl, rfl, rfl, rfl⟩

theorem dispatchStartsTheHeadMessage (hcore : s.freeCore blk = some t) (hbest : bestOf (s.candidates blk) = some (.chan c, p))
    (hbind : ((s.block blk).chan c).bind = some n) (hslots : ((s.block blk).chan c).slots = m :: rest) :
    ∃ u, exec (.dispatch blk) s = .next u ∧ Starts u t m n.handle ∧ (u.th t).act.launch = n.launch ∧ (u.th t).act.stage = n.stage ∧
      (u.th t).act.home = c ∧ (u.th t).act.chan = maChan m.dest ∧ (u.th t).act.pid = n.pid ∧ (u.th t).act.dline.toNat = n.deadline.toNat * 256 ∧
      ((u.block blk).chan c).slots = rest ∧ ((u.block blk).chan c).running = ((s.block blk).chan c).running + 1 ∧
      (u.block blk).lastChan = c ∧ (traceTen (s.th t) = false → u.mem = s.mem) ∧ ∀ v, v ≠ t → u.th v = s.th v := by
  have hst := (s.taken blk t c n m rest).startAct_started t (s.messageAct t n m c ((s.block blk).chan c).since) blk (some m) false
  have hth : ∀ v, (s.taken blk t c n m rest).th v = s.th v := fun v => by
    rw [State.taken_eq]
    rfl
  have hmem : (s.taken blk t c n m rest).mem = s.mem := by rw [State.taken_eq]
  refine ⟨_, exec_dispatch_of_chan hcore hbest hbind hslots, starts_of_act hst.status hst.mode hst.act, ?_⟩
  obtain ⟨epochs, hblock⟩ := hst.blocks blk
  rw [State.taken_block] at hblock
  have hchan := Block.chan_modChan (s.block blk) c c fun h => { h with slots := rest, running := h.running + 1, since := s.cycle }
  rw [if_pos rfl] at hchan
  rw [hst.act, hblock]
  refine ⟨rfl, rfl, rfl, rfl, rfl, ?_, congrArg Channel.slots hchan, congrArg Channel.running hchan, rfl, fun hoff => ?_, fun v hv => ?_⟩
  · exact (toNat_dline n.deadline).trans (Nat.mul_comm ..)
  · rw [← hmem]
    exact hst.mem ((hth t).symm ▸ hoff)
  · rw [hst.others v hv, hth]

end

/-! ## Activations that go on (R152, R156, R162, R165) -/

theorem dispatchResumesADisplacedActivation {s : State} {blk t ix p : Nat} {d : Displaced} (hcore : s.freeCore blk = some t)
    (hbest : bestOf (s.candidates blk) = some (.displaced ix, p)) (hd : (s.block blk).displaced[ix]? = some d) :
    ∃ u, exec (.dispatch blk) s = .next u ∧ (u.th (d.again.getD t)).status = .running ∧ (u.th (d.again.getD t)).act = d.act ∧
      (u.block blk).displaced = (s.block blk).displaced.eraseIdx ix := by
  have hst := (s.modBlock blk fun b => { b with displaced := b.displaced.eraseIdx ix }).startAct_resumed (d.again.getD t) d.act true
  refine ⟨((s.modBlock blk fun b => { b with displaced := b.displaced.eraseIdx ix }).startAct (d.again.getD t) d.act).traceDispatch
    (d.again.getD t) true, ?_, hst.status, hst.act, ?_⟩
  · show Host.Outcome.next (s.dispatchOne blk) = _
    rw [State.dispatchOne, hcore, hbest]
    show Host.Outcome.next (s.resumeAct blk _ ix) = _
    rw [State.resumeAct, hd]
    rfl
  · obtain ⟨epochs, hblock⟩ := hst.blocks blk
    rw [hblock, State.block_modBlock, if_pos rfl]

theorem owedContinuationStarts {s : State} {cl t : Nat} {j : JIdx} {c : Owed} {rest : List Owed} {more : List Nat}
    (howed : ((s.cluster cl).join j).owed = c :: rest) (hidle : s.idleOf c.blocks = t :: more) :
    ∃ u, exec (.joinContinuationRecruit cl j) s = .next u ∧ ((u.cluster cl).join j).owed = rest ∧ (u.th t).status = .running ∧
      (u.th t).act.pc = c.cont ∧ (u.th t).act.wid = c.wid ∧ (u.th t).act.prio = c.prio ∧ (u.th t).act.stage = c.stage ∧
      (u.th t).act.launch = c.launch ∧ ∀ k, Map.get 0 (u.th t).act.g k = if k = 10 then c.wid else if k = 11 then c.src else 0 := by
  let a : Act := { s.freshAct t c.pid c.launch c.deadline with
    member := c.member, g := Map.set 0 (Map.set 0 [] 10 c.wid) 11 c.src
    pc := c.cont, enter := 5, wid := c.wid, prio := c.prio, chan := c.chan, stage := c.stage, recruit := true, src := c.src }
  have hst := (s.modCluster cl fun k => k.modJoin j fun x => { x with owed := rest }).startAct_started t a (blockOf t) none false
  refine ⟨_, ?_, ?_, hst.status, ?_⟩
  · show execJoinContinuationRecruit cl j s = _
    rw [execJoinContinuationRecruit, howed]
    dsimp only
    rw [hidle]
  · have hcl := State.cluster_modCluster s cl cl fun k => k.modJoin j fun x => { x with owed := rest }
    rw [if_pos rfl] at hcl
    show ((Map.get {} _ cl : Cluster).join j).owed = rest
    rw [hst.clusters]
    refine (congrArg (fun x : Cluster => (x.join j).owed) hcl).trans ?_
    rw [Cluster.join_modJoin]
  · rw [hst.act]
    refine ⟨rfl, rfl, rfl, rfl, rfl, fun k => ?_⟩
    show Map.get 0 (Map.set 0 (Map.set 0 [] 10 c.wid) 11 c.src) k = _
    rw [Map.get_set, Map.get_set, Map.get_nil]
    by_cases h10 : k = 10
    · rw [if_pos h10, if_pos h10, if_neg (by omega)]
    · rw [if_neg h10, if_neg h10]

/-! ## Displaced senders (R152) -/

/-- A binding is of a stage above that of an activation. -/
def aboveStage (a : Act) : Option Binding → Bool
  | some n => n.stage != 0xFF && a.stage != 0xFF && decide (a.stage.toNat < n.stage.toNat)
  | none => false

theorem aboveStage_of {a : Act} {o : Option Binding}
    (h : ∃ k, o = some k ∧ k.stage ≠ 0xFF ∧ a.stage ≠ 0xFF ∧ a.stage.toNat < k.stage.toNat) : aboveStage a o = true := by
  obtain ⟨k, rfl, hk, ha, hlt⟩ := h
  simp only [aboveStage, bne_iff_ne.mpr hk, bne_iff_ne.mpr ha, decide_eq_true hlt, Bool.and_true]

theorem exec_sendDisplacement_of_due {s : State} {t k : Nat} {w : Word} (hdst : (s.th t).sendDst = some { dst := w, words := k })
    (hdue : (s.th t).status = .stalled .send ∧ (s.th t).mode = .context ∧ 256 ≤ (s.th t).sendWait ∧ (s.th t).sendAns.isNone ∧
      (!false) = true ∧ maKind w = 2 ∧ s.maHere (s.th t).act.pid w = true ∧ ((s.block (maBlock w)).chan (s.chanOf (s.th t).act.pid w)).full = true ∧
      aboveStage (s.th t).act ((s.block (maBlock w)).chan (s.chanOf (s.th t).act.pid w)).bind = true ∧ (s.freeCore (blockOf t)).isNone ∧
      (s.block (blockOf t)).sendRecords < 128 ∧ s.quietAt t = true ∧ (s.th t).eqops = [] ∧
      (List.any (s.block (blockOf t)).chans fun e : Nat × Channel => s.dispatchable (blockOf t) e.2 && aboveStage (s.th t).act e.2.bind) = true) :
    exec (.sendDisplacement t) s = .next (s.displace t (s.th t).act (some w)) := by
  show execSendDisplacement t s = _
  rw [execSendDisplacement, hdst]
  exact if_pos hdue

/-- Settles O38: the choice by its order, and each start by what starting an activation changes; a displaced sender by the laws
of displacement. -/
theorem dispatchStartsActivations : Obligations.DispatchStartsActivations := by
  intro s blk t
  refine ⟨State.freeCore_lowest, fun c p hbest => bestOf_spec hbest,
    fun c p n m rest hcore hbest hbind hslots => dispatchStartsTheHeadMessage hcore hbest hbind hslots,
    fun ix p d hcore hbest hd => dispatchResumesADisplacedActivation hcore hbest hd,
    fun cl j c rest more howed hidle => owedContinuationStarts howed hidle, ?_⟩
  intro w k hdst hstat hmode hwait hans hops hquiet hcore target above hkind hhere hfull habove hrecs hmsg
  have hany : (List.any (s.block (blockOf t)).chans fun e : Nat × Channel =>
      s.dispatchable (blockOf t) e.2 && aboveStage (s.th t).act e.2.bind) = true := by
    obtain ⟨e, he, hdisp, hab⟩ := hmsg
    exact List.any_eq_true.mpr ⟨e, he, by rw [hdisp, aboveStage_of hab]; rfl⟩
  refine ⟨_, { act := (s.th t).act, atSend := some w, since := s.cycle, place := s.displaceRecord t (some w) },
    exec_sendDisplacement_of_due hdst ⟨hstat, hmode, hwait, Option.isNone_iff_eq_none.mpr hans, rfl, hkind, hhere, hfull,
      aboveStage_of habove, Option.isNone_iff_eq_none.mpr hcore, hrecs, hquiet, hops, hany⟩,
    State.displace_status s t _ _, State.displace_displaced s t _ _, rfl, rfl, fun n hn => ?_, fun x hx => State.displace_byte s t _ _ x hx⟩
  obtain ⟨hlo, hhi⟩ := Block.recordFrom_bounds (show (s.block (blockOf t)).recordFrom 64 128 = some n from hn)
  exact ⟨hlo, hhi⟩

end Sys2Proof.Machine
end

section
/-! SUPPORT. Deliveries: to channels, queue registers, join cells and FE words (R130–R133, R153, R156, R157). -/

namespace Sys2Proof.Machine

open Sys2Proof.Claims

/-! ## What arrives -/

theorem State.deliverable_of_arrives {s : State} {i : Nat} {m : Msg} (h : Arrives s i m) : s.deliverable i = some m := by
  have hold : ((s.flight.take i).all fun o => !(o.src == m.src && o.dest == m.dest)) = true := by
    refine List.all_eq_true.mpr fun o ho => ?_
    obtain ⟨j, hj⟩ := List.mem_iff_getElem?.mp ho
    have hlt : j < i := by
      by_contra hge
      rw [List.getElem?_take, if_neg hge] at hj
      cases hj
    rw [List.getElem?_take, if_pos hlt] at hj
    by_cases hsrc : o.src = m.src
    · rw [beq_false_of_ne (h.oldest j hlt o hj hsrc), Bool.and_false]
      rfl
    · rw [beq_false_of_ne hsrc]
      rfl
  rw [State.deliverable, h.here]
  dsimp only
  rw [h.applied, hold]
  rfl

/-- A message that was granted its place is no report of a launch inbox. -/
theorem State.reportDone_of_granted {m : Msg} (h : m.ungranted = false) (s : State) : s.reportDone m = s := by
  unfold State.reportDone
  split
  · next heq => rw [Msg.ungranted, heq] at h; cases h
  · rfl

/-- u is s, but that a job may have left a block. -/
structure JobDropped (s u : State) : Prop where
  rest : u = { s with blocks := u.blocks }
  blocks : ∀ k, ∃ jobs, u.block k = { s.block k with jobs }

/-- A job whose completion has been delivered is gone, and nothing else changes. -/
theorem State.jobDone_zero (s : State) (m : Msg) : JobDropped s (s.jobDone m 0) := by
  have hsame : JobDropped s s := ⟨rfl, fun _ => ⟨_, rfl⟩⟩
  unfold State.jobDone
  split
  · unfold State.completed
    split
    · exact hsame
    · refine ⟨rfl, fun k => ?_⟩
      rw [if_pos (Or.inl rfl), State.dropJob, State.block_modBlock]
      split
      · next h => exact ⟨_, by rw [h]⟩
      · exact ⟨_, rfl⟩
  · exact hsame

section
variable {s u : State} (h : JobDropped s u)
include h

theorem JobDropped.flight : u.flight = s.flight := by rw [h.rest]
theorem JobDropped.mem : u.mem = s.mem := by rw [h.rest]
theorem JobDropped.threads : u.threads = s.threads := by rw [h.rest]
theorem JobDropped.sys : u.sys = s.sys := by rw [h.rest]
theorem JobDropped.clusters : u.clusters = s.clusters := by rw [h.rest]
theorem JobDropped.chan (k : Nat) (c : CIdx) : (u.block k).chan c = (s.block k).chan c := by
  obtain ⟨jobs, hj⟩ := h.blocks k
  rw [hj]
  rfl
theorem JobDropped.queue (k : Nat) (q : QIdx) : (u.block k).queue q = (s.block k).queue q := by
  obtain ⟨jobs, hj⟩ := h.blocks k
  rw [hj]
  rfl
end

/-! ## Channels and queue registers -/

section
variable {s : State} {i : Nat} {m : Msg} (h : Arrives s i m)
include h

theorem exec_channelDelivery_of_bound (hkind : maKind m.dest = 2)
    (hbind : ((s.block (maBlock m.dest)).chan (s.chanOf m.pid m.dest)).bind.isSome = true) : exec (.channelDelivery i) s =
      .next (((s.dropFlight i).enchannel (maBlock m.dest) (s.chanOf m.pid m.dest) m true).jobDone m 0) := by
  have hnone : ((s.block (maBlock m.dest)).chan (s.chanOf m.pid m.dest)).bind.isNone = false := by
    rw [← Option.not_isSome, hbind]
    rfl
  show execChannelDelivery i s = _
  rw [execChannelDelivery, State.deliverable_of_arrives h]
  dsimp only
  rw [if_neg (fun hne => hne hkind), h.granted, if_neg Bool.false_ne_true, hnone]
  rfl

theorem channelTakesTheMessage (hkind : maKind m.dest = 2)
    (hbind : ((s.block (maBlock m.dest)).chan (s.chanOf m.pid m.dest)).bind.isSome = true) :
    ∃ u, exec (.channelDelivery i) s = .next u ∧ u.flight = s.flight.eraseIdx i ∧ u.mem = s.mem ∧ u.threads = s.threads ∧
      ((u.block (maBlock m.dest)).chan (s.chanOf m.pid m.dest)).slots =
        ((s.block (maBlock m.dest)).chan (s.chanOf m.pid m.dest)).slots ++ [m] ∧
      ((u.block (maBlock m.dest)).chan (s.chanOf m.pid m.dest)).reserved =
        ((s.block (maBlock m.dest)).chan (s.chanOf m.pid m.dest)).reserved - 1 := by
  have hgone := ((s.dropFlight i).enchannel (maBlock m.dest) (s.chanOf m.pid m.dest) m true).jobDone_zero m
  have hnone : ¬ ((s.block (maBlock m.dest)).chan (s.chanOf m.pid m.dest)).bind.isNone = true := by
    rw [← Option.not_isSome, hbind]
    decide
  have hchan : (((s.dropFlight i).enchannel (maBlock m.dest) (s.chanOf m.pid m.dest) m true).block (maBlock m.dest)).chan
      (s.chanOf m.pid m.dest) = (let c := (s.block (maBlock m.dest)).chan (s.chanOf m.pid m.dest)
        { c with reserved := c.reserved - 1, slots := c.slots ++ [m], since := if c.slots = [] then s.cycle else c.since }) := by
    rw [State.enchannel, State.block_modBlock, if_pos rfl, Block.chan_modChan, if_pos rfl]
    exact if_neg hnone
  refine ⟨_, exec_channelDelivery_of_bound h hkind hbind, hgone.flight, hgone.mem, hgone.threads, ?_, ?_⟩ <;> rw [hgone.chan, hchan]

/-- The queue register as the delivery leaves it. -/
def State.enqueued (s : State) (i : Nat) (m : Msg) : State :=
  ((s.dropFlight i).acquireStamp (maDie m.dest) m.stamp).modBlock (maBlock m.dest) fun b => b.modQueue (maQueue m.dest) fun q =>
    { q with items := q.items ++ (if m.payload = [] then [0] else m.payload)
             reserved := q.reserved - (if m.payload = [] then [0] else m.payload).length }

theorem exec_queueDelivery_of_granted (hkind : maKind m.dest = 1) :
    exec (.queueDelivery i) s = .next ((s.enqueued i m).jobDone m 0) := by
  show execQueueDelivery i s = _
  rw [execQueueDelivery, State.deliverable_of_arrives h]
  dsimp only
  rw [if_neg (fun hne => hne hkind), h.granted]
  rfl

theorem queueTakesThePayload (hkind : maKind m.dest = 1) :
    ∃ u, exec (.queueDelivery i) s = .next u ∧ u.flight = s.flight.eraseIdx i ∧ u.mem = s.mem ∧ u.threads = s.threads ∧
      ((u.block (maBlock m.dest)).queue (maQueue m.dest)).items =
        ((s.block (maBlock m.dest)).queue (maQueue m.dest)).items ++ (if m.payload = [] then [0] else m.payload) ∧
      ((u.block (maBlock m.dest)).queue (maQueue m.dest)).reserved =
        ((s.block (maBlock m.dest)).queue (maQueue m.dest)).reserved - max 1 m.payload.length := by
  have hgone := (s.enqueued i m).jobDone_zero m
  have hrest : s.enqueued i m = { s with flight := s.flight.eraseIdx i, dies := (s.enqueued i m).dies, blocks := (s.enqueued i m).blocks } := by
    rw [State.enqueued, State.acquireStamp_eq]
    rfl
  have hblock : ((s.dropFlight i).acquireStamp (maDie m.dest) m.stamp).block (maBlock m.dest) = s.block (maBlock m.dest) := by
    rw [State.acquireStamp_eq]
    rfl
  have hqueue : ((s.enqueued i m).block (maBlock m.dest)).queue (maQueue m.dest) = { (s.block (maBlock m.dest)).queue (maQueue m.dest) with
      items := ((s.block (maBlock m.dest)).queue (maQueue m.dest)).items ++ (if m.payload = [] then [0] else m.payload)
      reserved := ((s.block (maBlock m.dest)).queue (maQueue m.dest)).reserved - (if m.payload = [] then [0] else m.payload).length } := by
    rw [State.enqueued, State.queue_modQueue, hblock]
  have hlen : (if m.payload = [] then [0] else m.payload).length = max 1 m.payload.length := by
    split
    · next hnil => rw [hnil]; rfl
    · next hne => exact (Nat.max_eq_right (List.length_pos_of_ne_nil hne)).symm
  refine ⟨_, exec_queueDelivery_of_granted h hkind, ?_, ?_, ?_, ?_, ?_⟩
  · rw [hgone.flight, hrest]
  · rw [hgone.mem, hrest]
  · rw [hgone.threads, hrest]
  · rw [hgone.queue, hqueue]
  · rw [hgone.queue, hqueue, hlen]
end

/-! ## Join cells -/

/-- What a completion leaves of a cell, of the log, and of what holds neither. -/
structure CellEvent (s u : State) (cl : Nat) (j : JIdx) (pid : BitVec 16) (src : Word) : Prop where
  rest : u = { s with clusters := u.clusters, sys := u.sys }
  counts : let c := (s.cluster cl).join j
    let d := (u.cluster cl).join j
    c.mode.isSome = true ∧ c.pid = pid ∧ c.count ≠ 0 → d.count = c.count - 1 ∧ d.mode = c.mode ∧ d.cont = c.cont ∧
      d.owed = if c.mode = some false ∧ c.count = 1 then c.owed ++ [owedBy c src] else c.owed
  refused : let c := (s.cluster cl).join j
    ¬ (c.mode.isSome = true ∧ c.pid = pid ∧ c.count ≠ 0) → (u.cluster cl).join j = c ∧ ∃ l ∈ u.sys.log, l.cause = 0x12 ∧ l.sub = 0x01 ∧ l.src = src

theorem State.joinEvent_spec (s : State) (cl : Nat) (j : JIdx) (pid : BitVec 16) (src : Word) :
    CellEvent s (s.joinEvent cl j pid src) cl j pid src := by
  by_cases hbad : ((s.cluster cl).join j).mode.isNone = true ∨ ((s.cluster cl).join j).pid ≠ pid ∨ ((s.cluster cl).join j).count = 0
  · have hlog : s.joinEvent cl j pid src = s.logRec src 0x12 0x01 (j.setWidth 64) := if_pos hbad
    have hnot : ¬ (((s.cluster cl).join j).mode.isSome = true ∧ ((s.cluster cl).join j).pid = pid ∧ ((s.cluster cl).join j).count ≠ 0) := by
      rintro ⟨hm, hp, hc⟩
      rcases hbad with h | h | h
      · rw [← Option.not_isSome, hm] at h
        cases h
      · exact h hp
      · exact hc h
    rw [hlog]
    exact ⟨rfl, fun h => absurd h hnot, fun _ => ⟨rfl, _, List.mem_cons_self, rfl, rfl, rfl⟩⟩
  · have hok : ((s.cluster cl).join j).mode.isSome = true ∧ ((s.cluster cl).join j).pid = pid ∧ ((s.cluster cl).join j).count ≠ 0 := by
      obtain ⟨hm, hrest⟩ := not_or.mp hbad
      obtain ⟨hp, hc⟩ := not_or.mp hrest
      exact ⟨Option.isSome_iff_ne_none.mpr fun h => hm (Option.isNone_iff_eq_none.mpr h), not_not.mp hp, hc⟩
    have hlast : (((s.cluster cl).join j).count == 1 && ((s.cluster cl).join j).mode == some false) = true ↔
        ((s.cluster cl).join j).mode = some false ∧ ((s.cluster cl).join j).count = 1 := by
      rw [Bool.and_eq_true, beq_iff_eq, beq_iff_eq, and_comm]
    unfold State.joinEvent
    rw [if_neg hbad]
    have hcell : ∀ (f : JoinCell → JoinCell), ((s.modCluster cl fun k => k.modJoin j f).cluster cl).join j = f ((s.cluster cl).join j) := fun f => by
      rw [State.cluster_modCluster, if_pos rfl, Cluster.join_modJoin]
    refine ⟨?_, fun _ => ?_, fun h => absurd hok h⟩
    · dsimp only
      split <;> rfl
    · have hd : ∀ (p : Bool) (u : State) (f : Launch → Launch) (id : Word),
          (((if p then u.modLaunch id f else u) : State).cluster cl).join j = (u.cluster cl).join j := fun p u f id => by
        cases p <;> rfl
      dsimp only
      rw [hd, hcell]
      refine ⟨rfl, rfl, rfl, ?_⟩
      simp only [hlast]
      rfl

theorem joinCellTakesTheCompletion {s : State} {i : Nat} {m : Msg} (h : Arrives s i m) (hkind : maKind m.dest = 3) :
    let c := (s.cluster (maCluster m.dest)).join (maJoin m.dest)
    ∃ u, exec (.joinCellDelivery i) s = .next u ∧ u.flight = s.flight.eraseIdx i ∧ u.mem = s.mem ∧ u.threads = s.threads ∧
      let d := (u.cluster (maCluster m.dest)).join (maJoin m.dest)
      (c.mode.isSome = true ∧ c.pid = m.pid ∧ c.count ≠ 0 → d.count = c.count - 1 ∧ d.mode = c.mode ∧ d.cont = c.cont ∧
        d.owed = if c.mode = some false ∧ c.count = 1 then c.owed ++ [owedBy c m.src] else c.owed) ∧
      (¬ (c.mode.isSome = true ∧ c.pid = m.pid ∧ c.count ≠ 0) → d = c ∧
        ∃ l ∈ u.sys.log, l.cause = 0x12 ∧ l.sub = 0x01 ∧ l.src = m.src) := by
  intro c
  let v := (s.dropFlight i).acquireStamp (maDie m.dest) m.stamp
  have hv : v = { s with flight := s.flight.eraseIdx i, dies := v.dies } := State.acquireStamp_eq ..
  have hev := v.joinEvent_spec (maCluster m.dest) (maJoin m.dest) m.pid m.src
  have hgone := (v.joinEvent (maCluster m.dest) (maJoin m.dest) m.pid m.src).jobDone_zero m
  have hexec : exec (.joinCellDelivery i) s = .next ((v.joinEvent (maCluster m.dest) (maJoin m.dest) m.pid m.src).jobDone m 0) := by
    show execJoinCellDelivery i s = _
    rw [execJoinCellDelivery, State.deliverable_of_arrives h]
    dsimp only
    rw [if_neg (fun hne => hne hkind), State.reportDone_of_granted h.granted]
  have hcl : ∀ k, v.cluster k = s.cluster k := fun k => by
    rw [hv]
    rfl
  have hcells : ∀ k, ((v.joinEvent (maCluster m.dest) (maJoin m.dest) m.pid m.src).jobDone m 0).cluster k =
      (v.joinEvent (maCluster m.dest) (maJoin m.dest) m.pid m.src).cluster k := fun k => by
    rw [State.cluster, hgone.clusters, State.cluster]
  have hcounts := hev.counts
  have hrefused := hev.refused
  rw [hcl] at hcounts hrefused
  refine ⟨_, hexec, ?_, ?_, ?_, ?_⟩
  · rw [hgone.flight, hev.rest, hv]
  · rw [hgone.mem, hev.rest, hv]
  · rw [hgone.threads, hev.rest, hv]
  · dsimp only
    rw [hcells, hgone.sys]
    exact ⟨hcounts, hrefused⟩

end Sys2Proof.Machine
end

section
/-! SUPPORT. The delivery to an FE word of S (R130, R132): an SF store that no journal, hold or poison keeps back. -/

namespace Sys2Proof.Machine

open Sys2Proof.Claims

/-! ## Memory: what a write leaves of tags and poison -/

theorem Mem.write_eq (m : Mem) (a n x : Nat) : m.write a n x = { m with bytes := (m.write a n x).bytes } := by
  induction n generalizing m a x with
  | zero => rfl
  | succ n ih =>
    rw [Mem.write, ih]
    rfl

@[simp] theorem Mem.tag_setWord (m : Mem) (w v : Nat) (x : Word) : (m.setWord w x).tag v = m.tag v := by
  rw [Mem.setWord, Mem.write_eq]
  rfl
@[simp] theorem Mem.bad_setWord (m : Mem) (w v : Nat) (x : Word) : (m.setWord w x).bad v = m.bad v := by
  rw [Mem.setWord, Mem.write_eq]
  rfl
@[simp] theorem Mem.tag_setStamp (m : Mem) (w k v : Nat) : (m.setStamp w k).tag v = m.tag v := rfl
@[simp] theorem Mem.bad_setStamp (m : Mem) (w k v : Nat) : (m.setStamp w k).bad v = m.bad v := rfl
@[simp] theorem Mem.tag_setBad (m : Mem) (w : Nat) (b : Bool) (v : Nat) : (m.setBad w b).tag v = m.tag v := rfl
@[simp] theorem Mem.bad_setTag (m : Mem) (w : Nat) (b : Bool) (v : Nat) : (m.setTag w b).bad v = m.bad v := rfl

/-- The bytes of a word that is written. -/
theorem Mem.byte_setWord (m : Mem) (w : Nat) (x : Word) (a : Nat) :
    (m.setWord w x).byte a = if 8 * w ≤ a ∧ a < 8 * w + 8 then BitVec.ofNat 8 (x.toNat / 256 ^ (a - 8 * w)) else m.byte a := by
  split
  · next h =>
    have := Mem.byte_write_inside m (8 * w) 8 x.toNat (a - 8 * w) (by omega)
    rwa [show 8 * w + (a - 8 * w) = a by omega] at this
  · exact Mem.byte_write_outside m (8 * w) 8 x.toNat a (by omega)

/-! ## The store -/

/-- The journal of a store stands in the blocks. -/
theorem State.journalWords_eq (a : Act) : ∀ (ws : List Nat) (s : State), ∃ blocks, s.journalWords a ws = { s with blocks }
  | [], _ => ⟨_, rfl⟩
  | w :: ws, s => by
    have hone : ∃ blocks, s.journal a (8 * w) = { s with blocks } := by
      unfold State.journal
      split
      · exact ⟨_, rfl⟩
      · split
        · exact ⟨_, rfl⟩
        · dsimp only
          split
          · exact ⟨_, State.killEpoch_eq s a⟩
          · exact ⟨_, rfl⟩
    obtain ⟨b, hb⟩ := hone
    obtain ⟨c, hc⟩ := State.journalWords_eq a ws (s.journal a (8 * w))
    refine ⟨c, hc.trans ?_⟩
    rw [hb]

theorem wordsOf_aligned {pa : Nat} : wordsOf pa 8 = [pa / 8] := by
  rw [wordsOf]
  rfl

/-- A store of one word changes that word, its stamp, and the journal. -/
theorem State.storeAt_word (s : State) (a : Act) (key pa x : Nat) : ∃ blocks, s.storeAt a key pa 8 x =
    { s with blocks, mem := (s.mem.setWord (pa / 8) (BitVec.ofNat 64 x)).setStamp (pa / 8) key } := by
  obtain ⟨blocks, hb⟩ := State.journalWords_eq a (wordsOf pa 8) s
  refine ⟨blocks, ?_⟩
  rw [State.storeAt, hb]
  rfl

/-- An SF store of a word of a bank is performed at once, where no routine holds it and it is not poisoned. -/
theorem State.performNow_sf {s : State} {t : Nat} {r : Req} {e : Elem} {pa key : Nat} (hwhat : r.what = .store) (hsync : r.sync = .sf)
    (hsize : e.size = 8) (hmask : e.mask = none) (hbank : isBank pa = true) (hheld : s.held pa = false) (hbad : s.mem.bad (pa / 8) = false) :
    s.performNow t r e pa key = .done 0 0 ((s.storeAt (s.th t).act key pa 8 e.data.toNat).modMem (setTags true (wordsOf pa 8))) := by
  have htouch : s.touchLine pa = s := by
    rw [State.touchLine, Mem.unproved, hbank]
    rfl
  have hspan : s.heldSpan pa 8 = false := by
    rw [State.heldSpan, hheld]
    rfl
  have hbads : (wordsOf pa 8).any s.mem.bad = false := by
    rw [wordsOf_aligned, List.any_cons, hbad]
    rfl
  unfold State.performNow
  simp only [hwhat, hsync, hsize, htouch, hspan, hbads, Access.isAtom, Elem.merged, hmask, reduceCtorEq, false_and, and_false, if_false,
    Bool.false_eq_true, Bool.false_and, Bool.or_false, OfNat.ofNat_ne_zero, or_self, decide_false]

/-! ## Owners without a retry list -/

theorem State.retestAll_of_no_retry {s : State} {o : Nat} (h : (s.owner o).retry = []) : s.retestAll [o] = s := by
  rw [State.retestAll, List.map_singleton, h]
  show s.retest [o] (999 + 1) = s
  rw [State.retest, h]
  rfl

/-! ## The delivery (R132) -/

/-- The word of S that a message's address names, for the model's access. -/
def feElem (s : State) (m : Msg) : Elem :=
  { ea := (m.dest.extractLsb' 0 18).setWidth 64, size := 8, data := (m.payload.headD 0).setWidth 1024
    pa := bufBase (maBlock m.dest) 0 + m.dest.toNat % 2 ^ 18, key := ((s.block (maBlock m.dest)).stampFor 0).getD 0 }
def feReq (s : State) (m : Msg) : Req :=
  { seq := 2 ^ 64 + m.seq.toNat, what := .store, sp := .s, sync := .sf, pid := m.pid, src := m.src, elems := [feElem s m] }
/-- A word is written under a key, and is full. -/
def Mem.fill (m : Mem) (w key : Nat) (x : Word) : Mem := ((m.setWord w x).setStamp w key).setTag w true
/-- Memory as the delivery to word w leaves it: the word is written and full, and its poison stays. -/
def fePut (m : Mem) (w key : Nat) (x : Word) : Mem :=
  let lost := m.bad w
  let m1 := if lost then m.setBad w false else m
  let m2 := m1.fill w key x
  if lost then m2.setBad w true else m2

theorem fePut_spec (m : Mem) (w key : Nat) (x : Word) :
    (∀ a, (fePut m w key x).byte a = if 8 * w ≤ a ∧ a < 8 * w + 8 then BitVec.ofNat 8 (x.toNat / 256 ^ (a - 8 * w)) else m.byte a) ∧
      (∀ v, (fePut m w key x).tag v = if v = w then true else m.tag v) ∧ ∀ v, (fePut m w key x).bad v = m.bad v := by
  unfold fePut Mem.fill
  cases hlost : m.bad w
  · refine ⟨fun a => ?_, fun v => ?_, fun v => ?_⟩
    · exact Mem.byte_setWord m w x a
    · rw [if_neg Bool.false_ne_true, if_neg Bool.false_ne_true, Mem.tag_setTag, Mem.tag_setStamp, Mem.tag_setWord]
    · rw [if_neg Bool.false_ne_true, if_neg Bool.false_ne_true, Mem.bad_setTag, Mem.bad_setStamp, Mem.bad_setWord]
  · refine ⟨fun a => ?_, fun v => ?_, fun v => ?_⟩
    · exact Mem.byte_setWord (m.setBad w false) w x a
    · rw [if_pos rfl, if_pos rfl, Mem.tag_setBad, Mem.tag_setTag, Mem.tag_setStamp, Mem.tag_setWord, Mem.tag_setBad]
    · rw [if_pos rfl, if_pos rfl, Mem.bad_setBad, Mem.bad_setTag, Mem.bad_setStamp, Mem.bad_setWord, Mem.bad_setBad]
      split
      · next h => rw [h, hlost]
      · rfl

theorem isBank_feElem (s : State) (m : Msg) : isBank (feElem s m).pa = true := by
  refine decide_eq_true ?_
  show 2 ^ 42 ≤ 2 ^ 42 + maBlock m.dest * 2 ^ 22 + 0 * 2 ^ 20 + m.dest.toNat % 2 ^ 18
  omega

theorem data_feElem (s : State) (m : Msg) : BitVec.ofNat 64 (feElem s m).data.toNat = m.payload.headD 0 := by
  show BitVec.ofNat 64 ((m.payload.headD 0).setWidth 1024).toNat = _
  rw [BitVec.ofNat_toNat, BitVec.setWidth_setWidth_of_le _ (by decide), BitVec.setWidth_eq]

/-- What a delivery to S does when its store is performed: a poisoned word is written without its poison, which it has again. -/
theorem State.feStore_of_done {s s3 : State} {m : Msg} (hdev : maDevice m.dest = false)
    (h : (if s.mem.bad ((feElem s m).pa / 8) then s.modMem fun k => k.setBad ((feElem s m).pa / 8) false else s).performNow nobody
      (feReq s m) (feElem s m) (feElem s m).pa (feElem s m).key = .done 0 0 s3) : s.feStore m =
    some (0, (if s.mem.bad ((feElem s m).pa / 8) then s3.modMem fun k => k.setBad ((feElem s m).pa / 8) true else s3).retestAll
      [ownerAt (feElem s m).pa]) := by
  have hsp : ¬ Space.s = Space.d := by decide
  have hleaf : tnakCause (BitVec.allOnes 64) .store .sf = 0 := by decide
  by_cases hlost : s.mem.bad ((feElem s m).pa / 8) = true
  · rw [if_pos hlost] at h ⊢
    simp only [feReq, feElem] at h hlost ⊢
    unfold State.feStore
    simp only [hdev, State.locate, Bool.false_eq_true, if_false, hsp, hleaf, ne_eq, not_true_eq_false, Bool.not_false, Bool.true_and, if_pos hlost, h]
  · rw [if_neg hlost] at h ⊢
    simp only [feReq, feElem] at h hlost ⊢
    unfold State.feStore
    simp only [hdev, State.locate, Bool.false_eq_true, if_false, hsp, hleaf, ne_eq, not_true_eq_false, Bool.not_false, Bool.true_and, if_neg hlost, h]

/-- The store of a delivery fills its word. -/
theorem State.performNow_fe (s : State) (m : Msg) {u : State} (hu : u.held (feElem s m).pa = false)
    (hbad : u.mem.bad ((feElem s m).pa / 8) = false) :
    ∃ blocks, u.performNow nobody (feReq s m) (feElem s m) (feElem s m).pa (feElem s m).key = .done 0 0
      { u with blocks, mem := u.mem.fill ((feElem s m).pa / 8) (feElem s m).key (m.payload.headD 0) } := by
  obtain ⟨blocks, hb⟩ := u.storeAt_word (u.th nobody).act (feElem s m).key (feElem s m).pa (feElem s m).data.toNat
  refine ⟨blocks, ?_⟩
  rw [State.performNow_sf (r := feReq s m) rfl rfl rfl rfl (isBank_feElem s m) hu hbad, hb, data_feElem, wordsOf_aligned]
  rfl

/-- The store of a delivery to S, which no retry list waits for. -/
theorem State.feStore_of_s {s : State} {m : Msg} (hdev : maDevice m.dest = false) (hheld : s.held (feElem s m).pa = false)
    (hretry : (s.owner (ownerAt (feElem s m).pa)).retry = []) : ∃ blocks, s.feStore m =
      some (0, { s with blocks, mem := fePut s.mem ((feElem s m).pa / 8) (feElem s m).key (m.payload.headD 0) }) := by
  unfold fePut
  cases hlost : s.mem.bad ((feElem s m).pa / 8)
  · obtain ⟨blocks, hb⟩ := State.performNow_fe s m hheld hlost
    refine ⟨blocks, (State.feStore_of_done hdev (by rw [hlost]; exact hb)).trans ?_⟩
    rw [hlost]
    exact congrArg (fun u => some ((0 : Byte), u)) (State.retestAll_of_no_retry hretry)
  · have hclean : (s.modMem fun k => k.setBad ((feElem s m).pa / 8) false).mem.bad ((feElem s m).pa / 8) = false :=
      (Mem.bad_setBad ..).trans (if_pos rfl)
    obtain ⟨blocks, hb⟩ := State.performNow_fe s m (u := s.modMem fun k => k.setBad ((feElem s m).pa / 8) false) hheld hclean
    refine ⟨blocks, (State.feStore_of_done hdev (by rw [hlost]; exact hb)).trans ?_⟩
    rw [hlost]
    exact congrArg (fun u => some ((0 : Byte), u)) (State.retestAll_of_no_retry hretry)

theorem feWordTakesThePayload {s : State} {i : Nat} {m : Msg} (h : Arrives s i m) (hkind : maKind m.dest = 4) (hdev : maDevice m.dest = false)
    (halign : (m.dest.extractLsb' 0 18).toNat % 8 = 0) :
    let pa := bufBase (maBlock m.dest) 0 + (m.dest.extractLsb' 0 18).toNat
    s.held pa = false → (s.owner (ownerAt pa)).retry = [] →
      ∃ u, exec (.feWordDelivery i) s = .next u ∧ u.flight = s.flight.eraseIdx i ∧ Stores s u pa 8 (m.payload.headD 0).toNat ∧
        SetsTag s u (pa / 8) true ∧ ∀ w, u.mem.bad w = s.mem.bad w := by
  have hpa : bufBase (maBlock m.dest) 0 + (m.dest.extractLsb' 0 18).toNat = (feElem s m).pa := by
    rw [BitVec.extractLsb'_toNat, Nat.shiftRight_zero]
    rfl
  have hword : 8 * ((feElem s m).pa / 8) = (feElem s m).pa := by
    rw [← hpa, bufBase]
    omega
  dsimp only
  rw [hpa]
  intro hheld hretry
  obtain ⟨blocks, hstore⟩ := State.feStore_of_s hdev hheld hretry
  have hexec : exec (.feWordDelivery i) s = .next ((({ s with
      blocks, mem := fePut s.mem ((feElem s m).pa / 8) (feElem s m).key (m.payload.headD 0) } : State).dropFlight i).jobDone m 0) := by
    show execFeWordDelivery i s = _
    rw [execFeWordDelivery, State.deliverable_of_arrives h]
    dsimp only
    rw [if_neg (fun hne => hne hkind), hstore]
    dsimp only
    rw [if_pos rfl, State.reportDone_of_granted h.granted]
  have hgone := (({ s with blocks, mem := fePut s.mem ((feElem s m).pa / 8) (feElem s m).key (m.payload.headD 0) } : State).dropFlight i).jobDone_zero m
  obtain ⟨hbyte, htag, hbad⟩ := fePut_spec s.mem ((feElem s m).pa / 8) (feElem s m).key (m.payload.headD 0)
  rw [hword] at hbyte
  refine ⟨_, hexec, hgone.flight, fun a => ?_, fun v => ?_, fun w => ?_⟩ <;> rw [hgone.mem]
  · exact hbyte a
  · exact htag v
  · exact hbad w

theorem messagesAreDelivered : Claims.MessagesAreDelivered := by
  intro s i m h blk c
  exact ⟨fun hkind hbind => channelTakesTheMessage h hkind hbind, fun hkind => queueTakesThePayload h hkind,
    fun hkind => joinCellTakesTheCompletion h hkind, fun hkind hdev halign => feWordTakesThePayload h hkind hdev halign⟩

end Sys2Proof.Machine
end

section
/-! SUPPORT. The service of waiters: a stalled send that is granted, the lines of a queue register, stamped messages (R141, R157, R237). -/

namespace Sys2Proof.Machine

open Sys2Proof.Claims

/-! ## A stalled thread issues its instruction again -/

/-- s, with thread t running its stalled instruction. -/
def State.reissued (s : State) (t : Nat) : State := { s.unstall t with cur := t }

theorem State.reissued_me (s : State) (t : Nat) : (s.reissued t).me = { s.th t with status := .running, paired := false } :=
  (State.th_modTh s t t fun x => { x with status := .running, paired := false }).trans (if_pos rfl)

theorem State.reissued_th_ne (s : State) {t v : Nat} (h : v ≠ t) : (s.reissued t).th v = s.th v :=
  (State.th_modTh s t v fun x => { x with status := .running, paired := false }).trans (if_neg h)

theorem State.reissued_g (s : State) (t : Nat) (a : GReg) : (s.reissued t).g a = ({ s with cur := t } : State).g a := by
  rw [State.g, State.reissued_me]
  rfl

theorem State.reissued_reg (s : State) (t : Nat) (a : GReg) : (s.reissued t).reg a = ({ s with cur := t } : State).reg a := by
  rw [State.reg, State.reissued_me]
  rfl

theorem State.reissued_fallPc (s : State) (t : Nat) : (s.reissued t).fallPc = ({ s with cur := t } : State).fallPc := by
  simp only [State.fallPc, State.here, State.reissued_me]
  rfl

theorem State.reissued_instrAt (s : State) (t : Nat) : (s.unstall t).instrAt t = s.instrAt t := by
  have hth : (s.unstall t).th t = { s.th t with status := .running, paired := false } := s.reissued_me t
  simp only [State.instrAt, State.lineAt, State.instOf, hth]
  rfl

theorem State.reissued_acqWaits (s : State) (t : Nat) : (s.reissued t).acqWaits = ({ s with cur := t } : State).acqWaits := by
  rw [State.acqWaits, State.reissued_me]
  rfl

theorem State.reissued_settled (s : State) (t : Nat) : (s.reissued t).settled t = s.settled t := by
  have hth : (s.reissued t).th t = { s.th t with status := .running, paired := false } := s.reissued_me t
  rw [State.settled, hth]
  rfl

/-- An instruction that retires as thread t, whoever runs now, leaves the thread running behind it. -/
theorem State.asThread_retired {s w : State} {t : Nat} {f : State → Out State} (hf : f (s.reissued t) = .next w) (hret : Retired (s.reissued t) w) :
    ∃ u, (s.unstall t).asThread t f = .next u ∧ u.cur = s.cur ∧ u.mem = w.mem ∧ u.flight = w.flight ∧ (∀ k, u.block k = w.block k) ∧
      (u.th t).status = .running ∧ (u.th t).act.pc = ({ s with cur := t } : State).fallPc ∧
      (∀ k, ({ u with cur := t } : State).reg k = w.reg k) ∧ ∀ v, v ≠ t → u.th v = s.th v := by
  have hcur : w.cur = t := hret.cur
  have hexec : (s.unstall t).asThread t f = .next { (w.modTh t fun x => x.atHead s.cycle) with cur := s.cur } := by
    have hf' : f { s.unstall t with cur := t } = .next w := hf
    rw [State.asThread, hf']
    rfl
  have hth : ∀ v, State.th { (w.modTh t fun x => x.atHead s.cycle) with cur := s.cur } v = if v = t then (w.th t).atHead s.cycle else w.th v :=
    fun v => State.th_modTh w t v fun x => x.atHead s.cycle
  have hme : w.me = w.th t := by rw [State.me, hcur]
  have hhead : ∃ head headOf, (w.th t).atHead s.cycle = { w.th t with head, headOf } := by
    unfold Thread.atHead
    split <;> exact ⟨_, _, rfl⟩
  obtain ⟨head, headOf, hhead⟩ := hhead
  refine ⟨_, hexec, rfl, rfl, rfl, fun _ => rfl, ?_, ?_, fun k => ?_, fun v hv => ?_⟩
  · rw [hth, if_pos rfl, hhead, ← hme]
    exact hret.status.trans (by rw [State.reissued_me])
  · rw [hth, if_pos rfl, hhead, ← hme]
    exact hret.at'.trans (s.reissued_fallPc t)
  · have hmine : State.me { { (w.modTh t fun x => x.atHead s.cycle) with cur := s.cur } with cur := t } = (w.th t).atHead s.cycle :=
      (hth t).trans (if_pos rfl)
    rw [State.reg, hmine, hhead, State.reg, hme]
    rfl
  · rw [hth, if_neg hv, hret.others v hv, State.reissued_th_ne s hv]

/-! ## A granted send (R141) -/

/-- A message of the running thread to its own die is in flight, and no register or control of a thread has changed. -/
theorem State.sendHere_spec (s : State) (m : Msg) (hnew : s.me.resent = []) : ∃ n, Quietly s (s.sendHere m .die) ∧
    (s.sendHere m .die).mem = s.mem ∧ (s.sendHere m .die).flight = s.flight ++ [{ m with seq := n }] := by
  obtain ⟨blocks, hblocks⟩ : ∃ blocks, (((s.nextSeqTo s.cur m.dest).2.journalSend s.cur m.dest (s.nextSeqTo s.cur m.dest).1).reserveHere
      m.pid m.dest m.payload.length).doneAt s.cur m.dest = { (s.nextSeqTo s.cur m.dest).2 with blocks } := by
    have hjournal : ∃ blocks, (s.nextSeqTo s.cur m.dest).2.journalSend s.cur m.dest (s.nextSeqTo s.cur m.dest).1 =
        { (s.nextSeqTo s.cur m.dest).2 with blocks } := by
      unfold State.journalSend State.journalSendOf
      split <;> exact ⟨_, rfl⟩
    obtain ⟨b1, h1⟩ := hjournal
    have hreserve : ∃ blocks, ({ (s.nextSeqTo s.cur m.dest).2 with blocks := b1 } : State).reserveHere m.pid m.dest m.payload.length =
        { (s.nextSeqTo s.cur m.dest).2 with blocks } := by
      unfold State.reserveHere
      split <;> exact ⟨_, rfl⟩
    obtain ⟨b2, h2⟩ := hreserve
    rw [h1, h2, State.doneAt]
    split <;> exact ⟨_, rfl⟩
  have hsent : s.me.sentBefore m.dest (s.nextSeqTo s.cur m.dest).1 = false := by rw [Thread.sentBefore, hnew]; rfl
  have heq : s.sendHere m .die = ({ (s.nextSeqTo s.cur m.dest).2 with blocks } : State).push { m with seq := (s.nextSeqTo s.cur m.dest).1 } := by
    simp only [State.sendHere, hsent, Bool.false_eq_true, if_false, reduceCtorEq, hblocks]
  rw [heq]
  exact ⟨_, (Quietly.nextSeqTo s m.dest).trans (Quietly.of_threads rfl rfl rfl fun _ => rfl), rfl, rfl⟩

/-- A send that its destination on the own die grants puts its message in flight and retires. -/
theorem State.sendTo_granted {s : State} {dst reply : Word} {words : List Word} {ord : Bool} (hsend : MaySend s dst)
    (hform : malformed dst = false) (hlo : 1 ≤ maKind dst) (hhi : maKind dst ≤ 4) (hanswer : s.answerTo s.cur s.me.act.pid dst words.length = .grant) :
    s.sendTo dst reply words none none ord = .next ((s.sendHere (s.compose dst reply words none) .die).modMe Thread.sendOver).retire := by
  have hready : s.releaseReady .die = true := hsend.quiet
  have hpid : (s.compose dst reply words none).pid = s.me.act.pid := rfl
  have hkind : ¬ (malformed dst = true ∨ maKind dst = 0 ∨ maKind dst = 5 ∨ maKind dst = 6 ∨ maKind dst = 7 ∨
      (Option.isSome (none : Option VReg) = true ∧ maKind dst ≠ 2)) := by
    simp only [hform, Option.isSome_none, Bool.false_eq_true, false_and, or_false, false_or]
    omega
  unfold State.sendTo
  simp only [hkind, hsend.hazards, hsend.fresh, State.reach_of_maySend hsend, hready, hsend.clean, hpid, hanswer, if_true, if_false,
    Bool.false_eq_true, false_and, Bool.not_true, reduceCtorEq]

theorem State.reissued_maySend {s : State} {t : Nat} {dst : Word} (h : MaySend { s with cur := t } dst) : MaySend (s.reissued t) dst := by
  obtain ⟨hact, hhere, hdie, hquiet, hclean, hfresh, hhaz⟩ := h
  refine ⟨hact, ?_, ?_, (s.reissued_settled t).trans hquiet, ?_, ?_, ?_⟩
  · rw [State.reissued_me]; exact hhere
  · rw [State.reissued_me]; exact hdie
  · rw [State.reissued_me]; exact hclean
  · rw [State.reissued_me]; exact hfresh
  · rw [State.haz, State.reissued_me]; exact hhaz

/-- The turn of a thread in a queue register's line is the same while it issues its instruction again. -/
theorem State.reissued_turn (s : State) (t blk : Nat) (q : QIdx) (pop : Bool) : (s.reissued t).turn blk q pop t = s.turn blk q pop t := by
  have hfilter : (fun v => v == t || (if pop then ((s.reissued t).th v).status == .stalled (.queue q true) else (s.reissued t).pushing blk q v)) =
      fun v => v == t || (if pop then (s.th v).status == .stalled (.queue q true) else s.pushing blk q v) := by
    funext v
    by_cases hv : v = t
    · rw [hv, beq_self_eq_true, Bool.true_or, Bool.true_or]
    · rw [State.pushing, State.reissued_th_ne s hv]
      rfl
  unfold State.turn
  rw [hfilter]
  rfl

theorem State.reissued_answerTo (s : State) (t : Nat) (dst : Word) (n : Nat) :
    (s.reissued t).answerTo t (s.reissued t).me.act.pid dst n = s.answerTo t (s.th t).act.pid dst n := by
  have hact : (s.reissued t).me.act = (s.th t).act := by rw [State.reissued_me]
  have hhere : (s.reissued t).answerHere (s.th t).act.pid dst n = s.answerHere (s.th t).act.pid dst n := rfl
  rw [hact, State.answerTo, hhere, State.reissued_turn]
  rfl

/-- The event of a stalled SEND that can go on issues it again. -/
theorem exec_sendGrant_of_answer {s : State} {t : Nat} {a b c : GReg} {n : BitVec 4} {ord : Bool} {w : SendWait}
    (hstall : (s.th t).status = .stalled .send) (hpair : (s.th t).paired = false) (hinstr : s.instrAt t = some (.send a b c n ord))
    (hwait : (s.th t).sendDst = some w) (hans : (s.th t).sendAns = none) (hfab : ∀ v ∈ s.fab.unacked, v.thread = t → v.msg = none)
    (hhere : s.maHere (s.th t).act.pid w.dst = true) (hgrant : s.answerTo t (s.th t).act.pid w.dst w.words ≠ .full) :
    exec (.sendGrant t) s = (s.unstall t).asThread t (execSend a b c n ord) := by
  have hany : s.fab.unacked.any (fun u => u.thread == t && u.msg.isSome) = false := by
    rw [List.any_eq_false]
    intro v hv hboth
    obtain ⟨hth, hmsg⟩ := Bool.and_eq_true_iff.mp hboth
    rw [hfab v hv (beq_iff_eq.mp hth)] at hmsg
    cases hmsg
  show execSendGrant t s = _
  unfold execSendGrant
  simp only [hwait, hstall, hans, hany, hhere, hgrant, hpair, hinstr, ne_eq, not_true_eq_false, Option.isSome_none, Bool.false_eq_true,
    Bool.not_true, or_self, if_false]

theorem Thread.sendOver_quietly (s : State) : Quietly s (s.modMe Thread.sendOver) :=
  Quietly.modMe s Thread.sendOver rfl rfl rfl rfl (fun _ => rfl) rfl

theorem stalledSendIsGranted {s : State} {t : Nat} {a b c : GReg} {n : BitVec 4} {ord : Bool} (hact : isAct t = true) :
    let r : State := { s with cur := t }
    (s.th t).status = .stalled .send → (s.th t).paired = false → s.instrAt t = some (.send a b c n ord) →
      (∀ v ∈ s.fab.unacked, v.thread = t → v.msg = none) → MaySend r (r.g a) → malformed (r.g a) = false →
      1 ≤ maKind (r.g a) → maKind (r.g a) ≤ 4 → (s.th t).resent = [] →
      (s.th t).sendDst = some { dst := r.g a, words := n.toNat } → s.answerTo t (s.th t).act.pid (r.g a) n.toNat = .grant →
      ∃ u m, exec (.sendGrant t) s = .next u ∧ u.flight = s.flight ++ [m] ∧ m.dest = r.g a ∧ m.reply = r.g c ∧
        m.payload = (payload b n).map r.g ∧ m.src = sourceOf t ∧ u.cur = s.cur ∧ u.mem = s.mem ∧
        (u.th t).status = .running ∧ (u.th t).act.pc = r.fallPc ∧ ∀ v, v ≠ t → u.th v = s.th v := by
  intro r hstall hpair hinstr hfab hsend hform hlo hhi hnew hwait hanswer
  have hexec := exec_sendGrant_of_answer hstall hpair hinstr hwait hsend.fresh hfab hsend.here (by rw [hanswer]; decide)
  have hgs : (s.reissued t).g = r.g := funext (s.reissued_g t)
  have hlen : ((payload b n).map r.g).length = n.toNat := by simp [payload]
  have hsent : execSend a b c n ord (s.reissued t) = .next ((((s.reissued t).sendHere ((s.reissued t).compose (r.g a) (r.g c)
      ((payload b n).map r.g) none) .die).modMe Thread.sendOver).retire) := by
    have hgo : execSend a b c n ord (s.reissued t) = (s.reissued t).sendTo (r.g a) (r.g c) ((payload b n).map r.g) none none ord := by
      rw [← hgs]
      exact if_pos hact
    rw [hgo]
    refine State.sendTo_granted (State.reissued_maySend hsend) hform hlo hhi ?_
    rw [hlen]
    exact (s.reissued_answerTo t _ _).trans hanswer
  obtain ⟨k, hquiet, hmem, hflight⟩ := (s.reissued t).sendHere_spec ((s.reissued t).compose (r.g a) (r.g c) ((payload b n).map r.g) none)
    (by rw [State.reissued_me]; exact hnew)
  obtain ⟨hret, -⟩ := (hquiet.trans (Thread.sendOver_quietly _)).retire
  obtain ⟨u, hu, hcur, hm, hfl, -, hst, hpc, -, hoth⟩ := State.asThread_retired hsent hret
  exact ⟨u, _, hexec.trans hu, hfl.trans hflight, rfl, rfl, rfl, rfl, hcur, hm.trans hmem, hst, hpc, hoth⟩

/-! ## The lines of a queue register (R157) -/

/-- What the service of thread t in a queue register's line runs. -/
def execWaiter (t : Nat) (s : State) : Out State :=
  match s.instrAt t with
  | some (.qpop d q) => execQpop d q s
  | some (.qpeek d q) => execQpeek d q s
  | some (.qpush q a) => execQpush q a s
  | _ => .next s

section
variable {s : State} {t : Nat} {q : QIdx} {more : List Nat} (hline : ((s.block (blockOf t)).queue q).waiters = t :: more)
include hline

/-- It is the turn of the thread that has waited longest. -/
theorem State.turn_of_oldest (pop : Bool) : s.turn (blockOf t) q pop t = true := by
  rw [State.turn, hline, List.filter_cons_of_pos (by rw [beq_self_eq_true, Bool.true_or])]
  exact beq_self_eq_true t

/-- The oldest POP waiter of a queue register that holds words is served. -/
theorem exec_queueWaiterServed_of_pop (hstall : (s.th t).status = .stalled (.queue q true)) (hpair : (s.th t).paired = false)
    (hitems : ((s.block (blockOf t)).queue q).items ≠ []) :
    exec (.queueWaiterServed (blockOf t) q) s = (s.unstall t).asThread t (execWaiter t) := by
  have hpop : s.queueLine (blockOf t) q true = t :: more.filter fun v => (s.th v).status == .stalled (.queue q true) := by
    rw [State.queueLine, hline]
    exact List.filter_cons_of_pos (by simp [hstall])
  show execQueueWaiterServed (blockOf t) q s = _
  unfold execQueueWaiterServed
  simp only [hpop, hitems, hpair, ne_eq, not_false_eq_true, if_true, if_false, Bool.false_eq_true]
  rfl

/-- The oldest PUSH waiter of a queue register with room, where nobody waits to pop, is served. -/
theorem exec_queueWaiterServed_of_push (hact : isAct t = true) (hstall : (s.th t).status = .stalled (.queue q false))
    (hpair : (s.th t).paired = false) (hroom : 1 ≤ ((s.block (blockOf t)).queue q).room)
    (hmore : ∀ v ∈ more, (s.th v).status ≠ .stalled (.queue q true)) :
    exec (.queueWaiterServed (blockOf t) q) s = (s.unstall t).asThread t (execWaiter t) := by
  have hpop : s.queueLine (blockOf t) q true = [] := by
    rw [State.queueLine, hline]
    refine List.filter_eq_nil_iff.mpr fun v hv => ?_
    rcases List.mem_cons.mp hv with rfl | hv
    · simp [hstall]
    · simpa using hmore v hv
  have hpush : s.queueLine (blockOf t) q false = t :: more.filter fun v => s.pushing (blockOf t) q v := by
    rw [State.queueLine, hline]
    exact List.filter_cons_of_pos (by simp [State.pushing, hact, hstall])
  show execQueueWaiterServed (blockOf t) q s = _
  unfold execQueueWaiterServed
  simp only [hpop, hpush, hstall, hpair, hroom, List.head?_cons, Option.filter_some, beq_self_eq_true, if_true, if_false, Bool.false_eq_true]
  rfl

theorem oldestPopWaiterTakesTheOldestWord {d : GReg} {w : Word} {rest : List Word} (hact : isAct t = true) :
    let r : State := { s with cur := t }
    (s.th t).paired = false → r.acqWaits = false → (s.th t).status = .stalled (.queue q true) → s.instrAt t = some (.qpop d q) →
      ((s.block (blockOf t)).queue q).items = w :: rest →
      ∃ u, exec (.queueWaiterServed (blockOf t) q) s = .next u ∧ u.cur = s.cur ∧ u.mem = s.mem ∧
        ((u.block (blockOf t)).queue q).items = rest ∧ (u.th t).status = .running ∧ (u.th t).act.pc = r.fallPc ∧
        ∀ k, ({ u with cur := t } : State).reg k = if k = d ∧ k ≠ 0 then w else r.reg k := by
  intro r hpair hacq hstall hinstr hitems
  have hexec := exec_queueWaiterServed_of_pop hline hstall hpair (by rw [hitems]; exact List.cons_ne_nil _ _)
  have hturn : (s.reissued t).myTurn q true = true := (s.reissued_turn t _ q true).trans (State.turn_of_oldest hline true)
  have hrun : execWaiter t (s.reissued t) = .next ((((s.reissued t).leaveQueue q).modBlock (blockOf t) fun b => b.modQueue q fun r =>
      { r with items := rest }).writeRetire d w) := by
    have hpop : exec (.qpop d q) (s.reissued t) = _ := exec_qpop hact ((s.reissued_acqWaits t).trans hacq)
    have hmine : ((s.reissued t).myQueue q).items = w :: rest := hitems
    rw [hmine] at hpop
    have hi : (s.reissued t).instrAt t = some (.qpop d q) := (s.reissued_instrAt t).trans hinstr
    rw [execWaiter, hi]
    exact hpop.trans (if_pos hturn)
  obtain ⟨hret, hreg, -⟩ := ((Quietly.leaveQueue (s.reissued t) q).trans (Quietly.modBlock _ (blockOf t) fun b => b.modQueue q fun r =>
    { r with items := rest })).writeRetire d w
  obtain ⟨u, hu, hcur, hm, -, hblk, hst, hpc, hregs, -⟩ := State.asThread_retired hrun hret
  refine ⟨u, hexec.trans hu, hcur, hm, ?_, hst, hpc, fun k => ?_⟩
  · rw [hblk, State.block_writeRetire, State.queue_modQueue]
  · rw [hregs, hreg, State.reissued_reg]

theorem oldestPushWaiterAppendsItsWord {a : GReg} (hact : isAct t = true) :
    let r : State := { s with cur := t }
    (s.th t).paired = false → r.acqWaits = false → (s.th t).status = .stalled (.queue q false) → s.instrAt t = some (.qpush q a) →
      1 ≤ ((s.block (blockOf t)).queue q).room → s.settled t = true → (∀ v ∈ more, (s.th v).status ≠ .stalled (.queue q true)) →
      ∃ u, exec (.queueWaiterServed (blockOf t) q) s = .next u ∧ u.cur = s.cur ∧ u.mem = s.mem ∧
        ((u.block (blockOf t)).queue q).items = ((s.block (blockOf t)).queue q).items ++ [r.g a] ∧ (u.th t).status = .running ∧
        (u.th t).act.pc = r.fallPc := by
  intro r hpair hacq hstall hinstr hroom hset hmore
  have hexec := exec_queueWaiterServed_of_push hline hact hstall hpair hroom hmore
  have hturn : (s.reissued t).myTurn q false = true := (s.reissued_turn t _ q false).trans (State.turn_of_oldest hline false)
  have hrun : execWaiter t (s.reissued t) = .next ((((s.reissued t).leaveQueue q).modBlock (blockOf t) fun b => b.modQueue q fun r =>
      { r with items := r.items ++ [(s.reissued t).g a] }).retire) := by
    have hpush : exec (.qpush q a) (s.reissued t) = _ :=
      exec_qpush hact ((s.reissued_acqWaits t).trans hacq) ((s.reissued_settled t).trans hset)
    have hi : (s.reissued t).instrAt t = some (.qpush q a) := (s.reissued_instrAt t).trans hinstr
    rw [execWaiter, hi]
    exact hpush.trans (if_pos ⟨hroom, hturn⟩)
  obtain ⟨hret, -⟩ := ((Quietly.leaveQueue (s.reissued t) q).trans (Quietly.modBlock _ (blockOf t) fun b => b.modQueue q fun r =>
    { r with items := r.items ++ [(s.reissued t).g a] })).retire
  obtain ⟨u, hu, hcur, hm, -, hblk, hst, hpc, -, -⟩ := State.asThread_retired hrun hret
  refine ⟨u, hexec.trans hu, hcur, hm, ?_, hst, hpc⟩
  have hleft := (s.reissued t).items_leaveQueue q
  rw [hblk, State.block_retire, State.queue_modQueue, State.reissued_g]
  exact congrArg (· ++ [r.g a]) hleft

end

/-! ## Stamped messages (R237) -/

theorem State.stampOk_iff (s : State) (home : Nat) (v : List (BitVec 16)) : s.stampOk home v = true ↔
    v = [] ∨ ∀ k, k < 4 → ((s.die home).a.getD k 0 - v.getD k 0).toNat < 2 ^ 15 := by
  simp only [State.stampOk, atOrPast, Bool.or_eq_true, beq_iff_eq, List.all_eq_true, List.mem_range, decide_eq_true_eq]

theorem stampedMessageIsApplied {s : State} {i : Nat} {m : Msg} (hm : s.flight[i]? = some m) (happ : m.applied = false) :
    let met := m.stamp = [] ∨ ∀ k, k < 4 → (((s.die (s.maHome 0 m.pid m.dest)).a.getD k 0) - m.stamp.getD k 0).toNat < 2 ^ 15
    ∃ u, exec (.stampedWriteApply i) s = .next u ∧ (¬ met → u = s) ∧
      (met → u = { s with flight := s.flight.set i { m with applied := true } }) := by
  intro met
  have hexec : exec (.stampedWriteApply i) s =
      if met then .next { s with flight := s.flight.set i { m with applied := true } } else .next s := by
    show execStampedWriteApply i s = _
    simp only [execStampedWriteApply, hm, happ, State.stampOk_iff, Bool.not_false, true_and]
    rfl
  by_cases hmet : met
  · exact ⟨_, hexec.trans (if_pos hmet), fun h => absurd hmet h, fun _ => rfl⟩
  · exact ⟨_, hexec.trans (if_neg hmet), fun _ => rfl, fun h => absurd h hmet⟩

theorem waitersAreServed : Claims.WaitersAreServed := by
  intro s t hact r
  refine ⟨fun a b c n ord => stalledSendIsGranted hact, fun q more hline hpair hacq => ?_, fun i m hm happ => stampedMessageIsApplied hm happ⟩
  exact ⟨fun d w rest => oldestPopWaiterTakesTheOldestWord hline hact hpair hacq,
    fun a => oldestPushWaiterAppendsItsWord hline hact hpair hacq⟩

/-- Settles O37: a delivery changes its target's unit alone, and a waiter that is served issues its instruction again, which
retires as it would have at first. -/
theorem messagesReachTheirTarget : Obligations.MessagesReachTheirTarget :=
  ⟨messagesAreDelivered, waitersAreServed⟩

end Sys2Proof.Machine
end

section
/-! SUPPORT. Launch headers: their refusal and their acceptance (R143–R145, R404). -/

namespace Sys2Proof.Machine

open Sys2Proof.Claims

/-! ## What reading a context's device memory leaves -/

/-- No block, cluster, launch or message has changed. -/
structure SameUnits (s u : State) : Prop where
  blocks : u.blocks = s.blocks
  clusters : u.clusters = s.clusters
  launches : u.sys.launches = s.sys.launches
  flight : u.flight = s.flight

theorem SameUnits.refl (s : State) : SameUnits s s := ⟨rfl, rfl, rfl, rfl⟩

theorem SameUnits.trans {s u v : State} (h : SameUnits s u) (k : SameUnits u v) : SameUnits s v :=
  ⟨k.blocks.trans h.blocks, k.clusters.trans h.clusters, k.launches.trans h.launches, k.flight.trans h.flight⟩

theorem SameUnits.modMem (s : State) (f : Mem → Mem) : SameUnits s (s.modMem f) := ⟨rfl, rfl, rfl, rfl⟩
theorem SameUnits.logRec (s : State) (src : Word) (cause sub : Byte) (val : Word) : SameUnits s (s.logRec src cause sub val) :=
  ⟨rfl, rfl, rfl, rfl⟩
theorem SameUnits.stations (s : State) (stations : Map (List Xlate)) : SameUnits s { s with sys := { s.sys with stations } } :=
  ⟨rfl, rfl, rfl, rfl⟩

theorem SameUnits.touchLine (s : State) (pa : Nat) : SameUnits s (s.touchLine pa) := by
  unfold State.touchLine
  split
  · exact SameUnits.refl s
  · exact (SameUnits.modMem s _).trans (SameUnits.logRec ..)

theorem SameUnits.touchWalk (lva : Nat) : ∀ (ls : List Nat) (s : State) (table : Nat), SameUnits s (s.touchWalk table lva ls)
  | [], s, _ => SameUnits.refl s
  | l :: ls, s, table => by
    unfold State.touchWalk
    dsimp only
    split
    · exact SameUnits.touchLine ..
    · exact (SameUnits.touchLine ..).trans (SameUnits.touchWalk lva ls _ _)

theorem SameUnits.translate (s : State) (t : Nat) (pid : BitVec 16) (lva : Nat) : SameUnits s (s.translate t pid lva).2 := by
  unfold State.translate
  dsimp only
  split
  · exact SameUnits.refl s
  · split
    · exact (SameUnits.touchWalk lva _ s _).trans (SameUnits.stations ..)
    · dsimp only
      split
      · exact (SameUnits.touchWalk lva _ s _).trans (SameUnits.logRec ..)
      · exact SameUnits.touchWalk lva _ s _

theorem SameUnits.readWord (s : State) (key w : Nat) : SameUnits s (s.readWord key w).2 := by
  obtain ⟨k, hk⟩ := s.readWord_eq key w
  rw [hk]
  exact ⟨rfl, rfl, rfl, rfl⟩

theorem SameUnits.devWord {s u : State} {t : Nat} {pid : BitVec 16} {lva : Nat} {w : Word} (h : s.devWord t pid lva = some (w, u)) :
    SameUnits s u := by
  unfold State.devWord at h
  have htrans := SameUnits.translate s t pid lva
  split at h
  · cases h
  next l s1 heq =>
    rw [heq] at htrans
    dsimp only at h
    split at h
    · cases h
    · split at h
      · cases h
      · simp only [Option.some.injEq] at h
        have hread := SameUnits.readWord (s1.touchLine (leafAddr l lva)) ((s1.touchLine (leafAddr l lva)).memStamp pid (l.1.extractLsb' 54 3))
          (leafAddr l lva / 8)
        rw [h] at hread
        exact (htrans.trans (SameUnits.touchLine ..)).trans hread

theorem SameUnits.devWords {t : Nat} {pid : BitVec 16} : ∀ (n : Nat) {s u : State} {lva : Nat} {bs : List Byte},
    s.devWords t pid lva n = some (bs, u) → SameUnits s u
  | 0, s, u, _, bs, h => by
    cases h
    exact SameUnits.refl s
  | n + 1, s, u, lva, bs, h => by
    unfold State.devWords at h
    split at h
    · cases h
    next w s1 hword =>
      split at h
      · cases h
      next cs s2 hrest =>
        cases h
        exact (SameUnits.devWord hword).trans (SameUnits.devWords n hrest)

theorem SameUnits.devBytes {s u : State} {t : Nat} {pid : BitVec 16} {ea : Word} {n : Nat} {bs : List Byte}
    (h : s.devBytes t pid ea n = some (bs, u)) : SameUnits s u := by
  unfold State.devBytes at h
  split at h
  · cases h
  · dsimp only at h
    split at h
    · cases h
    next cs s1 hwords =>
      cases h
      exact SameUnits.devWords _ hwords

theorem SameUnits.readDigests {t : Nat} {pid : BitVec 16} {entry : Word} : ∀ {ks : List Nat} {s u : State} {ds : List Digest},
    s.readDigests t pid entry ks = some (ds, u) → SameUnits s u
  | [], s, u, ds, h => by
    cases h
    exact SameUnits.refl s
  | k :: ks, s, u, ds, h => by
    unfold State.readDigests at h
    split at h
    · cases h
    next bs s1 hbytes =>
      split at h
      · cases h
      next es s2 hrest =>
        cases h
        exact (SameUnits.devBytes hbytes).trans (SameUnits.readDigests hrest)

section
variable {s u : State} (h : SameUnits s u)
include h

theorem SameUnits.block (b : Nat) : u.block b = s.block b := by rw [State.block, h.blocks, State.block]
theorem SameUnits.cluster (c : Nat) : u.cluster c = s.cluster c := by rw [State.cluster, h.clusters, State.cluster]
theorem SameUnits.placed (place : Word) : u.placed place = s.placed place := by
  simp only [State.placed, h.cluster]
theorem SameUnits.chanNo (b : Nat) (pid : BitVec 16) (c : CIdx) : u.chanNo b pid c = s.chanNo b pid c := by
  rw [State.chanNo, h.block, State.chanNo]

end

/-! ## Reports -/

theorem State.report_of_reportable {reply : Word} (h : reportable reply) (s : State) (cl : Nat) (pid : BitVec 16) (words : List Word) (origin : Origin) :
    s.report cl pid reply words origin =
      s.push { dest := reply, payload := words, src := inboxSource cl, wid := 0, pid, origin, die := cl / 32 } := by
  obtain ⟨hz, hform, hkind⟩ := h
  have hnot : ¬ (reply = 0 ∨ malformed reply = true ∨ 4 < maKind reply) := by
    rw [hform]
    rintro (h | h | h)
    · exact hz h
    · cases h
    · omega
  exact if_neg hnot

/-! ## The blocks of a placement (R143, R146) -/

/-- The placed blocks are blocks of the chip, in order. -/
theorem State.placed_sublist (s : State) (place : Word) : (s.placed place).Sublist (List.range 1024) := by
  have hall : List.range 1024 = (List.range 4).flatMap fun d => (List.range 32).flatMap fun c => (List.range 8).map fun b => (32 * d + c) * 8 + b := by
    decide +kernel
  rw [hall]
  refine List.Sublist.flatMap_right _ fun d _ => ?_
  split
  · exact List.nil_sublist _
  · refine List.Sublist.flatMap_right _ fun c _ => ?_
    split
    · exact List.nil_sublist _
    · exact List.Sublist.map _ List.filter_sublist

/-- A cluster has eight blocks. -/
theorem State.placed_countP (s : State) (place : Word) (cl : Nat) : (s.placed place).countP (fun b => b / 8 == cl) ≤ 8 := by
  have hnodup : ((s.placed place).filter fun b => b / 8 == cl).Nodup :=
    ((s.placed_sublist place).nodup List.nodup_range).filter _
  have hsub : ((s.placed place).filter fun b => b / 8 == cl) ⊆ List.range' (8 * cl) 8 := by
    intro b hb
    have hcl : b / 8 = cl := beq_iff_eq.mp (List.mem_filter.mp hb).2
    rw [List.mem_range'_1]
    omega
  rw [List.countP_eq_length_filter]
  exact (hnodup.subperm hsub).length_le

/-! ## The binding of a launch's channel (R146) -/

/-- A launch of one stage binds a channel: with the header's priority and deadline. -/
structure BoundBy (n : Binding) (id : Word) (pid : BitVec 16) (prio deadline : Nat) : Prop where
  launch : n.launch = id
  pid : n.pid = pid
  stage : n.stage = 0xFF
  prio : n.prio = BitVec.ofNat 3 prio
  deadline : n.deadline = if deadline = 0 then 0xFFFF else BitVec.ofNat 16 deadline

/-- u is s but for at most one new directory entry in a cluster. -/
structure Enters (s u : State) (cl : Nat) : Prop where
  blocks : u.blocks = s.blocks
  sys : u.sys = s.sys
  flight : u.flight = s.flight
  inbox : ∀ c, (u.cluster c).inbox = (s.cluster c).inbox
  dir : ∀ c, (u.cluster c).dir.length ≤ (s.cluster c).dir.length + if c = cl then 1 else 0

theorem State.lookupOrCreate_enters {s : State} {cl : Nat} {pid : BitVec 16} {dig : Digest} (hroom : (s.cluster cl).dir.length < 4096) :
    ∃ hd u, s.lookupOrCreate cl pid false dig = (some hd, u) ∧ Enters s u cl := by
  unfold State.lookupOrCreate
  cases s.lookup cl pid false dig with
  | some e => exact ⟨_, _, rfl, rfl, rfl, rfl, fun _ => rfl, fun _ => Nat.le_add_right ..⟩
  | none =>
    have hfree : ¬ (false = true ∨ 4096 ≤ (s.cluster cl).dir.length) := by simpa using hroom
    simp only [if_neg hfree]
    refine ⟨_, _, rfl, rfl, rfl, rfl, fun c => ?_, fun c => ?_⟩ <;> rw [State.cluster_modCluster] <;> split
    · next h => rw [h]
    · rfl
    · next h => simp [h]
    · exact Nat.le_add_right ..

section
variable (s : State) (id : Word) (pid : BitVec 16) (index prio deadline : Nat) (ch : CIdx)

/-- The blocks of a list have their channel bound; little else has changed. -/
structure AllBound (bs : List Nat) (u : State) : Prop where
  sys : u.sys = s.sys
  flight : u.flight = s.flight
  inbox : ∀ c, (u.cluster c).inbox = (s.cluster c).inbox
  dir : ∀ c, (u.cluster c).dir.length ≤ (s.cluster c).dir.length + bs.countP fun b => b / 8 == c
  maps : ∀ b, (u.block b).chanMap = (s.block b).chanMap
  bound : ∀ b ∈ bs, ∃ n, ((u.block b).chan (s.chanNo b pid ch)).bind = some n ∧ BoundBy n id pid prio deadline

variable {s id pid index prio deadline ch}

/-- Binding one more block, whose cluster has room for one more function. -/
theorem AllBound.bindBlock {bs : List Nat} {u : State} (h : AllBound s id pid prio deadline ch bs u) (b : Nat) (dig : Digest)
    (hroom : (u.cluster (b / 8)).dir.length < 4096) :
    AllBound s id pid prio deadline ch (bs ++ [b]) (u.bindBlock b id pid [((index, ch.toNat, prio, deadline, 0xFF), dig)]) := by
  obtain ⟨hd, w, hlook, henter⟩ := State.lookupOrCreate_enters (pid := pid) (dig := dig) hroom
  have hch : u.chanNo b pid (BitVec.ofNat 5 ch.toNat) = s.chanNo b pid ch := by
    rw [BitVec.ofNat_toNat, BitVec.setWidth_eq, State.chanNo, h.maps, State.chanNo]
  have hbind : u.bindBlock b id pid [((index, ch.toNat, prio, deadline, 0xFF), dig)] = w.modBlock b fun x => x.modChan (s.chanNo b pid ch)
      fun c => { c with bind := some { handle := hd, prio := BitVec.ofNat 3 prio, stage := 0xFF
                                       deadline := if deadline = 0 then 0xFFFF else BitVec.ofNat 16 deadline, launch := id, pid } } := by
    rw [State.bindBlock, List.foldl_cons, List.foldl_nil, hlook]
    dsimp only
    rw [hch]
  have hblk : ∀ c, w.block c = u.block c := fun c => by rw [State.block, henter.blocks, State.block]
  rw [hbind]
  refine ⟨henter.sys.trans h.sys, henter.flight.trans h.flight, fun c => (henter.inbox c).trans (h.inbox c), fun c => ?_, fun c => ?_, fun c hc => ?_⟩
  · have hone : [b].countP (fun b => b / 8 == c) = if c = b / 8 then 1 else 0 := by
      rw [List.countP_singleton]
      by_cases hcl : c = b / 8
      · simp [hcl]
      · simp [hcl, Ne.symm hcl]
    have hu := h.dir c
    have hw := henter.dir c
    rw [List.countP_append, hone]
    exact hw.trans (by omega)
  · rw [State.block_modBlock]
    split
    · next heq => rw [heq, hblk]; exact h.maps b
    · rw [hblk]; exact h.maps c
  · rw [State.block_modBlock]
    by_cases heq : c = b
    · rw [if_pos heq, heq]
      refine ⟨_, congrArg Channel.bind (Map.get_put_self ..), rfl, rfl, rfl, rfl, rfl⟩
    · rw [if_neg heq, hblk]
      exact h.bound c ((List.mem_append.mp hc).resolve_right fun h => heq (List.mem_singleton.mp h))

/-- Binding the rest of a launch's blocks. -/
theorem AllBound.bindBlocks (dig : Digest) : ∀ (rest done : List Nat) (u : State), AllBound s id pid prio deadline ch done u →
    (∀ c, (s.cluster c).dir.length + (done ++ rest).countP (fun b => b / 8 == c) ≤ 4096) →
    AllBound s id pid prio deadline ch (done ++ rest)
      (rest.foldl (fun s b => s.bindBlock b id pid [((index, ch.toNat, prio, deadline, 0xFF), dig)]) u)
  | [], done, u, h, _ => by
    rw [List.append_nil]
    exact h
  | b :: rest, done, u, h, hroom => by
    have hfree : (u.cluster (b / 8)).dir.length < 4096 := by
      have hu := h.dir (b / 8)
      have hs := hroom (b / 8)
      rw [List.countP_append, List.countP_cons, beq_self_eq_true, if_pos rfl] at hs
      omega
    have hsplit : done ++ b :: rest = (done ++ [b]) ++ rest := by rw [List.append_assoc, List.singleton_append]
    rw [List.foldl_cons, hsplit]
    exact AllBound.bindBlocks dig rest _ _ (h.bindBlock b dig hfree) (hsplit ▸ hroom)

end

/-! ## The service of a header -/

/-- s0 is s, whose inbox of a cluster has given its oldest header. -/
structure HeaderTaken (s s0 : State) (cl : Nat) (rest : List Header) : Prop where
  blocks : s0.blocks = s.blocks
  sys : s0.sys = s.sys
  flight : s0.flight = s.flight
  inbox : (s0.cluster cl).inbox = rest
  dir : ∀ c, (s0.cluster c).dir = (s.cluster c).dir
  missing : ∀ c, (s0.cluster c).missing = (s.cluster c).missing
  launchId : ∀ h, s0.launchId h = s.launchId h

theorem State.headerTaken (s : State) (cl : Nat) (rest : List Header) (d : Nat) (v : List (BitVec 16)) :
    HeaderTaken s ((s.modCluster cl fun c => { c with inbox := rest }).acquireStamp d v) cl rest := by
  rw [State.acquireStamp_eq]
  have hcl : ∀ c, (s.modCluster cl fun c => { c with inbox := rest }).cluster c = if c = cl then { s.cluster cl with inbox := rest } else s.cluster c :=
    fun c => State.cluster_modCluster s cl c _
  refine ⟨rfl, rfl, rfl, ?_, fun c => ?_, fun c => ?_, fun _ => rfl⟩
  · exact congrArg Cluster.inbox ((hcl cl).trans (if_pos rfl))
  · refine (congrArg Cluster.dir (hcl c)).trans ?_
    split
    · next h => rw [h]
    · rfl
  · refine (congrArg Cluster.missing (hcl c)).trans ?_
    split
    · next h => rw [h]
    · rfl

theorem HeaderTaken.placed {s s0 : State} {cl : Nat} {rest : List Header} (h : HeaderTaken s s0 cl rest) (place : Word) :
    s0.placed place = s.placed place := by
  simp only [State.placed, h.missing]

/-- The entry of an accepted launch of one stage. -/
def State.launchEntry (s : State) (cl : Nat) (h : Header) (id : Word) : Launch :=
  let p := parseHead h.bytes
  { id, pid := h.pid, vi := h.vi, src := h.src, inbox := cl, widspec := p.widths.setWidth 36, exts := p.exts, base := p.base
    chk := p.chk, cquota := p.cquota
    stages := [(BitVec.ofNat 5 (p.place.extractLsb' 48 5).toNat, BitVec.ofNat 3 p.prio, BitVec.ofNat 16 p.deadline, 0xFF)]
    gang := p.gang, param := p.param, reply := p.reply, dep := if (s.launch? p.dep).isSome then p.dep else 0
    noComp := p.fl / 2 % 2 == 1, errStop := p.fl / 4 % 2 == 1, conf := p.fl % 2 == 1
    blocks := s.placed p.place, total := (p.exts.map fun e => max 1 e).foldl (· * ·) 1 }

section
variable {s0 s2 : State} {cl : Nat} {h : Header} {l : Launch} {dig : Digest} {c : Byte}

theorem State.serveHeader_of_live (hl : s0.launch? (s0.launchId h) = some l) :
    s0.serveHeader cl h = s0.reportTo l (reportWords 1 (s0.launchId h) 0) false := by
  unfold State.serveHeader
  simp only [hl]

variable (hnew : s0.launch? (s0.launchId h) = none) (hret : s0.sys.retired.find? (fun r => r.1 == s0.launchId h) = none)
include hnew hret

theorem State.serveHeader_of_refused_context (hctx : s0.refuses h.pid = true) :
    s0.serveHeader cl h = s0.report cl h.pid (parseHead h.bytes).reply (reportWords 2 0 0x0C) (.report 0 false 1000) := by
  unfold State.serveHeader
  simp only [hnew, hret, hctx, if_true]
  rfl

variable (hctx : s0.refuses h.pid = false) (hst : (parseHead h.bytes).nstage = 0)
  (hread : s0.readDigests (128 * cl) h.pid (parseHead h.bytes).entry [(parseHead h.bytes).index] = some ([dig], s2))
include hctx hst hread

theorem State.serveHeader_of_refusal (hrefuse : s2.refusal (parseHead h.bytes) h.pid (some []) (some [dig]) = some c) :
    s0.serveHeader cl h = s2.report cl h.pid (parseHead h.bytes).reply (reportWords 2 0 (c.setWidth 64)) (.report 0 false 1000) := by
  unfold State.serveHeader
  simp only [hnew, hret, hctx, hst, Head.binds, List.map_cons, List.map_nil, hread, hrefuse, Option.getD_some, if_true, if_false, Bool.false_eq_true]

theorem State.serveHeader_of_acceptance (hrefuse : s2.refusal (parseHead h.bytes) h.pid (some []) (some [dig]) = none) :
    let p := parseHead h.bytes
    let l := s2.launchEntry cl h (s0.launchId h)
    s0.serveHeader cl h = ((s2.placed p.place).foldl (fun (s : State) b => s.bindBlock b l.id h.pid
      [((p.index, (p.place.extractLsb' 48 5).toNat, p.prio, p.deadline, 0xFF), dig)])
        { s2 with sys := { s2.sys with launches := s2.sys.launches ++ [l] } }).reportTo l (reportWords 1 l.id 0) false := by
  unfold State.serveHeader
  simp only [hnew, hret, hctx, hst, Head.binds, List.map_cons, List.map_nil, hread, hrefuse, Option.getD_some, if_true, if_false, Bool.false_eq_true]
  rfl

end

theorem ite_some_eq_none_iff {α : Type} {c : Prop} [Decidable c] {a : α} {o : Option α} : (if c then some a else o) = none ↔ ¬ c ∧ o = none := by
  split <;> simp [*]

/-- A header whose must-be-zero bytes are not zero fails the first check. -/
theorem State.refusal_of_not_zero {p : Head} (hz : p.zero = false) (s : State) (pid : BitVec 16) (st : Option (List StageEntry))
    (digs : Option (List Digest)) : s.refusal p pid st digs = some 0x01 := by
  unfold State.refusal
  simp only [hz, Bool.not_false, Bool.true_or, if_true]

/-- An accepted header has a priority of 0 to 7: check 7. -/
theorem State.prio_le_of_accepted {s : State} {p : Head} {pid : BitVec 16} {st : Option (List StageEntry)} {digs : Option (List Digest)}
    (h : s.refusal p pid st digs = none) : p.prio ≤ 7 := by
  unfold State.refusal at h
  simp only [ite_some_eq_none_iff] at h
  obtain ⟨-, -, -, -, -, -, hprio, -⟩ := h
  exact Nat.le_of_not_lt fun hlt => hprio (Or.inl hlt)

/-- LAUNCH_HEADER serves the oldest header of an inbox. -/
theorem exec_launchHeader_of_ready {s : State} {cl : Nat} {h : Header} {rest : List Header} (hin : (s.cluster cl).inbox = h :: rest)
    (hstamp : s.stampOk (cl / 32) h.stamp = true) : exec (.launchHeader cl) s =
      .next (((s.modCluster cl fun c => { c with inbox := rest }).acquireStamp (cl / 32) h.stamp).serveHeader cl h) := by
  show execLaunchHeader cl s = _
  simp only [execLaunchHeader, hin, hstamp, Bool.not_true, Bool.false_eq_true, if_false]

/-- A report from a state whose inbox has given its header, and whose units have not changed since. -/
theorem HeaderTaken.reports {s s0 s2 : State} {cl : Nat} {rest : List Header} (htake : HeaderTaken s s0 cl rest) (hsame : SameUnits s0 s2)
    {reply : Word} (hrep : reportable reply) (c : Nat) (pid : BitVec 16) (words : List Word) (origin : Origin) :
    let u := s2.report c pid reply (words ++ List.replicate (8 - words.length) 0) origin
    (u.cluster cl).inbox = rest ∧ u.sys.launches = s.sys.launches ∧ u.blocks = s.blocks ∧ Reports s u reply pid words := by
  rw [State.report_of_reportable hrep]
  refine ⟨?_, ?_, hsame.blocks.trans htake.blocks, { dest := reply, payload := words ++ List.replicate (8 - words.length) 0, src := inboxSource c
                                                     wid := 0, pid, origin, die := c / 32 }, ?_, rfl, rfl, rfl⟩
  · exact (congrArg Cluster.inbox (hsame.cluster cl)).trans htake.inbox
  · rw [← htake.sys]
    exact hsame.launches
  · exact congrArg (· ++ [_]) (hsame.flight.trans htake.flight)

/-- The total of an accepted launch is the product of its extents, an extent of 0 counting as 1. -/
theorem foldl_mul_one (xs : List Nat) : xs.foldl (· * ·) 1 = xs.prod := List.prod_eq_foldl.symm

theorem acceptedHeaderOpensItsLaunch {s s0 s2 : State} {cl : Nat} {h : Header} {rest : List Header} {dig : Digest} (htake : HeaderTaken s s0 cl rest)
    (hsame : SameUnits s0 s2) (hrefuse : s2.refusal (parseHead h.bytes) h.pid (some []) (some [dig]) = none) (hrep : reportable (parseHead h.bytes).reply)
    (hroom : ∀ c, (s.cluster c).dir.length + 8 ≤ 4096)
    (hserve : let p := parseHead h.bytes
      let l := s2.launchEntry cl h (s0.launchId h)
      s0.serveHeader cl h = ((s2.placed p.place).foldl (fun (s : State) b => s.bindBlock b l.id h.pid
        [((p.index, (p.place.extractLsb' 48 5).toNat, p.prio, p.deadline, 0xFF), dig)])
          { s2 with sys := { s2.sys with launches := s2.sys.launches ++ [l] } }).reportTo l (reportWords 1 l.id 0) false) :
    let p := parseHead h.bytes
    let id := s.launchId h
    ∃ u l, .next (s0.serveHeader cl h) = (.next u : Out State) ∧ (u.cluster cl).inbox = rest ∧ u.sys.launches = s.sys.launches ++ [l] ∧
      Reports s u p.reply h.pid [1, id] ∧ l.id = id ∧ l.pid = h.pid ∧ l.base = p.base ∧ l.exts = p.exts ∧ l.param = p.param ∧
      l.reply = p.reply ∧ l.chk = p.chk ∧ l.gang = p.gang ∧ l.blocks = s.placed p.place ∧ l.nextEnum = 0 ∧ l.running = 0 ∧ l.dispatched = 0 ∧
      l.total = (p.exts.map (max 1)).prod ∧ l.noComp = p.fl.testBit 1 ∧ l.errStop = p.fl.testBit 2 ∧ l.conf = p.fl.testBit 0 ∧
      ∀ b ∈ l.blocks, ∃ n, ((u.block b).chan (s.chanNo b h.pid (p.place.extractLsb' 48 5))).bind = some n ∧ n.launch = id ∧ n.pid = h.pid ∧
        n.stage = 0xFF ∧ n.prio.toNat = p.prio ∧ n.deadline.toNat = if p.deadline = 0 then 0xFFFF else p.deadline % 2 ^ 16 := by
  intro p id
  have hprio : p.prio ≤ 7 := State.prio_le_of_accepted hrefuse
  have hplaced : s2.placed p.place = s.placed p.place := (hsame.placed _).trans (htake.placed _)
  have hid : s0.launchId h = id := htake.launchId h
  have hblocks : s2.blocks = s.blocks := hsame.blocks.trans htake.blocks
  have hdir : ∀ c, (s2.cluster c).dir = (s.cluster c).dir := fun c => (congrArg Cluster.dir (hsame.cluster c)).trans (htake.dir c)
  dsimp only at hserve
  rw [hserve]
  generalize hentry : s2.launchEntry cl h (s0.launchId h) = l
  have hinit : AllBound { s2 with sys := { s2.sys with launches := s2.sys.launches ++ [l] } } l.id h.pid p.prio p.deadline (p.place.extractLsb' 48 5) []
      { s2 with sys := { s2.sys with launches := s2.sys.launches ++ [l] } } :=
    ⟨rfl, rfl, fun _ => rfl, fun _ => Nat.le_add_right .., fun _ => rfl, fun b hb => by cases hb⟩
  have hbound := AllBound.bindBlocks (index := p.index) dig (s2.placed p.place) [] _ hinit fun c => by
    have hcount := s2.placed_countP p.place c
    have hlen : (State.cluster { s2 with sys := { s2.sys with launches := s2.sys.launches ++ [l] } } c).dir.length = (s.cluster c).dir.length :=
      congrArg List.length (hdir c)
    have := hroom c
    rw [hlen, List.nil_append]
    omega
  rw [List.nil_append] at hbound
  have hlid : l.id = id := by rw [← hentry]; exact hid
  have hlreply : l.reply = p.reply := by rw [← hentry]; rfl
  have hlpid : l.pid = h.pid := by rw [← hentry]; rfl
  have hrepl : reportable l.reply := hlreply ▸ hrep
  have hreport := State.report_of_reportable hrepl
  simp only [State.reportTo, hreport]
  have hbit : ∀ i, (p.fl / 2 ^ i % 2 == 1) = p.fl.testBit i := fun i => by
    rw [Nat.testBit_eq_decide_div_mod_eq]
    rfl
  refine ⟨_, l, rfl, ?inbox, ?launches, ?report, hlid, hlpid, ?base, ?exts, ?param, hlreply, ?chk, ?gang, ?blocks, ?next, ?running,
    ?dispatched, ?total, ?noComp, ?errStop, ?conf, ?bound⟩
  case inbox => exact (hbound.inbox cl).trans ((congrArg Cluster.inbox (hsame.cluster cl)).trans htake.inbox)
  case launches =>
    refine (congrArg Sys.launches hbound.sys).trans ?_
    rw [← htake.sys, ← hsame.launches]
  case report =>
    refine ⟨_, (congrArg (· ++ [_]) (hbound.flight.trans (hsame.flight.trans htake.flight))), hlreply, hlpid, ?_⟩
    rw [hlid]
    rfl
  case bound =>
    have hlb : l.blocks = s2.placed p.place := by rw [← hentry]; rfl
    intro b hb
    obtain ⟨n, hn, hlaunch, hpid, hstage, hpr, hdl⟩ := hbound.bound b (hlb ▸ hb)
    have hch : s2.chanNo b h.pid (p.place.extractLsb' 48 5) = s.chanNo b h.pid (p.place.extractLsb' 48 5) := by
      rw [State.chanNo, State.block, hblocks, State.chanNo, State.block]
    refine ⟨n, hch ▸ hn, hlaunch.trans hlid, hpid, hstage, ?_, ?_⟩
    · rw [hpr, BitVec.toNat_ofNat, Nat.mod_eq_of_lt (by omega)]
    · rw [hdl]
      split
      · rfl
      · exact BitVec.toNat_ofNat ..
  all_goals rw [← hentry]
  case blocks => exact hplaced
  case total => exact foldl_mul_one _
  case noComp => exact hbit 1
  case errStop => exact hbit 2
  case conf => exact (congrArg (fun x => x % 2 == 1) (Nat.div_one p.fl).symm).trans (hbit 0)
  all_goals rfl

theorem headersAreAcceptedOrRefused : Claims.HeadersAreAcceptedOrRefused := by
  intro s cl h rest hin hstamp p s0 id
  have hexec := exec_launchHeader_of_ready hin hstamp
  have htake : HeaderTaken s s0 cl rest := s.headerTaken cl rest _ _
  have hid : s0.launchId h = id := htake.launchId h
  have hfresh : s.launch? id = none → s0.launch? (s0.launchId h) = none := fun hl => by
    rw [hid, State.launch?, htake.sys]
    exact hl
  have hretired : (∀ r ∈ s.sys.retired, r.1 ≠ id) → s0.sys.retired.find? (fun r => r.1 == s0.launchId h) = none := fun hr => by
    rw [hid, htake.sys, List.find?_eq_none]
    exact fun r hm => by simpa using hr r hm
  refine ⟨fun l hl hrep => ?_, fun hl hr hctx hrep => ?_, fun hl hr hctx hst s2 dig hread => ?_⟩
  · have hlive : s0.launch? (s0.launchId h) = some l := by
      rw [hid, State.launch?, htake.sys]
      exact hl
    rw [State.serveHeader_of_live hlive, hid] at hexec
    exact ⟨_, hexec, htake.reports (SameUnits.refl s0) hrep l.inbox l.pid [1, id] _⟩
  · rw [State.serveHeader_of_refused_context (hfresh hl) (hretired hr) hctx] at hexec
    exact ⟨_, hexec, htake.reports (SameUnits.refl s0) hrep cl h.pid [2, 0, 0x0C] _⟩
  · have hsame := SameUnits.readDigests hread
    refine ⟨fun hz => State.refusal_of_not_zero hz .., fun c hc hrep => ?_, fun hok hrep hroom => ?_⟩
    · rw [State.serveHeader_of_refusal (hfresh hl) (hretired hr) hctx hst hread hc] at hexec
      exact ⟨_, hexec, htake.reports hsame hrep cl h.pid [2, 0, c.setWidth 64] _⟩
    · obtain ⟨u, l, hu, hspec⟩ := acceptedHeaderOpensItsLaunch htake hsame hok hrep hroom
        (State.serveHeader_of_acceptance (hfresh hl) (hretired hr) hctx hst hread hok)
      exact ⟨u, l, hexec.trans hu, hspec⟩

end Sys2Proof.Machine
end

section
/-! SUPPORT. The enumeration of a launch, its completion and its reports (R132, R146, R147, R404). -/

namespace Sys2Proof.Machine

open Sys2Proof.Claims

theorem State.id_of_launch {s : State} {id : Word} {l : Launch} (hl : s.launch? id = some l) : l.id = id :=
  beq_iff_eq.mp (List.find?_some (p := fun l : Launch => l.id == id) hl)

/-! ## Enumeration (R146) -/

/-- The block that the next activation of a launch goes to. -/
def Launch.nextBlock (l : Launch) : Nat := l.blocks.getD (l.nextEnum % l.blocks.length) 0
/-- The channel of the next activation of a launch in its block. -/
def State.nextChan (s : State) (l : Launch) : CIdx := s.chanNo l.nextBlock l.pid (firstChan l)
/-- The next activation of a launch is of a team that a fault has ended (R166). -/
def Launch.nextDead (l : Launch) : Prop :=
  l.chk ≠ 0xFF ∧ l.deadTeams.contains (teamKey l.widspec l.chk.toNat (l.widOf l.nextEnum)) = true

/-- The next activation of a launch can be enumerated. -/
structure Enumerable (s : State) (id : Word) (l : Launch) : Prop where
  entry : s.launch? id = some l
  live : l.stopped = false
  open' : l.finished = false
  more : l.nextEnum < l.total
  room : ((s.block l.nextBlock).chan (s.nextChan l)).full = false
  served : s.refuses l.pid = false
  passes : l.nextBlock / 256 ≠ l.inbox / 32 → s.releaseStalls (l.inbox / 32) = false

/-- The message of a launch's next activation, with its stamp. -/
def Launch.nextMsg (l : Launch) (stamp : List (BitVec 16)) (applied : Bool) : Msg :=
  { dest := chanAddr l.nextBlock (firstChan l), reply := l.reply, payload := [l.param, l.id], src := l.src, wid := l.widOf l.nextEnum
    launch := l.id, pid := l.pid, origin := .gone, die := l.inbox / 32, stamp, applied, enumNo := some l.nextEnum }

section
variable {s : State} {id : Word} {l : Launch} (h : Enumerable s id l)
include h

theorem Enumerable.no_wait : ¬ (l.stopped = true ∨ l.finished = true ∨ l.total ≤ l.nextEnum ∨
    ((s.block l.nextBlock).chan (s.nextChan l)).full = true ∨ s.refuses l.pid = true ∨
      (decide (l.nextBlock / 256 ≠ l.inbox / 32) = true ∧ s.releaseStalls (l.inbox / 32) = true)) := by
  obtain ⟨-, hlive, hopen, hmore, hroom, hserved, hpass⟩ := h
  rw [hlive, hopen, hroom, hserved]
  simp only [Bool.false_eq_true, false_or, Nat.not_le.mpr hmore, decide_eq_true_eq, not_and]
  exact fun haway hstall => by rw [hpass haway] at hstall; cases hstall

theorem exec_launchEnumeration_of_dead (hdead : l.nextDead) : exec (.launchEnumeration id) s =
    .next (s.modLaunch id fun l' => { l' with nextEnum := l.nextEnum + 1, dispatched := l'.dispatched + 1, released := l'.released + 1 }) := by
  have hwait := h.no_wait
  show execLaunchEnumeration id s = _
  unfold execLaunchEnumeration
  simp only [h.entry]
  exact (if_neg hwait).trans (if_pos hdead)

theorem exec_launchEnumeration_of_live (hlive : ¬ l.nextDead) : ∃ (s1 : State) (stamp : List (BitVec 16)) (applied : Bool), s1 = { s with dies := s1.dies } ∧
    exec (.launchEnumeration id) s = .next (((s1.modLaunch id fun l' => { l' with nextEnum := l.nextEnum + 1 }).modBlock l.nextBlock fun b =>
      b.modChan (s.nextChan l) fun k => { k with reserved := k.reserved + 1 }).push (l.nextMsg stamp applied)) := by
  have hwait := h.no_wait
  have hexec : exec (.launchEnumeration id) s = (let away := decide (l.nextBlock / 256 ≠ l.inbox / 32)
      let p := if away = true then s.releaseStamp (l.inbox / 32) else ([], s)
      .next (((p.2.modLaunch id fun l' => { l' with nextEnum := l.nextEnum + 1 }).modBlock l.nextBlock fun b =>
        b.modChan (s.nextChan l) fun k => { k with reserved := k.reserved + 1 }).push (l.nextMsg p.1 !away))) := by
    show execLaunchEnumeration id s = _
    unfold execLaunchEnumeration
    simp only [h.entry]
    exact (if_neg hwait).trans (if_neg hlive)
  cases haway : decide (l.nextBlock / 256 ≠ l.inbox / 32) <;> rw [haway] at hexec
  · exact ⟨s, [], true, rfl, hexec⟩
  · exact ⟨(s.releaseStamp (l.inbox / 32)).2, (s.releaseStamp (l.inbox / 32)).1, false, rfl, hexec⟩

theorem deadActivationIsCounted (hdead : l.nextDead) : ∃ u, exec (.launchEnumeration id) s = .next u ∧ u.flight = s.flight ∧
    u.launch? id = some { l with nextEnum := l.nextEnum + 1, dispatched := l.dispatched + 1, released := l.released + 1 } :=
  ⟨_, exec_launchEnumeration_of_dead h hdead, rfl, State.launch?_modLaunch h.entry _ fun _ => rfl⟩

theorem liveActivationIsSent (hlive : ¬ l.nextDead) : ∃ u k l', exec (.launchEnumeration id) s = .next u ∧ u.flight = s.flight ++ [k] ∧
    k.dest = chanAddr l.nextBlock (firstChan l) ∧ k.payload = [l.param, id] ∧ k.reply = l.reply ∧ k.src = l.src ∧ k.pid = l.pid ∧
    k.launch = id ∧ k.wid = l.widOf l.nextEnum ∧ u.launch? id = some l' ∧ l' = { l with nextEnum := l.nextEnum + 1 } ∧
    ((u.block l.nextBlock).chan (s.nextChan l)).reserved = ((s.block l.nextBlock).chan (s.nextChan l)).reserved + 1 := by
  obtain ⟨s1, stamp, applied, hs1, hexec⟩ := exec_launchEnumeration_of_live h hlive
  have hid := State.id_of_launch h.entry
  have hentry : s1.launch? id = some l := by rw [hs1]; exact h.entry
  have hblk : s1.block l.nextBlock = s.block l.nextBlock := by rw [hs1]; rfl
  have hflight : s1.flight = s.flight := by rw [hs1]
  refine ⟨_, l.nextMsg stamp applied, _, hexec, congrArg (· ++ [_]) hflight, rfl, by rw [← hid]; rfl, rfl, rfl, rfl, hid, rfl,
    State.launch?_modLaunch hentry _ fun _ => rfl, rfl, ?_⟩
  have hget := State.block_modBlock (s1.modLaunch id fun l' => { l' with nextEnum := l.nextEnum + 1 }) l.nextBlock l.nextBlock fun b =>
    b.modChan (s.nextChan l) fun k => { k with reserved := k.reserved + 1 }
  rw [if_pos rfl] at hget
  refine (congrArg (fun b : Block => (b.chan (s.nextChan l)).reserved) hget).trans ?_
  rw [← hblk]
  exact congrArg Channel.reserved (Map.get_put_self ..)

end

/-! ## Completion (R147) -/

/-- Whatever a map with f applied to its entries reads is the default or a value of f. -/
theorem Map.get_map_of_forall {α : Type} {P : α → Prop} {d : α} {f : α → α} (hd : P d) (hf : ∀ x, P (f x)) :
    ∀ (m : Map α) (i : Nat), P (Map.get d (List.map (fun e : Nat × α => (e.1, f e.2)) m) i)
  | [], _ => hd
  | (k, v) :: m, i => by
    show P (if i = k then f v else Map.get d (List.map (fun e : Nat × α => (e.1, f e.2)) m) i)
    split
    · exact hf v
    · exact Map.get_map_of_forall hd hf m i

/-- No channel of a block is bound for a launch. -/
def Block.unbound (id : Word) (b : Block) : Prop := ∀ c n, (b.chan c).bind = some n → n.launch ≠ id

/-- A channel that is bound for a launch is freed. -/
def Channel.freed (id : Word) (c : Channel) : Channel :=
  match c.bind with
  | some n => if n.launch == id then { c with bind := none, slots := [], running := 0 } else c
  | none => c

theorem Channel.freed_bind (id : Word) (c : Channel) (n : Binding) (h : (c.freed id).bind = some n) : n.launch ≠ id := by
  unfold Channel.freed at h
  split at h
  next k hk =>
    split at h
    · cases h
    next hne =>
      rw [hk] at h
      cases h
      simpa using hne
  next hk =>
    rw [hk] at h
    cases h

theorem Block.unbound_eachChan (id : Word) (b : Block) : (b.eachChan (Channel.freed id)).unbound id := fun c n hn =>
  Map.get_map_of_forall (P := fun k : Channel => ∀ n, k.bind = some n → n.launch ≠ id) (fun _ h => by cases h) (Channel.freed_bind id)
    b.chans c.toNat n hn

/-- A block frees what a launch held in it. -/
def Block.freed (id : Word) (b : Block) : Block :=
  { b.eachChan (Channel.freed id) with
    epochs := b.epochs.filter fun p => p.launch != id
    joints := b.joints.filter fun j => j.1 != id
    quern := if b.quern.bound && b.quern.launch == id then {} else b.quern }

theorem State.freeLaunch_blocks (s : State) (id : Word) :
    (s.freeLaunch id).blocks = List.map (fun e : Nat × Block => (e.1, e.2.freed id)) s.blocks := rfl

theorem State.freeLaunch_unbound (s : State) (id : Word) (b : Nat) : ((s.freeLaunch id).block b).unbound id := by
  rw [State.block, State.freeLaunch_blocks]
  refine Map.get_map_of_forall (P := Block.unbound id) (f := Block.freed id) (fun c n h => ?_) (fun x => x.unbound_eachChan id) s.blocks b
  cases (h : (none : Option Binding) = some n)

/-- A launch whose work is over completes. -/
theorem exec_launchComplete_of_over {s : State} {id : Word} {l : Launch} (hl : s.launch? id = some l) (hopen : l.finished = false)
    (hover : l.stopped = true ∨ (l.dispatched = l.total ∧ l.running = 0 ∧ s.channelsEmpty id = true ∧ s.jobsDone id = true ∧ s.owes id = false)) :
    exec (.launchComplete id) s = .next (s.completeLaunch l) := by
  show execLaunchComplete id s = _
  unfold execLaunchComplete
  simp only [hl, hopen, Bool.false_eq_true, if_false]
  refine if_pos (hover.imp_right fun ⟨hdisp, hrun, hempty, hdone, howes⟩ => ⟨hdisp, hrun, hempty, hdone, ?_⟩)
  rw [howes]
  rfl

theorem overLaunchCompletes {s : State} {id : Word} {l : Launch} (hl : s.launch? id = some l) (hopen : l.finished = false)
    (hover : l.stopped = true ∨ (l.dispatched = l.total ∧ l.running = 0 ∧ s.channelsEmpty id = true ∧ s.jobsDone id = true ∧ s.owes id = false)) :
    ∃ u, exec (.launchComplete id) s = .next u ∧ u.mem = s.mem ∧ (∀ b c n, ((u.block b).chan c).bind = some n → n.launch ≠ id) ∧
      (l.noComp = false → reportable l.reply → Reports s u l.reply l.pid [3, id, l.errors] ∧ ∃ l', u.launch? id = some l' ∧ l'.finished = true) ∧
      (l.noComp = true → u.launch? id = none ∧ u.flight = s.flight) := by
  have hexec := exec_launchComplete_of_over hl hopen hover
  obtain rfl := State.id_of_launch hl
  have hdone : ((s.freeLaunch l.id).modLaunch l.id fun l => { l with finished := true }).launch? l.id = some { l with finished := true } :=
    State.launch?_modLaunch (s := s.freeLaunch l.id) hl _ fun _ => rfl
  have hunbound := fun b => s.freeLaunch_unbound l.id b
  rw [State.completeLaunch] at hexec
  by_cases hquiet : l.noComp = true ∨ l.reply = 0 ∨ malformed l.reply = true ∨ 4 < maKind l.reply
  · rw [if_pos hquiet, State.retireLaunch, hdone] at hexec
    refine ⟨_, hexec, rfl, hunbound, fun hcomp hrep => ?_, fun _ => ⟨?_, rfl⟩⟩
    · obtain ⟨hz, hform, hkind⟩ := hrep
      rcases hquiet with h | h | h | h
      · rw [hcomp] at h; cases h
      · exact absurd h hz
      · rw [hform] at h; cases h
      · omega
    · rw [State.launch?, List.find?_eq_none]
      exact fun k hk => by simpa using (List.mem_filter.mp hk).2
  · rw [if_neg hquiet] at hexec
    rw [State.reportTo, State.report, if_neg fun h => hquiet (Or.inr h)] at hexec
    exact ⟨_, hexec, rfl, hunbound, fun _ _ => ⟨⟨_, rfl, rfl, rfl, rfl⟩, _, hdone, rfl⟩, fun hcomp => absurd (Or.inl hcomp) hquiet⟩

theorem failedReportsAreSentAgain {s : State} {id : Word} {l : Launch} (hl : s.launch? id = some l) :
    ∃ u l', exec (.launchReportResend id) s = .next u ∧ u.flight = s.flight ++ l.unsent ∧ u.launch? id = some l' ∧ l'.unsent = [] := by
  have hexec : exec (.launchReportResend id) s = .next { s.modLaunch id fun l => { l with unsent := [] } with flight := s.flight ++ l.unsent } := by
    show execLaunchReportResend id s = _
    simp only [execLaunchReportResend, hl]
  exact ⟨_, _, hexec, rfl, State.launch?_modLaunch hl _ fun _ => rfl, rfl⟩

theorem launchesAreEnumeratedAndComplete : Claims.LaunchesAreEnumeratedAndComplete := by
  intro s id l hl m blk c chan passes dead
  exact ⟨fun hlive hopen hmore hroom hserved hpass hdead => deadActivationIsCounted ⟨hl, hlive, hopen, hmore, hroom, hserved, hpass⟩ hdead,
    fun hlive hopen hmore hroom hserved hpass hdead => liveActivationIsSent ⟨hl, hlive, hopen, hmore, hroom, hserved, hpass⟩ hdead,
    fun hopen hover => overLaunchCompletes hl hopen hover, failedReportsAreSentAgain hl⟩

/-- Settles O39: a header is served from a state whose units have not changed while it was read, and a launch's entry follows
its enumeration, its completion and its reports. -/
theorem launchesRunFromHeaderToCompletion : Obligations.LaunchesRunFromHeaderToCompletion :=
  ⟨headersAreAcceptedOrRefused, launchesAreEnumeratedAndComplete⟩

end Sys2Proof.Machine
end

section
/-! SUPPORT. The replay of a team (R163–R165, R186): its member stops, the journalled words are restored, and it starts again. -/

namespace Sys2Proof.Machine

open Sys2Proof.Claims

/-! ## Maps with rising keys -/

section
variable {α : Type} {d : α}

/-- Where the keys rise, every entry is what its key reads. -/
theorem Map.get_of_mem : ∀ {m : Map α} {e : Nat × α}, (List.map Prod.fst m).Pairwise (· < ·) → e ∈ m → Map.get d m e.1 = e.2
  | [], _, _, h => by cases h
  | (k, v) :: m, e, hm, he => by
    obtain ⟨hk, hm⟩ := List.pairwise_cons.mp hm
    rcases List.mem_cons.mp he with rfl | he
    · exact if_pos rfl
    · have hne : e.1 ≠ k := by
        have := hk e.1 (List.mem_map_of_mem (f := Prod.fst) he)
        simp only at this
        omega
      exact (if_neg hne).trans (Map.get_of_mem hm he)

/-- A key that reads anything but the default is listed. -/
theorem Map.mem_of_get_ne : ∀ {m : Map α} {i : Nat}, Map.get d m i ≠ d → (i, Map.get d m i) ∈ m
  | [], _, h => absurd rfl h
  | (k, v) :: m, i, h => by
    by_cases hi : i = k
    · have hget : Map.get d ((k, v) :: m) i = v := if_pos hi
      rw [hget, hi]
      exact List.mem_cons_self
    · have hget : Map.get d ((k, v) :: m) i = Map.get d m i := if_neg hi
      rw [hget] at h ⊢
      exact List.mem_cons_of_mem _ (Map.mem_of_get_ne h)

theorem Map.key_of_mem_put {m : Map α} {i k : Nat} {x : α} (h : k ∈ List.map Prod.fst (Map.put m i x)) : k = i ∨ k ∈ List.map Prod.fst m := by
  induction m with
  | nil => exact Or.inl (by simpa [Map.put] using h)
  | cons e m ih =>
    obtain ⟨j, v⟩ := e
    unfold Map.put at h
    split at h
    · simpa using h
    · split at h
      · simp only [List.map_cons, List.mem_cons] at h ⊢
        exact h.imp_right Or.inr
      · simp only [List.map_cons, List.mem_cons] at h ⊢
        rcases h with h | h
        · exact Or.inr (Or.inl h)
        · exact (ih h).imp_right Or.inr

/-- Keys that rise go on rising. -/
theorem Map.rising_put : ∀ {m : Map α} (i : Nat) (x : α), (List.map Prod.fst m).Pairwise (· < ·) → (List.map Prod.fst (Map.put m i x)).Pairwise (· < ·)
  | [], _, _, _ => List.pairwise_singleton _ _
  | (k, v) :: m, i, x, hm => by
    obtain ⟨hk, hrest⟩ := List.pairwise_cons.mp hm
    unfold Map.put
    split
    next hlt =>
      refine List.pairwise_cons.mpr ⟨fun j hj => ?_, hm⟩
      rcases List.mem_cons.mp hj with rfl | hj
      · exact hlt
      · exact lt_trans hlt (hk j hj)
    next hge =>
      split
      next heq => exact List.pairwise_cons.mpr ⟨fun j hj => heq ▸ hk j hj, hrest⟩
      next hne =>
        refine List.pairwise_cons.mpr ⟨fun j hj => ?_, Map.rising_put i x hrest⟩
        rcases Map.key_of_mem_put hj with rfl | hj
        · simp only at hge hne ⊢
          omega
        · exact hk j hj

end

/-- A rising list of copies of one number holds it once. -/
theorem eq_singleton_of_rising {l : List Nat} {t : Nat} (hrise : l.Pairwise (· < ·)) (hall : ∀ x ∈ l, x = t) (hmem : t ∈ l) : l = [t] := by
  cases l with
  | nil => cases hmem
  | cons x xs =>
    obtain rfl := hall x List.mem_cons_self
    cases xs with
    | nil => rfl
    | cons y ys =>
      obtain ⟨hlt, -⟩ := List.pairwise_cons.mp hrise
      have hy := hall y (by simp)
      have := hlt y (by simp)
      omega

/-! ## The journalled words (R164, R186) -/

@[simp] theorem Mem.word_setTag (m : Mem) (w v : Nat) (b : Bool) : (m.setTag w b).word v = m.word v := rfl

/-- Words that no journal entry names stay. -/
theorem restoreOlds_of_not_mem : ∀ {olds : List (Nat × Word × Bool)} {m : Mem} {w : Nat}, (∀ o ∈ olds, o.1 ≠ w) →
    (restoreOlds m olds).word w = m.word w ∧ (restoreOlds m olds).tag w = m.tag w
  | [], _, _, _ => ⟨rfl, rfl⟩
  | o :: olds, m, w, h => by
    have hne : w ≠ o.1 := (h o List.mem_cons_self).symm
    obtain ⟨hw, ht⟩ := restoreOlds_of_not_mem (m := (m.setWord o.1 o.2.1).setTag o.1 o.2.2) fun p hp => h p (List.mem_cons_of_mem _ hp)
    refine ⟨hw.trans ?_, ht.trans ?_⟩
    · rw [Mem.word_setTag, Mem.word_setWord, if_neg hne]
    · rw [Mem.tag_setTag, if_neg hne, Mem.tag_setWord]

/-- A word that one journal entry names has its old value and tag again. -/
theorem restoreOlds_of_mem : ∀ {olds : List (Nat × Word × Bool)} {m : Mem} {o : Nat × Word × Bool}, (olds.map (·.1)).Nodup → o ∈ olds →
    (restoreOlds m olds).word o.1 = o.2.1 ∧ (restoreOlds m olds).tag o.1 = o.2.2
  | [], _, _, _, h => by cases h
  | p :: olds, m, o, hnd, h => by
    obtain ⟨hp, hrest⟩ := List.nodup_cons.mp hnd
    rcases List.mem_cons.mp h with rfl | h
    · obtain ⟨hw, ht⟩ := restoreOlds_of_not_mem (m := (m.setWord o.1 o.2.1).setTag o.1 o.2.2) (olds := olds) (w := o.1) fun q hq heq =>
        hp (List.mem_map.mpr ⟨q, hq, heq⟩)
      refine ⟨hw.trans ?_, ht.trans ?_⟩
      · rw [Mem.word_setTag, Mem.word_setWord, if_pos rfl]
      · rw [Mem.tag_setTag, if_pos rfl]
    · exact restoreOlds_of_mem (m := (m.setWord p.1 p.2.1).setTag p.1 p.2.2) hrest h

/-! ## What stops -/

/-- Where no owner has a retry list, nothing waits to be tested again. -/
theorem State.retest_of_no_retry {s : State} (h : ∀ o, (s.owner o).retry = []) : ∀ (fuel : Nat) (os : List Nat), s.retest os fuel = s
  | 0, _ => rfl
  | fuel + 1, [] => rfl
  | fuel + 1, o :: os => by
    rw [State.retest, h]
    exact State.retest_of_no_retry h fuel os

/-- Where no owner has a retry list, the accesses of a thread are cancelled in the thread alone. -/
theorem State.cancelReqs_of_no_retry {s : State} (h : ∀ o, (s.owner o).retry = []) (t : Nat) :
    s.cancelReqs t = s.modTh t fun x => { x with outst := x.outst.filter (·.orphan) } := by
  have hleave : ∀ o v seq ix, s.leaveRetry o v seq ix = s := fun o v seq ix => by
    rw [State.leaveRetry, h]
    rfl
  unfold State.cancelReqs
  refine congrArg (fun v : State => v.modTh t _) ?_
  refine List.foldl_fixed' (fun r => ?_) _
  refine List.foldl_fixed' (fun e => ?_) _
  split
  · rfl
  · split
    · exact hleave ..
    · rfl

/-- u has the blocks of s with their epochs, jobs and displaced activations, listed in rising order. -/
structure KeepsTeams (s u : State) : Prop where
  epochs : ∀ b, (u.block b).epochs = (s.block b).epochs
  jobs : ∀ b, (u.block b).jobs = (s.block b).jobs
  displaced : ∀ b, (u.block b).displaced = (s.block b).displaced
  rising : (List.map Prod.fst s.blocks).Pairwise (· < ·) → (List.map Prod.fst u.blocks).Pairwise (· < ·)

theorem KeepsTeams.trans {s u v : State} (h : KeepsTeams s u) (k : KeepsTeams u v) : KeepsTeams s v :=
  ⟨fun b => (k.epochs b).trans (h.epochs b), fun b => (k.jobs b).trans (h.jobs b), fun b => (k.displaced b).trans (h.displaced b),
    fun hr => k.rising (h.rising hr)⟩

theorem KeepsTeams.of_blocks {s u : State} (h : u.blocks = s.blocks) : KeepsTeams s u := by
  have hb : ∀ b, u.block b = s.block b := fun b => by rw [State.block, h, State.block]
  exact ⟨fun b => by rw [hb], fun b => by rw [hb], fun b => by rw [hb], fun hr => by rwa [h]⟩

theorem KeepsTeams.modBlock (s : State) (k : Nat) (f : Block → Block)
    (hf : ∀ b, (f b).epochs = b.epochs ∧ (f b).jobs = b.jobs ∧ (f b).displaced = b.displaced) : KeepsTeams s (s.modBlock k f) := by
  obtain ⟨he, hj, hd⟩ := hf (s.block k)
  refine ⟨fun b => ?_, fun b => ?_, fun b => ?_, Map.rising_put k _⟩ <;> rw [State.block_modBlock] <;> split
  · next h => rw [h, he]
  · rfl
  · next h => rw [h, hj]
  · rfl
  · next h => rw [h, hd]
  · rfl

theorem KeepsTeams.freeThread (s : State) (t : Nat) : KeepsTeams s (s.freeThread t) := by
  have hleft : KeepsTeams s ((s.disown t).leaveBars t) := KeepsTeams.of_blocks rfl
  have hgrant : KeepsTeams ((s.disown t).leaveBars t) (((s.disown t).leaveBars t).dropGrant t) := by
    unfold State.dropGrant
    dsimp only
    split
    · exact KeepsTeams.modBlock _ _ _ fun _ => ⟨rfl, rfl, rfl⟩
    · exact KeepsTeams.of_blocks rfl
  have hcount : ∀ v : State, KeepsTeams v (v.uncount (blockOf t) (s.th t).act) := fun v => by
    unfold State.uncount
    dsimp only
    split
    · exact KeepsTeams.of_blocks rfl
    · exact (KeepsTeams.modBlock v (blockOf t) (fun b => b.modChan (s.th t).act.home fun c => { c with running := c.running - 1 })
        fun _ => ⟨rfl, rfl, rfl⟩).trans (KeepsTeams.of_blocks rfl)
  exact ((hleft.trans hgrant).trans (hcount _)).trans (KeepsTeams.of_blocks rfl)

/-! ## The block of the member that starts again -/

theorem Block.epoch_modEpoch {b : Block} {team : Word × Word} {p : Epoch} (hp : b.epoch team = some p) (f : Epoch → Epoch)
    (hf : ∀ e, (f e).launch = e.launch ∧ (f e).team = e.team) : (b.modEpoch team f).epoch team = some (f p) := by
  have hfun : ((fun e : Epoch => e.launch == team.1 && e.team == team.2) ∘ fun e : Epoch => if e.launch == team.1 && e.team == team.2 then f e else e) =
      fun e => e.launch == team.1 && e.team == team.2 := by
    funext e
    simp only [Function.comp]
    split
    · rw [(hf e).1, (hf e).2]
    · rfl
  have hyes : (p.launch == team.1 && p.team == team.2) = true :=
    List.find?_some (p := fun e : Epoch => e.launch == team.1 && e.team == team.2) hp
  have hmap : (b.modEpoch team f).epoch team = (b.epoch team).map fun e => if e.launch == team.1 && e.team == team.2 then f e else e := by
    simp only [Block.epoch, Block.modEpoch, List.find?_map, hfun]
  rw [hmap, hp, Option.map_some, if_pos hyes]

/-- The epoch after its replay. -/
def Epoch.replayed (p : Epoch) : Epoch := { p with olds := [], used := p.used - p.olds.length, replays := p.replays + 1 }

/-- What a replay leaves, from a state where the member's core is free: it runs again, the words are restored, and the epoch has
one more replay. -/
structure Replays (v u : State) (t : Nat) (a : Act) (team : Word × Word) (p : Epoch) : Prop where
  status : (u.th t).status = .running
  act : (u.th t).act = a
  mem : u.mem = restoreOlds v.mem p.olds
  epoch : (u.block (blockOf t)).epoch team = some p.replayed
  others : ∀ b, b ≠ blockOf t → u.block b = v.block b

theorem State.recount_eq (s : State) (blk : Nat) (a : Act) : ∃ blocks sys, s.recount blk a = { s with blocks, sys } ∧
    (∀ b, (Map.get {} blocks b).epochs = (s.block b).epochs) ∧ ∀ b, b ≠ blk → Map.get {} blocks b = s.block b := by
  unfold State.recount
  split
  · exact ⟨_, _, rfl, fun _ => rfl, fun _ _ => rfl⟩
  · have hget := fun b => State.block_modBlock s blk b fun b => b.modChan a.home fun c => { c with running := c.running + 1 }
    refine ⟨_, _, rfl, fun b => ?_, fun b hb => (hget b).trans (if_neg hb)⟩
    refine (congrArg Block.epochs (hget b)).trans ?_
    split
    · next h => rw [h]; rfl
    · rfl

theorem State.restoreJoins_eq (s : State) (team : Word × Word) (cl : Nat) (saved : List (Nat × JoinCell)) :
    ∃ clusters sys, s.restoreJoins team cl saved = { s with clusters, sys } := ⟨_, _, rfl⟩

/-- Starting an activation that goes on leaves the blocks. -/
theorem State.startAct_resumed_blocks (s : State) (t : Nat) (a : Act) (resumed : Bool) :
    ((s.startAct t a).traceDispatch t resumed).blocks = s.blocks := by
  rw [(TraceFrame.traceDispatch (s.startAct t a) t resumed).rest]
  rfl

theorem State.restart_of_idle {s : State} {t : Nat} (a : Act) (hidle : (s.th t).status = .idle) (resumed : Bool) :
    s.restart t a resumed = ((s.recount (blockOf t) a).startAct t a).traceDispatch t resumed := by
  obtain ⟨blocks, sys, heq, -⟩ := s.recount_eq (blockOf t) a
  have hth : ((s.recount (blockOf t) a).th t).status = .idle := by
    rw [heq]
    exact hidle
  rw [State.restart, if_pos hth]

section
variable {v : State} {t : Nat} {a : Act} {team : Word × Word} {p : Epoch} (hepoch : (v.block (blockOf t)).epoch team = some p)
include hepoch

/-- One saved member starts again, once the words, the cells and the epoch are as they were. -/
theorem State.replayBlock_of_saved (hsaved : p.saved = [(t, a)]) (hrested : p.rested = []) (hmsgs : p.msgs = []) (hsends : p.sends = []) :
    ∃ clusters sys os, v.replayBlock team (blockOf t) = ((({ v with mem := restoreOlds v.mem p.olds, clusters, sys } : State).modBlock (blockOf t)
      fun b => b.modEpoch team Epoch.replayed).restart t a true).retestAll os := by
  obtain ⟨clusters, sys, hjoins⟩ := State.restoreJoins_eq { v with mem := restoreOlds v.mem p.olds } team (blockOf t / 8) p.joins
  refine ⟨clusters, sys, p.olds.foldl (fun l o => if l.contains (ownerAt (8 * o.1)) then l else l ++ [ownerAt (8 * o.1)]) [], ?_⟩
  unfold State.replayBlock
  simp only [hepoch, hsaved, hrested, hmsgs, hsends, hjoins, List.foldl_nil, List.foldl_cons]
  rfl

theorem State.replayBlock_replays (hsaved : p.saved = [(t, a)]) (hrested : p.rested = []) (hmsgs : p.msgs = []) (hsends : p.sends = [])
    (hidle : (v.th t).status = .idle) (hretry : ∀ o, (v.owner o).retry = []) (hten : traceTen (v.th t) = false) :
    Replays v (v.replayBlock team (blockOf t)) t a team p := by
  obtain ⟨clusters, sys, os, heq⟩ := State.replayBlock_of_saved hepoch hsaved hrested hmsgs hsends
  generalize hs1 : ({ v with mem := restoreOlds v.mem p.olds, clusters, sys } : State).modBlock (blockOf t) (fun b => b.modEpoch team Epoch.replayed) = s1
    at heq
  have hth : s1.th t = v.th t := by rw [← hs1]; rfl
  have hmem : s1.mem = restoreOlds v.mem p.olds := by rw [← hs1]; rfl
  have howner : ∀ o, (s1.owner o).retry = [] := fun o => by rw [← hs1]; exact hretry o
  have hblk : ∀ b, s1.block b = if b = blockOf t then (v.block (blockOf t)).modEpoch team Epoch.replayed else v.block b := fun b => by
    rw [← hs1]
    exact State.block_modBlock ..
  rw [State.restart_of_idle a (by rw [hth]; exact hidle)] at heq
  obtain ⟨blocks, sys', hcount, hepochs, hrest⟩ := s1.recount_eq (blockOf t) a
  generalize hs2 : s1.recount (blockOf t) a = s2 at heq hcount
  have hstart := State.startAct_resumed s2 t a true
  have hblocks := State.startAct_resumed_blocks s2 t a true
  generalize hu : (s2.startAct t a).traceDispatch t true = u at heq hstart hblocks
  have hq : ∀ o, (u.owner o).retry = [] := fun o => by
    rw [hstart.rest, hcount]
    exact howner o
  have hub : ∀ b, u.block b = s2.block b := fun b => by rw [State.block, hblocks, State.block]
  rw [State.retestAll, State.retest_of_no_retry hq] at heq
  rw [heq]
  refine ⟨hstart.status, hstart.act, ?_, ?_, fun b hb => ?_⟩
  · have hoff : traceTen (s2.th t) = false := by
      rw [hcount]
      exact (congrArg traceTen hth).trans hten
    rw [hstart.mem hoff, hcount]
    exact hmem
  · have hmine : (u.block (blockOf t)).epochs = ((v.block (blockOf t)).modEpoch team Epoch.replayed).epochs := by
      rw [hub, hcount]
      refine (hepochs _).trans ?_
      rw [hblk, if_pos rfl]
    rw [Block.epoch, hmine]
    exact Block.epoch_modEpoch hepoch Epoch.replayed fun _ => ⟨rfl, rfl⟩
  · rw [hub, hcount]
    refine (hrest b hb).trans ?_
    rw [hblk, if_neg hb]

end

theorem State.replayBlock_of_none {v : State} {team : Word × Word} {b : Nat} (h : (v.block b).epoch team = none) : v.replayBlock team b = v := by
  rw [State.replayBlock, h]

/-- Of the listed blocks only the one with an epoch of the team is replayed. -/
theorem State.foldl_replayBlock {team : Word × Word} {blk : Nat} : ∀ {bs : List Nat} {v : State}, bs.Pairwise (· < ·) → blk ∈ bs →
    (∀ b, b ≠ blk → (v.block b).epoch team = none) → (∀ b, b ≠ blk → (v.replayBlock team blk).block b = v.block b) →
    bs.foldl (fun s b => s.replayBlock team b) v = v.replayBlock team blk
  | [], _, _, hin, _, _ => by cases hin
  | b :: bs, v, hrise, hin, hnone, hrest => by
    obtain ⟨hb, hrise⟩ := List.pairwise_cons.mp hrise
    rw [List.foldl_cons]
    by_cases heq : b = blk
    · rw [heq]
      have hout : ∀ c ∈ bs, c ≠ blk := fun c hc h => by
        have := hb c hc
        omega
      have hkeep : ∀ (cs : List Nat), (∀ c ∈ cs, c ≠ blk) → cs.foldl (fun s b => s.replayBlock team b) (v.replayBlock team blk) = v.replayBlock team blk := by
        intro cs
        induction cs with
        | nil => exact fun _ => rfl
        | cons c cs ih =>
          intro hcs
          have hc := hcs c List.mem_cons_self
          rw [List.foldl_cons, State.replayBlock_of_none (by rw [hrest c hc]; exact hnone c hc)]
          exact ih fun d hd => hcs d (List.mem_cons_of_mem _ hd)
      exact hkeep bs hout
    · rw [State.replayBlock_of_none (hnone b heq)]
      exact State.foldl_replayBlock hrise ((List.mem_cons.mp hin).resolve_left fun h => heq h.symm) hnone hrest

/-! ## The team -/

theorem Map.get_map {α : Type} {d : α} {f : α → α} (hd : f d = d) : ∀ (m : Map α) (i : Nat),
    Map.get d (List.map (fun e : Nat × α => (e.1, f e.2)) m) i = f (Map.get d m i)
  | [], _ => hd.symm
  | (k, v) :: m, i => by
    show (if i = k then f v else Map.get d (List.map (fun e : Nat × α => (e.1, f e.2)) m) i) = f (if i = k then v else Map.get d m i)
    rw [Map.get_map hd m i]
    split <;> rfl

/-- Where no block has a displaced activation, none is dropped. -/
theorem State.dropDisplaced_of_none {s : State} (hrise : (List.map Prod.fst s.blocks).Pairwise (· < ·)) (hnone : ∀ b, (s.block b).displaced = [])
    (p : Act → Bool) : s.dropDisplaced p = s.eachBlock fun b => { b with displaced := b.displaced.filter fun d => !p d.act } := by
  have hall : List.flatMap (fun e : Nat × Block => (e.2.displaced.filter fun d => p d.act).map fun d => (e.1, d.act)) s.blocks = [] := by
    refine List.flatMap_eq_nil_iff.mpr fun e he => ?_
    have hget : s.block e.1 = e.2 := Map.get_of_mem hrise he
    rw [← hget, hnone]
    rfl
  unfold State.dropDisplaced
  rw [hall]
  rfl

theorem KeepsTeams.dropDisplaced {s : State} (hrise : (List.map Prod.fst s.blocks).Pairwise (· < ·)) (hnone : ∀ b, (s.block b).displaced = [])
    (p : Act → Bool) : KeepsTeams s (s.dropDisplaced p) := by
  have hget : ∀ b, (s.dropDisplaced p).block b = { s.block b with displaced := (s.block b).displaced.filter fun d => !p d.act } := fun b => by
    rw [State.dropDisplaced_of_none hrise hnone]
    exact Map.get_map (f := fun b : Block => { b with displaced := b.displaced.filter fun d => !p d.act }) rfl s.blocks b
  refine ⟨fun b => by rw [hget], fun b => by rw [hget], fun b => by rw [hget, hnone]; rfl, fun _ => ?_⟩
  rw [State.dropDisplaced_of_none hrise hnone]
  exact (List.map_map ..).symm ▸ hrise

/-- A team of one running member, whose epoch stands in its block alone. -/
structure SoleMember (s : State) (t : Nat) (team : Word × Word) : Prop where
  act : isAct t = true
  stalled : (s.th t).status = .stalled .replay
  member : s.teamOf (s.th t).act = some team
  sole : ∀ e ∈ s.actives, s.teamOf e.2.act = some team → e.1 = t
  blocksRise : (List.map Prod.fst s.blocks).Pairwise (· < ·)
  threadsRise : (List.map Prod.fst s.threads).Pairwise (· < ·)
  jobs : ∀ b, (s.block b).jobs = []
  displaced : ∀ b, (s.block b).displaced = []
  epochs : ∀ b, b ≠ blockOf t → (s.block b).epoch team = none
  retry : ∀ o, (s.owner o).retry = []

section
variable {s : State} {t : Nat} {team : Word × Word} (h : SoleMember s t team)
include h

/-- The member is the team's one active thread. -/
theorem SoleMember.members : (List.filter (fun e : Nat × Thread => s.teamOf e.2.act == some team) s.actives).map Prod.fst = [t] := by
  have hne : s.th t ≠ {} := fun heq => by
    have := h.stalled
    rw [heq] at this
    cases this
  have hin : (t, s.th t) ∈ s.threads := Map.mem_of_get_ne hne
  refine eq_singleton_of_rising ?_ ?_ ?_
  · exact h.threadsRise.sublist ((List.filter_sublist.trans List.filter_sublist).map Prod.fst)
  · intro x hx
    obtain ⟨e, he, rfl⟩ := List.mem_map.mp hx
    obtain ⟨hact, hteam⟩ := List.mem_filter.mp he
    exact h.sole e hact (by simpa using hteam)
  · refine List.mem_map.mpr ⟨(t, s.th t), List.mem_filter.mpr ⟨List.mem_filter.mpr ⟨hin, ?_⟩, ?_⟩, rfl⟩
    · simp [h.act, h.stalled]
    · simp [h.member]

/-- The chip when the member has stopped. -/
theorem SoleMember.stopped : ∃ v, s.replayTeam team = (List.map Prod.fst v.blocks).foldl (fun s b => s.replayBlock team b) v ∧ KeepsTeams s v ∧
    (v.th t).status = .idle ∧ (v.th t).trcfg = (s.th t).trcfg ∧ v.mem = s.mem ∧ v.owners = s.owners := by
  have hcancel := State.cancelReqs_of_no_retry h.retry t
  have hfirst : KeepsTeams s (s.cancelReqs t) := by
    rw [hcancel]
    exact KeepsTeams.of_blocks rfl
  have hfree := hfirst.trans (KeepsTeams.freeThread (s.cancelReqs t) t)
  have hrise1 := hfree.rising h.blocksRise
  have hdisp1 : ∀ b, (((s.cancelReqs t).freeThread t).block b).displaced = [] := fun b => (hfree.displaced b).trans (h.displaced b)
  have hdrop := KeepsTeams.dropDisplaced hrise1 hdisp1 fun a => s.teamOf a == some team
  have heq := State.dropDisplaced_of_none hrise1 hdisp1 fun a => s.teamOf a == some team
  have hkeep := hfree.trans hdrop
  have hth : ((s.cancelReqs t).freeThread t).th t = ((s.cancelReqs t).th t).freed := (State.freeThread_th _ t t).trans (if_pos rfl)
  refine ⟨((s.cancelReqs t).freeThread t).dropDisplaced fun a => s.teamOf a == some team, ?_, hkeep, ?_, ?_, ?_, ?_⟩
  · have hjobs : List.flatMap (fun e : Nat × Block => e.2.jobs.filterMap fun j =>
        if j.launch == team.1 && s.teamOf { launch := j.launch, wid := j.wid } == some team && !j.op.isMatrix then some (e.1, j) else none)
          (((s.cancelReqs t).freeThread t).dropDisplaced fun a => s.teamOf a == some team).blocks = [] := by
      refine List.flatMap_eq_nil_iff.mpr fun e he => ?_
      have hget := Map.get_of_mem (d := ({} : Block)) (hkeep.rising h.blocksRise) he
      have hnil := (hkeep.jobs e.1).trans (h.jobs e.1)
      rw [State.block, hget] at hnil
      rw [hnil]
      rfl
    unfold State.replayTeam
    simp only [h.members, List.foldl_cons, List.foldl_nil, hjobs]
  all_goals rw [heq]
  · exact congrArg Thread.status hth
  · refine (congrArg Thread.trcfg hth).trans ?_
    rw [hcancel, State.th_modTh, if_pos rfl]
    rfl
  · refine (State.freeThread_mem (s.cancelReqs t) t).trans ?_
    rw [hcancel]
    rfl
  · show ((s.cancelReqs t).freeThread t).owners = s.owners
    rw [State.freeThread_eq, State.departed_eq, hcancel]
    rfl

/-- Where no access of the member is under way elsewhere, its team is replayed. -/
theorem SoleMember.exec_teamReplay (hmay : s.mayReplay t = true) (hbusy : (s.th t).outst.any (·.busy) = false) :
    exec (.teamReplay t) s = .next (s.replayTeam team) := by
  show execTeamReplay t s = _
  unfold execTeamReplay
  simp only [h.stalled, h.member, hmay, h.members, List.any_cons, List.any_nil, hbusy, ne_eq, not_true_eq_false, Bool.not_true, Bool.or_false,
    Bool.false_eq_true, if_false]

/-- The replay of a team whose member was saved at the epoch's opening. -/
theorem SoleMember.replays {p : Epoch} {a : Act} (hepoch : (s.block (blockOf t)).epoch team = some p) (hsaved : p.saved = [(t, a)])
    (hrested : p.rested = []) (hmsgs : p.msgs = []) (hsends : p.sends = []) (hten : traceTen (s.th t) = false) :
    ∃ v, v.mem = s.mem ∧ Replays v (s.replayTeam team) t a team p := by
  obtain ⟨v, heq, hkeep, hidle, htrcfg, hmem, howners⟩ := h.stopped
  have hep : ∀ b, (v.block b).epoch team = (s.block b).epoch team := fun b => by rw [Block.epoch, hkeep.epochs, Block.epoch]
  have hmine : (v.block (blockOf t)).epoch team = some p := (hep _).trans hepoch
  have hretry : ∀ o, (v.owner o).retry = [] := fun o => by
    rw [State.owner, howners]
    exact h.retry o
  have hoff : traceTen (v.th t) = false := by
    rw [traceTen, htrcfg]
    exact hten
  have hrep := State.replayBlock_replays hmine hsaved hrested hmsgs hsends hidle hretry hoff
  have hlisted : blockOf t ∈ List.map Prod.fst v.blocks := by
    refine List.mem_map_of_mem (f := Prod.fst) (Map.mem_of_get_ne (d := ({} : Block)) (i := blockOf t) fun hdef => ?_)
    rw [State.block, hdef] at hmine
    cases hmine
  rw [State.foldl_replayBlock (hkeep.rising h.blocksRise) hlisted (fun b hb => (hep b).trans (h.epochs b hb)) hrep.others] at heq
  exact ⟨v, hmem, heq ▸ hrep⟩

end

/-- Settles O41: the team's one member stops, and what stands in the state then is the chip as it was, but for the member's thread;
the replay of the one block with an epoch restores the words and starts the member. -/
theorem teamsAreReplayed : Obligations.TeamsAreReplayed := by
  intro s t team hact hstall hteam
  refine ⟨fun hmay => ?_, fun p a hmay hsole hbusy hblocks hthreads hquiet hepoch hsaved hrested hmsgs hsends hretry hnodup hten => ?_⟩
  · show execTeamReplay t s = _
    unfold execTeamReplay
    simp only [hstall, hteam, hmay, ne_eq, not_true_eq_false, Bool.not_false, if_true, if_false]
  · have h : SoleMember s t team := ⟨hact, hstall, hteam, hsole, hblocks, hthreads, fun b => (hquiet b).1, fun b => (hquiet b).2.1,
      fun b => (hquiet b).2.2, hretry⟩
    obtain ⟨v, hmem, hrep⟩ := h.replays hepoch hsaved hrested hmsgs hsends hten
    refine ⟨_, _, h.exec_teamReplay hmay hbusy, hrep.status, hrep.act, fun o ho => ?_, fun w hw => ?_, hrep.epoch, rfl, rfl⟩
    · rw [hrep.mem]
      exact restoreOlds_of_mem hnodup ho
    · rw [hrep.mem, ← hmem]
      exact restoreOlds_of_not_mem hw

end Sys2Proof.Machine
end

section
/-! SUPPORT. Jobs that end: their place in the scheduler, and the instructions that wait for them, count or cancel them
(R316, R317, R326, R330, R333, R334). -/

namespace Sys2Proof.Machine

open Sys2Proof.Claims

/-! ## A job in its scheduler -/

theorem State.id_of_job? {s : State} {blk id : Nat} {j : Job} (h : s.job? blk id = some j) : j.id = id :=
  beq_iff_eq.mp (List.find?_some (p := fun j : Job => j.id == id) h)

theorem State.job?_modBlock (s : State) (blk id : Nat) (f : Block → Block) :
    (s.modBlock blk f).job? blk id = (f (s.block blk)).jobs.find? fun j => j.id == id := by
  rw [State.job?, State.block_modBlock, if_pos rfl]

/-- A change of a job that keeps its number. -/
theorem State.job?_modJob (s : State) (blk id : Nat) {f : Job → Job} (hf : ∀ j, (f j).id = j.id) :
    (s.modJob blk id f).job? blk id = (s.job? blk id).map f := by
  have hfun : ((fun j : Job => j.id == id) ∘ fun j : Job => if j.id = id then f j else j) = fun j => j.id == id := by
    funext j
    simp only [Function.comp]
    split
    · rw [hf]
    · rfl
  rw [State.modJob, State.job?_modBlock, List.find?_map, hfun, State.job?]
  cases h : (s.block blk).jobs.find? fun j => j.id == id with
  | none => rfl
  | some j => rw [Option.map_some, Option.map_some, if_pos (beq_iff_eq.mp (List.find?_some (p := fun j : Job => j.id == id) h))]

/-- A job that leaves its scheduler and joins the end of its queue again is found there. -/
theorem State.job?_requeued (s : State) (blk id : Nat) {k : Job} (hk : k.id = id) :
    ((s.dropJob blk id).modBlock blk fun b => { b with jobs := b.jobs ++ [k] }).job? blk id = some k := by
  rw [State.job?_modBlock, State.dropJob, State.block_modBlock, if_pos rfl]
  have hnone : ((s.block blk).jobs.filter fun j => j.id != id).find? (fun j => j.id == id) = none := by
    rw [List.find?_eq_none]
    exact fun j hj => by simpa using (List.mem_filter.mp hj).2
  simp only [List.find?_append, hnone, Option.none_or]
  exact List.find?_cons_of_pos (by simpa using hk)

theorem State.job?_dropJob (s : State) (blk id : Nat) : (s.dropJob blk id).job? blk id = none := by
  rw [State.dropJob, State.job?_modBlock, List.find?_eq_none]
  exact fun j hj => by simpa using (List.mem_filter.mp hj).2

/-- The completion of a job that has ended. -/
def Job.completion (j : Job) (blk : Nat) (status : Byte) (fl : BitVec 5) : Msg :=
  { dest := j.reply, payload := [completionWord status fl j.tag], src := j.source blk, wid := j.wid
    launch := j.launch, pid := j.pid, origin := .job blk j.id, die := blk / 256 }
/-- A job whose completion waits for delivery. -/
def Job.ended (j : Job) (blk : Nat) (status : Byte) (fl : BitVec 5) : Job :=
  { j with phase := .held, status, image := [], msg := some (j.completion blk status fl), cancelled := j.cancelled || status == 0xFF }

/-- A job with a reply address ends: no access of it met another job's region, and its completion waits. -/
theorem State.finishJob_of_reply {s : State} {blk : Nat} {j : Job} (hreply : j.reply ≠ 0)
    (hmet : (s.job? blk j.id).any (fun k => k.haz == some true) = false) (status : Byte) (fl : BitVec 5) :
    s.finishJob blk j status fl = (s.dropJob blk j.id).modBlock blk fun b => { b with jobs := b.jobs ++ [j.ended blk status fl] } := by
  unfold State.finishJob
  rw [hmet, if_neg hreply]
  simp only [Bool.false_eq_true, and_false, if_false]
  rfl

/-- The completion of a job that ends with a status other than 0 says that status. -/
theorem State.finishJob_of_failed {s : State} {blk : Nat} {j : Job} (hreply : j.reply ≠ 0) {status : Byte} (hstatus : status ≠ 0) (fl : BitVec 5) :
    s.finishJob blk j status fl = (s.dropJob blk j.id).modBlock blk fun b => { b with jobs := b.jobs ++ [j.ended blk status fl] } := by
  unfold State.finishJob
  rw [if_neg hreply, if_neg fun h => hstatus h.1]
  rfl

theorem completionWord_eq (status : Byte) (fl : BitVec 5) (tag : BitVec 32) :
    completionWord status fl tag = BitVec.ofNat 64 (status.toNat * 2 ^ 56 + (fl.toNat * 2 ^ 48 + tag.toNat)) := by
  have hst := status.isLt
  have hfl := fl.isLt
  have htag := tag.isLt
  have hlow : fl.toNat * 2 ^ 48 ||| tag.toNat = fl.toNat * 2 ^ 48 + tag.toNat := by
    rw [Nat.mul_comm]
    exact (Nat.two_pow_add_eq_or_of_lt (by omega) fl.toNat).symm
  have hall : status.toNat * 2 ^ 56 ||| (fl.toNat * 2 ^ 48 + tag.toNat) = status.toNat * 2 ^ 56 + (fl.toNat * 2 ^ 48 + tag.toNat) := by
    rw [Nat.mul_comm status.toNat]
    exact (Nat.two_pow_add_eq_or_of_lt (by omega) status.toNat).symm
  apply BitVec.eq_of_toNat_eq
  rw [completionWord, BitVec.or_assoc, BitVec.toNat_or, BitVec.toNat_or, BitVec.toNat_shiftLeft, BitVec.toNat_shiftLeft, BitVec.toNat_setWidth,
    BitVec.toNat_setWidth, BitVec.toNat_setWidth, BitVec.toNat_ofNat, Nat.shiftLeft_eq, Nat.shiftLeft_eq, Nat.mod_eq_of_lt (a := status.toNat) (by omega),
    Nat.mod_eq_of_lt (a := fl.toNat) (by omega), Nat.mod_eq_of_lt (a := tag.toNat) (by omega), Nat.mod_eq_of_lt (a := status.toNat * 2 ^ 56) (by omega),
    Nat.mod_eq_of_lt (a := fl.toNat * 2 ^ 48) (by omega), hlow, hall, Nat.mod_eq_of_lt (by omega)]

/-! ## MWAIT and MSTAT (R316, R317) -/

/-- The thread's bound, which a wait sets and its end clears, is no register or control. -/
theorem Quietly.bound (s : State) (b : Option Nat) : Quietly s (s.modMe fun x => { x with bound := b }) :=
  Quietly.modMe s (fun x => { x with bound := b }) rfl rfl rfl rfl (fun _ => rfl) rfl

/-- A wait for jobs stalls the thread, which remembers up to which job it waits. -/
theorem State.bound_stalls (s : State) (b : Option Nat) (w : Wait) : Stalls s ((s.modMe fun x => { x with bound := b }).stall w) w := by
  obtain ⟨hstatus, hpc, hreg, hflight, hmem, hoth⟩ := (s.modMe fun x => { x with bound := b }).stall_stalls w
  have hq := Quietly.bound s b
  exact ⟨hstatus, hpc.trans hq.pc, ⟨fun r => (hreg.1 r).trans (hq.regs r), fun r => (hreg.2 r).trans (hq.vregs r)⟩, hflight, hmem,
    fun u hu => (hoth u hu).trans (hq.others u hu)⟩

theorem matrixFail_mstatTaken (a : Act) : ({ a with mstat := mstatTaken a.mstat } : Act).matrixFail = none := by
  have hzero : (mstatTaken a.mstat).extractLsb' 56 8 = 0 := by
    rw [mstatTaken, BitVec.extractLsb'_and]
    exact BitVec.and_zero
  rw [Act.matrixFail, hzero]
  rfl

section
variable {s : State} {x : TIdx} {d a : GReg} (hact : isAct s.cur = true)
include hact

/-- A matrix job on the tile that MWAIT waits for. -/
def State.awaited (s : State) (x : TIdx) : Bool :=
  (s.block (blockOf s.cur)).jobs.any fun j => j.op.isMatrix && j.op.tile == x && decide (j.id < s.me.bound.getD (s.block (blockOf s.cur)).nextJob)

theorem exec_mwait : exec (.mwait x) s = if s.awaited x then
      .next ((s.modMe fun y => { y with bound := some (s.me.bound.getD (s.block (blockOf s.cur)).nextJob) }).stall .engine)
    else (s.modMe fun y => { y with bound := none }).matrixWaited fun s => .next s.retire :=
  if_pos hact

theorem exec_mwait_of_none (hnone : ∀ j ∈ (s.block (blockOf s.cur)).jobs, j.op.isMatrix = true → j.op.tile ≠ x) :
    exec (.mwait x) s = (s.modMe fun y => { y with bound := none }).matrixWaited fun s => .next s.retire := by
  have hany : s.awaited x = false := by
    refine List.any_eq_false.mpr fun j hj => ?_
    cases hm : j.op.isMatrix
    · simp
    · simp [hnone j hj hm]
  rw [exec_mwait hact, hany]
  rfl

theorem mwaitEndsWithItsJobs (hnone : ∀ j ∈ (s.block (blockOf s.cur)).jobs, j.op.isMatrix = true → j.op.tile ≠ x) (hfail : s.me.act.matrixFail = none) :
    ∃ t, exec (.mwait x) s = .next t ∧ Retired s t ∧ NoReg s t := by
  have hclean : (s.modMe fun y => { y with bound := none }).me.act.matrixFail = none := by
    rw [State.me_modMe]
    exact hfail
  have hexec := exec_mwait_of_none hact hnone
  rw [State.matrixWaited, hclean] at hexec
  obtain ⟨hret, hreg⟩ := (Quietly.bound s none).retire
  exact ⟨_, hexec, hret, hreg⟩

theorem mwaitStalls (hjob : ∃ j ∈ (s.block (blockOf s.cur)).jobs, j.op.isMatrix = true ∧ j.op.tile = x ∧ j.id < (s.block (blockOf s.cur)).nextJob)
    (hbound : s.me.bound = none) : ∃ t, exec (.mwait x) s = .next t ∧ Stalls s t .engine := by
  obtain ⟨j, hj, hm, htile, hlt⟩ := hjob
  have hany : s.awaited x = true := List.any_eq_true.mpr ⟨j, hj, by simp [hm, htile, hbound, hlt]⟩
  have hexec := exec_mwait (x := x) hact
  rw [hany] at hexec
  exact ⟨_, hexec, s.bound_stalls _ _⟩

theorem mwaitTakesTheFailure {tr : Trap} (hfail : s.me.act.matrixFail = some tr)
    (hnone : ∀ j ∈ (s.block (blockOf s.cur)).jobs, j.op.isMatrix = true → j.op.tile ≠ x) :
    ∃ u : State, exec (.mwait x) s = .next (u.takeFault tr) ∧ u.mem = s.mem ∧ u.me.act.matrixFail = none := by
  have hstill : (s.modMe fun y => { y with bound := none }).me.act.matrixFail = some tr := by
    rw [State.me_modMe]
    exact hfail
  have hexec := exec_mwait_of_none hact hnone
  rw [State.matrixWaited, hstill] at hexec
  refine ⟨_, hexec, rfl, ?_⟩
  refine (congrArg (fun y : Thread => y.act.matrixFail) (State.me_modMe _ fun y => { y with act := { y.act with mstat := mstatTaken y.act.mstat } })).trans ?_
  exact matrixFail_mstatTaken _

theorem mstatReadsTheStatus (hpend : s.pendOf s.cur true = 0) (hfail : s.me.act.matrixFail = none) :
    ∃ t, exec (.mstat d) s = .next t ∧ Retired s t ∧ OnlyReg s t d (s.me.act.mstat &&& 0xFFFF00FFFFFFFFFF) := by
  have hread : s.mstatRead s.cur = s.me.act.mstat &&& 0xFFFF00FFFFFFFFFF := by
    have hnone : s.pendingJobs (clusterOf s.cur) (s.th s.cur).act.id true = 0 := hpend
    rw [State.mstatRead, State.mstatOf, hnone]
    exact BitVec.or_zero
  have hexec : exec (.mstat d) s = .next (s.writeRetire d (s.mstatRead s.cur)) := by
    show execMstat d s = _
    unfold execMstat noService State.matrixWaited
    simp only [hact, hpend, hfail, ne_eq, not_true_eq_false, if_true, if_false]
  rw [hread] at hexec
  obtain ⟨hret, hreg⟩ := (Quietly.refl s).writeRetire d (s.me.act.mstat &&& 0xFFFF00FFFFFFFFFF)
  exact ⟨_, hexec, hret, hreg⟩

/-! ## JWAIT, JPOLL and JCANCEL (R333, R334) -/

theorem badSelectorFaults (hsel : s.jobSel (s.g a) = none) : ∀ i ∈ [Instr.jwait a, .jpoll d a, .jcancel d a],
    exec i s = .next (s.takeFault { code := 0x01, val := s.g a, own := true }) := by
  have hwait : execJwait a s = raiseOwn (s.g a) s := by
    unfold execJwait noService
    simp only [hact, hsel, if_true]
  have hpoll : execJpoll d a s = raiseOwn (s.g a) s := by
    unfold execJpoll noService
    simp only [hact, hsel, if_true]
  have hcancel : execJcancel d a s = raiseOwn (s.g a) s := by
    unfold execJcancel noService
    simp only [hact, hsel, if_true]
  simp only [List.forall_mem_cons, List.not_mem_nil, false_imp_iff, implies_true, and_true]
  exact ⟨hwait, hpoll, hcancel⟩

variable {sel : Nat × BitVec 32} (hsel : s.jobSel (s.g a) = some sel)
include hsel

theorem exec_jwait : exec (.jwait a) s =
    if (s.selected sel).any fun j => decide (j.id < s.me.bound.getD (s.block sel.1).nextJob) then
      .next ((s.modMe fun x => { x with bound := some (s.me.bound.getD (s.block sel.1).nextJob) }).stall .engine)
    else match (s.modMe fun x => { x with bound := none }).me.act.cardFail with
      | some tr => .next (((s.modMe fun x => { x with bound := none }).modMyAct fun a => { a with jstat := jstatTaken a.jstat }).takeFault tr)
      | none => .next (s.modMe fun x => { x with bound := none }).retire := by
  show execJwait a s = _
  unfold execJwait noService
  simp only [hact, hsel, if_true] <;> rfl

theorem exec_jpoll : exec (.jpoll d a) s = .next (s.writeRetire d (BitVec.ofNat 64 (s.selected sel).length)) := by
  show execJpoll d a s = _
  unfold execJpoll noService
  simp only [hact, hsel, if_true]

theorem exec_jcancel : exec (.jcancel d a) s = .next ((((s.selected sel).filter fun j => !j.cancelled).foldl
    (fun s j => s.cancelJob sel.1 j false) s).writeRetire d (BitVec.ofNat 64 ((s.selected sel).filter fun j => !j.cancelled).length)) := by
  show execJcancel d a s = _
  unfold execJcancel noService
  simp only [hact, hsel, if_true]

theorem jwaitEndsWithItsJobs (hnone : s.selected sel = []) (hfail : s.me.act.cardFail = none) :
    ∃ t, exec (.jwait a) s = .next t ∧ Retired s t ∧ NoReg s t := by
  have hclean : (s.modMe fun x => { x with bound := none }).me.act.cardFail = none := by
    rw [State.me_modMe]
    exact hfail
  have hexec := exec_jwait hact hsel
  rw [hnone, hclean] at hexec
  obtain ⟨hret, hreg⟩ := (Quietly.bound s none).retire
  exact ⟨_, hexec, hret, hreg⟩

theorem jwaitStalls (hjob : ∃ j ∈ s.selected sel, j.id < (s.block sel.1).nextJob) (hbound : s.me.bound = none) :
    ∃ t, exec (.jwait a) s = .next t ∧ Stalls s t .engine := by
  obtain ⟨j, hj, hlt⟩ := hjob
  have hany : ((s.selected sel).any fun j => decide (j.id < s.me.bound.getD (s.block sel.1).nextJob)) = true :=
    List.any_eq_true.mpr ⟨j, hj, by simp [hbound, hlt]⟩
  have hexec := exec_jwait hact hsel
  rw [if_pos hany] at hexec
  exact ⟨_, hexec, s.bound_stalls _ _⟩

end

/-- A job in reach of JCANCEL: not started, or with a completion that waits for delivery. -/
def Job.cancellable (j : Job) : Prop :=
  (j.phase = .pending ∧ j.op.isStream = false) ∨ (j.phase = .held ∧ ∃ m, j.msg = some m ∧ m.dest = j.reply)

/-- The job u holds under this number ends with status 0xFF, and its completion says so. -/
structure Cancelled (u : State) (blk : Nat) (j : Job) : Prop where
  ended : ∃ k m, u.job? blk j.id = some k ∧ k.phase = .held ∧ k.cancelled = true ∧ k.msg = some m ∧ m.dest = j.reply ∧
    m.payload = [BitVec.ofNat 64 (0xFF * 2 ^ 56 + j.tag.toNat)]

theorem cancelledWord (tag : BitVec 32) : completionWord 0xFF 0 tag = BitVec.ofNat 64 (0xFF * 2 ^ 56 + tag.toNat) := by
  rw [completionWord_eq]
  refine congrArg (BitVec.ofNat 64) ?_
  show 255 * 2 ^ 56 + (0 * 2 ^ 48 + tag.toNat) = 0xFF * 2 ^ 56 + tag.toNat
  omega

/-- A job whose waiting completion says that it was cancelled. -/
def Job.called (j : Job) (tag : BitVec 32) : Job :=
  { j with status := 0xFF, cancelled := true, msg := j.msg.map fun m => { m with payload := [completionWord 0xFF 0 tag] } }

theorem State.job?_cancelHeld {s : State} {blk : Nat} {j : Job} (hjob : s.job? blk j.id = some j) :
    (s.cancelHeld blk j).job? blk j.id = some (j.called j.tag) := by
  obtain ⟨u, heq, hu⟩ : ∃ u : State, s.cancelHeld blk j = u.modJob blk j.id (fun k => k.called j.tag) ∧ u.job? blk j.id = some j := ⟨_, rfl, hjob⟩
  rw [heq, State.job?_modJob u blk j.id (f := fun k => k.called j.tag) fun _ => rfl, hu]
  rfl

/-- A job that has not started and is no stream leaves nothing behind but its completion. -/
theorem State.haltJob_of_pending {s : State} {blk : Nat} {j : Job} (hphase : j.phase = .pending) (hstream : j.op.isStream = false) :
    s.haltJob blk j = s := by
  have hend : s.endStream blk j = s := by
    unfold State.endStream
    split
    · next heq => rw [heq] at hstream; cases hstream
    · rfl
  have hrun : ¬ (j.phase = .started ∨ j.phase = .consumed) := by rw [hphase]; decide
  have hforest : s.releaseForest blk j = s := if_pos (Or.inr (by rw [hphase]; decide))
  rw [State.haltJob]
  simp only [if_neg hrun, hend, hforest]

/-- A cancelled job ends at once, or its waiting completion is changed. -/
theorem State.cancelJob_cancelled {s : State} {blk : Nat} {j : Job} (hjob : s.job? blk j.id = some j) (hreply : j.reply ≠ 0) (hcan : j.cancellable) :
    Quietly s (s.cancelJob blk j false) ∧ Cancelled (s.cancelJob blk j false) blk j := by
  rcases hcan with ⟨hphase, hstream⟩ | ⟨hphase, m, hmsg, hdest⟩
  · have hheld : ¬ j.phase = .held := by rw [hphase]; decide
    have hcancel : s.cancelJob blk j false = (s.dropJob blk j.id).modBlock blk fun b =>
        { b with jobs := b.jobs ++ [Job.ended { j with cancelled := true } blk 0xFF 0] } := by
      rw [State.cancelJob, if_neg Bool.false_ne_true, if_neg hheld, State.haltJob_of_pending hphase hstream]
      exact State.finishJob_of_failed (j := { j with cancelled := true }) hreply (by decide) 0
    rw [hcancel]
    refine ⟨Quietly.of_threads rfl rfl rfl fun _ => rfl, _, _, State.job?_requeued s blk j.id rfl, rfl, Bool.true_or (0xFF == 0xFF), rfl, rfl, ?_⟩
    exact congrArg (fun w => [w]) (cancelledWord j.tag)
  · have hcancel : s.cancelJob blk j false = s.cancelHeld blk j := by
      rw [State.cancelJob, if_neg Bool.false_ne_true, if_pos hphase]
    have hput : (j.called j.tag).msg = some { m with payload := [completionWord 0xFF 0 j.tag] } := by
      rw [Job.called, hmsg]
      rfl
    rw [hcancel]
    refine ⟨Quietly.of_threads rfl rfl rfl fun _ => rfl, _, _, State.job?_cancelHeld hjob, hphase, rfl, hput, hdest, ?_⟩
    exact congrArg (fun w => [w]) (cancelledWord j.tag)

section
variable {s : State} {d a : GReg} {sel : Nat × BitVec 32} (hact : isAct s.cur = true) (hsel : s.jobSel (s.g a) = some sel)
include hact hsel

theorem jcancelOfNoneCountsNone (hnone : s.selected sel = []) : ∃ t, exec (.jcancel d a) s = .next t ∧ FallsThrough s t ∧ SetsG s t d 0 0 := by
  have hexec := exec_jcancel (d := d) hact hsel
  rw [hnone] at hexec
  obtain ⟨hfall, hset⟩ := s.writeRetire_spec d 0
  exact ⟨_, hexec, hfall, hset⟩

theorem jcancelEndsTheJob {j : Job} (hone : s.selected sel = [j]) (hlive : j.cancelled = false) (hreply : j.reply ≠ 0)
    (hjob : s.job? sel.1 j.id = some j) (hcan : j.cancellable) :
    ∃ t k m, exec (.jcancel d a) s = .next t ∧ Retired s t ∧ OnlyReg s t d 1 ∧ t.job? sel.1 j.id = some k ∧ k.phase = .held ∧ k.cancelled = true ∧
      k.msg = some m ∧ m.dest = j.reply ∧ m.payload = [BitVec.ofNat 64 (0xFF * 2 ^ 56 + j.tag.toNat)] := by
  have hfilter : (s.selected sel).filter (fun j => !j.cancelled) = [j] := by
    rw [hone, List.filter_cons_of_pos (by simp [hlive])]
    rfl
  have hexec := exec_jcancel (d := d) hact hsel
  rw [hfilter] at hexec
  obtain ⟨hquiet, k, m, hk, hspec⟩ := State.cancelJob_cancelled hjob hreply hcan
  obtain ⟨hret, hreg⟩ := hquiet.writeRetire d 1
  exact ⟨_, k, m, hexec, hret, hreg, hk, hspec⟩

end

theorem waitingEndsWithItsJobs : Claims.WaitingEndsWithItsJobs := by
  intro s a d x hact jobs
  refine ⟨mwaitEndsWithItsJobs hact, mwaitStalls hact, fun tr => mwaitTakesTheFailure hact, mstatReadsTheStatus hact, fun sel hsel => ?_,
    badSelectorFaults hact⟩
  refine ⟨jwaitEndsWithItsJobs hact hsel, jwaitStalls hact hsel, ?_, jcancelOfNoneCountsNone hact hsel,
    fun j hone hlive hreply hjob hcan => jcancelEndsTheJob hact hsel hone hlive hreply hjob hcan⟩
  obtain ⟨hfall, hset⟩ := s.writeRetire_spec d (BitVec.ofNat 64 (s.selected sel).length)
  exact ⟨_, exec_jpoll hact hsel, hfall, hset⟩

end Sys2Proof.Machine
end

section
/-! SUPPORT. The completions of jobs (R133, R248, R289, R327, R329, R355). -/

namespace Sys2Proof.Machine

open Sys2Proof.Claims

/-! ## A job that has written ends -/

/-- What an event that ends a job leaves: memory as it was, and the job's completion, which waits for delivery. -/
structure Completes (s1 t : State) (blk id : Nat) (j : Job) (fl : BitVec 5) : Prop where
  mem : t.mem = s1.mem
  held : ∃ k m, t.job? blk id = some k ∧ k.phase = .held ∧ k.msg = some m ∧ m.dest = j.reply ∧
    m.payload = [BitVec.ofNat 64 (fl.toNat * 2 ^ 48 + j.tag.toNat)] ∧ m.wid = j.wid ∧ m.pid = j.pid

theorem State.finishJob_completes {s1 : State} {blk id : Nat} {j : Job} (hid : j.id = id) (hreply : j.reply ≠ 0)
    (hmet : (s1.job? blk id).any (fun k => k.haz == some true) = false) (fl : BitVec 5) : Completes s1 (s1.finishJob blk j 0 fl) blk id j fl := by
  rw [State.finishJob_of_reply hreply (by rw [hid]; exact hmet), hid]
  refine ⟨rfl, _, _, State.job?_requeued s1 blk id (k := j.ended blk 0 fl) hid, rfl, rfl, rfl, ?_, rfl, rfl⟩
  refine congrArg (fun w => [w]) ((completionWord_eq 0 fl j.tag).trans (congrArg (BitVec.ofNat 64) ?_))
  exact Nat.zero_add _

theorem syncOfDsy_eq (dsy : BitVec 2) : syncOfDsy dsy = if dsy = 1 then .sf else if dsy = 2 then .se else .plain := by
  revert dsy
  decide

section
variable {s s1 : State} {blk id : Nat} {j : Job} (hjob : s.job? blk id = some j) (hphase : j.phase = .consumed)
include hjob hphase

theorem exec_sweepComplete_of_written {src dst : Shape} {xs : List Nat} {fl : BitVec 5} (hpace : s.pace = none) (heng : j.eng = .vector)
    (hsrc : j.src = some src) (hdst : j.dst = some dst) (hres : sweepResult j src dst = (xs, fl, 0)) (hmay : dst.mayWrite s j = true)
    (hwrite : s.engineWrite blk j dst .plain xs = (some 0, s1)) : exec (.sweepComplete blk id) s = .next (s1.finishJob blk j 0 fl) := by
  have hsame : (if j.op.isRed then { s with pace := none } else s) = s := by
    split
    · rw [← hpace]
    · rfl
  show execSweepComplete blk id s = _
  unfold execSweepComplete
  simp only [hjob, hphase, heng, hsrc, hdst, hres, hmay, hsame, hwrite, errStatus, Bool.not_true, Bool.false_eq_true, if_false, if_true]

theorem exec_copyJobComplete_of_copied {dsy : BitVec 2} {src dst : Shape} (hop : j.op = .copy dsy) (hsrc : j.src = some src)
    (hdst : j.dst = some dst) (hstatus : j.status = 0) (hbad : src.badExponent j.image = false)
    (hwrite : s.engineWrite blk j dst (syncOfDsy dsy) ((src.values j.image).map src.padded) = (some 0, s1)) :
    exec (.copyJobComplete blk id) s = .next (s1.finishJob blk j 0 0) := by
  show execCopyJobComplete blk id s = _
  unfold execCopyJobComplete
  simp only [hjob, hphase, hop, hsrc, hdst, hstatus, hbad, hwrite, errStatus, ne_eq, not_true_eq_false, Bool.false_eq_true, if_false, if_true]

theorem exec_copyJobComplete_of_stream {x : SIdx} (hop : j.op = .stream x) : exec (.copyJobComplete blk id) s = .next (s.finishJob blk j 0 0) := by
  show execCopyJobComplete blk id s = _
  unfold execCopyJobComplete
  simp only [hjob, hphase, hop, ne_eq, not_true_eq_false, if_false]

variable {dense : Bool} {red : BitVec 3} {dst : Shape} (hop : j.op = .relabel dense red) (hdst : j.dst = some dst) (hstatus : j.status = 0) (hpos : j.pos < 3)
  (hlabels : s.engineWrite blk j dst .plain j.labels = (some 0, s1))
include hop hdst hstatus hpos hlabels

theorem exec_relabelJobComplete_of_labels (hout : j.out = none) :
    exec (.relabelJobComplete blk id) s = .next ((s1.modJob blk id fun k => { k with pos := 3 }).finishJob blk j 0 j.flags) := by
  show execRelabelJobComplete blk id s = _
  unfold execRelabelJobComplete
  simp only [hjob, hop, hphase, hdst, hstatus, hpos, hlabels, hout, ne_eq, not_true_eq_false, if_true, if_false]

theorem exec_relabelJobComplete_of_values {h : Shape} {s2 : State} (hout : j.out = some h)
    (hvalues : (s1.modJob blk id fun k => { k with pos := 3 }).engineWriteAt blk j h .plain j.outs 1 false = (some 0, s2)) :
    exec (.relabelJobComplete blk id) s = .next (s2.finishJob blk j 0 j.flags) := by
  show execRelabelJobComplete blk id s = _
  unfold execRelabelJobComplete
  simp only [hjob, hop, hphase, hdst, hstatus, hpos, hlabels, hout, hvalues, errStatus, ne_eq, not_true_eq_false, if_true, if_false]

end

/-! ## The delivery of a completion (R133) -/

/-- A job whose completion has been delivered is gone. -/
theorem State.completed_zero (s : State) (blk id : Nat) : JobDropped s (s.completed blk id 0) ∧ Claims.JobGone (s.completed blk id 0) blk id := by
  unfold State.completed
  split
  · next h => exact ⟨⟨rfl, fun _ => ⟨_, rfl⟩⟩, h⟩
  · refine ⟨⟨rfl, fun k => ?_⟩, ?_⟩
    · rw [if_pos (Or.inl rfl), State.dropJob, State.block_modBlock]
      split
      · next h => exact ⟨_, by rw [h]⟩
      · exact ⟨_, rfl⟩
    · rw [if_pos (Or.inl rfl)]
      exact State.job?_dropJob ..

theorem engineNo_engineAt {n : Nat} (h : n < 4) : engineNo (engineAt n) = n := by
  interval_cases n <;> rfl

section
variable {s : State} {blk n : Nat} {k : Job} {m : Msg} {rest : List Job} (hn : n < 4) (hheld : s.heldOf blk (engineAt n) = k :: rest)
  (hmsg : k.msg = some m) (haway : k.away = false) (hlocal : maLocal m.dest = true) (hform : malformed m.dest = false) (hkind : maKind m.dest = 1)
  (hdie : maDie m.dest = m.die)
include hn hheld hmsg haway hlocal hform hkind hdie

/-- The first completion of an engine goes to its target on the die, or the engine waits there. -/
theorem exec_completionDelivery_of_local : exec (.completionDelivery blk n) s = .next
    (match s.deliverCompletion (engineThread blk n) m with
    | some r => r.2.completed blk k.id r.1
    | none => (s.waitAt (engineThread blk n) m.dest).tryCompletions blk [m.dest] rest) := by
  have heng : k.eng = engineAt n := by
    have hin : k ∈ s.heldOf blk (engineAt n) := by rw [hheld]; exact List.mem_cons_self
    have hboth := (List.mem_filter.mp hin).2
    simp only [Bool.and_eq_true, beq_iff_eq] at hboth
    exact hboth.1
  have hhere : s.maHere m.pid m.dest = true := by rw [State.maHere, hlocal]; rfl
  have hhome : s.maHome 0 m.pid m.dest = m.die := by
    have hnot : ¬ (maKind m.dest = 4 ∧ maDevice m.dest = true) := fun h => by omega
    rw [State.maHome, if_neg hnot, hdie]
  show execCompletionDelivery blk n s = _
  rw [execCompletionDelivery, hheld, State.tryCompletions, hmsg]
  simp only [haway, hhere, hform, hhome, heng, engineNo_engineAt hn, List.contains_nil, Bool.false_eq_true, or_self, if_false, Bool.not_true, ne_eq,
    not_true_eq_false]
  cases s.deliverCompletion (engineThread blk n) m <;> rfl

variable (hctx : s.refuses m.pid = false)
include hctx

theorem completionIsDelivered (hroom : 1 ≤ ((s.block (maBlock m.dest)).queue (maQueue m.dest)).room)
    (hturn : s.turn (maBlock m.dest) (maQueue m.dest) false (engineThread blk n) = true) :
    ∃ t, exec (.completionDelivery blk n) s = .next t ∧ ((t.block (maBlock m.dest)).queue (maQueue m.dest)).items =
      ((s.block (maBlock m.dest)).queue (maQueue m.dest)).items ++ m.payload ∧ Claims.JobGone t blk k.id ∧ t.mem = s.mem := by
  have hexec := exec_completionDelivery_of_local hn hheld hmsg haway hlocal hform hkind hdie
  have hans : s.answerTo (engineThread blk n) m.pid m.dest 1 = .grant := by
    have hhere : s.answerHere m.pid m.dest 1 = .grant := by
      unfold State.answerHere
      rw [hctx, hkind]
      exact if_pos hroom
    rw [State.answerTo, hhere, hturn]
    simp
  have hdel : s.deliverCompletion (engineThread blk n) m = some (0, (s.modBlock (maBlock m.dest) fun b =>
      b.modQueue (maQueue m.dest) fun q => { q with items := q.items ++ m.payload }).doneAt (engineThread blk n) m.dest) := by
    unfold State.deliverCompletion
    simp only [hkind, hans, if_true]
  rw [hdel, State.doneAt, if_pos hkind] at hexec
  generalize hu : (s.modBlock (maBlock m.dest) fun b => b.modQueue (maQueue m.dest) fun q => { q with items := q.items ++ m.payload }).leaveLine
    (maBlock m.dest) (maQueue m.dest) (engineThread blk n) = u at hexec
  obtain ⟨hdrop, hgone⟩ := u.completed_zero blk k.id
  have hitems : ((u.block (maBlock m.dest)).queue (maQueue m.dest)).items =
      ((s.block (maBlock m.dest)).queue (maQueue m.dest)).items ++ m.payload := by
    rw [← hu, State.leaveLine, State.queue_modQueue, State.queue_modQueue]
  refine ⟨_, hexec, ?_, hgone, hdrop.mem.trans ?_⟩
  · rw [hdrop.queue, hitems]
  · rw [← hu]
    rfl

theorem completionWaits (hfull : ((s.block (maBlock m.dest)).queue (maQueue m.dest)).room = 0) (hrest : rest = []) :
    ∃ t, exec (.completionDelivery blk n) s = .next t ∧ ((t.block (maBlock m.dest)).queue (maQueue m.dest)).items =
      ((s.block (maBlock m.dest)).queue (maQueue m.dest)).items ∧ t.mem = s.mem ∧ (t.block blk).jobs = (s.block blk).jobs := by
  have hexec := exec_completionDelivery_of_local hn hheld hmsg haway hlocal hform hkind hdie
  have hno : ¬ max 1 1 ≤ ((s.block (maBlock m.dest)).queue (maQueue m.dest)).room := by
    rw [hfull]
    decide
  have hans : s.answerTo (engineThread blk n) m.pid m.dest 1 = .full := by
    have hhere : s.answerHere m.pid m.dest 1 = .full := by
      unfold State.answerHere
      rw [hctx, hkind]
      exact if_neg hno
    rw [State.answerTo, hhere]
  have hdel : s.deliverCompletion (engineThread blk n) m = none := by
    unfold State.deliverCompletion
    simp only [hkind, hans]
  rw [hdel, hrest] at hexec
  have hwait : s.waitAt (engineThread blk n) m.dest = s.lineUp (maBlock m.dest) (maQueue m.dest) (engineThread blk n) := if_pos hkind
  rw [hwait] at hexec
  refine ⟨_, hexec, s.items_lineUp .., rfl, ?_⟩
  show ((s.lineUp (maBlock m.dest) (maQueue m.dest) (engineThread blk n)).block blk).jobs = (s.block blk).jobs
  rw [State.lineUp, State.block_modBlock]
  split
  · next h => rw [h]; rfl
  · rfl

end

theorem completionsReachTheirReply : Claims.CompletionsReachTheirReply := by
  intro s s1 blk id j src dst fl hjob hphase hreply hstatus hpace hmet reports
  have hid := State.id_of_job? hjob
  have hreports : ∀ i, exec i s = .next (s1.finishJob blk j 0 fl) → reports i := fun i hexec => by
    obtain ⟨hmem, k, m, hk, hspec⟩ := State.finishJob_completes hid hreply hmet fl
    exact ⟨_, k, m, hexec, hmem, hk, hspec⟩
  refine ⟨fun xs heng hsrc hdst hres hmay hwrite => ?_, fun dsy hop hsrc hdst hbad hfl hwrite => ?_, fun x hop hfl hs1 => ?_,
    fun dense red hop hdst hfl hpos => ⟨fun hout hlabels => ?_, fun h s0 hout hlabels hvalues => ?_⟩,
    fun k m rest n hn hheld hmsg haway hlocal hform hkind hdie hctx _ => ⟨?_, ?_⟩⟩
  · exact hreports _ (exec_sweepComplete_of_written hjob hphase hpace heng hsrc hdst hres hmay hwrite)
  · subst hfl
    refine hreports _ (exec_copyJobComplete_of_copied hjob hphase hop hsrc hdst hstatus hbad ?_)
    rw [syncOfDsy_eq]
    exact hwrite
  · subst hfl hs1
    exact hreports _ (exec_copyJobComplete_of_stream hjob hphase hop)
  · have hexec := exec_relabelJobComplete_of_labels hjob hphase hop hdst hstatus hpos hlabels hout
    have hmet' : ((s1.modJob blk id fun k => { k with pos := 3 }).job? blk id).any (fun k => k.haz == some true) = false := by
      rw [State.job?_modJob s1 blk id (f := fun k => { k with pos := 3 }) fun _ => rfl, Option.any_map]
      exact hmet
    obtain ⟨hmem, k, m, hk, hspec⟩ := State.finishJob_completes hid hreply hmet' fl
    rw [hfl] at hexec
    exact ⟨_, k, m, hexec, hmem, hk, hspec⟩
  · have hexec := exec_relabelJobComplete_of_values hjob hphase hop hdst hstatus hpos hlabels hout hvalues
    rw [hfl] at hexec
    exact hreports _ hexec
  · exact completionIsDelivered hn hheld hmsg haway hlocal hform hkind hdie hctx
  · exact completionWaits hn hheld hmsg haway hlocal hform hkind hdie hctx

end Sys2Proof.Machine
end

section
/-! SUPPORT. The writes of an engine as bits: units, the words they lie in, and the pieces those are written by (R285–R287, R327). -/

namespace Sys2Proof.Machine

open Sys2Proof.Claims

/-! ## Maps: which keys an update lists -/

section
variable {α : Type} {d : α}

theorem Map.get_of_not_mem : ∀ {m : Map α} {i : Nat}, i ∉ List.map Prod.fst m → Map.get d m i = d
  | [], _, _ => rfl
  | (k, v) :: m, i, h => by
    have hne : i ≠ k := fun heq => h (heq ▸ List.mem_cons_self)
    exact (if_neg hne).trans (Map.get_of_not_mem fun hin => h (List.mem_cons_of_mem _ hin))

theorem Map.mem_put {m : Map α} {i : Nat} {x : α} {e : Nat × α} (h : e ∈ Map.put m i x) : e = (i, x) ∨ e ∈ m := by
  induction m with
  | nil => exact Or.inl (List.mem_singleton.mp h)
  | cons c m ih =>
    obtain ⟨k, v⟩ := c
    unfold Map.put at h
    split at h
    · exact List.mem_cons.mp h
    · split at h
      · exact (List.mem_cons.mp h).imp_right (List.mem_cons_of_mem _)
      · rcases List.mem_cons.mp h with rfl | h
        · exact Or.inr List.mem_cons_self
        · exact (ih h).imp_right (List.mem_cons_of_mem _)

theorem Map.mem_keys_put {m : Map α} {i k : Nat} {x : α} : k ∈ List.map Prod.fst (Map.put m i x) ↔ k = i ∨ k ∈ List.map Prod.fst m := by
  refine ⟨Map.key_of_mem_put, fun h => ?_⟩
  induction m with
  | nil => simpa [Map.put] using h
  | cons c m ih =>
    obtain ⟨j, v⟩ := c
    unfold Map.put
    split
    · simpa using h
    next hlt =>
      split
      next heq =>
        simp only [List.map_cons, List.mem_cons] at h ⊢
        subst heq
        tauto
      next hne =>
        simp only [List.map_cons, List.mem_cons] at h ⊢
        rcases h with h | h | h
        · exact Or.inr (ih (Or.inl h))
        · exact Or.inl h
        · exact Or.inr (ih (Or.inr h))

end

/-! ## Units and pieces put into bits -/

/-- Bits with a unit put into them: where it begins, how many bits it has, and its value. -/
def putUnit (f : Nat → Bool) (u : Nat × Nat × Nat) : Nat → Bool := fun q =>
  if u.1 ≤ q ∧ q < u.1 + u.2.1 then u.2.2.testBit (q - u.1) else f q

/-- Of the units put into a bit the last one stands. -/
theorem foldl_putUnit (f : Nat → Bool) (us : List (Nat × Nat × Nat)) (q : Nat) : us.foldl putUnit f q =
    match us.reverse.find? fun u => decide (u.1 ≤ q ∧ q < u.1 + u.2.1) with
    | some u => u.2.2.testBit (q - u.1)
    | none => f q := by
  induction us using List.reverseRecOn with
  | nil => rfl
  | append_singleton us u ih =>
    rw [List.foldl_append, List.foldl_cons, List.foldl_nil, List.reverse_append, List.reverse_singleton, List.singleton_append, putUnit]
    by_cases hin : u.1 ≤ q ∧ q < u.1 + u.2.1
    · rw [if_pos hin, List.find?_cons_of_pos (by simpa using hin)]
    · rw [if_neg hin, List.find?_cons_of_neg (by simpa using hin), ih]

/-- A piece writes this bit. -/
def Piece.covers (p : Piece) (q : Nat) : Bool :=
  decide (8 * p.at' ≤ q ∧ q < 8 * (p.at' + p.n)) && p.mask.all fun k => k.testBit (q - 8 * p.at')
/-- Bits with a piece put into them. -/
def putPiece (f : Nat → Bool) (p : Piece) : Nat → Bool := fun q => if p.covers q then p.val.testBit (q - 8 * p.at') else f q

/-- Bits with the words of a map put into them. -/
def WordMap.over (m : WordMap) (f : Nat → Bool) : Nat → Bool := fun q =>
  if (Map.get (0, 0) m (q / 64)).1.testBit (q % 64) then (Map.get (0, 0) m (q / 64)).2.testBit (q % 64) else f q

theorem over_nil (f : Nat → Bool) : WordMap.over [] f = f := by
  funext q
  rw [WordMap.over, show Map.get (0, 0) ([] : WordMap) (q / 64) = (0, 0) from rfl, Nat.zero_testBit]
  rfl

/-- The words of a map rise, and their bits and values are those of words. -/
structure WordMap.Sound (m : WordMap) : Prop where
  rising : (List.map Prod.fst m).Pairwise (· < ·)
  bits : ∀ e ∈ m, e.2.1 < 2 ^ 64 ∧ e.2.2 < 2 ^ 64

theorem WordMap.Sound.get {m : WordMap} (h : m.Sound) (a : Nat) : (Map.get (0, 0) m a).1 < 2 ^ 64 ∧ (Map.get (0, 0) m a).2 < 2 ^ 64 := by
  by_cases hdef : Map.get (0, 0) m a = (0, 0)
  · rw [hdef]
    decide
  · exact h.bits _ (Map.mem_of_get_ne hdef)

theorem WordMap.Sound.put {m : WordMap} (h : m.Sound) (a : Nat) {x : Nat × Nat} (h1 : x.1 < 2 ^ 64) (h2 : x.2 < 2 ^ 64) :
    WordMap.Sound (Map.put m a x) where
  rising := Map.rising_put a x h.rising
  bits e he := by
    rcases Map.mem_put he with rfl | he
    · exact ⟨h1, h2⟩
    · exact h.bits e he

theorem WordMap.Sound.tail {e : Nat × (Nat × Nat)} {m : WordMap} (h : WordMap.Sound (e :: m)) : m.Sound :=
  ⟨(List.pairwise_cons.mp h.rising).2, fun c hc => h.bits c (List.mem_cons_of_mem _ hc)⟩

/-! ## A unit put into words -/

/-- The bits of one word that a unit of w bits has, as a mask. -/
def unitMask (bit w a : Nat) : Nat := 2 ^ (min (bit + w) (64 * a + 64) - 64 * a) - 2 ^ (max bit (64 * a) - 64 * a)

theorem testBit_two_pow_sub_two_pow {lo hi i : Nat} : (2 ^ hi - 2 ^ lo).testBit i = (decide (lo ≤ i) && decide (i < hi)) := by
  by_cases h : lo ≤ hi
  · obtain ⟨d, rfl⟩ := Nat.exists_eq_add_of_le h
    have heq : 2 ^ (lo + d) - 2 ^ lo = 2 ^ lo * (2 ^ d - 1) := by rw [Nat.mul_sub, Nat.pow_add, Nat.mul_one]
    rw [heq, Nat.testBit_two_pow_mul, Nat.testBit_two_pow_sub_one]
    by_cases hlo : lo ≤ i
    · simp only [hlo, decide_true, Bool.true_and, decide_eq_decide]
      omega
    · simp [hlo]
  · have heq : 2 ^ hi - 2 ^ lo = 0 := Nat.sub_eq_zero_of_le (Nat.pow_le_pow_right (by decide) (by omega))
    rw [heq, Nat.zero_testBit]
    by_cases hlo : lo ≤ i
    · simp [hlo]
      omega
    · simp [hlo]

theorem unitMask_lt (bit w a : Nat) : unitMask bit w a < 2 ^ 64 := by
  have hle : 2 ^ (min (bit + w) (64 * a + 64) - 64 * a) ≤ 2 ^ 64 := Nat.pow_le_pow_right (by decide) (by omega)
  have hpos : 0 < 2 ^ (max bit (64 * a) - 64 * a) := Nat.two_pow_pos _
  rw [unitMask]
  omega

/-- A word of a map with its part of a unit. -/
def putWord (bit w x : Nat) (m : WordMap) (i : Nat) : WordMap :=
  let a := bit / 64 + i
  Map.put m a ((Map.get (0, 0) m a).1 ||| unitMask bit w a,
    ((Map.get (0, 0) m a).2 &&& (2 ^ 64 - 1 - unitMask bit w a)) ||| (x * 2 ^ (bit % 64) / 2 ^ (64 * i) % 2 ^ 64 &&& unitMask bit w a))

theorem putBits_eq (m : WordMap) (bit w x : Nat) :
    putBits m bit w x = (List.range ((bit + w + 63) / 64 - bit / 64)).foldl (putWord bit w x) m := rfl

theorem WordMap.Sound.afterWord {m : WordMap} (h : m.Sound) (bit w x i : Nat) : WordMap.Sound (putWord bit w x m i) := by
  obtain ⟨h1, h2⟩ := h.get (bit / 64 + i)
  have hmask := unitMask_lt bit w (bit / 64 + i)
  exact h.put _ (Nat.or_lt_two_pow h1 hmask) (Nat.or_lt_two_pow (lt_of_le_of_lt Nat.and_le_left h2) (lt_of_le_of_lt Nat.and_le_right hmask))

theorem putWord_over (m : WordMap) (f : Nat → Bool) (bit w x i q : Nat) : WordMap.over (putWord bit w x m i) f q =
    if q / 64 = bit / 64 + i ∧ bit ≤ q ∧ q < bit + w then x.testBit (q - bit) else m.over f q := by
  have hj : q % 64 < 64 := Nat.mod_lt _ (by decide)
  have hmask : (unitMask bit w (q / 64)).testBit (q % 64) = (decide (bit ≤ q) && decide (q < bit + w)) := by
    rw [unitMask, testBit_two_pow_sub_two_pow]
    congr 1 <;> rw [decide_eq_decide] <;> omega
  by_cases ha : q / 64 = bit / 64 + i
  · have hget : Map.get (0, 0) (putWord bit w x m i) (q / 64) = ((Map.get (0, 0) m (q / 64)).1 ||| unitMask bit w (q / 64),
        ((Map.get (0, 0) m (q / 64)).2 &&& (2 ^ 64 - 1 - unitMask bit w (q / 64))) |||
          (x * 2 ^ (bit % 64) / 2 ^ (64 * i) % 2 ^ 64 &&& unitMask bit w (q / 64))) := by
      rw [putWord, ← ha]
      exact Map.get_put_self ..
    have hrest : (2 ^ 64 - 1 - unitMask bit w (q / 64)).testBit (q % 64) = !(unitMask bit w (q / 64)).testBit (q % 64) := by
      have := Nat.testBit_two_pow_sub_succ (unitMask_lt bit w (q / 64)) (q % 64)
      rw [Nat.sub_sub, Nat.add_comm 1, this, decide_eq_true hj, Bool.true_and]
    rw [WordMap.over, hget]
    simp only [Nat.testBit_or, Nat.testBit_and, hrest, hmask]
    by_cases hin : bit ≤ q ∧ q < bit + w
    · obtain ⟨hlo, hhi⟩ := hin
      have hx : (x * 2 ^ (bit % 64) / 2 ^ (64 * i) % 2 ^ 64).testBit (q % 64) = x.testBit (q - bit) := by
        rw [Nat.testBit_mod_two_pow, decide_eq_true hj, Bool.true_and, Nat.testBit_div_two_pow, Nat.mul_comm, Nat.testBit_two_pow_mul,
          decide_eq_true (by omega), Bool.true_and]
        congr 1
        omega
      refine Eq.trans ?_ (if_pos ⟨ha, hlo, hhi⟩).symm
      rw [hx]
      simp [hlo, hhi]
    · have hno : (decide (bit ≤ q) && decide (q < bit + w)) = false := by
        simpa using hin
      refine Eq.trans ?_ (if_neg fun h => hin h.2).symm
      rw [hno]
      simp [WordMap.over]
  · have hget : Map.get (0, 0) (putWord bit w x m i) (q / 64) = Map.get (0, 0) m (q / 64) := Map.get_put_ne _ _ _ ha
    rw [WordMap.over, hget]
    exact (if_neg fun h => ha h.1).symm

theorem putBits_over (m : WordMap) (f : Nat → Bool) (bit w x : Nat) : WordMap.over (putBits m bit w x) f = putUnit (m.over f) (bit, w, x) := by
  have hsteps : ∀ n q, WordMap.over ((List.range n).foldl (putWord bit w x) m) f q =
      if q / 64 < bit / 64 + n ∧ bit ≤ q ∧ q < bit + w then x.testBit (q - bit) else m.over f q := by
    intro n
    induction n with
    | zero =>
      intro q
      rw [if_neg (by omega)]
      rfl
    | succ n ih =>
      intro q
      rw [List.range_succ, List.foldl_append, List.foldl_cons, List.foldl_nil, putWord_over, ih]
      by_cases ha : q / 64 = bit / 64 + n
      · by_cases hin : bit ≤ q ∧ q < bit + w
        · rw [if_pos ⟨ha, hin⟩, if_pos ⟨by omega, hin⟩]
        · rw [if_neg fun h => hin h.2, if_neg fun h => hin h.2, if_neg fun h => hin h.2]
      · rw [if_neg fun h => ha h.1]
        have hiff : (q / 64 < bit / 64 + n ∧ bit ≤ q ∧ q < bit + w) ↔ (q / 64 < bit / 64 + (n + 1) ∧ bit ≤ q ∧ q < bit + w) := by omega
        simp only [hiff]
  funext q
  rw [putBits_eq, hsteps, putUnit]
  have hiff : (q / 64 < bit / 64 + ((bit + w + 63) / 64 - bit / 64) ∧ bit ≤ q ∧ q < bit + w) ↔ (bit ≤ q ∧ q < bit + w) := by omega
  simp only [hiff]

theorem WordMap.Sound.afterBits {m : WordMap} (h : m.Sound) (bit w x : Nat) : WordMap.Sound (putBits m bit w x) := by
  rw [putBits_eq]
  exact List.foldlRecOn _ (putWord bit w x) h fun m hm i _ => hm.afterWord bit w x i

/-- The words that a unit lies in, by number. -/
def unitWords (bit w : Nat) : List Nat := (List.range ((bit + w + 63) / 64 - bit / 64)).map (bit / 64 + ·)

theorem mem_keys_putBits (m : WordMap) (bit w x k : Nat) :
    k ∈ List.map Prod.fst (putBits m bit w x) ↔ k ∈ unitWords bit w ∨ k ∈ List.map Prod.fst m := by
  have hsteps : ∀ n, k ∈ List.map Prod.fst ((List.range n).foldl (putWord bit w x) m) ↔
      k ∈ (List.range n).map (bit / 64 + ·) ∨ k ∈ List.map Prod.fst m := by
    intro n
    induction n with
    | zero => simp
    | succ n ih =>
      rw [List.range_succ, List.foldl_append, List.foldl_cons, List.foldl_nil, putWord, Map.mem_keys_put, ih, List.map_append, List.mem_append]
      simp only [List.map_cons, List.map_nil, List.mem_singleton]
      tauto
  exact hsteps _

/-! ## The pieces of a word map -/

/-- The piece that writes one word of a map. -/
def wordPiece (a : Nat) (x : Nat × Nat) : Piece :=
  { at' := 8 * a, n := 8, val := x.2, mask := if x.1 = 2 ^ 64 - 1 then none else some x.1 }

theorem wordPiece_covers (a : Nat) {x : Nat × Nat} (q : Nat) : (wordPiece a x).covers q = (decide (q / 64 = a) && x.1.testBit (q % 64)) := by
  have hspan : (8 * (8 * a) ≤ q ∧ q < 8 * (8 * a + 8)) ↔ q / 64 = a := by omega
  have hj : q % 64 < 64 := Nat.mod_lt _ (by decide)
  unfold Piece.covers wordPiece
  simp only [hspan]
  by_cases ha : q / 64 = a
  · have hoff : q - 8 * (8 * a) = q % 64 := by omega
    by_cases hfull : x.1 = 2 ^ 64 - 1
    · rw [if_pos hfull, hfull, Nat.testBit_two_pow_sub_one, decide_eq_true hj]
      rfl
    · rw [if_neg hfull, Option.all_some, hoff]
  · rw [decide_eq_false ha, Bool.false_and, Bool.false_and]

/-- The first word of a map may be put first. -/
theorem over_cons {a : Nat} {x : Nat × Nat} {es : WordMap} (h : WordMap.Sound ((a, x) :: es)) (f : Nat → Bool) :
    WordMap.over ((a, x) :: es) f = WordMap.over es (putPiece f (wordPiece a x)) := by
  funext q
  have hne : a ∉ List.map Prod.fst es := fun hin => Nat.lt_irrefl a ((List.pairwise_cons.mp h.rising).1 a hin)
  by_cases ha : q / 64 = a
  · have hget : Map.get (0, 0) ((a, x) :: es) (q / 64) = x := if_pos ha
    have hrest : Map.get (0, 0) es (q / 64) = (0, 0) := Map.get_of_not_mem (by rw [ha]; exact hne)
    have hoff : q - 8 * (8 * a) = q % 64 := by omega
    rw [WordMap.over, hget, WordMap.over, hrest, putPiece, wordPiece_covers, decide_eq_true ha, Bool.true_and, Nat.zero_testBit]
    exact congrArg (fun n => if x.1.testBit (q % 64) = true then x.2.testBit n else f q) hoff.symm
  · have hget : Map.get (0, 0) ((a, x) :: es) (q / 64) = Map.get (0, 0) es (q / 64) := if_neg ha
    have hout : putPiece f (wordPiece a x) q = f q := by
      rw [putPiece, wordPiece_covers, decide_eq_false ha, Bool.false_and]
      rfl
    rw [WordMap.over, hget, WordMap.over, hout]

/-- The value of the first words of a map, written whole. -/
def runValue (es : WordMap) : Nat := List.foldr (fun (e : Nat × (Nat × Nat)) x => e.2.2 + 2 ^ 64 * x) 0 es

/-- A run of whole words may be put by one piece. -/
theorem over_run : ∀ (n a : Nat) (m : WordMap) (f : Nat → Bool), m.Sound → wholeRun a n m = true →
    m.over f = WordMap.over (List.drop n m) (putPiece f { at' := 8 * a, n := 8 * n, val := runValue (List.take n m) })
  | 0, a, m, f, _, _ => by
    have hnone : putPiece f { at' := 8 * a, n := 8 * 0, val := runValue (List.take 0 m) } = f := by
      funext q
      have hout : ¬ (8 * (8 * a) ≤ q ∧ q < 8 * (8 * a + 8 * 0)) := by omega
      unfold putPiece Piece.covers
      rw [decide_eq_false hout]
      rfl
    rw [hnone]
    rfl
  | n + 1, a, [], f, _, hrun => by cases hrun
  | n + 1, a, (k, x) :: es, f, h, hrun => by
    simp only [wholeRun, Bool.and_eq_true, beq_iff_eq] at hrun
    obtain ⟨⟨rfl, hfull⟩, hrun⟩ := hrun
    obtain ⟨-, hx⟩ := h.bits _ List.mem_cons_self
    have hput : putPiece (putPiece f (wordPiece k x)) { at' := 8 * (k + 1), n := 8 * n, val := runValue (List.take n es) } =
        putPiece f { at' := 8 * k, n := 8 * (n + 1), val := runValue (List.take (n + 1) ((k, x) :: es)) } := by
      funext q
      have hval : (runValue (List.take (n + 1) ((k, x) :: es))).testBit (q - 8 * (8 * k)) =
          if q - 8 * (8 * k) < 64 then x.2.testBit (q - 8 * (8 * k)) else (runValue (List.take n es)).testBit (q - 8 * (8 * k) - 64) := by
        rw [← Nat.testBit_two_pow_mul_add _ hx, Nat.add_comm (2 ^ 64 * _)]
        rfl
      unfold putPiece
      rw [wordPiece_covers, hfull, Nat.testBit_two_pow_sub_one, hval]
      simp only [Piece.covers, Option.all_none, Bool.and_true, decide_eq_true_eq, Bool.and_eq_true]
      by_cases htail : 8 * (8 * (k + 1)) ≤ q ∧ q < 8 * (8 * (k + 1) + 8 * n)
      · rw [if_pos htail, if_pos (by omega), if_neg (by omega)]
        exact congrArg (runValue (List.take n es)).testBit (by omega)
      · rw [if_neg htail]
        by_cases hhead : q / 64 = k
        · rw [if_pos ⟨hhead, Nat.mod_lt _ (by decide)⟩, if_pos (by omega), if_pos (by omega)]
          rfl
        · rw [if_neg fun h => hhead h.1, if_neg (by omega)]
    have hih := over_run n (k + 1) es (putPiece f (wordPiece k x)) h.tail hrun
    rw [over_cons h, hih, hput]
    rfl

theorem WordMap.Sound.drop {m : WordMap} (h : m.Sound) (n : Nat) : WordMap.Sound (List.drop n m) :=
  ⟨h.rising.sublist ((List.drop_sublist n m).map Prod.fst), fun e he => h.bits e (List.mem_of_mem_drop he)⟩

/-- The pieces of a word map put its words. -/
theorem foldl_pieces : ∀ (fuel : Nat) (m : WordMap) (f : Nat → Bool), List.length m ≤ fuel → m.Sound →
    (pieces fuel m).foldl putPiece f = m.over f
  | 0, m, f, hlen, _ => by
    obtain rfl := List.length_eq_zero_iff.mp (Nat.le_zero.mp hlen)
    rw [pieces, over_nil]
    rfl
  | fuel + 1, [], f, _, _ => by
    rw [pieces, over_nil]
    rfl
  | fuel + 1, (a, x) :: es, f, hlen, h => by
    have hes : List.length es ≤ fuel := Nat.le_of_succ_le_succ hlen
    unfold pieces
    split
    next hline =>
      have hrest : List.length (List.drop 16 ((a, x) :: es)) ≤ fuel := by
        rw [List.length_drop, List.length_cons]
        omega
      rw [List.foldl_cons, foldl_pieces fuel _ _ hrest (h.drop 16)]
      exact (over_run 16 a ((a, x) :: es) f h hline.2).symm
    next =>
      rw [List.foldl_cons, foldl_pieces fuel es _ hes h.tail]
      exact (over_cons h f).symm

/-- A piece as an engine writes it: a word, or a line written whole; of words of the list. -/
structure Piece.Fits (p : Piece) (ks : List Nat) : Prop where
  word : p.at' % 8 = 0
  size : (p.n = 8 ∧ ∀ k, p.mask = some k → k < 2 ^ 64) ∨ (p.n = 128 ∧ p.at' % 128 = 0 ∧ p.mask = none)
  words : ∀ w ∈ wordsOf p.at' p.n, w ∈ ks

theorem mem_wordsOf {a n w : Nat} (hn : 8 ≤ n) : w ∈ wordsOf a n ↔ a / 8 ≤ w ∧ w < a / 8 + n / 8 := by
  rw [wordsOf, if_neg (by omega), List.mem_map]
  constructor
  · rintro ⟨i, hi, rfl⟩
    have := List.mem_range.mp hi
    omega
  · rintro ⟨hlo, hhi⟩
    exact ⟨w - a / 8, List.mem_range.mpr (by omega), by omega⟩

/-- The words of a run are keys of the map. -/
theorem keys_of_wholeRun : ∀ (n a : Nat) (m : WordMap), wholeRun a n m = true →
    List.map Prod.fst (List.take n m) = (List.range n).map (a + ·)
  | 0, _, _, _ => rfl
  | n + 1, _, [], hrun => by cases hrun
  | n + 1, a, (k, x) :: es, hrun => by
    simp only [wholeRun, Bool.and_eq_true, beq_iff_eq] at hrun
    obtain ⟨⟨rfl, -⟩, hrun⟩ := hrun
    rw [List.take_succ_cons, List.map_cons, keys_of_wholeRun n (k + 1) es hrun, List.range_succ_eq_map, List.map_cons, List.map_map]
    refine congrArg (k :: ·) (List.map_congr_left fun i _ => ?_)
    simp only [Function.comp]
    omega

/-- The pieces of a word map: each fits, they begin at rising words of the map, and together they have all of its words. -/
structure PiecesOf (ps : List Piece) (ks : List Nat) : Prop where
  fits : ∀ p ∈ ps, p.Fits ks
  apart : ps.Pairwise fun p q => p.at' ≠ q.at'
  all : ∀ k ∈ ks, ∃ p ∈ ps, k ∈ wordsOf p.at' p.n

theorem PiecesOf.none : PiecesOf [] [] := ⟨List.forall_mem_nil _, List.Pairwise.nil, List.forall_mem_nil _⟩

theorem Piece.Fits.mono {p : Piece} {ks ls : List Nat} (h : p.Fits ks) (hsub : ∀ k ∈ ks, k ∈ ls) : p.Fits ls :=
  ⟨h.word, h.size, fun w hw => hsub w (h.words w hw)⟩

theorem Piece.Fits.first {p : Piece} {ks : List Nat} (h : p.Fits ks) : p.at' / 8 ∈ ks := by
  refine h.words _ ?_
  rcases h.size with ⟨hn, -⟩ | ⟨hn, -⟩ <;> rw [hn, mem_wordsOf (by decide)] <;> omega

theorem pieces_spec : ∀ (fuel : Nat) (m : WordMap), List.length m ≤ fuel → m.Sound → PiecesOf (pieces fuel m) (List.map Prod.fst m)
  | 0, m, hlen, _ => by
    obtain rfl := List.length_eq_zero_iff.mp (Nat.le_zero.mp hlen)
    rw [pieces]
    exact PiecesOf.none
  | fuel + 1, [], _, _ => by
    rw [pieces]
    exact PiecesOf.none
  | fuel + 1, (a, x) :: es, hlen, h => by
    have hes : List.length es ≤ fuel := Nat.le_of_succ_le_succ hlen
    obtain ⟨hx, -⟩ := h.bits _ List.mem_cons_self
    obtain ⟨hafter, -⟩ := List.pairwise_cons.mp h.rising
    have hcons : ∀ (p : Piece) (n : Nat), p.at' = 8 * a → p.Fits (List.map Prod.fst ((a, x) :: es)) →
        (∀ k ∈ List.map Prod.fst (List.take (n + 1) ((a, x) :: es)), k ∈ wordsOf p.at' p.n) →
        PiecesOf (pieces fuel (List.drop n es)) (List.map Prod.fst (List.drop n es)) →
        PiecesOf (p :: pieces fuel (List.drop n es)) (List.map Prod.fst ((a, x) :: es)) := by
      intro p n hat hfit hwords ih
      have hsub : ∀ k ∈ List.map Prod.fst (List.drop n es), k ∈ List.map Prod.fst es := fun k hk =>
        ((List.drop_sublist n es).map Prod.fst).subset hk
      refine ⟨fun q hq => ?_, List.pairwise_cons.mpr ⟨fun q hq heq => ?_, ih.apart⟩, fun k hk => ?_⟩
      · rcases List.mem_cons.mp hq with rfl | hq
        · exact hfit
        · exact (ih.fits q hq).mono fun k hk => List.mem_cons_of_mem _ (hsub k hk)
      · have hlt := hafter _ (hsub _ (ih.fits q hq).first)
        simp only at hlt
        omega
      · rw [← List.take_append_drop (n + 1) ((a, x) :: es), List.map_append, List.mem_append] at hk
        rcases hk with hk | hk
        · exact ⟨p, List.mem_cons_self, hwords k hk⟩
        · obtain ⟨q, hq, hin⟩ := ih.all k hk
          exact ⟨q, List.mem_cons_of_mem _ hq, hin⟩
    unfold pieces
    split
    next hline =>
      obtain ⟨halign, hrun⟩ := hline
      have hkeys := keys_of_wholeRun 16 a _ hrun
      have hrest : List.length (List.drop 15 es) ≤ fuel := by
        rw [List.length_drop]
        omega
      have hmem : ∀ w, w ∈ wordsOf (8 * a) 128 ↔ w ∈ List.map Prod.fst (List.take 16 ((a, x) :: es)) := fun w => by
        rw [hkeys, wordsOf, if_neg (by decide), Nat.mul_div_cancel_left a (by decide)]
      refine hcons _ 15 rfl ⟨Nat.mul_mod_right 8 a, Or.inr ⟨rfl, show 8 * a % 128 = 0 by omega, rfl⟩, fun w hw => ?_⟩ (fun k hk => (hmem k).mpr hk)
        (pieces_spec fuel _ hrest (h.drop 16))
      exact ((List.take_sublist 16 ((a, x) :: es)).map Prod.fst).subset ((hmem w).mp hw)
    next =>
      have hone : ∀ w, w ∈ wordsOf (8 * a) 8 ↔ w = a := fun w => by
        rw [mem_wordsOf (by decide)]
        omega
      refine hcons _ 0 rfl ⟨Nat.mul_mod_right 8 a, Or.inl ⟨rfl, fun k hk => ?_⟩, fun w hw => ?_⟩ (fun k hk => ?_) (pieces_spec fuel es hes h.tail)
      · split at hk
        · cases hk
        · cases hk
          exact hx
      · exact (hone w).mp hw ▸ List.mem_cons_self
      · exact (hone k).mpr (List.mem_singleton.mp hk)

end Sys2Proof.Machine
end

section
/-! SUPPORT. The pieces of a shape's units: what they put, which words they have, and what tells them apart (R285–R287, R322, R327). -/

namespace Sys2Proof.Machine

open Sys2Proof.Claims

/-! ## The words of some units -/

theorem unitsOf_cons (h : Shape) (p : Int × Nat) (ps : List (Int × Nat)) :
    unitsOf h (p :: ps) = (h.flatBit p.1, h.unitBits, p.2) :: unitsOf h ps := rfl

/-- The words that some units lie in, by number. -/
def Shape.wordsOfUnits (h : Shape) (bs : List Int) : List Nat := bs.flatMap fun b => unitWords (h.flatBit b) h.unitBits

/-- One unit after another put into words. -/
def Shape.putUnitsInto (h : Shape) (m : WordMap) (ps : List (Int × Nat)) : WordMap :=
  ps.foldl (fun m (p : Int × Nat) => putBits m (h.flatBit p.1) h.unitBits p.2) m

theorem Shape.putUnits_eq (h : Shape) (ps : List (Int × Nat)) : h.putUnits ps = h.putUnitsInto [] ps := rfl

theorem WordMap.Sound.afterUnits (h : Shape) {m : WordMap} (hm : m.Sound) (ps : List (Int × Nat)) : WordMap.Sound (h.putUnitsInto m ps) :=
  List.foldlRecOn ps (fun m (p : Int × Nat) => putBits m (h.flatBit p.1) h.unitBits p.2) hm fun _ hm p _ => hm.afterBits _ _ p.2

theorem WordMap.Sound.empty : WordMap.Sound [] := ⟨List.Pairwise.nil, List.forall_mem_nil _⟩

theorem Shape.putUnitsInto_over (h : Shape) (f : Nat → Bool) (ps : List (Int × Nat)) (m : WordMap) :
    WordMap.over (h.putUnitsInto m ps) f = (unitsOf h ps).foldl putUnit (m.over f) := by
  induction ps generalizing m with
  | nil => rfl
  | cons p ps ih =>
    rw [Shape.putUnitsInto, List.foldl_cons, ← Shape.putUnitsInto, ih, putBits_over, unitsOf_cons, List.foldl_cons]

theorem Shape.mem_keys_putUnitsInto (h : Shape) (ps : List (Int × Nat)) (m : WordMap) (k : Nat) :
    k ∈ List.map Prod.fst (h.putUnitsInto m ps) ↔ k ∈ h.wordsOfUnits (ps.map Prod.fst) ∨ k ∈ List.map Prod.fst m := by
  induction ps generalizing m with
  | nil => simp [Shape.putUnitsInto, Shape.wordsOfUnits]
  | cons p ps ih =>
    rw [Shape.putUnitsInto, List.foldl_cons, ← Shape.putUnitsInto, ih, mem_keys_putBits, Shape.wordsOfUnits, Shape.wordsOfUnits, List.map_cons,
      List.flatMap_cons, List.mem_append]
    tauto

/-! ## Units written together -/

/-- The pieces of units that are written together. -/
def Shape.together (h : Shape) (ps : List (Int × Nat)) : List Piece := Machine.pieces (h.putUnits ps).length (h.putUnits ps)

theorem Shape.pieces_eq (h : Shape) (sync : Sync) (ps : List (Int × Nat)) : h.pieces sync ps =
    if sync ≠ .plain ∧ h.unitBits < 64 then (lastUnits ps).flatMap fun p => h.together [p] else h.together ps := rfl

theorem Shape.foldl_together (h : Shape) (ps : List (Int × Nat)) (f : Nat → Bool) :
    (h.together ps).foldl putPiece f = (unitsOf h ps).foldl putUnit f := by
  rw [Shape.together, Shape.putUnits_eq, foldl_pieces _ _ f le_rfl (WordMap.Sound.empty.afterUnits h ps), Shape.putUnitsInto_over, over_nil]

theorem PiecesOf.congr {ps : List Piece} {ks ls : List Nat} (h : PiecesOf ps ks) (hiff : ∀ k, k ∈ ks ↔ k ∈ ls) : PiecesOf ps ls :=
  ⟨fun p hp => (h.fits p hp).mono fun k hk => (hiff k).mp hk, h.apart, fun k hk => h.all k ((hiff k).mpr hk)⟩

theorem Shape.piecesOf_together (h : Shape) (ps : List (Int × Nat)) : PiecesOf (h.together ps) (h.wordsOfUnits (ps.map Prod.fst)) := by
  refine (pieces_spec _ _ le_rfl (WordMap.Sound.empty.afterUnits h ps)).congr fun k => ?_
  rw [Shape.mem_keys_putUnitsInto]
  simp

/-! ## Units written each by itself -/

/-- What was there before does not matter to a bit that some unit has. -/
theorem foldl_putUnit_congr (us : List (Nat × Nat × Nat)) (f g : Nat → Bool) (q : Nat)
    (h : f q = g q ∨ ∃ u ∈ us, u.1 ≤ q ∧ q < u.1 + u.2.1) : us.foldl putUnit f q = us.foldl putUnit g q := by
  rw [foldl_putUnit, foldl_putUnit]
  rcases h with h | ⟨u, hu, hq⟩
  · rw [h]
  · cases hfind : us.reverse.find? fun u => decide (u.1 ≤ q ∧ q < u.1 + u.2.1) with
    | some v => rfl
    | none =>
      have := List.find?_eq_none.mp hfind u (List.mem_reverse.mpr hu)
      exact absurd (decide_eq_true hq) this

theorem mem_of_mem_lastUnits {ps : List (Int × Nat)} {p : Int × Nat} (h : p ∈ lastUnits ps) : p ∈ ps := by
  induction ps with
  | nil => exact h
  | cons q ps ih =>
    unfold lastUnits at h
    split at h
    · exact List.mem_cons_of_mem _ (ih h)
    · rcases List.mem_cons.mp h with rfl | h
      · exact List.mem_cons_self
      · exact List.mem_cons_of_mem _ (ih h)

theorem lastUnits_apart (ps : List (Int × Nat)) : (lastUnits ps).Pairwise fun p q => p.1 ≠ q.1 := by
  induction ps with
  | nil => exact List.Pairwise.nil
  | cons p ps ih =>
    unfold lastUnits
    split
    next => exact ih
    next hnone =>
      refine List.pairwise_cons.mpr ⟨fun q hq heq => hnone ?_, ih⟩
      exact List.any_eq_true.mpr ⟨q, mem_of_mem_lastUnits hq, by simpa using heq.symm⟩

theorem exists_lastUnits {ps : List (Int × Nat)} {p : Int × Nat} (h : p ∈ ps) : ∃ q ∈ lastUnits ps, q.1 = p.1 := by
  induction ps generalizing p with
  | nil => cases h
  | cons r ps ih =>
    unfold lastUnits
    split
    next hany =>
      rcases List.mem_cons.mp h with rfl | h
      · obtain ⟨q, hq, heq⟩ := List.any_eq_true.mp hany
        obtain ⟨u, hu, hat⟩ := ih hq
        exact ⟨u, hu, hat.trans (beq_iff_eq.mp heq)⟩
      · exact ih h
    next =>
      rcases List.mem_cons.mp h with rfl | h
      · exact ⟨p, List.mem_cons_self, rfl⟩
      · obtain ⟨q, hq, heq⟩ := ih h
        exact ⟨q, List.mem_cons_of_mem _ hq, heq⟩

theorem foldl_lastUnits (h : Shape) (ps : List (Int × Nat)) (f : Nat → Bool) :
    (unitsOf h (lastUnits ps)).foldl putUnit f = (unitsOf h ps).foldl putUnit f := by
  induction ps generalizing f with
  | nil => rfl
  | cons p ps ih =>
    unfold lastUnits
    split
    next hany =>
      obtain ⟨r, hr, heq⟩ := List.any_eq_true.mp hany
      rw [ih, unitsOf_cons, List.foldl_cons]
      funext q
      refine foldl_putUnit_congr _ _ _ q ?_
      by_cases hin : h.flatBit p.1 ≤ q ∧ q < h.flatBit p.1 + h.unitBits
      · refine Or.inr ⟨(h.flatBit r.1, h.unitBits, r.2), List.mem_map_of_mem hr, ?_⟩
        rwa [beq_iff_eq.mp heq]
      · exact Or.inl (if_neg hin).symm
    next => rw [unitsOf_cons, unitsOf_cons, List.foldl_cons, List.foldl_cons, ih]

/-! ## What tells the pieces of a job's write apart -/

theorem testBit_unitMask {bit w a i : Nat} (hi : i < 64) : (unitMask bit w a).testBit i = decide (bit ≤ 64 * a + i ∧ 64 * a + i < bit + w) := by
  rw [unitMask, testBit_two_pow_sub_two_pow, ← Bool.decide_and, decide_eq_decide]
  omega

theorem mem_unitWords {bit w a : Nat} : a ∈ unitWords bit w ↔ bit / 64 ≤ a ∧ a < (bit + w + 63) / 64 := by
  rw [unitWords, List.mem_map]
  constructor
  · rintro ⟨i, hi, rfl⟩
    have := List.mem_range.mp hi
    omega
  · rintro ⟨hlo, hhi⟩
    exact ⟨a - bit / 64, List.mem_range.mpr (by omega), by omega⟩

/-- Of less than a word, no word is written whole. -/
theorem unitMask_ne_whole {bit w a : Nat} (hw : w < 64) : unitMask bit w a ≠ 2 ^ 64 - 1 := by
  intro h
  have hbit : ∀ i, i < 64 → bit ≤ 64 * a + i ∧ 64 * a + i < bit + w := fun i hi => by
    have := testBit_unitMask (bit := bit) (w := w) (a := a) hi
    rw [h, Nat.testBit_two_pow_sub_one, decide_eq_true hi] at this
    exact of_decide_eq_true this.symm
  have h0 := hbit 0 (by decide)
  have h63 := hbit 63 (by decide)
  omega

/-- Of two units with one mask in a word neither begins before the other. -/
theorem not_lt_of_unitMask {bit bit' w a : Nat} (hw : w < 64) (ha : a ∈ unitWords bit w) (hpos : 0 < w)
    (h : unitMask bit w a = unitMask bit' w a) : ¬ bit < bit' := by
  intro hlt
  obtain ⟨hlo, hhi⟩ := mem_unitWords.mp ha
  have hiff : ∀ i, i < 64 → ((bit ≤ 64 * a + i ∧ 64 * a + i < bit + w) ↔ (bit' ≤ 64 * a + i ∧ 64 * a + i < bit' + w)) := fun i hi => by
    rw [← decide_eq_decide, ← testBit_unitMask hi, ← testBit_unitMask hi, h]
  by_cases hin : 64 * a ≤ bit
  · have hfirst := ((hiff (bit - 64 * a) (by omega)).mp ⟨by omega, by omega⟩).1
    omega
  · have hfirst := ((hiff 0 (by omega)).mp ⟨by omega, by omega⟩).1
    have hlast := ((hiff (bit + w - 64 * a) (by omega)).mpr ⟨by omega, by omega⟩).2
    omega

/-- Where a unit of less than a word begins, its mask in any of its words tells. -/
theorem bit_of_unitMask {bit bit' w a : Nat} (hw : w < 64) (ha : a ∈ unitWords bit w) (ha' : a ∈ unitWords bit' w) (hpos : 0 < w)
    (h : unitMask bit w a = unitMask bit' w a) : bit = bit' :=
  Nat.le_antisymm (Nat.not_lt.mp (not_lt_of_unitMask hw ha' hpos h.symm)) (Nat.not_lt.mp (not_lt_of_unitMask hw ha hpos h))

/-- The words of one unit have their part of it. -/
theorem mask_of_mem_putBits {bit w x : Nat} {e : Nat × (Nat × Nat)} (h : e ∈ putBits [] bit w x) : e.2.1 = unitMask bit w e.1 := by
  rw [putBits_eq] at h
  refine List.foldlRecOn (motive := fun m : WordMap => ∀ e ∈ m, e.2.1 = unitMask bit w e.1) _ (putWord bit w x) (List.forall_mem_nil _)
    (fun m hm i _ e he => ?_) e h
  rcases Map.mem_put he with rfl | he
  · by_cases hdef : Map.get (0, 0) m (bit / 64 + i) = (0, 0)
    · simp [hdef]
    · have := hm _ (Map.mem_of_get_ne hdef)
      simp only at this ⊢
      rw [this, Nat.or_self]
  · exact hm e he

/-- A piece is a word of the map, or begins a run of whole ones. -/
theorem mem_pieces : ∀ {fuel : Nat} {m : WordMap} {p : Piece}, p ∈ pieces fuel m → ∃ e ∈ m, p = wordPiece e.1 e.2 ∨ e.2.1 = 2 ^ 64 - 1
  | 0, m, p, h => by
    rw [pieces] at h
    cases h
  | fuel + 1, [], p, h => by
    rw [pieces] at h
    cases h
  | fuel + 1, (a, x) :: es, p, h => by
    unfold pieces at h
    split at h
    next hline =>
      rcases List.mem_cons.mp h with rfl | h
      · have hrun := hline.2
        simp only [wholeRun, Bool.and_eq_true, beq_iff_eq] at hrun
        exact ⟨_, List.mem_cons_self, Or.inr hrun.1.2⟩
      · obtain ⟨e, he, hp⟩ := mem_pieces h
        exact ⟨e, List.mem_of_mem_drop he, hp⟩
    next =>
      rcases List.mem_cons.mp h with rfl | h
      · exact ⟨_, List.mem_cons_self, Or.inl rfl⟩
      · obtain ⟨e, he, hp⟩ := mem_pieces h
        exact ⟨e, List.mem_cons_of_mem _ he, hp⟩

/-- A piece of one unit of less than a word has the unit's part of its word. -/
theorem Shape.mem_together_one {h : Shape} {p : Int × Nat} {x : Piece} (hw : h.unitBits < 64) (hx : x ∈ h.together [p]) :
    ∃ a, x.at' = 8 * a ∧ a ∈ unitWords (h.flatBit p.1) h.unitBits ∧ x.mask = some (unitMask (h.flatBit p.1) h.unitBits a) := by
  obtain ⟨e, he, hor⟩ := mem_pieces hx
  have hmask : e.2.1 = unitMask (h.flatBit p.1) h.unitBits e.1 := mask_of_mem_putBits he
  have hkey : e.1 ∈ unitWords (h.flatBit p.1) h.unitBits := by
    have := (mem_keys_putBits [] (h.flatBit p.1) h.unitBits p.2 e.1).mp (List.mem_map_of_mem he)
    simpa using this
  have hnot : e.2.1 ≠ 2 ^ 64 - 1 := hmask ▸ unitMask_ne_whole hw
  obtain rfl : x = wordPiece e.1 e.2 := hor.resolve_right hnot
  exact ⟨e.1, rfl, hkey, (if_neg hnot).trans (congrArg some hmask)⟩

/-- What an engine writes: pieces that fit words, differ in their addresses or in their masks, and put some units. -/
structure PutsUnits (ps : List Piece) (ks : List Nat) (us : List (Nat × Nat × Nat)) : Prop where
  fits : ∀ p ∈ ps, p.Fits ks
  apart : ps.Pairwise fun p q => p.at' ≠ q.at' ∨ p.mask.getD 0 ≠ q.mask.getD 0
  all : ∀ k ∈ ks, ∃ p ∈ ps, k ∈ wordsOf p.at' p.n
  put : ∀ f, ps.foldl putPiece f = us.foldl putUnit f

theorem Shape.putsUnits_together (h : Shape) (ps : List (Int × Nat)) : PutsUnits (h.together ps) (h.wordsOfUnits (ps.map Prod.fst)) (unitsOf h ps) :=
  have hp := h.piecesOf_together ps
  ⟨hp.fits, hp.apart.imp Or.inl, hp.all, h.foldl_together ps⟩

theorem Shape.mem_wordsOfUnits {h : Shape} {bs : List Int} {k : Nat} :
    k ∈ h.wordsOfUnits bs ↔ ∃ b ∈ bs, k ∈ unitWords (h.flatBit b) h.unitBits := List.mem_flatMap

theorem Shape.foldl_apart (h : Shape) (ps : List (Int × Nat)) (f : Nat → Bool) :
    (ps.flatMap fun p => h.together [p]).foldl putPiece f = (unitsOf h ps).foldl putUnit f := by
  induction ps generalizing f with
  | nil => rfl
  | cons p ps ih => rw [List.flatMap_cons, List.foldl_append, h.foldl_together, ih, unitsOf_cons, List.foldl_cons]; rfl

theorem Shape.putsUnits_apart (h : Shape) {ps : List (Int × Nat)} (hw : h.unitBits < 64) (hpos : ps ≠ [] → 0 < h.unitBits)
    (hinj : ∀ p ∈ ps, ∀ q ∈ ps, h.flatBit p.1 = h.flatBit q.1 → p.1 = q.1) :
    PutsUnits ((lastUnits ps).flatMap fun p => h.together [p]) (h.wordsOfUnits (ps.map Prod.fst)) (unitsOf h ps) := by
  refine ⟨fun x hx => ?_, List.pairwise_flatMap.mpr ⟨fun p hp => ?_, ?_⟩, fun k hk => ?_, fun f => ?_⟩
  · obtain ⟨p, hp, hx⟩ := List.mem_flatMap.mp hx
    refine ((h.piecesOf_together [p]).fits x hx).mono fun k hk => ?_
    obtain ⟨b, hb, hk⟩ := mem_wordsOfUnits.mp hk
    exact mem_wordsOfUnits.mpr ⟨b, List.mem_singleton.mp hb ▸ List.mem_map_of_mem (mem_of_mem_lastUnits hp), hk⟩
  · exact (h.piecesOf_together [p]).apart.imp Or.inl
  · refine (lastUnits_apart ps).imp_of_mem fun {p q} hp hq hne x hx y hy => ?_
    obtain ⟨a, hxat, ha, hxm⟩ := mem_together_one hw hx
    obtain ⟨b, hyat, hb, hym⟩ := mem_together_one hw hy
    by_contra hsame
    push Not at hsame
    obtain ⟨hat, hmask⟩ := hsame
    obtain rfl : a = b := by omega
    rw [hxm, hym, Option.getD_some, Option.getD_some] at hmask
    have hp := mem_of_mem_lastUnits hp
    exact hne (hinj p hp q (mem_of_mem_lastUnits hq) (bit_of_unitMask hw ha hb (hpos (List.ne_nil_of_mem hp)) hmask))
  · obtain ⟨b, hb, hk⟩ := mem_wordsOfUnits.mp hk
    obtain ⟨p, hp, rfl⟩ := List.mem_map.mp hb
    obtain ⟨q, hq, heq⟩ := exists_lastUnits hp
    obtain ⟨x, hx, hin⟩ := (h.piecesOf_together [q]).all k (mem_wordsOfUnits.mpr ⟨q.1, List.mem_singleton_self _, heq ▸ hk⟩)
    exact ⟨x, List.mem_flatMap.mpr ⟨q, hq, hx⟩, hin⟩
  · rw [h.foldl_apart, foldl_lastUnits]

/-- The pieces of a shape's units, under a tag action or none. -/
theorem Shape.putsUnits_pieces (h : Shape) (sync : Sync) {ps : List (Int × Nat)} (hpos : ps ≠ [] → 0 < h.unitBits)
    (hinj : sync ≠ .plain → ∀ p ∈ ps, ∀ q ∈ ps, h.flatBit p.1 = h.flatBit q.1 → p.1 = q.1) :
    PutsUnits (h.pieces sync ps) (h.wordsOfUnits (ps.map Prod.fst)) (unitsOf h ps) := by
  rw [Shape.pieces_eq]
  split
  next hsub => exact h.putsUnits_apart hsub.2 hpos (hinj hsub.1)
  next => exact h.putsUnits_together ps

/-! ## Units and words of a shape -/

theorem Shape.unitBits_pos {h : Shape} (hne : h.units ≠ []) : 0 < h.unitBits := by
  unfold Shape.unitBits
  split
  next hbfp =>
    have hsize : h.size 0 ≠ 0 := fun hsize => hne (if_pos ⟨hbfp, hsize⟩)
    unfold bfpRowBytes
    omega
  next =>
    unfold Shape.width
    split
    · decide
    · exact (fmtBits_pos _).trans_le (fmtBits_le_fmtSlot _)

theorem flatByte_injective {blk sp a b : Nat} (hsp : sp ≤ 6) (h : flatByte blk sp a = flatByte blk sp b) : a = b := by
  unfold flatByte bufBase at h
  split at h
  · omega
  · omega

/-- Units of a buffer at different addresses begin at different bits of memory. -/
theorem Shape.flatBit_injective {h : Shape} (hsp : h.sp ≤ 6) {a b : Int} (ha : 0 ≤ a) (hb : 0 ≤ b) (heq : h.flatBit a = h.flatBit b) : a = b := by
  have hmod : ∀ x : Int, (x % 8).toNat < 8 := fun x => by omega
  unfold Shape.flatBit at heq
  have hflat : h.flat (a / 8) = h.flat (b / 8) := by
    have := hmod a
    have := hmod b
    omega
  have hrest : (a % 8).toNat = (b % 8).toNat := by omega
  unfold Shape.flat at hflat
  rw [if_neg (by omega), if_neg (by omega)] at hflat
  have := flatByte_injective hsp hflat
  omega

theorem mem_firsts : ∀ {seen xs : List Nat} {x : Nat}, x ∈ firsts seen xs ↔ x ∈ seen ∨ x ∈ xs
  | seen, [], x => by simp [firsts]
  | seen, y :: xs, x => by
    rw [firsts, mem_firsts, List.mem_cons]
    split
    next hin =>
      have : y ∈ seen := by simpa using hin
      constructor
      · rintro (h | h)
        · exact Or.inl h
        · exact Or.inr (Or.inr h)
      · rintro (h | rfl | h)
        · exact Or.inl h
        · exact Or.inl this
        · exact Or.inr h
    next =>
      rw [List.mem_cons]
      tauto

theorem bitWords_eq (bit w : Nat) : bitWords bit w = (unitWords bit w).map (· * 8) := by
  rw [bitWords, unitWords, List.map_map]
  rfl

/-- The exponents of a row lie in its words. -/
theorem expBits_le_unitBits {h : Shape} (hbfp : h.bfp = true) : expBits (h.size 0) ≤ h.unitBits := by
  unfold expBits Shape.unitBits bfpRowBytes
  rw [if_pos hbfp]
  omega

/-- The words of a shape are those of its units. -/
theorem Shape.mem_words {h : Shape} {w : Nat} : w ∈ h.words ↔ ∃ k ∈ h.wordsOfUnits h.units, w = 8 * k := by
  have hunit : ∀ n, (w ∈ h.units.flatMap fun b => bitWords (h.flatBit b) n) ↔ ∃ b ∈ h.units, ∃ k ∈ unitWords (h.flatBit b) n, w = 8 * k := by
    intro n
    simp only [List.mem_flatMap, bitWords_eq, List.mem_map, Nat.mul_comm, eq_comm]
  have hall : (∃ k ∈ h.wordsOfUnits h.units, w = 8 * k) ↔ ∃ b ∈ h.units, ∃ k ∈ unitWords (h.flatBit b) h.unitBits, w = 8 * k := by
    simp only [mem_wordsOfUnits]
    constructor
    · rintro ⟨k, ⟨b, hb, hk⟩, rfl⟩
      exact ⟨b, hb, k, hk, rfl⟩
    · rintro ⟨b, hb, k, hk, rfl⟩
      exact ⟨k, ⟨b, hb, hk⟩, rfl⟩
  rw [Shape.words, mem_firsts, List.mem_append, hunit, hall]
  constructor
  · rintro (h | h | h)
    · cases h
    · split at h
      next hbfp =>
        obtain ⟨b, hb, k, hk, rfl⟩ := (hunit _).mp h
        have := expBits_le_unitBits hbfp
        rw [mem_unitWords] at hk
        exact ⟨b, hb, k, mem_unitWords.mpr (by omega), rfl⟩
      next => cases h
    · exact h
  · exact fun h => Or.inr (Or.inr h)

end Sys2Proof.Machine
end

section
/-! SUPPORT. Words of memory written in a row, bit by bit, and the tags and poison they leave (R183–R185). -/

namespace Sys2Proof.Machine

open Sys2Proof.Claims

/-! ## Bits of memory -/

/-- Bit q of a memory. -/
def Mem.bit (m : Mem) (q : Nat) : Bool := (m.byte (q / 8)).getLsbD (q % 8)

theorem bitAt_eq (s : State) : bitAt s = s.mem.bit := rfl

theorem Mem.bit_setWord (m : Mem) (w : Nat) (x : Word) (q : Nat) :
    (m.setWord w x).bit q = if q / 64 = w then x.getLsbD (q % 64) else m.bit q := by
  rw [Mem.bit, Mem.byte_setWord]
  have hspan : (8 * w ≤ q / 8 ∧ q / 8 < 8 * w + 8) ↔ q / 64 = w := by omega
  simp only [hspan]
  split
  next h =>
    have hpow : (256 : Nat) ^ (q / 8 - 8 * w) = 2 ^ (8 * (q / 8 - 8 * w)) := by rw [Nat.pow_mul]
    rw [BitVec.getLsbD_ofNat, decide_eq_true (Nat.mod_lt _ (by decide)), Bool.true_and, hpow, Nat.testBit_div_two_pow, BitVec.getLsbD]
    exact congrArg x.toNat.testBit (by omega)
  next => rfl

theorem Mem.read_testBit (m : Mem) (n a i : Nat) (hi : i < 8 * n) : (m.read a n).testBit i = (m.byte (a + i / 8)).getLsbD (i % 8) := by
  induction n generalizing a i with
  | zero => omega
  | succ n ih =>
    have hsplit : m.read a (n + 1) = 2 ^ 8 * m.read (a + 1) n + (m.byte a).toNat := Nat.add_comm _ _
    rw [hsplit, Nat.testBit_two_pow_mul_add _ (m.byte a).isLt]
    split
    next hfirst =>
      rw [Nat.div_eq_of_lt hfirst, Nat.mod_eq_of_lt hfirst]
      rfl
    next hrest =>
      have hat : a + 1 + (i - 8) / 8 = a + i / 8 := by omega
      have hbit : (i - 8) % 8 = i % 8 := by omega
      rw [ih (a + 1) (i - 8) (by omega), hat, hbit]

/-- A word is its bits. -/
theorem Mem.word_testBit (m : Mem) {w i : Nat} (hi : i < 64) : (m.word w).toNat.testBit i = m.bit (64 * w + i) := by
  have hat : 8 * w + i / 8 = (64 * w + i) / 8 := by omega
  have hbit : i % 8 = (64 * w + i) % 8 := by omega
  rw [Mem.word, BitVec.toNat_ofNat, Nat.testBit_mod_two_pow, decide_eq_true hi, Bool.true_and, Mem.read_testBit m 8 (8 * w) i hi, hat, hbit]
  rfl

theorem Mem.tag_setTags (b : Bool) (m : Mem) (ws : List Nat) (v : Nat) : (setTags b ws m).tag v = if v ∈ ws then b else m.tag v := by
  unfold setTags
  induction ws generalizing m with
  | nil => rfl
  | cons w ws ih =>
    rw [List.foldl_cons, ih, Mem.tag_setTag]
    by_cases hws : v ∈ ws
    · rw [if_pos hws, if_pos (List.mem_cons_of_mem _ hws)]
    · by_cases hw : v = w <;> simp [hws, hw]

theorem Mem.bad_clearPoison (m : Mem) (ws : List Nat) (v : Nat) : (clearPoison ws m).bad v = if v ∈ ws then false else m.bad v := by
  unfold clearPoison
  induction ws generalizing m with
  | nil => rfl
  | cons w ws ih =>
    rw [List.foldl_cons, ih, Mem.bad_setBad]
    by_cases hws : v ∈ ws
    · rw [if_pos hws, if_pos (List.mem_cons_of_mem _ hws)]
    · by_cases hw : v = w <;> simp [hws, hw]

theorem setTags_rest (b : Bool) (ws : List Nat) (m : Mem) : ∃ full, setTags b ws m = { m with full } :=
  List.foldlRecOn (motive := fun u : Mem => ∃ full, u = { m with full }) ws (fun m w => m.setTag w b) ⟨_, rfl⟩ fun u hu w _ => by
    obtain ⟨full, rfl⟩ := hu
    exact ⟨_, rfl⟩

theorem clearPoison_rest (ws : List Nat) (m : Mem) : ∃ poison, clearPoison ws m = { m with poison } :=
  List.foldlRecOn (motive := fun u : Mem => ∃ poison, u = { m with poison }) ws (fun m w => m.setBad w false) ⟨_, rfl⟩ fun u hu w _ => by
    obtain ⟨poison, rfl⟩ := hu
    exact ⟨_, rfl⟩

/-! ## Words written in a row -/

/-- The n words from w on have the bits of x, under a stamp; nothing else of memory's data, tags, poison and stamps changes. -/
structure WordsPut (m u : Mem) (key w n x : Nat) : Prop where
  bits : ∀ q, u.bit q = if 64 * w ≤ q ∧ q < 64 * (w + n) then x.testBit (q - 64 * w) else m.bit q
  tags : ∀ v, u.tag v = m.tag v
  poison : ∀ v, u.bad v = m.bad v
  stamps : ∀ v, u.stamp v = if w ≤ v ∧ v < w + n then key else m.stamp v

theorem Mem.stamp_setWord (m : Mem) (w v : Nat) (x : Word) : (m.setWord w x).stamp v = m.stamp v := by
  rw [Mem.setWord, Mem.write_eq]
  rfl

theorem Mem.bit_setStamp (m : Mem) (w k : Nat) : (m.setStamp w k).bit = m.bit := rfl

theorem WordsPut.none (m : Mem) (key w x : Nat) : WordsPut m m key w 0 x :=
  ⟨fun q => (if_neg (by omega)).symm, fun _ => rfl, fun _ => rfl, fun v => (if_neg (by omega)).symm⟩

theorem WordsPut.cons {m u : Mem} {key w n x : Nat}
    (h : WordsPut ((m.setWord w (BitVec.ofNat 64 x)).setStamp w key) u key (w + 1) n (x / 2 ^ 64)) : WordsPut m u key w (n + 1) x := by
  refine ⟨fun q => ?_, fun v => ?_, fun v => ?_, fun v => ?_⟩
  · rw [h.bits, Mem.bit_setStamp, Mem.bit_setWord, Nat.testBit_div_two_pow, BitVec.getLsbD_ofNat, decide_eq_true (Nat.mod_lt q (by decide)),
      Bool.true_and]
    by_cases hrest : 64 * (w + 1) ≤ q ∧ q < 64 * (w + 1 + n)
    · have hoff : q - 64 * (w + 1) + 64 = q - 64 * w := by omega
      rw [if_pos hrest, if_pos (by omega), hoff]
    · rw [if_neg hrest]
      by_cases hw : q / 64 = w
      · have hoff : q % 64 = q - 64 * w := by omega
        rw [if_pos hw, if_pos (by omega), hoff]
      · rw [if_neg hw, if_neg (by omega)]
  · rw [h.tags, Mem.tag_setStamp, Mem.tag_setWord]
  · rw [h.poison, Mem.bad_setStamp, Mem.bad_setWord]
  · rw [h.stamps, Mem.stamp_setStamp, Mem.stamp_setWord]
    by_cases hv : w + 1 ≤ v ∧ v < w + 1 + n
    · rw [if_pos hv, if_pos (by omega)]
    · rw [if_neg hv]
      by_cases hw : v = w
      · rw [if_pos hw, if_pos (by omega)]
      · rw [if_neg hw, if_neg (by omega)]

theorem State.writeWords_eq (key : Nat) : ∀ (n w x : Nat) (s : State), ∃ m, s.writeWords key w n x = { s with mem := m } ∧ WordsPut s.mem m key w n x
  | 0, w, x, s => ⟨_, rfl, WordsPut.none ..⟩
  | n + 1, w, x, s => by
    obtain ⟨m, hm, hput⟩ := State.writeWords_eq key n (w + 1) (x / 2 ^ 64)
      (s.modMem fun m => (m.setWord w (BitVec.ofNat 64 x)).setStamp w key)
    exact ⟨m, hm, hput.cons⟩

end Sys2Proof.Machine
end

section
/-! SUPPORT. One write of an engine at the home of its words: what it puts, and what it leaves (R164, R168, R184, R185, R327). -/

namespace Sys2Proof.Machine

open Sys2Proof.Claims

/-! ## The answers that epochs keep (R168) -/

theorem Block.epoch_modEpoch_any (b : Block) (team team' : Word × Word) {f : Epoch → Epoch}
    (hf : ∀ e, (f e).launch = e.launch ∧ (f e).team = e.team) : (b.modEpoch team f).epoch team' =
      (b.epoch team').map fun e => if e.launch == team.1 && e.team == team.2 then f e else e := by
  have hfun : ((fun e : Epoch => e.launch == team'.1 && e.team == team'.2) ∘ fun e : Epoch => if e.launch == team.1 && e.team == team.2 then f e else e) =
      fun e => e.launch == team'.1 && e.team == team'.2 := by
    funext e
    simp only [Function.comp]
    split
    · rw [(hf e).1, (hf e).2]
    · rfl
  simp only [Block.epoch, Block.modEpoch, List.find?_map, hfun]

/-- The epochs of a block have kept no answers but to some requests: number and address. -/
def KeptIn (s : State) (blk : Nat) (done : List (Nat × Word)) : Prop :=
  ∀ team p, (s.block blk).epoch team = some p → ∀ a ∈ p.acc, (a.2.1, a.2.2.1) ∈ done

/-- u has the epochs of s with the answers they have kept. -/
def SameKept (s u : State) : Prop := ∀ b team, ((u.block b).epoch team).map Epoch.acc = ((s.block b).epoch team).map Epoch.acc

theorem SameKept.trans {s u v : State} (h : SameKept s u) (k : SameKept u v) : SameKept s v := fun b team => (k b team).trans (h b team)

theorem SameKept.of_epochs {s u : State} (h : ∀ b, (u.block b).epochs = (s.block b).epochs) : SameKept s u := fun b team => by
  rw [Block.epoch, h, Block.epoch]

theorem SameKept.keptIn {s u : State} (h : SameKept s u) {blk : Nat} {done : List (Nat × Word)} (hk : KeptIn s blk done) : KeptIn u blk done := by
  intro team p hp a ha
  have hacc := h blk team
  rw [hp, Option.map_some] at hacc
  obtain ⟨p', hp', heq⟩ := Option.map_eq_some_iff.mp hacc.symm
  exact hk team p' hp' a (heq ▸ ha)

/-- A change of an epoch that leaves the answers it has kept. -/
def LeavesAnswers (f : Epoch → Epoch) : Prop := ∀ e, (f e).launch = e.launch ∧ (f e).team = e.team ∧ (f e).acc = e.acc

theorem Block.acc_modEpoch {f : Epoch → Epoch} (hf : LeavesAnswers f) (b : Block) (team team' : Word × Word) :
    ((b.modEpoch team f).epoch team').map Epoch.acc = (b.epoch team').map Epoch.acc := by
  rw [Block.epoch_modEpoch_any b team team' fun e => ⟨(hf e).1, (hf e).2.1⟩, Option.map_map]
  refine congrArg (fun g => Option.map g (b.epoch team')) (funext fun e => ?_)
  simp only [Function.comp]
  split
  · exact (hf e).2.2
  · rfl

theorem State.block_eachBlock (s : State) {f : Block → Block} (hf : f {} = {}) (b : Nat) : (s.eachBlock f).block b = f (s.block b) :=
  Map.get_map hf s.blocks b

theorem SameKept.killEpoch (s : State) (a : Act) : SameKept s (s.killEpoch a) := by
  unfold State.killEpoch
  split
  · exact SameKept.of_epochs fun _ => rfl
  · intro b team'
    rw [State.block_eachBlock s rfl]
    exact Block.acc_modEpoch (f := fun p => { p with dead := true }) (fun _ => ⟨rfl, rfl, rfl⟩) (s.block b) _ team'

theorem SameKept.journal (s : State) (a : Act) (pa : Nat) : SameKept s (s.journal a pa) := by
  unfold State.journal
  split
  · exact SameKept.of_epochs fun _ => rfl
  · split
    · exact SameKept.of_epochs fun _ => rfl
    · dsimp only
      split
      · exact SameKept.killEpoch s a
      · intro b team'
        rw [State.block_modBlock]
        split
        next heq =>
          rw [heq]
          refine Block.acc_modEpoch (fun e => ?_) _ _ team'
          split
          · exact ⟨rfl, rfl, rfl⟩
          · split <;> exact ⟨rfl, rfl, rfl⟩
        next => rfl

theorem SameKept.journalWords (a : Act) : ∀ (ws : List Nat) (s : State), SameKept s (s.journalWords a ws)
  | [], _ => SameKept.of_epochs fun _ => rfl
  | w :: ws, s => (SameKept.journal s a (8 * w)).trans (SameKept.journalWords a ws _)

/-! ## Words that an engine can write -/

/-- An engine can write some words, by number: they are sound, under no foreign key, held by no routine, and nobody waits. -/
structure CanWrite (s : State) (keys : List (Nat × Nat)) (ks : List Nat) : Prop where
  bank : ∀ k ∈ ks, 2 ^ 42 ≤ 8 * k ∧ 8 * k < devBase
  sound : ∀ k ∈ ks, s.mem.bad k = false ∧ (s.mem.stamp k = 0 ∨ s.mem.stamp k = keyIn keys (8 * k))
  free : ∀ k ∈ ks, s.held (8 * k) = false
  calm : ∀ o, (s.owner o).retry = []

/-- The tag that a store leaves on its words. -/
def leavesTag (sync : Sync) (old : Bool) : Bool := match sync with | .wef | .sf => true | .se => false | _ => old

/-- What a write of an engine leaves of memory: its bits, and its words' tags and stamps. -/
structure MemWrote (m u : Mem) (keys : List (Nat × Nat)) (sync : Sync) (put : (Nat → Bool) → Nat → Bool) (ws : List Nat) : Prop where
  bits : u.bit = put m.bit
  tags : ∀ w, u.tag w = if w ∈ ws then leavesTag sync (m.tag w) else m.tag w
  poison : ∀ w, m.bad w = false → u.bad w = false
  stamps : ∀ w, u.stamp w = m.stamp w ∨ w ∈ ws ∧ u.stamp w = keyIn keys (8 * w)

/-- What it leaves of the state: that memory, and journals. -/
structure Wrote (s u : State) (keys : List (Nat × Nat)) (sync : Sync) (put : (Nat → Bool) → Nat → Bool) (ws : List Nat) : Prop where
  rest : u = { s with blocks := u.blocks, mem := u.mem }
  mem : MemWrote s.mem u.mem keys sync put ws

theorem leavesTag_twice (sync : Sync) (old : Bool) : leavesTag sync (leavesTag sync old) = leavesTag sync old := by
  cases sync <;> rfl

theorem Wrote.nothing (s : State) (keys : List (Nat × Nat)) (sync : Sync) : Wrote s s keys sync (fun f => f) [] :=
  ⟨rfl, rfl, fun _ => rfl, fun _ h => h, fun _ => Or.inl rfl⟩

theorem MemWrote.trans {m u v : Mem} {keys : List (Nat × Nat)} {sync : Sync} {put put' : (Nat → Bool) → Nat → Bool} {ws ws' : List Nat}
    (h : MemWrote m u keys sync put ws) (k : MemWrote u v keys sync put' ws') : MemWrote m v keys sync (fun f => put' (put f)) (ws ++ ws') := by
  refine ⟨?_, fun w => ?_, fun w hw => k.poison w (h.poison w hw), fun w => ?_⟩
  · rw [k.bits, h.bits]
  · rw [k.tags, h.tags]
    by_cases hw : w ∈ ws <;> by_cases hw' : w ∈ ws' <;> simp [hw, hw', leavesTag_twice]
  · rcases k.stamps w with hk | ⟨hw, hk⟩
    · rcases h.stamps w with hh | ⟨hw, hh⟩
      · exact Or.inl (hk.trans hh)
      · exact Or.inr ⟨List.mem_append_left _ hw, hk.trans hh⟩
    · exact Or.inr ⟨List.mem_append_right _ hw, hk⟩

theorem Wrote.trans {s u v : State} {keys : List (Nat × Nat)} {sync : Sync} {put put' : (Nat → Bool) → Nat → Bool} {ws ws' : List Nat}
    (h : Wrote s u keys sync put ws) (k : Wrote u v keys sync put' ws') : Wrote s v keys sync (fun f => put' (put f)) (ws ++ ws') :=
  ⟨by rw [k.rest, h.rest], h.mem.trans k.mem⟩

theorem keyIn_congr {keys : List (Nat × Nat)} {a b : Nat} (h : bankBlock a = bankBlock b) : keyIn keys a = keyIn keys b := by
  rw [keyIn, h, keyIn]

/-- The words of a piece have one stamp. -/
theorem Piece.Fits.keyIn_eq {p : Piece} {ks : List Nat} (h : p.Fits ks) (keys : List (Nat × Nat)) (hbank : 2 ^ 42 ≤ p.at') {w : Nat}
    (hw : w ∈ wordsOf p.at' p.n) : keyIn keys (8 * w) = keyIn keys p.at' := by
  refine keyIn_congr ?_
  have hword := h.word
  unfold bankBlock
  rcases h.size with ⟨hn, -⟩ | ⟨hn, halign, -⟩ <;> rw [hn, mem_wordsOf (by decide)] at hw <;> omega

/-- A write leaves words writable, when it gives those of them that it writes their own stamp. -/
theorem CanWrite.after {s u : State} {keys keys' : List (Nat × Nat)} {ks ws : List Nat} {sync : Sync} {put : (Nat → Bool) → Nat → Bool}
    (h : CanWrite s keys' ks) (hput : MemWrote s.mem u.mem keys sync put ws) (hheld : ∀ pa, s.held pa = false → u.held pa = false)
    (howners : u.owners = s.owners) (hstamp : ∀ w ∈ ws, w ∈ ks → keyIn keys (8 * w) = keyIn keys' (8 * w)) : CanWrite u keys' ks := by
  refine ⟨h.bank, fun k hk => ?_, fun k hk => hheld _ (h.free k hk), fun o => ?_⟩
  · obtain ⟨hbad, hkey⟩ := h.sound k hk
    refine ⟨hput.poison k hbad, ?_⟩
    rcases hput.stamps k with heq | ⟨hin, heq⟩
    · rwa [heq]
    · exact Or.inr (heq.trans (hstamp k hin hk))
  · rw [State.owner, howners]
    exact h.calm o

theorem Wrote.held {s u : State} {keys : List (Nat × Nat)} {sync : Sync} {put : (Nat → Bool) → Nat → Bool} {ws : List Nat}
    (h : Wrote s u keys sync put ws) (pa : Nat) : u.held pa = s.held pa := by
  rw [h.rest]
  rfl

theorem Wrote.keeper {s u : State} {keys : List (Nat × Nat)} {sync : Sync} {put : (Nat → Bool) → Nat → Bool} {ws : List Nat}
    (h : Wrote s u keys sync put ws) (t : Nat) : u.keeper t = s.keeper t := by
  rw [h.rest]
  rfl

/-! ## The write -/

section
variable {s : State} {keys : List (Nat × Nat)} {ks : List Nat} {p : Piece}

theorem engineElem_of_bank (hdev : p.at' < devBase) : engineElem keys p.at' p.n p.val p.mask =
    { ea := BitVec.ofNat 64 p.at', size := p.n, pa := p.at', key := keyIn keys p.at', data := BitVec.ofNat 1024 p.val, mask := p.mask } := by
  rw [engineElem, if_neg (Nat.not_le.mpr hdev)]
  rfl

theorem readAt_of_sound {key pa : Nat} (h : s.mem.stamp (pa / 8) = 0 ∨ s.mem.stamp (pa / 8) = key) :
    s.readAt key pa 8 = ((s.mem.word (pa / 8)).toNat, s) := by
  show s.readWords key (pa / 8) 1 = _
  simp only [State.readWords, State.readWord, if_pos h, Nat.mul_zero, Nat.add_zero]

theorem Piece.Fits.span (hfits : p.Fits ks) : p.n % 8 = 0 ∧ ¬ p.n < 8 ∧ ∀ w, w ∈ wordsOf p.at' p.n ↔ p.at' / 8 ≤ w ∧ w < p.at' / 8 + p.n / 8 := by
  rcases hfits.size with ⟨hn, -⟩ | ⟨hn, -, -⟩ <;> rw [hn] <;> exact ⟨by decide, by decide, fun w => mem_wordsOf (by decide)⟩

/-- The tag action of a store. -/
def tagAction (sync : Sync) (ws : List Nat) (m : Mem) : Mem :=
  match sync with
  | .wef | .sf => setTags true ws m
  | .se => setTags false ws m
  | _ => clearPoison ws m

theorem tagAction_spec (sync : Sync) (ws : List Nat) (m : Mem) : (tagAction sync ws m).bit = m.bit ∧
    (∀ w, (tagAction sync ws m).tag w = if w ∈ ws then leavesTag sync (m.tag w) else m.tag w) ∧
    (∀ w, m.bad w = false → (tagAction sync ws m).bad w = false) ∧ ∀ w, (tagAction sync ws m).stamp w = m.stamp w := by
  have htags : ∀ b, (setTags b ws m).bit = m.bit ∧ (∀ w, m.bad w = false → (setTags b ws m).bad w = false) ∧
      ∀ w, (setTags b ws m).stamp w = m.stamp w := fun b => by
    obtain ⟨full, h⟩ := setTags_rest b ws m
    rw [h]
    exact ⟨rfl, fun _ h => h, fun _ => rfl⟩
  have hclear : (clearPoison ws m).bit = m.bit ∧ (∀ w, (clearPoison ws m).tag w = if w ∈ ws then m.tag w else m.tag w) ∧
      (∀ w, m.bad w = false → (clearPoison ws m).bad w = false) ∧ ∀ w, (clearPoison ws m).stamp w = m.stamp w := by
    obtain ⟨poison, h⟩ := clearPoison_rest ws m
    refine ⟨by rw [h]; rfl, fun w => by rw [h, ite_self]; rfl, fun w hw => ?_, fun w => by rw [h]; rfl⟩
    rw [Mem.bad_clearPoison, hw, ite_self]
  cases sync
  case plain | wf | wfe => exact hclear
  case wef | sf => exact ⟨(htags true).1, Mem.tag_setTags true m ws, (htags true).2⟩
  case se => exact ⟨(htags false).1, Mem.tag_setTags false m ws, (htags false).2⟩

theorem data_testBit {x i : Nat} (hi : i < 1024) : (BitVec.ofNat 1024 x).toNat.testBit i = x.testBit i := by
  rw [← BitVec.getLsbD, BitVec.getLsbD_ofNat, decide_eq_true hi, Bool.true_and]

variable (hfits : p.Fits ks) (hcan : CanWrite s keys ks)
include hfits hcan

theorem CanWrite.bankAt : 2 ^ 42 ≤ p.at' ∧ p.at' < devBase := by
  have hb := hcan.bank _ hfits.first
  have hword := hfits.word
  rwa [Nat.mul_div_cancel' (Nat.dvd_of_mod_eq_zero hword)] at hb

/-- The value that a piece's write puts, where its words are sound. -/
theorem CanWrite.merged : ∃ x, (engineElem keys p.at' p.n p.val p.mask).merged s (keyIn keys p.at') p.at' = (x, s) ∧
    ∀ q, 8 * p.at' ≤ q → q < 8 * (p.at' + p.n) → x.testBit (q - 8 * p.at') = putPiece s.mem.bit p q := by
  obtain ⟨hbank, hdev⟩ := hcan.bankAt hfits
  rw [engineElem_of_bank hdev]
  have hword := hfits.word
  rcases hsize : p.mask with - | m
  · refine ⟨(BitVec.ofNat 1024 p.val).toNat, rfl, fun q hlo hhi => ?_⟩
    have hcov : p.covers q = true := by
      rw [Piece.covers, hsize, decide_eq_true ⟨hlo, hhi⟩]
      rfl
    have hsmall : q - 8 * p.at' < 1024 := by
      rcases hfits.size with ⟨hn, -⟩ | ⟨hn, -, -⟩ <;> omega
    rw [putPiece, if_pos hcov, data_testBit hsmall]
  · obtain ⟨hn, hm⟩ : p.n = 8 ∧ m < 2 ^ 64 := by
      rcases hfits.size with ⟨hn, hm⟩ | ⟨-, -, hnone⟩
      · exact ⟨hn, hm m hsize⟩
      · rw [hnone] at hsize
        cases hsize
    obtain ⟨-, hkey⟩ := hcan.sound _ hfits.first
    rw [Nat.mul_div_cancel' (Nat.dvd_of_mod_eq_zero hword)] at hkey
    refine ⟨((s.mem.word (p.at' / 8)).toNat &&& (2 ^ 64 - 1 - m)) ||| ((BitVec.ofNat 1024 p.val).toNat &&& m), ?_, fun q hlo hhi => ?_⟩
    · rw [hn]
      unfold Elem.merged
      simp only [readAt_of_sound hkey]
    · have hi : q - 8 * p.at' < 64 := by omega
      have hrest : (2 ^ 64 - 1 - m).testBit (q - 8 * p.at') = !m.testBit (q - 8 * p.at') := by
        have := Nat.testBit_two_pow_sub_succ hm (q - 8 * p.at')
        rw [Nat.sub_sub, Nat.add_comm 1, this, decide_eq_true hi, Bool.true_and]
      have hold : (s.mem.word (p.at' / 8)).toNat.testBit (q - 8 * p.at') = s.mem.bit q := by
        rw [Mem.word_testBit s.mem hi]
        exact congrArg s.mem.bit (by omega)
      have hcov : p.covers q = m.testBit (q - 8 * p.at') := by
        rw [Piece.covers, hsize, decide_eq_true ⟨hlo, hhi⟩]
        rfl
      have hnew : (BitVec.ofNat 1024 p.val).toNat.testBit (q - 8 * p.at') = p.val.testBit (q - 8 * p.at') := data_testBit (hi.trans (by decide))
      rw [Nat.testBit_or, Nat.testBit_and, Nat.testBit_and, hrest, hold, hnew, putPiece, hcov]
      cases m.testBit (q - 8 * p.at') <;> simp

/-- A piece's write is performed at once. -/
theorem CanWrite.performNow {t : Nat} {r : Req} (hwhat : r.what = .store) (hsync : r.sync ≠ .wef) :
    ∃ u, s.performNow t r (engineElem keys p.at' p.n p.val p.mask) p.at' (keyIn keys p.at') = .done 0 0 u ∧
      SameKept s u ∧ Wrote s u keys r.sync (fun f => putPiece f p) (wordsOf p.at' p.n) := by
  obtain ⟨hbank, hdev⟩ := hcan.bankAt hfits
  obtain ⟨hwhole, hwide, hspan⟩ := hfits.span
  obtain ⟨x, hmerged, hbits⟩ := hcan.merged hfits
  have hword := hfits.word
  have htouch : s.touchLine p.at' = s := by
    rw [State.touchLine, Mem.unproved, isBank, decide_eq_true hbank]
    rfl
  have hheld : s.heldSpan p.at' p.n = false := by
    have hfirst := hcan.free _ hfits.first
    rw [Nat.mul_div_cancel' (Nat.dvd_of_mod_eq_zero hword)] at hfirst
    rw [State.heldSpan, hfirst, Bool.false_or]
    by_cases hn : 64 < p.n
    · have hline : p.n = 128 := by
        rcases hfits.size with ⟨h8, -⟩ | ⟨h128, -, -⟩
        · omega
        · exact h128
      have hsecond := hcan.free (p.at' / 8 + 8) (hfits.words _ ((hspan _).mpr (by omega)))
      have hat : 8 * (p.at' / 8 + 8) = p.at' + 64 := by omega
      rw [hat] at hsecond
      rw [hsecond, Bool.and_false]
    · rw [decide_eq_false hn, Bool.false_and]
  have hbad : (wordsOf p.at' p.n).any s.mem.bad = false :=
    List.any_eq_false.mpr fun w hw => by rw [(hcan.sound w (hfits.words w hw)).1]; exact Bool.false_ne_true
  have hwait : s.waitedOn (wordsOf p.at' p.n) = false := by
    rw [State.waitedOn, hcan.calm]
    rfl
  have hnow : s.performNow t r (engineElem keys p.at' p.n p.val p.mask) p.at' (keyIn keys p.at') =
      .done 0 0 ((s.storeAt (s.th t).act (keyIn keys p.at') p.at' p.n x).modMem (tagAction r.sync (wordsOf p.at' p.n))) := by
    have hsize : (engineElem keys p.at' p.n p.val p.mask).size = p.n := by rw [engineElem_of_bank hdev]
    have hn : p.n ≠ 0 := by omega
    unfold State.performNow
    simp only [hwhat, hsize, hn, htouch, hheld, hbad, hwait, hmerged, hsync, Access.isAtom, ite_self, if_false, Bool.false_eq_true, Bool.false_and,
      Bool.or_false, false_and, and_false]
    rfl
  obtain ⟨blocks, hjournal⟩ := State.journalWords_eq (s.th t).act (wordsOf p.at' p.n) s
  obtain ⟨m, hwrite, hput⟩ := State.writeWords_eq (keyIn keys p.at') (p.n / 8) (p.at' / 8) x { s with blocks }
  have hkept : SameKept s { s with blocks } := hjournal ▸ SameKept.journalWords _ _ s
  have hstore : s.storeAt (s.th t).act (keyIn keys p.at') p.at' p.n x = { s with blocks, mem := m } := by
    rw [State.storeAt, hjournal, State.writeAt, if_neg hwide, hwrite]
  obtain ⟨htbits, httags, htbad, htstamps⟩ := tagAction_spec r.sync (wordsOf p.at' p.n) m
  refine ⟨{ s with blocks, mem := tagAction r.sync (wordsOf p.at' p.n) m }, by rw [hnow, hstore]; rfl, hkept, rfl, ?_, fun w => ?_,
    fun w hw => ?_, fun w => ?_⟩
  · refine htbits.trans (funext fun q => ?_)
    rw [hput.bits]
    by_cases hin : 8 * p.at' ≤ q ∧ q < 8 * (p.at' + p.n)
    · have hoff : 64 * (p.at' / 8) = 8 * p.at' := by omega
      rw [if_pos (by omega), hoff]
      exact hbits q hin.1 hin.2
    · rw [if_neg (by omega), putPiece, Piece.covers, decide_eq_false hin, Bool.false_and]
      rfl
  · refine (httags w).trans ?_
    rw [hput.tags]
  · exact htbad w ((hput.poison w).trans hw)
  · show (tagAction r.sync (wordsOf p.at' p.n) m).stamp w = s.mem.stamp w ∨ w ∈ wordsOf p.at' p.n ∧
      (tagAction r.sync (wordsOf p.at' p.n) m).stamp w = keyIn keys (8 * w)
    rw [htstamps, hput.stamps]
    by_cases hw : w ∈ wordsOf p.at' p.n
    · rw [if_pos ((hspan w).mp hw), hfits.keyIn_eq keys hbank hw]
      exact Or.inr ⟨hw, rfl⟩
    · rw [if_neg fun h => hw ((hspan w).mpr h)]
      exact Or.inl rfl

end

/-! ## An element of an engine's request -/

theorem KeptIn.mono {s : State} {blk : Nat} {done done' : List (Nat × Word)} (h : KeptIn s blk done) (hsub : ∀ x ∈ done, x ∈ done') :
    KeptIn s blk done' := fun team p hp a ha => hsub _ (h team p hp a ha)

theorem KeptIn.keep {s : State} {blk : Nat} {done : List (Nat × Word)} (h : KeptIn s blk done) (team : Word × Word) (m : List Nat) (n : Nat)
    (ea : Word) (x : Nat) (fl : FFlags) :
    KeptIn (s.modBlock blk fun b => b.modEpoch team fun p => p.keep m n ea x fl) blk ((n, ea) :: done) := by
  intro team' p hp a ha
  rw [State.block_modBlock, if_pos rfl, Block.epoch_modEpoch_any (f := fun p => p.keep m n ea x fl) _ _ _ fun _ => ⟨rfl, rfl⟩] at hp
  obtain ⟨p', hp', rfl⟩ := Option.map_eq_some_iff.mp hp
  split at ha
  · rcases List.mem_cons.mp ha with rfl | ha
    · exact List.mem_cons_self
    · exact List.mem_cons_of_mem _ (h team' p' hp' a ha)
  · exact List.mem_cons_of_mem _ (h team' p' hp' a ha)

/-- The epochs in which thread t's accesses count have kept no answers but to some requests. -/
def KeptFor (s : State) (t : Nat) (done : List (Nat × Word)) : Prop := isAct (s.keeper t) = true → KeptIn s (blockOf (s.keeper t)) done

theorem KeptFor.mono {s : State} {t : Nat} {done done' : List (Nat × Word)} (h : KeptFor s t done) (hsub : ∀ x ∈ done, x ∈ done') :
    KeptFor s t done' := fun hact => (h hact).mono hsub

theorem State.epoch_of_epochOf {s : State} {t : Nat} {team : Word × Word} {p : Epoch} (h : s.epochOf t = some (team, p)) :
    isAct (s.keeper t) = true ∧ (s.block (blockOf (s.keeper t))).epoch team = some p := by
  unfold State.epochOf at h
  split at h
  · cases h
  next hact =>
    split at h
    · obtain ⟨p', hp', heq⟩ := Option.map_eq_some_iff.mp h
      cases heq
      exact ⟨by simpa using hact, hp'⟩
    · cases h

theorem Epoch.answer?_of_new {p : Epoch} {done : List (Nat × Word)} (h : ∀ a ∈ p.acc, (a.2.1, a.2.2.1) ∈ done) {n : Nat} {ea : Word}
    (hnew : (n, ea) ∉ done) (m : List Nat) : p.answer? m n ea = none := by
  rw [Epoch.answer?, Option.map_eq_none_iff, List.find?_eq_none]
  intro a ha hyes
  simp only [Bool.and_eq_true, beq_iff_eq] at hyes
  obtain ⟨⟨-, hn⟩, hea⟩ := hyes
  exact hnew (hn ▸ hea ▸ h a ha)

theorem Wrote.modBlock {s u : State} {keys : List (Nat × Nat)} {sync : Sync} {put : (Nat → Bool) → Nat → Bool} {ws : List Nat}
    (h : Wrote s u keys sync put ws) (blk : Nat) (f : Block → Block) : Wrote s (u.modBlock blk f) keys sync put ws :=
  ⟨by rw [h.rest]; rfl, h.mem⟩

/-- A request by which an engine stores into buffers. -/
structure StoresIn (r : Req) : Prop where
  what : r.what = .store
  space : r.sp = .s
  sync : r.sync ≠ .wef
  owner : r.perOwner = false
  word : r.perWord = false

/-- The run of a request that has performed some elements, and met no error, goes on. -/
structure Run.GoesOn (u : Run) : Prop where
  stop : u.stop = false
  err : u.err = 0
  phase : u.phase = .done

/-- The run after an element of an owner was performed, without a result. -/
def Run.noted (u : Run) (e : Elem) (o : Nat) : Run :=
  { u with elems := u.elems ++ [{ e with done := true, hold := .free, res := BitVec.ofNat 1024 0 }], flags := u.flags ||| 0
           stop := false, err := 0, changed := if u.changed.contains o then u.changed else u.changed ++ [o] }

section
variable {s : State} {keys : List (Nat × Nat)} {ks : List Nat} {p : Piece} (hfits : p.Fits ks) (hcan : CanWrite s keys ks)
  {t : Nat} {r : Req} (hr : StoresIn r) {done : List (Nat × Word)} (hkept : KeptFor s t done)
include hfits hcan hr hkept

theorem CanWrite.perform (hnew : (r.elemNo (engineElem keys p.at' p.n p.val p.mask), BitVec.ofNat 64 p.at') ∉ done) :
    ∃ u, s.perform t r (engineElem keys p.at' p.n p.val p.mask) p.at' (keyIn keys p.at') = .done 0 0 u ∧
      KeptFor u t ((r.elemNo (engineElem keys p.at' p.n p.val p.mask), BitVec.ofNat 64 p.at') :: done) ∧
      Wrote s u keys r.sync (fun f => putPiece f p) (wordsOf p.at' p.n) := by
  obtain ⟨-, hdev⟩ := hcan.bankAt hfits
  have hea : (engineElem keys p.at' p.n p.val p.mask).ea = BitVec.ofNat 64 p.at' := by rw [engineElem_of_bank hdev]
  obtain ⟨u, hnow, hsame, hwrote⟩ := hcan.performNow hfits (t := t) hr.what hr.sync
  have hkeptu : isAct (s.keeper t) = true → KeptIn u (blockOf (s.keeper t)) done := fun hact => hsame.keptIn (hkept hact)
  have hkeeper := hwrote.keeper t
  have hkeptw : KeptFor u t ((r.elemNo (engineElem keys p.at' p.n p.val p.mask), BitVec.ofNat 64 p.at') :: done) := by
    unfold KeptFor
    rw [hkeeper]
    exact fun hact => (hkeptu hact).mono fun _ => List.mem_cons_of_mem _
  unfold State.perform
  split
  next => exact ⟨u, hnow, hkeptw, hwrote⟩
  next team' p' hepoch =>
    obtain ⟨hact, hepoch⟩ := State.epoch_of_epochOf hepoch
    have hnone := Epoch.answer?_of_new (hkept hact team' p' hepoch) hnew r.member
    rw [hea, hnone, hnow]
    simp only
    split
    next =>
      have hkeep := fun hact => (hkeptu hact).keep team' r.member (r.elemNo (engineElem keys p.at' p.n p.val p.mask)) (BitVec.ofNat 64 p.at') 0 0
      refine ⟨_, rfl, ?_, hwrote.modBlock ..⟩
      unfold KeptFor
      rw [(hwrote.modBlock _ _).keeper]
      exact hkeep
    next => exact ⟨u, rfl, hkeptw, hwrote⟩

theorem CanWrite.runElem (hnew : (r.elemNo (engineElem keys p.at' p.n p.val p.mask), BitVec.ofNat 64 p.at') ∉ done) {u : Run} (hu : u.GoesOn)
    (ix : Nat) : ∃ u' s', s.runElem t r u ix (engineElem keys p.at' p.n p.val p.mask) = (u', s') ∧ u'.GoesOn ∧
      KeptFor s' t ((r.elemNo (engineElem keys p.at' p.n p.val p.mask), BitVec.ofNat 64 p.at') :: done) ∧
      Wrote s s' keys r.sync (fun f => putPiece f p) (wordsOf p.at' p.n) := by
  obtain ⟨-, hdev⟩ := hcan.bankAt hfits
  obtain ⟨s', hperform, hkept', hwrote⟩ := hcan.perform hfits hr hkept hnew
  have hallow : tnakCause (BitVec.allOnes 64) r.what r.sync = 0 := by
    unfold tnakCause
    simp only [BitVec.getLsbD_allOnes]
    simp
  have hfirst : s.owedFirst (ownerAt p.at') t r ix (wordsOf p.at' p.n) = false := by
    rw [State.owedFirst, hcan.calm]
    rfl
  have hleave : s'.leaveOwner (ownerAt p.at') t r.seq ix .free = s' := by
    have hnone : (s'.owner (ownerAt p.at')).retry = [] := by
      rw [hwrote.rest]
      exact hcan.calm _
    show s'.leaveRetry _ _ _ _ = s'
    rw [State.leaveRetry, hnone]
    rfl
  rw [engineElem_of_bank hdev] at hperform ⊢
  refine ⟨u.noted (engineElem keys p.at' p.n p.val p.mask) (ownerAt p.at'), s', ?_, ⟨rfl, rfl, hu.phase⟩, ?_, hwrote⟩
  · rw [engineElem_of_bank hdev]
    unfold State.runElem State.locate
    simp only [hu.stop, hu.err, hr.space, hr.owner, hr.word, hallow, hfirst, hperform, hleave, reduceCtorEq, ne_eq, not_true_eq_false, not_false_eq_true,
      or_self, if_false, if_true, false_and, and_false, Bool.false_eq_true, Bool.or_self]
    rfl
  · rwa [engineElem_of_bank hdev] at hkept'

end

/-- The elements by which a request writes pieces. -/
def elemsOf (keys : List (Nat × Nat)) (ps : List Piece) : List Elem := ps.map fun p => engineElem keys p.at' p.n p.val p.mask
/-- What tells the performed elements of a request: number and address. -/
def numbersOf (r : Req) (keys : List (Nat × Nat)) (ps : List Piece) : List (Nat × Word) :=
  ps.map fun p => (r.elemNo (engineElem keys p.at' p.n p.val p.mask), BitVec.ofNat 64 p.at')

theorem CanWrite.runElems {keys : List (Nat × Nat)} {ks : List Nat} {t : Nat} {r : Req} (hr : StoresIn r) : ∀ (ps : List Piece) {s : State}
    {u : Run} {done : List (Nat × Word)} (ix : Nat), (∀ p ∈ ps, p.Fits ks) → CanWrite s keys ks → KeptFor s t done →
    (numbersOf r keys ps).Nodup → (∀ x ∈ numbersOf r keys ps, x ∉ done) → u.GoesOn →
    ∃ u' s', s.runElems t r u ix (elemsOf keys ps) = (u', s') ∧ u'.GoesOn ∧
      KeptFor s' t (numbersOf r keys ps ++ done) ∧
      Wrote s s' keys r.sync (fun f => ps.foldl putPiece f) (ps.flatMap fun p => wordsOf p.at' p.n)
  | [], s, u, done, ix, _, _, hkept, _, _, hu => ⟨u, s, rfl, hu, hkept, Wrote.nothing ..⟩
  | p :: ps, s, u, done, ix, hfits, hcan, hkept, hnodup, hnew, hu => by
    have hp := hfits p List.mem_cons_self
    obtain ⟨hnot, hrest⟩ := List.nodup_cons.mp hnodup
    obtain ⟨u1, s1, hrun1, hu1, hkept1, hwrote1⟩ := hcan.runElem hp hr hkept (hnew _ List.mem_cons_self) hu ix
    obtain ⟨u2, s2, hrun2, hu2, hkept2, hwrote2⟩ := CanWrite.runElems hr ps (ix + 1) (fun q hq => hfits q (List.mem_cons_of_mem _ hq))
      (hcan.after hwrote1.mem (fun pa h => (hwrote1.held pa).trans h) (by rw [hwrote1.rest]) fun _ _ _ => rfl) hkept1 hrest (fun x hx hin => by
        rcases List.mem_cons.mp hin with rfl | hin
        · exact hnot hx
        · exact hnew x (List.mem_cons_of_mem _ hx) hin) hu1
    refine ⟨u2, s2, ?_, hu2, ?_, ?_⟩
    · rw [elemsOf, List.map_cons, State.runElems, hrun1]
      exact hrun2
    · refine hkept2.mono fun x hx => ?_
      rcases List.mem_append.mp hx with hx | hx
      · exact List.mem_append_left _ (List.mem_cons_of_mem _ hx)
      · rcases List.mem_cons.mp hx with rfl | hx
        · exact List.mem_append_left _ List.mem_cons_self
        · exact List.mem_append_right _ hx
    · exact hwrote1.trans hwrote2

end Sys2Proof.Machine
end

section
/-! SUPPORT. A whole access by which an engine writes units of a shape (R168, R327). -/

namespace Sys2Proof.Machine

open Sys2Proof.Claims

/-! ## The engine's thread -/

/-- A request as an engine makes it for a job. -/
def engineReq (blk : Nat) (j : Job) (r : Req) : Req :=
  { r with seq := j.num + r.seq, member := j.member, num := j.num + r.seq, src := j.source blk, pid := j.pid, stamp := [] }
/-- The thread that stands for an engine while it runs a job's access. -/
def engineRuns (blk : Nat) (j : Job) (r : Req) : Thread :=
  { outst := [engineReq blk j r]
    act := { pid := j.pid, encl := j.encl, launch := j.launch, wid := j.wid }
    issuer := if j.issuer = 0 then none else some j.thread }

theorem not_isAct_engineThread (blk n : Nat) : isAct (engineThread blk n) = false := by
  unfold isAct engineThread
  exact decide_eq_false (by omega)

/-- Where services have at most ended, no other granule is held. -/
theorem State.held_of_serve {s u : State} (hserve : ∀ t, (u.th t).serve = (s.th t).serve ∨ (u.th t).serve = none) {pa : Nat} (h : s.held pa = false) :
    u.held pa = false := by
  unfold State.held at h ⊢
  rcases hserve (serviceOf (ownerAt pa)) with heq | heq <;> rw [heq]
  exact h

theorem State.held_setTh (s : State) (t : Nat) {x : Thread} (hx : x.serve = none) {pa : Nat} (h : s.held pa = false) :
    (s.setTh t x).held pa = false := by
  refine State.held_of_serve (fun u => ?_) h
  rw [State.th_setTh]
  split
  · exact Or.inr hx
  · exact Or.inl rfl

theorem State.th_dropThread (s : State) (t u : Nat) : State.th { s with threads := Map.drop (fun k => k == t) s.threads } u =
    if (u == t) = true then {} else s.th u := Map.get_drop ({} : Thread) (fun k => k == t) s.threads u

/-- The epoch in which an engine's accesses for a job count has kept no answers but to some requests. -/
def KeptByEngine (s : State) (t : Nat) (j : Job) (done : List (Nat × Word)) : Prop :=
  isEngine t = true → j.issuer ≠ 0 → isAct j.thread = true → KeptIn s (blockOf j.thread) done

theorem keptFor_iff {s : State} {t : Nat} {j : Job} {done : List (Nat × Word)} (hth : (s.th t).issuer = if j.issuer = 0 then none else some j.thread)
    (hact : isAct t = false) : KeptFor s t done ↔ KeptByEngine s t j done := by
  have hkeeper : s.keeper t = if isEngine t = true ∧ j.issuer ≠ 0 then j.thread else t := by
    rw [State.keeper, hth]
    by_cases hi : j.issuer = 0 <;> by_cases ht : isEngine t = true <;> simp [hi, ht]
  unfold KeptFor KeptByEngine
  rw [hkeeper]
  by_cases hboth : isEngine t = true ∧ j.issuer ≠ 0
  · rw [if_pos hboth]
    exact ⟨fun h _ _ => h, fun h => h hboth.1 hboth.2⟩
  · rw [if_neg hboth, hact]
    exact ⟨fun _ h1 h2 => absurd ⟨h1, h2⟩ hboth, fun _ h => by cases h⟩

theorem State.noteHazard_eq (s : State) (blk : Nat) (j : Job) (r : Req) : ∃ blocks, s.noteHazard blk j r = { s with blocks } ∧
    ∀ b, ((s.noteHazard blk j r).block b).epochs = (s.block b).epochs := by
  unfold State.noteHazard
  split
  · refine ⟨_, rfl, fun b => ?_⟩
    rw [State.modJob, State.block_modBlock]
    split
    · next h => rw [h]
    · rfl
  · exact ⟨_, rfl, fun _ => rfl⟩

/-! ## The access -/

/-- What an engine's write leaves: memory written, nothing waits, and the engine is idle. -/
structure EngineWrote (s u : State) (t : Nat) (keys : List (Nat × Nat)) (sync : Sync) (put : (Nat → Bool) → Nat → Bool) (ws : List Nat) : Prop where
  mem : MemWrote s.mem u.mem keys sync put ws
  pace : u.pace = s.pace
  owners : u.owners = s.owners
  held : ∀ pa, s.held pa = false → u.held pa = false
  idle : (u.th t).outst = []

/-- A request as it stands when all of its elements are performed. -/
def Req.after (r : Req) (u : Run) : Req := { r with elems := u.elems, phase := u.phase, err := u.err, errAddr := u.errAddr, flags := u.flags }

theorem runReq_of_runElems {s s' : State} {t : Nat} {r : Req} {u : Run} (hwhole : r.whole = false) (hwhat : r.what = .store)
    (hrun : s.runElems t r { err := r.err, errAddr := r.errAddr, flags := r.flags } 0 r.elems = (u, s')) :
    s.runReq t r = (u.changed, s'.setReq t (Req.after r u)) := by
  have hatom : r.what.isAtom = false := by rw [hwhat]; rfl
  unfold State.runReq State.servedAt
  simp only [Req.after, hwhole, hatom, hrun, Bool.false_and, Bool.false_eq_true, if_false, Bool.not_false, if_true]

/-- The state once an engine's request is performed: its thread is idle. -/
def State.engineDone (s : State) (t blk : Nat) (j : Job) (q : Req) : State :=
  State.noteHazard { s with threads := Map.drop (fun k => k == t) s.threads } blk j q

/-- An engine's request that can be performed at once is performed, and leaves the engine idle. -/
theorem State.engineAccessAs_of_runElems {s s' : State} {t blk : Nat} {j : Job} {r : Req} {u : Run} (hspace : r.sp = .s) (hwhole : r.whole = false)
    (hwhat : r.what = .store) (hphase : r.phase = .sent) (hidle : (s.th t).outst = []) (hpace : s.pace = none)
    (hrun : (s.setTh t (engineRuns blk j r)).runElems t (engineReq blk j r) { err := r.err, errAddr := r.errAddr, flags := r.flags } 0 r.elems = (u, s'))
    (hu : u.phase = .done) (hth : (s'.th t).outst = [engineReq blk j r]) (hcalm : ∀ o, (s'.owner o).retry = []) :
    s.engineAccessAs t blk j r = (some ((engineReq blk j r).after u),
      (s'.setReq t ((engineReq blk j r).after u)).engineDone t blk j ((engineReq blk j r).after u)) := by
  have hstart : (s.setTh t (engineRuns blk j r)).th t = engineRuns blk j r := (State.th_setTh ..).trans (if_pos rfl)
  have hnopace : ∀ v : State, v.pace = none → { v with pace := none } = v := fun v hv => by rw [← hv]
  have hpaced : (s.setTh t (engineRuns blk j r)).runPaced t (engineReq blk j r) = s'.setReq t ((engineReq blk j r).after u) := by
    have hpace' : (s.setTh t (engineRuns blk j r)).pace = none := hpace
    unfold State.runPaced
    simp only [hpace', hnopace _ hpace']
    rw [State.runAndRetest, runReq_of_runElems (r := engineReq blk j r) hwhole hwhat hrun]
    exact State.retest_of_no_retry (s := s'.setReq t ((engineReq blk j r).after u)) hcalm _ _
  have hend : ((s'.setReq t ((engineReq blk j r).after u)).th t).outst = [(engineReq blk j r).after u] := by
    rw [State.setReq, State.th_modTh, if_pos rfl]
    simp only [hth, List.map_cons, List.map_nil]
    rw [if_pos (show (engineReq blk j r).seq = ((engineReq blk j r).after u).seq from rfl)]
  have hpending : (engineReq blk j r).pending = true := by
    have : (engineReq blk j r).phase = .sent := hphase
    rw [Req.pending, this]
  have hdone : ((engineReq blk j r).after u).phase = .done := hu
  have hlocal : ¬ (r.sp = .d ∧ r.what.isStore = true) := fun h => by
    rw [hspace] at h
    cases h.1
  unfold State.engineAccessAs State.engineDone
  unfold engineRuns at hpaced
  unfold engineReq at hpaced hend hpending hdone ⊢
  simp only [if_neg hlocal, hidle, State.th_setTh, if_true, hpending, hpaced, hend, hdone]

/-! ## The write of some units -/

/-- A job's request for a write: its pieces, as write k. -/
def storeReq (keys : List (Nat × Nat)) (sync : Sync) (k : Nat) (ps : List Piece) : Req :=
  { seq := k, what := .store, sp := .s, sync, elems := elemsOf keys ps }

theorem engineWriteAt_of_access {s s1 : State} {blk : Nat} {j : Job} {h : Shape} {r : Req} (hsp : h.sp ≤ 6) {sync : Sync} {ps : List (Int × Nat)}
    {k : Nat} (haccess : s.engineAccess blk j (storeReq h.keys sync k (h.pieces sync ps)) = (some r, s1)) :
    s.engineWriteAt blk j h sync ps k false = (some r.err, s1) := by
  have hdev : (h.sp == 7) = false := by
    rw [beq_eq_false_iff_ne]
    omega
  have hall : (h.pieces sync ps).filter (fun p => !false || p.mask.isNone) = h.pieces sync ps := List.filter_eq_self.mpr fun _ _ => rfl
  unfold storeReq elemsOf at haccess
  unfold State.engineWriteAt
  simp only [hdev, hall, Bool.false_eq_true, if_false, haccess]

theorem elemNo_mod {r : Req} {keys : List (Nat × Nat)} {p : Piece} (hdev : p.at' < devBase) :
    r.elemNo (engineElem keys p.at' p.n p.val p.mask) = 256 * r.num + 2 ^ 64 * p.mask.getD 0 := by
  rw [engineElem_of_bank hdev]
  rfl

/-- Different pieces have different numbers or addresses. -/
theorem numbersOf_nodup {ps : List Piece} {ks : List Nat} {us : List (Nat × Nat × Nat)} {keys : List (Nat × Nat)} (r : Req)
    (hput : PutsUnits ps ks us) (hdev : ∀ p ∈ ps, p.at' < devBase) : (numbersOf r keys ps).Nodup := by
  unfold numbersOf
  rw [List.Nodup, List.pairwise_map]
  refine hput.apart.imp_of_mem fun {p q} hp hq hne heq => ?_
  obtain ⟨hno, hea⟩ := Prod.mk.inj heq
  rw [elemNo_mod (hdev p hp), elemNo_mod (hdev q hq)] at hno
  have hat := congrArg BitVec.toNat hea
  have hlt := hdev p hp
  have hlt' := hdev q hq
  unfold devBase at hlt hlt'
  rw [BitVec.toNat_ofNat, BitVec.toNat_ofNat, Nat.mod_eq_of_lt hlt, Nat.mod_eq_of_lt hlt'] at hat
  rcases hne with hne | hne
  · exact hne hat
  · omega

theorem MemWrote.congr {m u : Mem} {keys : List (Nat × Nat)} {sync : Sync} {put put' : (Nat → Bool) → Nat → Bool} {ws ws' : List Nat}
    (h : MemWrote m u keys sync put ws) (hput : ∀ f, put f = put' f) (hws : ∀ w, w ∈ ws ↔ w ∈ ws') : MemWrote m u keys sync put' ws' := by
  refine ⟨h.bits.trans (hput _), fun w => ?_, h.poison, fun w => ?_⟩
  · rw [h.tags]
    simp only [hws]
  · rw [← hws]
    exact h.stamps w

theorem PutsUnits.words {ps : List Piece} {ks : List Nat} {us : List (Nat × Nat × Nat)} (h : PutsUnits ps ks us) (w : Nat) :
    (w ∈ ps.flatMap fun p => wordsOf p.at' p.n) ↔ w ∈ ks := by
  rw [List.mem_flatMap]
  exact ⟨fun ⟨p, hp, hw⟩ => (h.fits p hp).words w hw, h.all w⟩

/-- An engine whose words can be written, and whose earlier requests had other numbers, writes its units at once. -/
theorem CanWrite.engineWriteAt {s : State} {blk : Nat} {j : Job} {h : Shape} {sync : Sync} {ps : List (Int × Nat)} {k : Nat} {ks : List Nat}
    {us : List (Nat × Nat × Nat)} {done : List (Nat × Word)} (hsp : h.sp ≤ 6) (hsync : sync ≠ .wef) (hpace : s.pace = none)
    (hidle : (s.th (engineThread blk (engineNo j.eng))).outst = []) (hkept : KeptByEngine s (engineThread blk (engineNo j.eng)) j done)
    (hnew : ∀ x ∈ done, x.1 % 2 ^ 64 ≠ 256 * (j.num + k) % 2 ^ 64) (hput : PutsUnits (h.pieces sync ps) ks us) (hcan : CanWrite s h.keys ks) :
    ∃ u done', s.engineWriteAt blk j h sync ps k false = (some 0, u) ∧
      EngineWrote s u (engineThread blk (engineNo j.eng)) h.keys sync (fun f => us.foldl putUnit f) ks ∧
      KeptByEngine u (engineThread blk (engineNo j.eng)) j done' ∧ ∀ x ∈ done', x ∈ done ∨ x.1 % 2 ^ 64 = 256 * (j.num + k) % 2 ^ 64 := by
  generalize ht : engineThread blk (engineNo j.eng) = t at *
  have hact : isAct t = false := ht ▸ not_isAct_engineThread ..
  set P := h.pieces sync ps
  set r := storeReq h.keys sync k P
  have hdev : ∀ p ∈ P, p.at' < devBase := fun p hp => (hcan.bankAt (hput.fits p hp)).2
  have hstores : StoresIn (engineReq blk j r) := ⟨rfl, rfl, hsync, rfl, rfl⟩
  have hstart : (s.setTh t (engineRuns blk j r)).th t = engineRuns blk j r := (State.th_setTh ..).trans (if_pos rfl)
  have hcan1 : CanWrite (s.setTh t (engineRuns blk j r)) h.keys ks :=
    ⟨hcan.bank, hcan.sound, fun w hw => State.held_setTh s t rfl (hcan.free w hw), hcan.calm⟩
  have hissuer : ((s.setTh t (engineRuns blk j r)).th t).issuer = if j.issuer = 0 then none else some j.thread := by rw [hstart]; rfl
  have hnum : ∀ x ∈ numbersOf (engineReq blk j r) h.keys P, x.1 % 2 ^ 64 = 256 * (j.num + k) % 2 ^ 64 := fun x hx => by
    obtain ⟨p, hp, rfl⟩ := List.mem_map.mp hx
    have hno : (engineReq blk j r).num = j.num + k := rfl
    rw [elemNo_mod (hdev p hp), hno, Nat.add_mul_mod_self_left]
  obtain ⟨u, s', hrun, hu, hkept', hwrote⟩ := CanWrite.runElems hstores P (u := {}) 0 hput.fits hcan1 ((keptFor_iff hissuer hact).mpr hkept)
    (numbersOf_nodup _ hput hdev) (fun x hx hin => hnew x hin (hnum x hx)) ⟨rfl, rfl, rfl⟩
  have hth' : s'.th t = engineRuns blk j r := by
    rw [hwrote.rest]
    exact hstart
  have haccess := State.engineAccessAs_of_runElems (blk := blk) (j := j) (r := r) rfl rfl rfl rfl hidle hpace hrun hu.phase (by rw [hth']; rfl)
    (by rw [hwrote.rest]; exact hcan.calm)
  set q := (engineReq blk j r).after u
  obtain ⟨blocks, hnote, hepochs⟩ := State.noteHazard_eq
    { (s'.setReq t q) with threads := Map.drop (fun k => k == t) (s'.setReq t q).threads } blk j q
  have hdone : (s'.setReq t q).engineDone t blk j q =
      { (s'.setReq t q) with threads := Map.drop (fun k => k == t) (s'.setReq t q).threads, blocks } := hnote
  have hthreads : ∀ v, ((s'.setReq t q).engineDone t blk j q).th v = if (v == t) = true then {} else s.th v := fun v => by
    rw [hdone]
    refine (State.th_dropThread (s'.setReq t q) t v).trans ?_
    split
    · rfl
    next hne =>
      have hv : v ≠ t := fun h => hne (beq_iff_eq.mpr h)
      rw [State.setReq, State.th_modTh, if_neg hv, hwrote.rest]
      exact (State.th_setTh ..).trans (if_neg hv)
  have hsame : SameKept s' ((s'.setReq t q).engineDone t blk j q) := SameKept.of_epochs hepochs
  have hkeptby := (keptFor_iff (by rw [hth']; rfl) hact).mp hkept'
  refine ⟨(s'.setReq t q).engineDone t blk j q, numbersOf (engineReq blk j r) h.keys P ++ done, ?_, ⟨?_, ?_, ?_, fun pa hpa => ?_, ?_⟩,
    fun h1 h2 h3 => hsame.keptIn (hkeptby h1 h2 h3), fun x hx => ?_⟩
  · have herr : q.err = 0 := hu.err
    rw [engineWriteAt_of_access hsp ((congrArg (fun t => s.engineAccessAs t blk j r) ht).trans haccess), herr]
  · rw [hdone]
    exact hwrote.mem.congr hput.put hput.words
  · rw [hdone, hpace]
    show s'.pace = none
    rw [hwrote.rest]
    exact hpace
  · rw [hdone]
    show s'.owners = s.owners
    rw [hwrote.rest]
    rfl
  · refine State.held_of_serve (fun v => ?_) hpa
    rw [hthreads]
    split
    · exact Or.inr rfl
    · exact Or.inl rfl
  · rw [hthreads, beq_self_eq_true]
    rfl
  · rcases List.mem_append.mp hx with hx | hx
    · exact Or.inr (hnum x hx)
    · exact Or.inl hx

end Sys2Proof.Machine
end

section
/-! SUPPORT. Jobs write their destinations (R285–R287, R290, R322, R327, R355), and what is told of jobs as a whole. -/

namespace Sys2Proof.Machine

open Sys2Proof.Claims

/-! ## What a job's end leaves of memory -/

theorem State.finishJob_mem (s : State) (blk : Nat) (j : Job) (fl : BitVec 5) : (s.finishJob blk j 0 fl).mem = s.mem := by
  unfold State.finishJob
  cases (s.job? blk j.id).any fun k => k.haz == some true <;> simp only [and_true, and_false, Bool.false_eq_true, if_true, if_false] <;> split <;> rfl

/-! ## Words that a job's engine can write -/

theorem canWrite_of_reads {s : State} {blk : Nat} {j : Job} {keys : List (Nat × Nat)} {ws ks : List Nat}
    (h : EngineReads s blk j (keyed keys ws)) (hsub : ∀ k ∈ ks, 8 * k ∈ ws) : CanWrite s keys ks := by
  have hin : ∀ k ∈ ks, (8 * k, keyIn keys (8 * k)) ∈ keyed keys ws := fun k hk => List.mem_map.mpr ⟨8 * k, hsub k hk, rfl⟩
  refine ⟨fun k hk => ?_, fun k hk => ?_, fun k hk => h.free _ (hin k hk), h.calm⟩
  · obtain ⟨hlo, hhi, -⟩ := h.bank _ (hin k hk)
    exact ⟨hlo, hhi⟩
  · have hsound := h.sound _ (hin k hk)
    rwa [Nat.mul_div_cancel_left k (by decide)] at hsound

theorem keptByEngine_of_reads {s : State} {blk : Nat} {j : Job} {ws : List (Nat × Nat)} (h : EngineReads s blk j ws) (t : Nat) :
    KeptByEngine s t j [] := fun _ _ _ team p hp a ha => by
  rw [h.fresh team p hp] at ha
  cases ha

/-- Words of some of a shape's units are words of the shape. -/
theorem Shape.words_of_units {h : Shape} {bs : List Int} (hsub : ∀ b ∈ bs, b ∈ h.units) {k : Nat} (hk : k ∈ h.wordsOfUnits bs) : 8 * k ∈ h.words := by
  obtain ⟨b, hb, hk⟩ := mem_wordsOfUnits.mp hk
  exact mem_words.mpr ⟨k, mem_wordsOfUnits.mpr ⟨b, hsub b hb, hk⟩, rfl⟩

theorem Shape.putsUnits_of_units {h : Shape} (sync : Sync) {ps : List (Int × Nat)} (hsub : ∀ p ∈ ps, p.1 ∈ h.units) (hsp : h.sp ≤ 6)
    (hpos : sync ≠ .plain → ∀ b ∈ h.units, 0 ≤ b) : PutsUnits (h.pieces sync ps) (h.wordsOfUnits (ps.map Prod.fst)) (unitsOf h ps) := by
  refine h.putsUnits_pieces sync (fun hne => ?_) fun hsync p hp q hq heq => ?_
  · obtain ⟨p, hp⟩ := List.exists_mem_of_ne_nil ps hne
    exact unitBits_pos (List.ne_nil_of_mem (hsub p hp))
  · exact flatBit_injective hsp (hpos hsync _ (hsub p hp)) (hpos hsync _ (hsub q hq)) heq

theorem zip_fst_mem {bs : List Int} {xs : List Nat} : ∀ p ∈ bs.zip xs, p.1 ∈ bs := fun p hp => (List.of_mem_zip (a := p.1) (b := p.2) hp).1

/-! ## The write of a destination -/

/-- Memory after the write of some units by an engine under a tag action. -/
theorem writesUnits_of_mem {s t u : State} {keys : List (Nat × Nat)} {sync : Sync} {us : List (Nat × Nat × Nat)} {ws : List Nat}
    (hmem : t.mem = u.mem) (h : MemWrote s.mem u.mem keys sync (fun f => us.foldl putUnit f) ws) : WritesUnits s t us := fun q => by
  rw [bitAt_eq, hmem, h.bits, foldl_putUnit]
  rfl

theorem tag_of_plain {s t u : State} {keys : List (Nat × Nat)} {put : (Nat → Bool) → Nat → Bool} {ws : List Nat} (hmem : t.mem = u.mem)
    (h : MemWrote s.mem u.mem keys .plain put ws) (w : Nat) : t.mem.tag w = s.mem.tag w := by
  rw [hmem, h.tags]
  exact ite_self _

theorem leavesTag_syncOfDsy (dsy : BitVec 2) (old : Bool) :
    leavesTag (syncOfDsy dsy) old = if dsy = 1 then true else if dsy = 2 then false else old := by
  revert dsy old
  decide

section
variable {s : State} {blk id : Nat} {j : Job} {dst : Shape} (hjob : s.job? blk id = some j) (hphase : j.phase = .consumed)
  (hdst : j.dst = some dst) (hsp : dst.sp ≤ 6) (hreads : EngineReads s blk j (keyed dst.keys dst.words))
include hsp hreads

/-- A job's first write to its destination. -/
theorem engineWrite_of_reads (sync : Sync) (hsync : sync ≠ .wef) (xs : List Nat) (hpos : sync ≠ .plain → ∀ b ∈ dst.units, 0 ≤ b) :
    ∃ u done, s.engineWrite blk j dst sync xs = (some 0, u) ∧
      EngineWrote s u (engineThread blk (engineNo j.eng)) dst.keys sync (fun f => (unitsOf dst (dst.units.zip xs)).foldl putUnit f)
        (dst.wordsOfUnits ((dst.units.zip xs).map Prod.fst)) ∧
      KeptByEngine u (engineThread blk (engineNo j.eng)) j done ∧ ∀ x ∈ done, x.1 % 2 ^ 64 = 256 * j.num % 2 ^ 64 := by
  have hcan : CanWrite s dst.keys (dst.wordsOfUnits ((dst.units.zip xs).map Prod.fst)) := canWrite_of_reads hreads fun k hk =>
    Shape.words_of_units (fun b hb => by
      obtain ⟨p, hp, rfl⟩ := List.mem_map.mp hb
      exact zip_fst_mem p hp) hk
  obtain ⟨u, done, hwrite, hwrote, hkept, hdone⟩ := hcan.engineWriteAt (k := 0) hsp hsync hreads.whole hreads.idle (keptByEngine_of_reads hreads _)
    (List.forall_mem_nil _) (Shape.putsUnits_of_units sync zip_fst_mem hsp hpos)
  exact ⟨u, done, hwrite, hwrote, hkept, fun x hx => (hdone x hx).resolve_left List.not_mem_nil⟩

include hjob hphase hdst

theorem sweepWritesItsResults {src : Shape} {xs : List Nat} {fl : BitVec 5} (heng : j.eng = .vector) (hsrc : j.src = some src)
    (hres : sweepResult j src dst = (xs, fl, 0)) (hmay : dst.mayWrite s j = true) :
    ∃ t, exec (.sweepComplete blk id) s = .next t ∧ WritesUnits s t (unitsOf dst (dst.units.zip xs)) ∧ ∀ w, t.mem.tag w = s.mem.tag w := by
  obtain ⟨u, done, hwrite, hwrote, -, -⟩ := engineWrite_of_reads hsp hreads .plain (by decide) xs fun h => absurd rfl h
  have hmem := u.finishJob_mem blk j fl
  exact ⟨_, exec_sweepComplete_of_written hjob hphase hreads.whole heng hsrc hdst hres hmay hwrite, writesUnits_of_mem hmem hwrote.mem,
    tag_of_plain hmem hwrote.mem⟩

theorem copyWritesItsElements {dsy : BitVec 2} {src : Shape} (hstatus : j.status = 0) (hop : j.op = .copy dsy) (hsrc : j.src = some src)
    (hbad : src.badExponent j.image = false) (hpos : ∀ b ∈ dst.units, 0 ≤ b) :
    ∃ t, exec (.copyJobComplete blk id) s = .next t ∧
      WritesUnits s t (unitsOf dst (dst.units.zip ((src.values j.image).map src.padded))) ∧
      (dst.units.length = (src.values j.image).length → ∀ w, t.mem.tag w =
        if dst.words.contains (8 * w) then (if dsy = 1 then true else if dsy = 2 then false else s.mem.tag w) else s.mem.tag w) := by
  have hwef : ∀ dsy : BitVec 2, syncOfDsy dsy ≠ .wef := by decide
  obtain ⟨u, done, hwrite, hwrote, -, -⟩ := engineWrite_of_reads hsp hreads (syncOfDsy dsy) (hwef dsy) ((src.values j.image).map src.padded)
    fun _ => hpos
  have hmem := u.finishJob_mem blk j 0
  refine ⟨_, exec_copyJobComplete_of_copied hjob hphase hop hsrc hdst hstatus hbad hwrite, writesUnits_of_mem hmem hwrote.mem, fun hlen w => ?_⟩
  have hunits : (dst.units.zip ((src.values j.image).map src.padded)).map Prod.fst = dst.units :=
    List.map_fst_zip (by rw [List.length_map, hlen])
  have hword : w ∈ dst.wordsOfUnits dst.units ↔ dst.words.contains (8 * w) = true := by
    rw [List.contains_iff_mem, Shape.mem_words]
    exact ⟨fun h => ⟨w, h, rfl⟩, fun ⟨k, hk, heq⟩ => Nat.eq_of_mul_eq_mul_left (by decide) heq ▸ hk⟩
  rw [hmem, hwrote.mem.tags, hunits, leavesTag_syncOfDsy]
  simp only [hword]

/-! ## A relabel job's two writes -/

variable {dense : Bool} {red : BitVec 3} (hstatus : j.status = 0) (hop : j.op = .relabel dense red) (hpos : j.pos < 3)
include hstatus hop hpos

theorem relabelWritesItsLabels (hout : j.out = none) :
    ∃ t, exec (.relabelJobComplete blk id) s = .next t ∧ WritesUnits s t (unitsOf dst (dst.units.zip j.labels)) ∧ ∀ w, t.mem.tag w = s.mem.tag w := by
  obtain ⟨u, done, hwrite, hwrote, -, -⟩ := engineWrite_of_reads hsp hreads .plain (by decide) j.labels fun h => absurd rfl h
  have hmem := (u.modJob blk id fun k => { k with pos := 3 }).finishJob_mem blk j j.flags
  exact ⟨_, exec_relabelJobComplete_of_labels hjob hphase hop hdst hstatus hpos hwrite hout, writesUnits_of_mem (u := u) hmem hwrote.mem,
    tag_of_plain (u := u) hmem hwrote.mem⟩

theorem relabelWritesItsValues {h : Shape} (hout : j.out = some h) (hhsp : h.sp ≤ 6) (hhreads : EngineReads s blk j (keyed h.keys h.words))
    (hunits : ∀ p ∈ j.outs, p.1 ∈ h.units) (hkeys : ∀ w ∈ h.words, w ∈ dst.words → keyIn h.keys w = keyIn dst.keys w) :
    ∃ t, exec (.relabelJobComplete blk id) s = .next t ∧ WritesUnits s t (unitsOf dst (dst.units.zip j.labels) ++ unitsOf h j.outs) ∧
      ∀ w, t.mem.tag w = s.mem.tag w := by
  obtain ⟨u, done, hwrite, hwrote, hkept, hdone⟩ := engineWrite_of_reads hsp hreads .plain (by decide) j.labels fun h => absurd rfl h
  have hsub : ∀ b ∈ j.outs.map Prod.fst, b ∈ h.units := fun b hb => by
    obtain ⟨p, hp, rfl⟩ := List.mem_map.mp hb
    exact hunits p hp
  have hcan : CanWrite u h.keys (h.wordsOfUnits (j.outs.map Prod.fst)) :=
    (canWrite_of_reads hhreads fun k hk => Shape.words_of_units hsub hk).after hwrote.mem hwrote.held hwrote.owners fun w hw hwh =>
      (hkeys _ (Shape.words_of_units hsub hwh) (Shape.words_of_units (fun b hb => by
        obtain ⟨p, hp, rfl⟩ := List.mem_map.mp hb
        exact zip_fst_mem p hp) hw)).symm
  set v := u.modJob blk id fun k => { k with pos := 3 } with hv
  have hepochs : SameKept u v := SameKept.of_epochs fun b => by
    rw [hv, State.modJob, State.block_modBlock]
    split
    · next heq => rw [heq]
    · rfl
  obtain ⟨x, -, hwrite', hwrote', -, -⟩ := CanWrite.engineWriteAt (s := v) (k := 1) (done := done) hhsp (sync := .plain) (by decide)
    (hwrote.pace.trans hreads.whole) hwrote.idle (fun h1 h2 h3 => hepochs.keptIn (hkept h1 h2 h3)) (fun y hy => by have := hdone y hy; omega)
    (Shape.putsUnits_of_units .plain hunits hhsp fun h => absurd rfl h) ⟨hcan.bank, hcan.sound, hcan.free, hcan.calm⟩
  have hmem := x.finishJob_mem blk j j.flags
  refine ⟨_, exec_relabelJobComplete_of_values hjob hphase hop hdst hstatus hpos hwrite hout hwrite', fun q => ?_, fun w => ?_⟩
  · have hbits : x.mem.bit = (unitsOf h j.outs).foldl putUnit ((unitsOf dst (dst.units.zip j.labels)).foldl putUnit s.mem.bit) := by
      rw [← hwrote.mem.bits]
      exact hwrote'.mem.bits
    rw [bitAt_eq, hmem, hbits, ← List.foldl_append, foldl_putUnit]
    rfl
  · exact (tag_of_plain hmem hwrote'.mem w).trans (tag_of_plain rfl hwrote.mem w)

end

theorem jobsWriteTheirDestination : Claims.JobsWriteTheirDestination := by
  intro s blk id j dst hjob hphase hstatus hdst hsp hreads
  refine ⟨fun src xs fl heng _ _ hsrc hres hmay => ?_, fun dsy src _ hop hsrc hbad hpos => ?_, fun dense red _ hop hpos hout => ?_⟩
  · exact sweepWritesItsResults hjob hphase hdst hsp hreads heng hsrc hres hmay
  · exact copyWritesItsElements hjob hphase hdst hsp hreads hstatus hop hsrc hbad hpos
  · cases hcase : j.out with
    | none =>
      rw [List.append_nil]
      exact relabelWritesItsLabels hjob hphase hdst hsp hreads hstatus hop hpos hcase
    | some h =>
      obtain ⟨hhsp, hhreads, hunits, hkeys⟩ := hout h hcase
      exact relabelWritesItsValues hjob hphase hdst hsp hreads hstatus hop hpos hcase hhsp hhreads hunits hkeys

/-- Settles O35: a completion waits for its reply address once its job's writes are performed; those are followed piece by piece through the
engine's access; and the waits, polls and cancels go by the jobs that are selected. -/
theorem jobsEndAndAreWaitedFor : Obligations.JobsEndAndAreWaitedFor := by
  unfold Obligations.JobsEndAndAreWaitedFor
  exact ⟨completionsReachTheirReply, jobsWriteTheirDestination, waitingEndsWithItsJobs⟩

end Sys2Proof.Machine
end

section
/-! SUPPORT. The canonical form of memory (log 6) over outcomes, branches and folds, and under the updates of memory itself. Each
function of the model that gives a state has one lemma in what follows, in the model's order: its branches end in states
of functions that have theirs, or in one that differs outside memory. -/

namespace Sys2Proof.Machine
open Sys2Proof.Claims

/-- The state that an outcome goes on with, if it goes on, has its memory in canonical form. -/
def Keeps : Out State → Prop | .next t => t.Inv | _ => True

@[simp] theorem keeps_next {t : State} : Keeps (.next t) = t.Inv := rfl
/-- The state that the try of an element goes on with has its memory in canonical form. -/
def Try.Inv : Try → Prop | .done _ _ s => s.Inv | .err _ s => s.Inv | .wait s => s.Inv | .blocked => True

/-- The state that the read of a control register goes on with has its memory in canonical form. -/
def CRead.Inv : CRead → Prop | .value _ s => s.Inv | _ => True

theorem State.inv_ite {c : Prop} [Decidable c] {s t : State} (hs : s.Inv) (ht : t.Inv) : (if c then s else t).Inv := by
  split <;> assumption

theorem keeps_ite {c : Prop} [Decidable c] {a b : Out State} (ha : Keeps a) (hb : Keeps b) : Keeps
    (if c then a else b) := by
  split <;> assumption

theorem State.inv_foldl {β : Type} {f : State → β → State} {l : List β} {s : State} (hf : ∀ s b, s.Inv → (f s b).Inv)
    (h : s.Inv) : (l.foldl f s).Inv := by
  induction l generalizing s with
  | nil => exact h
  | cons b l ih => exact ih (hf s b h)

theorem State.inv_of_mem {s t : State} (hm : t.mem = s.mem) (h : s.Inv) : t.Inv := by rw [State.Inv, hm]; exact h
theorem State.inv_modMem {s : State} {f : Mem → Mem} (h : s.Inv) (hf : ∀ m : Mem, m.wf → (f m).wf) :
    (s.modMem f).Inv :=
  hf _ h

theorem State.inv_writeWords {s : State} {key w n x : Nat} (h : s.Inv) : (s.writeWords key w n x).Inv :=
  State.wf_writeWords _ _ _ _ h

theorem State.inv_writeAt {s : State} {key w n x : Nat} (h : s.Inv) : (s.writeAt key w n x).Inv :=
  State.wf_writeAt _ _ _ _ h

theorem State.inv_monitorWrite {s : State} {a : Nat} {bs : List Byte} (h : s.Inv) : (s.monitorWrite a bs).Inv :=
  State.wf_monitorWrite a bs h

theorem State.inv_touchLine {s : State} {pa : Nat} (h : s.Inv) : (s.touchLine pa).Inv := State.wf_touchLine pa h
theorem State.inv_writeTile {s : State} {blk : Nat} {t : TIdx} {f : BitVec 5} {cells : List Nat} (h : s.Inv) :
    (s.writeTile blk t f cells).Inv :=
  State.wf_writeTile blk t f cells h

theorem State.inv_zeroTile {s : State} {blk : Nat} {t : TIdx} (h : s.Inv) : (s.zeroTile blk t).Inv :=
  State.wf_zeroTile blk t h

theorem State.inv_yWrite {s t : State} {ea x : Word} (h : s.Inv) (ht : s.yWrite ea x = some t) : t.Inv :=
  State.wf_yWrite h ht

theorem State.inv_moduleReset {s : State} {c : Byte} (h : s.Inv) : (s.moduleReset c).Inv := State.wf_moduleReset c h
theorem State.inv_saveRecord {s : State} {blk n : Nat} {a : Act} (h : s.Inv) : (s.saveRecord blk n a).Inv :=
  State.wf_saveRecord blk n a h

theorem State.inv_sealRecord {s : State} {blk n : Nat} {a : Act} {k : Digest} (h : s.Inv) :
    (s.sealRecord blk n a k).Inv :=
  State.wf_sealRecord blk n a k h

theorem State.inv_clearValid {s : State} {blk n : Nat} {a : Act} (h : s.Inv) : (s.clearValid blk n a).Inv :=
  State.wf_clearValid blk n a h

theorem State.inv_snd_ite {α : Type} {c : Prop} [Decidable c] {p q : α × State} (hp : p.2.Inv) (hq : q.2.Inv) :
    (if c then p else q).2.Inv := by
  split <;> assumption

theorem State.inv_of_pair {α : Type} {p : α × State} {a : α} {s : State} (he : p = (a, s)) (h : p.2.Inv) : s.Inv := by
  rw [he] at h; exact h

theorem Try.inv_ite {c : Prop} [Decidable c] {a b : Try} (ha : a.Inv) (hb : b.Inv) : (if c then a else b).Inv := by
  split <;> assumption

theorem State.inv_getD {o : Option State} {s : State} (ho : ∀ {t}, o = some t → t.Inv) (h : s.Inv) :
    (o.getD s).Inv := by
  cases o with
  | none => exact h
  | some t => exact ho rfl

theorem Mem.wf_dropBytes {m : Mem} (p : Nat → Bool) (h : m.wf) : Mem.wf { m with bytes := Map.drop p m.bytes } := by
  have := Map.wf_drop (0 : Byte) p h
  exact this

end Sys2Proof.Machine
end

section
/-! SUPPORT. The canonical form of memory under the updates of the state, traps, retirement and stalls. -/

namespace Sys2Proof.Machine
open Sys2Proof.Claims

theorem State.inv_setTh {s : State} {t : Nat} {x : Thread} (h : s.Inv) : (s.setTh t x).Inv := h
theorem State.inv_modTh {s : State} {t : Nat} {f : Thread → Thread} (h : s.Inv) : (s.modTh t f).Inv := h
theorem State.inv_modAct {s : State} {t : Nat} {f : Act → Act} (h : s.Inv) : (s.modAct t f).Inv := h
theorem State.inv_modCtx {s : State} {t : Nat} {f : Act → Act} (h : s.Inv) : (s.modCtx t f).Inv := h
theorem State.inv_modBlock {s : State} {b : Nat} {f : Block → Block} (h : s.Inv) : (s.modBlock b f).Inv := h
theorem State.inv_modCluster {s : State} {c : Nat} {f : Cluster → Cluster} (h : s.Inv) : (s.modCluster c f).Inv := h
theorem State.inv_modOwner {s : State} {o : Nat} {f : Owner → Owner} (h : s.Inv) : (s.modOwner o f).Inv := h
theorem State.inv_modDie {s : State} {d : Nat} {f : Die → Die} (h : s.Inv) : (s.modDie d f).Inv := h
theorem State.inv_eachBlock {s : State} {f : Block → Block} (h : s.Inv) : (s.eachBlock f).Inv := h
theorem State.inv_modMe {s : State} {f : Thread → Thread} (h : s.Inv) : (s.modMe f).Inv := h
theorem State.inv_modMyAct {s : State} {f : Act → Act} (h : s.Inv) : (s.modMyAct f).Inv := h
theorem State.inv_setG {s : State} {r : GReg} {w : Word} (h : s.Inv) : (s.setG r w).Inv := h
theorem State.inv_setV {s : State} {r : VIdx} {w : VReg} (h : s.Inv) : (s.setV r w).Inv := h
theorem State.inv_orFlags {s : State} {f : BitVec 5} (h : s.Inv) : (s.orFlags f).Inv :=
  State.inv_ite (State.inv_modMyAct h) h

theorem State.inv_takeFree {s : State} (h : s.Inv) : s.takeFree.2.Inv := h
theorem State.inv_readWord {s : State} {key w : Nat} (h : s.Inv) : (s.readWord key w).2.Inv := by
  grind [State.readWord, State.inv_takeFree]

theorem State.inv_readWords {s : State} {key w n : Nat} (h : s.Inv) : (s.readWords key w n).2.Inv :=
  State.inv_of_mem (State.readWords_mem s key w n) h

theorem State.inv_readAt {s : State} {key a n : Nat} (h : s.Inv) : (s.readAt key a n).2.Inv := by
  grind [State.readAt, State.inv_readWords, State.inv_readWord]

theorem State.inv_logRec {s : State} {src : Word} {cause sub : Byte} {val : Word} (h : s.Inv) :
    (s.logRec src cause sub val).Inv :=
  h

theorem State.inv_mapChannel {s : State} {blk : Nat} {pid : BitVec 16} {c d : CIdx} (h : s.Inv) :
    (s.mapChannel blk pid c d).Inv :=
  State.inv_ite (State.inv_modBlock h) h

theorem State.inv_modLaunch {s : State} {id : Word} {f : Launch → Launch} (h : s.Inv) : (s.modLaunch id f).Inv := h
theorem State.inv_push {s : State} {m : Msg} (h : s.Inv) : (s.push m).Inv := h
theorem State.inv_report {s : State} {cl : Nat} {pid : BitVec 16} {reply : Word} {words : List Word}
    {origin : Origin} (h : s.Inv) : (s.report cl pid reply words origin).Inv :=
  State.inv_ite h (State.inv_push h)

theorem State.inv_reportTo {s : State} {l : Launch} {words : List Word} {final : Bool} (h : s.Inv) :
    (s.reportTo l words final).Inv :=
  State.inv_report h

theorem State.inv_killEpoch {s : State} {a : Act} (h : s.Inv) : (s.killEpoch a).Inv := by
  grind [State.killEpoch, State.inv_eachBlock]

theorem State.inv_journalSendOf {s : State} {a : Act} {t : Nat} {dest : Word} {n : BitVec 24} (h : s.Inv) :
    (s.journalSendOf a t dest n).Inv := by
  grind [State.journalSendOf, State.inv_modBlock]

theorem State.inv_journalSend {s : State} {t : Nat} {dest : Word} {n : BitVec 24} (h : s.Inv) :
    (s.journalSend t dest n).Inv :=
  State.inv_journalSendOf h

theorem State.inv_uncount {s : State} {blk : Nat} {a : Act} (h : s.Inv) : (s.uncount blk a).Inv :=
  State.inv_modLaunch (State.inv_ite h (State.inv_modBlock h))

theorem State.inv_disown {s : State} {t : Nat} (h : s.Inv) : (s.disown t).Inv := h
theorem State.inv_leaveBars {s : State} {t : Nat} (h : s.Inv) : (s.leaveBars t).Inv := h
theorem State.inv_dropGrant {s : State} {t : Nat} (h : s.Inv) : (s.dropGrant t).Inv :=
  State.inv_ite (State.inv_modBlock h) h

theorem State.inv_freeThread {s : State} {t : Nat} (h : s.Inv) : (s.freeThread t).Inv :=
  State.inv_modTh (State.inv_uncount (State.inv_dropGrant (State.inv_leaveBars (State.inv_disown h))))

theorem State.inv_logRecorded {s : State} {t : Nat} {a : Act} (h : s.Inv) : (s.logRecorded t a).Inv :=
  State.inv_ite (State.inv_ite (State.inv_ite h (State.inv_logRec h)) (State.inv_logRec (State.inv_ite h
    (State.inv_logRec h)))) (State.inv_logRec (State.inv_ite (State.inv_ite h (State.inv_logRec h))
    (State.inv_logRec (State.inv_ite h (State.inv_logRec h)))))

theorem State.inv_dropDisplaced {s : State} {p : Act → Bool} (h : s.Inv) : (s.dropDisplaced p).Inv := by
  grind [State.dropDisplaced, State.inv_uncount, State.inv_eachBlock, State.inv_foldl]

theorem State.inv_dropOwed {s : State} {p : Owed → Bool} (h : s.Inv) : (s.dropOwed p).Inv := by
  grind [State.dropOwed, State.inv_modLaunch, State.inv_foldl, State.Inv]

theorem State.inv_stopLaunch {s : State} {id : Word} (h : s.Inv) : (s.stopLaunch id).Inv := by
  grind [State.stopLaunch, State.inv_freeThread, State.inv_modLaunch, State.inv_dropDisplaced, State.inv_dropOwed,
    State.inv_eachBlock, State.inv_modBlock, State.inv_foldl, State.Inv]

theorem State.inv_dropMessages {s : State} {team : Word × Word} (h : s.Inv) : (s.dropMessages team).Inv := by
  grind [State.dropMessages, State.inv_modLaunch, State.inv_eachBlock, State.inv_modBlock, State.inv_foldl,
    State.Inv]

theorem State.inv_errorReport {s : State} {t : Nat} {a : Act} {cause : Byte} {epc val : Word} (h : s.Inv) :
    (s.errorReport t a cause epc val).Inv := by
  grind [State.errorReport, State.inv_modLaunch, State.inv_reportTo]

theorem State.inv_stopOnError {s : State} {launch : Word} (h : s.Inv) : (s.stopOnError launch).Inv := by
  grind [State.stopOnError, State.inv_stopLaunch]

theorem State.inv_endFaulted {s : State} {t : Nat} {cause : Byte} {epc val : Word} (h : s.Inv) :
    (s.endFaulted t cause epc val).Inv := by
  grind [State.endFaulted, State.inv_stopOnError, State.inv_dropDisplaced, State.inv_dropOwed,
    State.inv_dropMessages, State.inv_eachBlock, State.inv_freeThread, State.inv_logRecorded, State.inv_errorReport,
    State.inv_foldl]

theorem State.inv_doubleFault {s : State} {t : Nat} {cause : Byte} {val : Word} (h : s.Inv) :
    (s.doubleFault t cause val).Inv :=
  State.inv_modOwner (State.inv_endFaulted (State.inv_modTh (State.inv_logRec h)))

theorem State.inv_monitorEntry {s : State} {t : Nat} {tr : Trap} (h : s.Inv) : (s.monitorEntry t tr).Inv :=
  State.inv_ite (State.inv_doubleFault (State.inv_setTh (State.inv_dropGrant h))) (State.inv_setTh
    (State.inv_dropGrant h))

theorem State.inv_turnOf {s : State} {o : Nat} (h : s.Inv) : (s.turnOf o).Inv := State.inv_ite (State.inv_modOwner h) h
theorem State.inv_abandon {s : State} {t : Nat} {code : Byte} (h : s.Inv) : (s.abandon t code).Inv := by
  grind [State.abandon, State.inv_turnOf, State.inv_logRec, State.inv_modTh]

theorem State.inv_awaitReplay {s : State} {t : Nat} {code : Byte} {val : Word} (h : s.Inv) :
    (s.awaitReplay t code val).Inv :=
  State.inv_modTh (State.inv_logRec (State.inv_dropGrant h))

theorem State.inv_takeFault {s : State} {tr : Trap} (h : s.Inv) : (s.takeFault tr).Inv := by
  grind [State.takeFault, State.inv_monitorEntry, State.inv_awaitReplay, State.inv_doubleFault, State.inv_abandon,
    State.Inv]

theorem keeps_raise {code : Byte} {val : Word} {s : State} (h : s.Inv) : Keeps (raise code val s) :=
  State.inv_takeFault h

theorem keeps_raiseOpen {code : Byte} {s : State} (h : s.Inv) : Keeps (raiseOpen code s) :=
  keeps_raise (State.inv_takeFree h)

theorem keeps_raiseOwn {val : Word} {s : State} (h : s.Inv) : Keeps (raiseOwn val s) := State.inv_takeFault h
theorem keeps_illegal {i : Instr} {s : State} (h : s.Inv) : Keeps (illegal i s) := keeps_raise h
theorem State.inv_recordError {s : State} {t : Nat} {cause : Byte} {op sp : Nat} {addr : Word} (h : s.Inv) :
    (s.recordError t cause op sp addr).Inv :=
  h

theorem State.inv_takeDeferred {s : State} {tr : Trap} (h : s.Inv) : (s.takeDeferred tr).Inv :=
  State.inv_takeFault (State.inv_modMyAct h)

theorem State.inv_retire {s : State} (h : s.Inv) : s.retire.Inv := h
theorem State.inv_writeRetire {s : State} {d : GReg} {w : Word} (h : s.Inv) : (s.writeRetire d w).Inv := h
theorem State.inv_jumpTo {s : State} {lin : Nat} (h : s.Inv) : (s.jumpTo lin).Inv := h
theorem State.inv_stall {s : State} {w : Wait} (h : s.Inv) : (s.stall w).Inv := h
theorem State.inv_stallSend {s : State} {w : SendWait} (h : s.Inv) : (s.stallSend w).Inv := h
theorem State.inv_unstall {s : State} {t : Nat} (h : s.Inv) : (s.unstall t).Inv := h
theorem keeps_noService {i : Instr} {s : State} {f : State → Out State} (h : s.Inv) (hf : ∀ s, s.Inv → Keeps (f s))
    : Keeps (noService i s f) := by
  grind [noService, keeps_illegal]

theorem keeps_monitorOnly {i : Instr} {s : State} {f : State → Out State} (h : s.Inv)
    (hf : ∀ s, s.Inv → Keeps (f s)) : Keeps (monitorOnly i s f) := by
  grind [monitorOnly, keeps_raiseOpen, keeps_illegal]

end Sys2Proof.Machine
end

section
/-! SUPPORT. The canonical form of memory under scalar instructions, kilns, packets and multicast do (R109–R118, R362–R374). -/

namespace Sys2Proof.Machine
open Sys2Proof.Claims

theorem keeps_op2 {f : Word → Word} {d a : GReg} {s : State} (h : s.Inv) : Keeps (op2 f d a s) := h
theorem keeps_execBperm {d a : GReg} {c : VIdx} {s : State} (h : s.Inv) : Keeps (execBperm d a c s) :=
  keeps_noService h (fun _ hs => keeps_op2 hs)

theorem keeps_reservedFmt {c : BitVec 5} {s : State} (h : s.Inv) : Keeps (reservedFmt c s) := keeps_raise h
theorem State.inv_lookupOrCreate {s : State} {cl : Nat} {pid : BitVec 16} {mon : Bool} {dig : Digest} (h : s.Inv) :
    (s.lookupOrCreate cl pid mon dig).2.Inv := by
  grind [State.lookupOrCreate, State.inv_modCluster]

theorem State.inv_evict {s : State} {cl : Nat} {hh : BitVec 32} (h : s.Inv) : (s.evict cl hh).Inv := h
theorem State.inv_makeRoom {s : State} {cl n fuel : Nat} (h : s.Inv) : (s.makeRoom cl n fuel).1.Inv := by
  induction fuel generalizing s with
  | zero => exact h
  | succ fuel ih => grind [State.makeRoom, State.inv_evict]

theorem State.inv_placeInst {s : State} {cl : Nat} {pid : BitVec 16} {hh : BitVec 32} {i : Inst} (h : s.Inv) :
    (s.placeInst cl pid hh i).Inv :=
  h

theorem State.inv_install {s : State} {cl : Nat} {pid : BitVec 16} {hh : BitVec 32} {i : Inst} (h : s.Inv) :
    (s.install cl pid hh i).1.Inv := by
  grind [State.install, State.inv_placeInst, State.inv_makeRoom, State.inv_evict]

theorem State.inv_dirFull {s : State} {trig : BitVec 4} (h : s.Inv) : (s.dirFull trig).Inv :=
  State.inv_takeFault (State.inv_takeFree (State.inv_modMyAct h))

theorem State.inv_miss {s : State} {t : Nat} {hh : BitVec 32} {trig : BitVec 4} (h : s.Inv) :
    (s.miss t hh trig).Inv :=
  h

theorem State.inv_evictRoutine {s : State} {pid : BitVec 16} {k : BitVec 6} (h : s.Inv) :
    (s.evictRoutine pid k).Inv :=
  h

theorem State.inv_missRoutine {s : State} {t : Nat} {pid : BitVec 16} {k : BitVec 6} {trig : BitVec 4} (h : s.Inv) :
    (s.missRoutine t pid k trig).Inv :=
  h

theorem State.inv_faultAt {s : State} {t : Nat} {tr : Trap} (h : s.Inv) : (s.faultAt t tr).Inv := by
  grind [State.faultAt, State.inv_takeFault, State.Inv]

theorem State.inv_endFetch {s : State} {cl : Nat} {f : Fetch} {reason : Byte} {inst : BitVec 4} (h : s.Inv) :
    (s.endFetch cl f reason inst).Inv := by
  grind [State.endFetch, State.inv_faultAt, State.inv_unstall, State.inv_takeFree, State.inv_modAct,
    State.inv_modCluster, State.inv_foldl]

theorem State.inv_modPort {s : State} {p : Nat} {f : Port → Port} (h : s.Inv) : (s.modPort p f).Inv := h
theorem State.inv_outPkt {s : State} {p : Nat} {k : Packet} (h : s.Inv) : (s.outPkt p k).Inv := h
theorem State.inv_forward {s : State} {k : Packet} {keep : List Nat} (h : s.Inv) : (s.forward k keep).2.Inv := by
  grind [State.forward, State.inv_outPkt]

theorem State.inv_chooseRoute {s : State} {dst : BitVec 22} {vcl : BitVec 2} (h : s.Inv) :
    (s.chooseRoute dst vcl).2.Inv := by
  grind [State.chooseRoute, State.inv_takeFree]

theorem State.inv_sendFlit {s : State} {port : Nat} {k : Packet} {i : Nat} (h : s.Inv) : (s.sendFlit port k i).Inv := h
theorem State.inv_departFlit {s : State} {port : Nat} (h : s.Inv) : (s.departFlit port).Inv := by
  grind [State.departFlit, State.inv_sendFlit, State.Inv]

theorem State.inv_depart {s : State} {port n : Nat} (h : s.Inv) : (s.depart port n).Inv := by
  induction n generalizing s with
  | zero => exact h
  | succ n ih => exact State.inv_ite (ih (State.inv_departFlit h)) h

theorem State.inv_countStomp {s : State} (h : s.Inv) : s.countStomp.Inv := h
theorem State.inv_stomp {s : State} {port : Nat} (h : s.Inv) : (s.stomp port).Inv := by
  grind [State.stomp, State.inv_modPort, State.inv_countStomp, State.inv_takeFree]

theorem State.inv_nextSeqTo {s : State} {t : Nat} {dest : Word} (h : s.Inv) : (s.nextSeqTo t dest).2.Inv := h
theorem State.inv_nextFseq {s : State} {dst : BitVec 22} (h : s.Inv) : (s.nextFseq dst).2.Inv := h
theorem State.inv_modFlow {s : State} {core : Nat} {dst : BitVec 22} {g : Flowlet → Flowlet} (h : s.Inv) :
    (s.modFlow core dst g).Inv :=
  h

theorem State.inv_openFlow {s : State} {core : Nat} {pid : BitVec 16} {rank dst : BitVec 22} (h : s.Inv) :
    (s.openFlow core pid rank dst).Inv := by
  grind [State.openFlow, State.inv_chooseRoute, State.inv_modFlow, State.Inv]

theorem State.inv_sendOut {s : State} {core : Nat} {k : Packet} (h : s.Inv) : (s.sendOut core k).2.Inv := by
  grind [State.sendOut, State.inv_modFlow, State.inv_forward]

theorem State.inv_request {s : State} {k : Packet} {t seq ix : Nat} {m : Option Msg} {ixs : List Nat} (h : s.Inv) :
    (s.request k t seq ix m ixs).2.Inv := by
  grind [State.request, State.inv_sendOut, State.inv_chooseRoute, State.inv_nextFseq, State.Inv]

theorem State.inv_resend {s : State} {u : Unacked} (h : s.Inv) : (s.resend u).2.Inv := State.inv_sendOut h
theorem State.inv_keepAnswer {s : State} {rq k : Packet} (h : s.Inv) : (s.keepAnswer rq k).Inv := h
theorem State.inv_answerWith {s : State} {rq k : Packet} {status : Byte} (h : s.Inv) :
    (s.answerWith rq k status).Inv :=
  State.inv_forward (State.inv_ite (State.inv_keepAnswer h) h)

theorem State.inv_reply {s : State} {rq : Packet} {kind status : Byte} {ticket : BitVec 32} {data : List Byte}
    (h : s.Inv) : (s.reply rq kind status ticket data).Inv :=
  State.inv_answerWith h

theorem State.inv_dropUnacked {s : State} {u : Unacked} (h : s.Inv) : (s.dropUnacked u).Inv := h
theorem State.inv_modUnacked {s : State} {u : Unacked} {f : Unacked → Unacked} (h : s.Inv) : (s.modUnacked u f).Inv := h
theorem State.inv_countDrop {s : State} {key : Bool} (h : s.Inv) : (s.countDrop key).Inv := h
theorem State.inv_flood {s : State} {k : Packet} {but : Option Nat} (h : s.Inv) : (s.flood k but).Inv := by
  grind [State.flood, State.inv_outPkt, State.inv_foldl]

theorem State.inv_toManagers {s : State} {k : Packet} (h : s.Inv) : (s.toManagers k).Inv := by
  grind [State.toManagers, State.inv_forward, State.inv_foldl]

theorem State.inv_newNotice {s : State} {port : Nat} {status : Byte} (h : s.Inv) : (s.newNotice port status).2.Inv := h
theorem State.inv_portNotice {s : State} {port : Nat} {status : Byte} (h : s.Inv) :
    (s.portNotice port status).Inv := by
  grind [State.portNotice, State.inv_flood, State.inv_toManagers, State.inv_newNotice]

theorem State.inv_dropReported {s : State} {key : Bool} (h : s.Inv) : (s.dropReported key).Inv := by
  grind [State.dropReported, State.inv_toManagers, State.inv_newNotice, State.inv_countDrop, State.inv_takeFree]

theorem State.inv_sawFseq {s : State} {k : Packet} {ok : Bool} (h : s.Inv) : (s.sawFseq k ok).Inv := h
theorem State.inv_mcResult {s : State} {t seq k : Nat} {bitmap : BitVec 512} {nmem : Nat}
    {report : Option (BitVec 9 × BitVec 4)} {none' : Bool} (h : s.Inv) :
    (s.mcResult t seq k bitmap nmem report none').Inv := by
  grind [State.mcResult, State.inv_recordError, State.inv_modCtx, State.inv_modTh]

theorem State.inv_modMcWait {s : State} {k : Packet} {f : McWait → McWait} (h : s.Inv) : (s.modMcWait k f).Inv := h
theorem State.inv_dropCopies {s : State} {k : Packet} (h : s.Inv) : (s.dropCopies k).Inv := h
theorem State.inv_mcFinish {s : State} {w : McWait} (h : s.Inv) : (s.mcFinish w).Inv := by
  grind [State.mcFinish, State.inv_mcResult, State.inv_outPkt, State.inv_keepAnswer, State.inv_dropCopies,
    State.Inv]

theorem State.inv_mcSettle {s : State} {k : Packet} (h : s.Inv) : (s.mcSettle k).Inv := by
  grind [State.mcSettle, State.inv_mcFinish]

theorem State.inv_mcLocalDone {s : State} {k : Packet} {cause : Byte} (h : s.Inv) : (s.mcLocalDone k cause).Inv :=
  State.inv_mcSettle (State.inv_modMcWait h)

theorem State.inv_mcAnswer {s : State} {c : Packet} {port : Nat} {bitmap : BitVec 512}
    {report : Option (BitVec 9 × BitVec 4)} (h : s.Inv) : (s.mcAnswer c port bitmap report).Inv :=
  State.inv_mcSettle (State.inv_modMcWait h)

theorem State.inv_outCopy {s : State} {p : Nat} {k : Packet} (h : s.Inv) : (s.outCopy p k).Inv :=
  State.inv_ite (State.inv_outPkt h) h

theorem State.inv_mcCopy {s : State} {k : Packet} {p : Nat} (h : s.Inv) : (s.mcCopy k p).Inv := by
  grind [State.mcCopy, State.inv_outCopy, State.inv_nextFseq, State.Inv]

theorem State.inv_mcForward {s : State} {k : Packet} {e : List Byte} {parent : Option Nat} {acc : Nat} {here : Bool}
    {report : Option (BitVec 9 × BitVec 4)} (h : s.Inv) : (s.mcForward k e parent acc here report).Inv := by
  unfold State.mcForward
  grind [State.inv_mcCopy, State.inv_foldl, State.Inv]

end Sys2Proof.Machine
end

section
/-! SUPPORT. The canonical form of memory as accesses are performed at their homes and answered (R175–R186, R204). -/

namespace Sys2Proof.Machine
open Sys2Proof.Claims

theorem State.inv_readS {s : State} {ea : Word} {n al : Nat} (h : s.Inv) {bs : List Byte} {t' : State}
    (hp : s.readS ea n al = .ok (bs, t')) : t'.Inv := by
  grind [State.readS, State.inv_readWords]

theorem State.inv_touchWalk {s : State} {table lva : Nat} {ls : List Nat} (h : s.Inv) :
    (s.touchWalk table lva ls).Inv := by
  induction ls generalizing s table with
  | nil => exact h
  | cons l ls ih => exact State.inv_ite (State.inv_touchLine h) (ih (State.inv_touchLine h))

theorem State.inv_translate {s : State} {t : Nat} {pid : BitVec 16} {lva : Nat} (h : s.Inv) :
    (s.translate t pid lva).2.Inv := by
  grind [State.translate, State.inv_logRec, State.inv_touchWalk, State.Inv]

theorem State.inv_journal {s : State} {a : Act} {pa : Nat} (h : s.Inv) : (s.journal a pa).Inv := by
  grind [State.journal, State.inv_modBlock, State.inv_killEpoch]

theorem State.inv_journalWords {s : State} {a : Act} {ws : List Nat} (h : s.Inv) : (s.journalWords a ws).Inv := by
  grind [State.journalWords, State.inv_journal, State.inv_foldl]

theorem State.inv_storeAt {s : State} {a : Act} {key pa n x : Nat} (h : s.Inv) : (s.storeAt a key pa n x).Inv :=
  State.inv_writeAt (State.inv_journalWords h)

theorem Elem.inv_merged {e : Elem} {s : State} {key pa : Nat} (h : s.Inv) : (e.merged s key pa).2.Inv := by
  grind [Elem.merged, State.inv_readAt]

theorem State.inv_atomStore {s : State} {b? : Option Bool} {a : Act} {ws : List Nat} {key pa n x : Nat} (h : s.Inv) :
    State.Inv (match b? with
      | some b => (s.storeAt a key pa n x).modMem (setTags b ws)
      | none => s.storeAt a key pa n x) := by
  cases b? with
  | none => exact State.inv_storeAt h
  | some b => exact State.inv_modMem (State.inv_storeAt h) fun m hm => Mem.wf_setTags b ws hm

theorem State.inv_performNow {s0 : State} {t : Nat} {r : Req} {e : Elem} {pa key : Nat} (h : s0.Inv) :
    (s0.performNow t r e pa key).Inv := by
  have hs : (if r.what = .store ∧ r.sync = .plain ∧ 128 ≤ e.size then s0 else s0.touchLine pa).Inv :=
    State.inv_ite h (State.inv_touchLine h)
  unfold State.performNow
  extract_lets ws whole s full empty bad needFull act
  have hr (n : Nat) : (s.readAt key pa n).2.Inv := State.inv_readAt hs
  refine Try.inv_ite h (Try.inv_ite trivial ?_)
  split
  case h_1 =>
    refine Try.inv_ite hs (Try.inv_ite hs (State.inv_ite (State.inv_modMem (State.inv_journalWords (hr _)) ?_) (hr _)))
    exact fun m hm => Mem.wf_setTags _ _ hm
  case h_2 =>
    refine Try.inv_ite hs (Try.inv_ite hs (Try.inv_ite hs (State.inv_modMem (State.inv_storeAt (Elem.inv_merged hs))
        fun m hm => ?_)))
    split
    · exact Mem.wf_setTags _ _ hm
    · exact Mem.wf_setTags _ _ hm
    · exact Mem.wf_setTags _ _ hm
    · exact Mem.wf_clearPoison _ hm
  case h_3 => exact hs
  case h_4 =>
    exact Try.inv_ite hs (State.inv_modMem (State.inv_journalWords hs) fun m hm => Mem.wf_foldl _ (fun _ _ h =>
        Mem.wf_setTag _ _ h) _ hm)
  case h_5 => exact Try.inv_ite hs (Try.inv_ite hs (State.inv_atomStore (hr _)))
  case h_6 => exact Try.inv_ite hs (Try.inv_ite hs (State.inv_atomStore (hr _)))
  case h_7 => exact Try.inv_ite hs (Try.inv_ite hs (Try.inv_ite (State.inv_atomStore (hr _)) (hr _)))
  case h_8 => trivial

theorem State.inv_perform {s : State} {t : Nat} {r : Req} {e : Elem} {pa key : Nat} (h : s.Inv) :
    (s.perform t r e pa key).Inv := by
  grind [State.perform, State.inv_modBlock, State.inv_performNow, Try.Inv]

theorem State.inv_locate {s : State} {t : Nat} {r : Req} {e : Elem} (h : s.Inv) : (s.locate t r e).2.Inv := by
  grind [State.locate, State.inv_translate]

theorem State.inv_entryFreed {s : State} {o : Nat} (h : s.Inv) : (s.entryFreed o).Inv := h
theorem State.inv_joinRetry_refuse {o t seq : Nat} {w : Owner} {e : Retry} {s : State} (h : s.Inv) :
    (State.joinRetry.refuse o t seq w e s).2.Inv := by
  grind [State.joinRetry.refuse, State.inv_modOwner]

theorem State.inv_joinRetry {s : State} {o t seq ix word : Nat} {hh : Hold} (h : s.Inv) :
    (s.joinRetry o t seq ix word hh).2.Inv := by
  unfold State.joinRetry
  grind [State.inv_joinRetry_refuse, State.inv_modOwner]

theorem State.inv_leaveRetry {s : State} {o t seq ix : Nat} (h : s.Inv) : (s.leaveRetry o t seq ix).Inv :=
  State.inv_ite (State.inv_entryFreed (State.inv_modOwner h)) h

theorem State.inv_leaveOwner {s : State} {o t seq ix : Nat} {hh : Hold} (h : s.Inv) :
    (s.leaveOwner o t seq ix hh).Inv := by
  unfold State.leaveOwner
  grind [State.inv_leaveRetry, State.inv_modOwner, State.inv_entryFreed]

theorem State.inv_sendElem {s : State} {t : Nat} {r : Req} {ix : Nat} {e : Elem} (h : s.Inv) {t' : State}
    (hp : s.sendElem t r ix e = some t') : t'.Inv := by
  grind [State.sendElem, State.inv_request, State.inv_journalSendOf, State.inv_nextSeqTo, State.inv_openFlow]

theorem State.inv_runElem {s : State} {t : Nat} {r : Req} {u : Run} {ix : Nat} {e : Elem} (h : s.Inv) :
    (s.runElem t r u ix e).2.Inv := by
  have hloc := State.inv_locate (t := t) (r := r) (e := e) h
  unfold State.runElem
  refine State.inv_snd_ite h (State.inv_snd_ite h (State.inv_snd_ite ?_ ?_))
  · refine State.inv_snd_ite h (State.inv_snd_ite h ?_)
    split
    · next s1 hs1 => exact State.inv_sendElem h hs1
    · exact h
  · split
    · next s1 hs1 => exact State.inv_of_pair hs1 hloc
    · next pa key pte s1 hs1 =>
      have h1 : s1.Inv := State.inv_of_pair hs1 hloc
      refine State.inv_snd_ite h1 (State.inv_snd_ite h1 ?_)
      extract_lets c out
      have hout : out.Inv := Try.inv_ite h1 (Try.inv_ite trivial (State.inv_perform h1))
      generalize out = out at hout
      cases out with
      | done x fl s2 => exact State.inv_leaveOwner hout
      | err x s2 => exact State.inv_leaveOwner hout
      | wait s2 => exact State.inv_joinRetry hout
      | blocked => exact h1

theorem State.inv_runElems {s : State} {t : Nat} {r : Req} {u : Run} {ix : Nat} {es : List Elem} (h : s.Inv) :
    (s.runElems t r u ix es).2.Inv := by
  induction es generalizing s u ix with
  | nil => exact h
  | cons e es ih => exact ih (State.inv_runElem h)

theorem State.inv_setReq {s : State} {t : Nat} {r : Req} (h : s.Inv) : (s.setReq t r).Inv := h
theorem State.inv_translateAll {s : State} {t : Nat} {r : Req} (h : s.Inv) : (s.translateAll t r).Inv := by
  grind [State.translateAll, State.inv_translate, State.inv_foldl]

theorem State.inv_servedAt {s : State} {t : Nat} {r : Req} {after : List Elem} (h : s.Inv) :
    (s.servedAt t r after).Inv := by
  grind [State.servedAt, State.inv_turnOf, State.inv_foldl]

theorem State.inv_runReq {s : State} {t : Nat} {r : Req} (h : s.Inv) : (s.runReq t r).2.Inv := by
  unfold State.runReq
  extract_lets first s'
  have hs' : s'.Inv := State.inv_ite (State.inv_translateAll h) h
  split
  · exact State.inv_setReq hs'
  · exact State.inv_setReq hs'
  · exact State.inv_servedAt (State.inv_setReq (State.inv_runElems hs'))

theorem State.inv_relDone {s : State} {t seq : Nat} (h : s.Inv) : (s.relDone t seq).Inv := by
  grind [State.relDone, State.inv_modCtx]

theorem State.inv_tryRetries {s : State} {es : List Retry} (h : s.Inv) {os : List Nat} {t' : State}
    (hp : s.tryRetries es = some (os, t')) : t'.Inv := by
  induction es with
  | nil => cases hp
  | cons e es ih => grind [State.tryRetries, State.inv_relDone, State.inv_runReq]

theorem State.inv_retest {s : State} {os : List Nat} {fuel : Nat} (h : s.Inv) : (s.retest os fuel).Inv := by
  induction fuel generalizing s os with
  | zero => exact h
  | succ fuel ih => 
    unfold State.retest
    grind [State.inv_tryRetries]

theorem State.inv_retestAll {s : State} {os : List Nat} (h : s.Inv) : (s.retestAll os).Inv := State.inv_retest h
theorem State.inv_runAndRetest {s : State} {t : Nat} {r : Req} (h : s.Inv) : (s.runAndRetest t r).Inv := by
  grind [State.runAndRetest, State.inv_retestAll, State.inv_runReq]

theorem State.inv_deliverPacket {s : State} {t : Nat} {r : Req} (h : s.Inv) : (s.deliverPacket t r).Inv := by
  grind [State.deliverPacket, State.inv_reply, State.inv_answerWith, State.inv_mcLocalDone, State.Inv]

theorem State.inv_deliver {s : State} {t : Nat} {r : Req} (h : s.Inv) : (s.deliver t r).Inv :=
  State.inv_ite h (State.inv_ite (State.inv_deliverPacket h) (State.inv_ite (State.inv_modTh h) (State.inv_modTh
    (State.inv_ite (State.inv_modTh h) (State.inv_recordError (State.inv_modTh h))))))

theorem State.inv_addReq {s : State} {r : Req} (h : s.Inv) : (s.addReq r).2.Inv := h

end Sys2Proof.Machine
end

section
/-! SUPPORT. The canonical form of memory under traces, the scheduler, service routines and control flow (R97–R125, R212, R213). -/

namespace Sys2Proof.Machine
open Sys2Proof.Claims

theorem State.inv_ringPut {s : State} {t type : Nat} {b : TraceBlock} (h : s.Inv) : (s.ringPut t type b).Inv := by
  grind [State.ringPut, State.inv_monitorWrite, State.inv_modTh]

theorem State.inv_traceFlush {s : State} {t : Nat} (h : s.Inv) : (s.traceFlush t).Inv :=
  State.inv_modTh (State.inv_ringPut (State.inv_ringPut h))

theorem State.inv_noteConf {s : State} {t : Nat} (h : s.Inv) : (s.noteConf t).Inv := h
theorem State.inv_openBlock {s : State} {t type : Nat} {b : TraceBlock} (h : s.Inv) :
    (s.openBlock t type b).2.Inv := by
  grind [State.openBlock, State.inv_ringPut]

theorem State.inv_traceState {s : State} {t : Nat} {st : BitVec 2} (h : s.Inv) : (s.traceState t st).Inv := by
  grind [State.traceState, State.inv_modTh, State.inv_ringPut, State.inv_openBlock]

theorem State.inv_traceEntry {s : State} {t : Nat} {e : List Byte} (h : s.Inv) : (s.traceEntry t e).Inv := by
  grind [State.traceEntry, State.inv_modTh, State.inv_ringPut, State.inv_openBlock]

theorem State.inv_traceDispatch {s : State} {t : Nat} {resumed : Bool} (h : s.Inv) :
    (s.traceDispatch t resumed).Inv :=
  State.inv_ite (State.inv_modTh (State.inv_traceEntry (State.inv_noteConf h))) (State.inv_noteConf h)

theorem State.inv_traceChanges {s : State} (h : s.Inv) : s.traceChanges.Inv := by
  grind [State.traceChanges, State.inv_traceState, State.inv_foldl]

theorem State.inv_traceLeft {s : State} {t : Nat} {a : Act} (h : s.Inv) : (s.traceLeft t a).Inv :=
  State.inv_ite (State.inv_modTh h) h

theorem State.inv_reserveHere {s : State} {pid : BitVec 16} {w : Word} {n : Nat} (h : s.Inv) :
    (s.reserveHere pid w n).Inv := by
  grind [State.reserveHere, State.inv_modBlock]

theorem State.inv_releaseStamp {s : State} {d : Nat} (h : s.Inv) : (s.releaseStamp d).2.Inv := h
theorem State.inv_acquireStamp {s : State} {d : Nat} {v : List (BitVec 16)} (h : s.Inv) :
    (s.acquireStamp d v).Inv :=
  State.inv_ite h (State.inv_modDie h)

theorem State.inv_startAct {s : State} {t : Nat} {a : Act} (h : s.Inv) : (s.startAct t a).Inv := h
theorem State.inv_journalMsg {s : State} {blk t : Nat} {a : Act} {m : Option Msg} (h : s.Inv) :
    (s.journalMsg blk t a m).Inv := by
  grind [State.journalMsg, State.inv_modBlock]

theorem State.inv_dispatchMsg {s : State} {blk t : Nat} {c : CIdx} (h : s.Inv) : (s.dispatchMsg blk t c).Inv := by
  grind [State.dispatchMsg, State.inv_journalMsg, State.inv_traceDispatch, State.inv_acquireStamp,
    State.inv_startAct, State.inv_modLaunch, State.inv_modBlock]

theorem State.inv_resumeAct {s : State} {blk t ix : Nat} (h : s.Inv) : (s.resumeAct blk t ix).Inv := by
  grind [State.resumeAct, State.inv_startAct, State.inv_traceDispatch, State.inv_modBlock]

theorem State.inv_dispatchOne {s : State} {blk : Nat} (h : s.Inv) : (s.dispatchOne blk).Inv := by
  grind [State.dispatchOne, State.inv_resumeAct, State.inv_dispatchMsg]

theorem State.inv_saveAt {s : State} {blk : Nat} {n : Option Nat} {a : Act} (h : s.Inv) : (s.saveAt blk n a).Inv := by
  unfold State.saveAt
  grind [State.inv_saveRecord]

theorem State.inv_displace {s : State} {t : Nat} {a : Act} {atSend : Option Word} (h : s.Inv) :
    (s.displace t a atSend).Inv :=
  State.inv_modTh (State.inv_traceLeft (State.inv_modBlock (State.inv_saveAt (State.inv_leaveBars h))))

theorem State.inv_endService {s : State} {t : Nat} {err : Byte} {ans : Word} (h : s.Inv) :
    (s.endService t err ans).Inv := by
  grind [State.endService, State.inv_turnOf, State.inv_modTh, State.inv_modBlock]

theorem State.inv_serviceLoad {s : State} {v : Service} {pa n : Nat} (h : s.Inv) {p : Nat} {t' : State}
    (hp : s.serviceLoad v pa n = some (p, t')) : t'.Inv := by
  grind [State.serviceLoad, State.inv_readAt]

theorem State.inv_commitStores {s : State} {a : Act} {key : Nat} {bs : List (Nat × Byte)} (h : s.Inv) :
    (s.commitStores a key bs).Inv := by
  induction bs with
  | nil => exact h
  | cons b bs ih => exact State.inv_storeAt ih

theorem State.inv_finishRoutine {s : State} {t : Nat} (h : s.Inv) : (s.finishRoutine t).Inv := by
  grind [State.finishRoutine, State.inv_retestAll, State.inv_endService, State.inv_modMem, State.inv_journalWords,
    State.inv_commitStores, Mem.wf_foldl, Mem.wf_setTag, Mem.wf_clearPoison]

theorem State.inv_branch {s : State} {off : BitVec 48} (h : s.Inv) : Keeps (s.branch off) :=
  keeps_ite (State.inv_jumpTo h) (keeps_raise h)

theorem keeps_branchIf {c : Word → Word → Bool} {a b : GReg} {off : BitVec 48} {s : State} (h : s.Inv) : Keeps
    (branchIf c a b off s) :=
  keeps_ite (State.inv_branch h) (State.inv_retire h)

theorem keeps_execBeq {a b : GReg} {off : BitVec 48} {s : State} (h : s.Inv) : Keeps (execBeq a b off s) :=
  keeps_branchIf h

theorem keeps_execBne {a b : GReg} {off : BitVec 48} {s : State} (h : s.Inv) : Keeps (execBne a b off s) :=
  keeps_branchIf h

theorem keeps_execBlt {a b : GReg} {off : BitVec 48} {s : State} (h : s.Inv) : Keeps (execBlt a b off s) :=
  keeps_branchIf h

theorem keeps_execBge {a b : GReg} {off : BitVec 48} {s : State} (h : s.Inv) : Keeps (execBge a b off s) :=
  keeps_branchIf h

theorem keeps_execBltu {a b : GReg} {off : BitVec 48} {s : State} (h : s.Inv) : Keeps (execBltu a b off s) :=
  keeps_branchIf h

theorem keeps_execBgeu {a b : GReg} {off : BitVec 48} {s : State} (h : s.Inv) : Keeps (execBgeu a b off s) :=
  keeps_branchIf h

theorem keeps_execJmp {off : BitVec 48} {s : State} (h : s.Inv) : Keeps (execJmp off s) := State.inv_branch h
theorem keeps_execJmpr {a : GReg} {s : State} (h : s.Inv) : Keeps (execJmpr a s) :=
  keeps_ite (State.inv_jumpTo h) (keeps_raise h)

theorem keeps_execLeac {d : GReg} {off : BitVec 48} {s : State} (h : s.Inv) : Keeps (execLeac d off s) :=
  keeps_ite (State.inv_writeRetire h) (keeps_raise h)

theorem State.inv_enterLoop {s : State} {len : Nat} {bad2 : Bool} {n : BitVec 32} (h : s.Inv) : Keeps
    (s.enterLoop len bad2 n) := by
  grind [State.enterLoop, State.inv_jumpTo, State.inv_modMe, keeps_raise, keeps_next]

theorem keeps_execLoop {a : GReg} {len : BitVec 16} {s : State} (h : s.Inv) : Keeps (execLoop a len s) :=
  State.inv_enterLoop h

theorem keeps_execLoopi {len : BitVec 16} {count : BitVec 32} {s : State} (h : s.Inv) : Keeps
    (execLoopi len count s) :=
  State.inv_enterLoop h

theorem State.inv_call {s : State} {k : Nat} (h : s.Inv) : Keeps (s.call k) := by
  grind [State.call, State.inv_modMe, State.inv_setG, State.inv_miss, State.inv_dirFull, State.inv_lookupOrCreate,
    keeps_raise, keeps_next]

theorem keeps_execCalld {k : BitVec 32} {s : State} (h : s.Inv) : Keeps (execCalld k s) :=
  keeps_noService h (fun _ hs => State.inv_call hs)

theorem keeps_execCalldr {a : GReg} {s : State} (h : s.Inv) : Keeps (execCalldr a s) :=
  keeps_noService h (fun _ hs => keeps_ite (keeps_raise hs) (State.inv_call hs))

theorem State.inv_endNow {s : State} (h : s.Inv) : Keeps s.endNow := by
  grind [State.endNow, State.inv_freeThread, State.inv_modMyAct, State.inv_takeFault, State.inv_takeDeferred,
    State.inv_stall, State.inv_finishRoutine, keeps_next]

theorem keeps_execEndAct {s : State} (h : s.Inv) : Keeps (execEndAct s) := State.inv_endNow h
theorem keeps_execRet {s : State} (h : s.Inv) : Keeps (execRet s) := by
  unfold execRet
  grind [State.inv_modMe, State.inv_miss, keeps_raise, State.inv_endNow, keeps_noService, keeps_next]

theorem keeps_execYield {vmask deadline : BitVec 16} {gmask : BitVec 32} {s : State} (h : s.Inv) : Keeps
    (execYield vmask deadline gmask s) := by
  grind [execYield, State.inv_displace, State.inv_modMe, State.inv_retire, State.inv_takeDeferred, State.inv_stall,
    keeps_noService, keeps_next]

theorem keeps_execTrap {code : BitVec 48} {s : State} (h : s.Inv) : Keeps (execTrap code s) := State.inv_takeFault h
theorem keeps_execUnassignedOpcode {w : InstrWord} {s : State} (h : s.Inv) : Keeps (execUnassignedOpcode w s) :=
  keeps_raise h

theorem keeps_execFallThroughPastInstance {s : State} (h : s.Inv) : Keeps (execFallThroughPastInstance s) :=
  keeps_raise h

theorem keeps_execDeadlineOverrun {s : State} (h : s.Inv) : Keeps (execDeadlineOverrun s) := keeps_raise h
theorem keeps_execRetireLimit {s : State} (h : s.Inv) : Keeps (execRetireLimit s) := keeps_raise h
theorem keeps_execDoubleFault {code : Byte} {tval : Word} {s : State} (h : s.Inv) : Keeps
    (execDoubleFault code tval s) := by
  grind [execDoubleFault, State.inv_doubleFault, keeps_next, State.Inv]

theorem keeps_execCodeIntegrityFault {s : State} (h : s.Inv) : Keeps (execCodeIntegrityFault s) := by
  grind [execCodeIntegrityFault, State.inv_modMyAct, State.inv_takeFree, State.inv_modCluster, State.inv_modMe,
    State.inv_missRoutine, keeps_raise, State.inv_evictRoutine, keeps_next]

end Sys2Proof.Machine
end

section
/-! SUPPORT. The canonical form of memory under memory instructions and their answers (R171, R193–R198, R208). -/

namespace Sys2Proof.Machine
open Sys2Proof.Claims

theorem State.inv_addInbound {s : State} {k : Packet} {r : Req} (h : s.Inv) : (s.addInbound k r).Inv := h
theorem State.inv_mcLocal {s : State} {k : Packet} (h : s.Inv) : (s.mcLocal k).Inv := h
theorem State.inv_mcArrive {s : State} {k : Packet} {parent : Option Nat} {acc : Nat} (h : s.Inv) :
    (s.mcArrive k parent acc).Inv := by
  grind [State.mcArrive, State.inv_mcSettle, State.inv_mcLocal, State.inv_mcForward, State.inv_sawFseq,
    State.inv_nextFseq]

theorem State.inv_mcastStore {s : State} {r : Req} {sz : Nat} {ea : Word} {bytes : List Byte} (h : s.Inv) :
    (s.mcastStore r sz ea bytes).Inv := by
  grind [State.mcastStore, State.inv_mcArrive, State.inv_modMcWait, State.inv_mcResult, State.inv_journalSend,
    State.inv_nextSeqTo, State.inv_modMyAct, State.inv_addReq]

theorem State.inv_mcastStores {s : State} {r : Req} {sz n : Nat} {xs : List (Word × List Byte)} (h : s.Inv) :
    (s.mcastStores r sz n xs).2.Inv := by
  induction xs generalizing s n with
  | nil => exact h
  | cons x xs ih => grind [State.mcastStores, State.inv_mcastStore]

theorem State.inv_issueReq {s : State} {r : Req} (h : s.Inv) : (s.issueReq r).Inv := by
  grind [State.issueReq, State.inv_deliver, State.inv_runAndRetest, State.inv_relDone, State.inv_addReq,
    State.inv_releaseStamp]

theorem State.inv_startAccess {s : State} {r : Req} {sz : Nat} {vec : Option (BitVec 2048)} (h : s.Inv) : Keeps
    (s.startAccess r sz vec) := by
  unfold State.startAccess
  extract_lets r mcs rest away out
  refine keeps_ite (keeps_raiseOpen h) (keeps_ite (State.inv_stall h) ?_)
  split
  · exact State.inv_takeDeferred h
  · next s1 stores _ _ =>
    have h1 : s1.Inv := State.inv_ite h (State.inv_issueReq h)
    refine keeps_ite (State.inv_stall h) (keeps_ite (State.inv_stall h) ?_)
    split
    next n s2 heq =>
    have h2 : s2.Inv := State.inv_of_pair heq (State.inv_mcastStores h1)
    exact keeps_ite (State.inv_retire h1) (keeps_ite (State.inv_retire (State.inv_modMyAct h2)) (State.inv_stall
        (State.inv_modMyAct h2)))

theorem State.inv_yAccess {s : State} {r : Req} {ls : Bool} (h : s.Inv) : Keeps (s.yAccess r ls) := by
  grind [State.yAccess, State.inv_yWrite, State.inv_writeRetire, keeps_raise, keeps_raiseOpen, State.inv_retire,
    keeps_next]

theorem State.inv_serviceAccess {s : State} {i : Instr} {r : Req} (h : s.Inv) : Keeps (s.serviceAccess i r) := by
  unfold State.serviceAccess
  split
  · refine keeps_ite (keeps_illegal h) ?_
    split
    · exact keeps_raise h
    · extract_lets write keep
      have hw {s : State} (hs : s.Inv) (w : Word) : (write w s).Inv := by
        show State.Inv (match r.dst with | .g d => s.writeRetire d w | _ => s.retire)
        split
        · exact State.inv_writeRetire hs
        · exact State.inv_retire hs
      have hk (v : Service) : (keep v).Inv := State.inv_retire (State.inv_modMe h)
      clear_value write keep
      split
      · split
        · exact State.inv_endService h
        · next x s1 hs1 => exact hw (State.inv_serviceLoad h hs1) _
      · exact hw h _
      · exact hk _
      · exact keeps_ite (State.inv_endService h) (hk _)
  · exact keeps_illegal h

theorem State.inv_access {s : State} {i : Instr} {r : Req} {sz : Nat} {ls mc : Bool} {vec : Option (BitVec 2048)}
    (h : s.Inv) : Keeps (s.access i r sz ls mc vec) := by
  grind [State.access, State.inv_startAccess, State.inv_takeFault, State.inv_yAccess, State.inv_serviceAccess,
    keeps_next]

theorem State.inv_loadAt {s : State} {i : Instr} {ls : Bool} {d : GReg} {m : MemF} {ea : Word} (h : s.Inv) : Keeps
    (s.loadAt i ls d m ea) :=
  State.inv_access h

theorem keeps_execLd {d a b : GReg} {m : MemF} {imm : BitVec 48} {s : State} (h : s.Inv) : Keeps
    (execLd d a b m imm s) :=
  State.inv_loadAt h

theorem keeps_execLdx {d a b : GReg} {m : MemF} {imm : BitVec 48} {s : State} (h : s.Inv) : Keeps
    (execLdx d a b m imm s) :=
  State.inv_loadAt h

theorem State.inv_storeReg {s : State} {i : Instr} {ls : Bool} {c : GReg} {m : MemF} {ea : Word} (h : s.Inv) : Keeps
    (s.storeReg i ls c m ea) :=
  State.inv_access h

theorem keeps_execSt {a b c : GReg} {m : MemF} {imm : BitVec 48} {s : State} (h : s.Inv) : Keeps
    (execSt a b c m imm s) :=
  State.inv_storeReg h

theorem keeps_execStx {a b c : GReg} {m : MemF} {imm : BitVec 48} {s : State} (h : s.Inv) : Keeps
    (execStx a b c m imm s) :=
  State.inv_storeReg h

theorem keeps_execVld {d : VIdx} {a b : GReg} {m : MemF} {imm : BitVec 48} {s : State} (h : s.Inv) : Keeps
    (execVld d a b m imm s) :=
  keeps_noService h (fun _ hs => State.inv_access hs)

theorem keeps_execVst {a b : GReg} {c : VIdx} {m : MemF} {imm : BitVec 48} {s : State} (h : s.Inv) : Keeps
    (execVst a b c m imm s) :=
  keeps_noService h (fun _ hs => State.inv_access hs)

theorem keeps_execVldx {d : VIdx} {a : GReg} {b : VIdx} {m : MemF} {imm : BitVec 48} {s : State} (h : s.Inv) : Keeps
    (execVldx d a b m imm s) :=
  keeps_noService h (fun _ hs => State.inv_access hs)

theorem keeps_execVstx {a : GReg} {b c : VIdx} {m : MemF} {imm : BitVec 48} {s : State} (h : s.Inv) : Keeps
    (execVstx a b c m imm s) :=
  keeps_noService h (fun _ hs => State.inv_access hs)

theorem keeps_execTagrd {d a b : GReg} {m : MemF} {imm : BitVec 48} {s : State} (h : s.Inv) : Keeps
    (execTagrd d a b m imm s) :=
  State.inv_access h

theorem keeps_execTagwr {a b c : GReg} {m : MemF} {imm : BitVec 48} {s : State} (h : s.Inv) : Keeps
    (execTagwr a b c m imm s) :=
  State.inv_access h

theorem keeps_execAmo {d a b c : GReg} {m : MemF} {op : Byte} {s : State} (h : s.Inv) : Keeps
    (execAmo d a b c m op s) :=
  keeps_noService h (fun _ hs => State.inv_access hs)

theorem keeps_execAmof {d a b c : GReg} {m : MemF} {op : Byte} {s : State} (h : s.Inv) : Keeps
    (execAmof d a b c m op s) :=
  keeps_noService h (fun _ hs => State.inv_access hs)

theorem keeps_execCas {d a b c : GReg} {m : MemF} {imm : BitVec 48} {s : State} (h : s.Inv) : Keeps
    (execCas d a b c m imm s) :=
  keeps_noService h (fun _ hs => State.inv_access hs)

theorem keeps_execVamo {d : VIdx} {a : GReg} {b c : VIdx} {m : MemF} {op : Byte} {s : State} (h : s.Inv) : Keeps
    (execVamo d a b c m op s) :=
  keeps_noService h (fun _ hs => State.inv_access hs)

theorem keeps_execAms {d a b c : GReg} {m : MemF} {op : Byte} {s : State} (h : s.Inv) : Keeps
    (execAms d a b c m op s) :=
  keeps_noService h (fun _ hs => keeps_ite (keeps_illegal hs) (State.inv_access hs))

theorem State.inv_modJob {s : State} {blk id : Nat} {f : Job → Job} (h : s.Inv) : (s.modJob blk id f).Inv := h
theorem State.inv_dropJob {s : State} {blk id : Nat} (h : s.Inv) : (s.dropJob blk id).Inv := h
theorem State.inv_modSaved {s : State} {blk n : Nat} {a a' : Act} {shut : Bool} (h : s.Inv) :
    (s.modSaved blk n a a' shut).Inv := by
  grind [State.modSaved, State.inv_monitorWrite, State.inv_modBlock, State.inv_foldl]

theorem State.inv_modIssuer {s : State} {j : Job} {f : Act → Act} (h : s.Inv) {t' : State}
    (hp : s.modIssuer j f = some t') : t'.Inv := by
  grind [State.modIssuer, State.inv_modSaved, State.inv_modBlock, State.inv_modCtx]

theorem State.inv_jobReport {s : State} {j : Job} {cause : Byte} (h : s.Inv) : (s.jobReport j cause).Inv :=
  State.inv_stopOnError (State.inv_errorReport (State.inv_takeFree h))

theorem State.inv_cardFailed {s : State} {j : Job} {cause : Byte} (h : s.Inv) : (s.cardFailed j cause).Inv := by
  grind [State.cardFailed, State.inv_jobReport, State.inv_logRec, State.inv_modIssuer]

theorem State.inv_completed {s : State} {blk id : Nat} {cause : Byte} (h : s.Inv) :
    (s.completed blk id cause).Inv := by
  grind [State.completed, State.inv_cardFailed, State.inv_dropJob]

theorem State.inv_jobDone {s : State} {m : Msg} {cause : Byte} (h : s.Inv) : (s.jobDone m cause).Inv := by
  grind [State.jobDone, State.inv_completed]

end Sys2Proof.Machine
end

section
/-! SUPPORT. The canonical form of memory under messages, queues, joins and launch requests (R130–R158). -/

namespace Sys2Proof.Machine
open Sys2Proof.Claims

theorem State.inv_lineUp {s : State} {blk : Nat} {q : QIdx} {p : Nat} (h : s.Inv) : (s.lineUp blk q p).Inv := h
theorem State.inv_leaveLine {s : State} {blk : Nat} {q : QIdx} {p : Nat} (h : s.Inv) : (s.leaveLine blk q p).Inv := h
theorem State.inv_waitAt {s : State} {p : Nat} {w : Word} (h : s.Inv) : (s.waitAt p w).Inv :=
  State.inv_ite (State.inv_lineUp h) h

theorem State.inv_doneAt {s : State} {p : Nat} {w : Word} (h : s.Inv) : (s.doneAt p w).Inv :=
  State.inv_ite (State.inv_leaveLine h) h

theorem State.inv_asThread {s : State} {t : Nat} {f : State → Out State} (h : s.Inv) (hf : ∀ s, s.Inv → Keeps (f s))
    : Keeps (s.asThread t f) := by
  grind [State.asThread, State.inv_modTh, keeps_next, State.Inv]

theorem State.inv_sendHere {s : State} {m : Msg} {r : Reach} (h : s.Inv) : (s.sendHere m r).Inv :=
  State.inv_ite (State.inv_journalSend (State.inv_setTh h)) (State.inv_ite (State.inv_push (State.inv_modDie
    (State.inv_doneAt (State.inv_reserveHere (State.inv_journalSend (State.inv_setTh h)))))) (State.inv_push
    (State.inv_doneAt (State.inv_reserveHere (State.inv_journalSend (State.inv_setTh h))))))

theorem State.inv_sendAway {s : State} {m : Msg} {ord : Bool} {nb : Bool} (h : s.Inv) :
    (s.sendAway m ord nb).2.Inv := by
  grind [State.sendAway, State.inv_request, State.inv_journalSend, State.inv_nextSeqTo, State.inv_openFlow]

theorem State.inv_sendTo {s : State} {dst reply : Word} {payload : List Word} {vec : Option VReg} {nb : Option GReg}
    {ord : Bool} (h : s.Inv) : Keeps (s.sendTo dst reply payload vec nb ord) := by
  unfold State.sendTo
  extract_lets k finish r m
  have hf {st : Word} {s : State} (hs : s.Inv) : Keeps (finish st s) := by
    have h1 : (s.modMe Thread.sendOver).Inv := State.inv_modMe hs
    show Keeps (match nb with | some d => _ | none => _)
    split
    · exact State.inv_writeRetire h1
    · exact keeps_ite (State.inv_retire h1) (keeps_raise h1)
  refine keeps_ite (keeps_raise h) (keeps_ite (keeps_raiseOpen h) ?_)
  split
  · exact hf h
  · refine keeps_ite (State.inv_stall h) ?_
    split
    · exact State.inv_takeDeferred h
    · refine keeps_ite ?_ ?_
      · split
        · next s1 hs1 => exact State.inv_stallSend (State.inv_of_pair hs1 (State.inv_sendAway h))
        · exact hf h
      · split
        · exact hf (State.inv_sendHere h)
        · exact keeps_ite (State.inv_stallSend (State.inv_waitAt h)) (hf h)
        · exact hf h

theorem keeps_execSend {a b c : GReg} {n : BitVec 4} {ord : Bool} {s : State} (h : s.Inv) : Keeps
    (execSend a b c n ord s) :=
  keeps_noService h (fun _ hs => State.inv_sendTo hs)

theorem keeps_execSendnb {d a b c : GReg} {n : BitVec 4} {ord : Bool} {s : State} (h : s.Inv) : Keeps
    (execSendnb d a b c n ord s) :=
  keeps_noService h (fun _ hs => State.inv_sendTo hs)

theorem keeps_execSendv {a : GReg} {b : VIdx} {c : GReg} {ord : Bool} {s : State} (h : s.Inv) : Keeps
    (execSendv a b c ord s) :=
  keeps_noService h (fun _ hs => State.inv_sendTo hs)

theorem keeps_execReply {b : GReg} {n : BitVec 4} {ord : Bool} {s : State} (h : s.Inv) : Keeps
    (execReply b n ord s) :=
  keeps_noService h (fun _ hs => keeps_ite (State.inv_retire hs) (State.inv_sendTo hs))

theorem keeps_execLaunch {a b : GReg} {s : State} (h : s.Inv) : Keeps (execLaunch a b s) := by
  unfold execLaunch
  grind [State.inv_modCluster, State.inv_releaseStamp, State.inv_nextSeqTo, State.inv_stallSend, State.inv_sendAway,
      State.inv_killEpoch, State.inv_takeDeferred, State.inv_retire, State.inv_modMe, keeps_raiseOpen,
      State.inv_takeFault, State.inv_readS, State.inv_stall, keeps_noService, keeps_next]

theorem keeps_execTrigger {s : State} (h : s.Inv) : Keeps (execTrigger s) :=
  keeps_noService h (fun _ hs => keeps_ite (State.inv_stall hs) (keeps_ite (State.inv_retire (State.inv_killEpoch
    hs)) (State.inv_retire (State.inv_ite (State.inv_modLaunch (State.inv_modMyAct (State.inv_killEpoch hs)))
    (State.inv_modMyAct (State.inv_killEpoch hs))))))

theorem keeps_execChbind {c : CIdx} {a b : GReg} {keep : Bool} {s : State} (h : s.Inv) : Keeps
    (execChbind c a b keep s) := by
  unfold execChbind
  grind [State.inv_modBlock, State.inv_retire, State.inv_dirFull, State.inv_lookupOrCreate, keeps_raiseOpen,
      State.inv_takeFault, State.inv_readS, keeps_raise, State.inv_stall, keeps_noService, keeps_next]

theorem keeps_execChinfo {d : GReg} {c : CIdx} {s : State} (h : s.Inv) : Keeps (execChinfo d c s) :=
  keeps_noService h (fun _ hs => State.inv_writeRetire hs)

theorem State.inv_leaveQueue {s : State} {q : QIdx} (h : s.Inv) : (s.leaveQueue q).Inv := h
theorem State.inv_joinQueue {s : State} {q : QIdx} {pop : Bool} (h : s.Inv) : (s.joinQueue q pop).Inv := h
theorem keeps_queueUser {s : State} {f : State → Out State} (h : s.Inv) (hf : ∀ s, s.Inv → Keeps (f s)) : Keeps
    (queueUser s f) := by
  grind [queueUser, State.inv_stall, keeps_raiseOpen, keeps_next]

theorem keeps_execQpush {q : QIdx} {a : GReg} {s : State} (h : s.Inv) : Keeps (execQpush q a s) :=
  keeps_queueUser h (fun _ hs => keeps_ite (State.inv_stall hs) (keeps_ite (State.inv_retire (State.inv_modBlock
    (State.inv_leaveQueue hs))) (State.inv_joinQueue hs)))

theorem keeps_execQpop {d : GReg} {q : QIdx} {s : State} (h : s.Inv) : Keeps (execQpop d q s) := by
  grind [execQpop, State.inv_joinQueue, State.inv_leaveQueue, State.inv_modBlock, State.inv_writeRetire,
    keeps_queueUser, keeps_next]

theorem keeps_execQpeek {d : GReg} {q : QIdx} {s : State} (h : s.Inv) : Keeps (execQpeek d q s) := by
  grind [execQpeek, State.inv_joinQueue, State.inv_leaveQueue, State.inv_writeRetire, keeps_queueUser, keeps_next]

theorem keeps_execQtry {d : GReg} {q : QIdx} {b : GReg} {s : State} (h : s.Inv) : Keeps (execQtry d q b s) := by
  grind [execQtry, State.inv_setG, State.inv_writeRetire, State.inv_modBlock, keeps_queueUser, keeps_next]

theorem keeps_execQueueWaiterServed {blk : Nat} {q : QIdx} {s : State} (h : s.Inv) : Keeps
    (execQueueWaiterServed blk q s) := by
  unfold execQueueWaiterServed
  grind [keeps_execQpush, keeps_execQpeek, keeps_execQpop, State.inv_asThread, State.inv_unstall, keeps_next]

theorem State.inv_setStream {s : State} {t : Nat} {x : SIdx} {v : Option Stream} (h : s.Inv) :
    (s.setStream t x v).Inv :=
  h

theorem State.inv_takeElement {s : State} {x : SIdx} {st : Stream} {rest : List Word} (h : s.Inv) :
    (s.takeElement x st rest).Inv :=
  h

theorem keeps_execSpop {d : GReg} {x : SIdx} {s : State} (h : s.Inv) : Keeps (execSpop d x s) := by
  grind [execSpop, State.inv_stall, State.inv_setStream, State.inv_takeElement, State.inv_writeRetire,
    keeps_raiseOpen, keeps_queueUser, keeps_next]

theorem keeps_execStry {d : GReg} {x : SIdx} {b : GReg} {s : State} (h : s.Inv) : Keeps (execStry d x b s) := by
  grind [execStry, State.inv_setStream, State.inv_takeElement, State.inv_setG, State.inv_writeRetire,
    keeps_queueUser, keeps_next]

theorem State.inv_modMyCell {s : State} {j : JIdx} {f : JoinCell → JoinCell} (h : s.Inv) : (s.modMyCell j f).Inv := h
theorem keeps_execJinit {a : GReg} {j : JIdx} {count : Bool} {s : State} (h : s.Inv) : Keeps
    (execJinit a j count s) :=
  keeps_noService h (fun _ hs => keeps_ite (keeps_raiseOpen hs) (keeps_ite (keeps_raiseOpen hs) (State.inv_retire
    (State.inv_modMyCell hs))))

theorem State.inv_recruit {s : State} {u i : Nat} {g : Map Word} {pc : Word} (h : s.Inv) :
    (s.recruit u i g pc).Inv :=
  State.inv_traceDispatch (State.inv_journalMsg (State.inv_startAct (State.inv_modLaunch h)))

theorem keeps_execFork {a b : GReg} {j : JIdx} {off : BitVec 48} {s : State} (h : s.Inv) : Keeps
    (execFork a b j off s) := by
  grind [execFork, State.inv_modMyAct, State.inv_retire, State.inv_recruit, State.inv_jumpTo, State.inv_modMe,
    State.inv_modMyCell, keeps_raise, keeps_raiseOpen, keeps_noService, State.inv_foldl, keeps_next]

theorem State.inv_continueAt {s : State} {w : Word} {done : State → State} (h : s.Inv)
    (hdone : ∀ (a : State), a.Inv → (done a).Inv) : Keeps (s.continueAt w done) := by
  grind [State.continueAt, State.inv_modMe, State.inv_miss, keeps_raise, keeps_next]

theorem keeps_execJoin {j : JIdx} {s : State} (h : s.Inv) : Keeps (execJoin j s) := by
  grind [execJoin, State.inv_endNow, State.inv_modMyCell, State.inv_continueAt, State.inv_stall, State.inv_retire,
    keeps_raiseOpen, keeps_noService, keeps_next]

theorem State.inv_dropFlight {s : State} {i : Nat} (h : s.Inv) : (s.dropFlight i).Inv := h
theorem State.inv_retireLaunch {s : State} {id : Word} {words : List Word} (h : s.Inv) :
    (s.retireLaunch id words).Inv := by
  grind [State.retireLaunch, State.Inv]

theorem State.inv_reportDone {s : State} {m : Msg} (h : s.Inv) : (s.reportDone m).Inv := by
  grind [State.reportDone, State.inv_retireLaunch]

theorem State.inv_reportFailed {s : State} {m : Msg} (h : s.Inv) : (s.reportFailed m).Inv := by
  grind [State.reportFailed, State.inv_retireLaunch, State.inv_modLaunch]

theorem State.inv_reportAway {s : State} {m : Msg} (h : s.Inv) : (s.reportAway m).Inv := by
  grind [State.reportAway, State.inv_reportFailed, State.inv_sendAway, State.Inv]

theorem State.inv_enchannel {s : State} {blk : Nat} {c : CIdx} {m : Msg} {granted : Bool} (h : s.Inv) :
    (s.enchannel blk c m granted).Inv :=
  h

theorem keeps_execChannelDelivery {i : Nat} {s : State} (h : s.Inv) : Keeps (execChannelDelivery i s) := by
  grind [execChannelDelivery, State.inv_jobDone, State.inv_reportFailed, State.inv_enchannel, State.inv_reportDone,
    State.inv_dropFlight, State.inv_reportAway, keeps_next]

theorem keeps_execQueueDelivery {i : Nat} {s : State} (h : s.Inv) : Keeps (execQueueDelivery i s) := by
  grind [execQueueDelivery, State.inv_jobDone, State.inv_reportFailed, State.inv_waitAt, State.inv_doneAt,
    State.inv_reportDone, State.inv_dropFlight, State.inv_acquireStamp, State.inv_modBlock, keeps_next]

theorem State.inv_joinEvent {s : State} {cl : Nat} {j : JIdx} {pid : BitVec 16} {src : Word} (h : s.Inv) :
    (s.joinEvent cl j pid src).Inv :=
  State.inv_ite (State.inv_logRec h) (State.inv_ite (State.inv_modLaunch (State.inv_modCluster h))
    (State.inv_modCluster h))

theorem keeps_execJoinCellDelivery {i : Nat} {s : State} (h : s.Inv) : Keeps (execJoinCellDelivery i s) := by
  grind [execJoinCellDelivery, State.inv_dropFlight, State.inv_acquireStamp, State.inv_joinEvent,
    State.inv_reportDone, State.inv_jobDone, keeps_next]

theorem keeps_execJoinContinuationRecruit {cl : Nat} {j : JIdx} {s : State} (h : s.Inv) : Keeps
    (execJoinContinuationRecruit cl j s) := by
  grind [execJoinContinuationRecruit, State.inv_startAct, State.inv_journalMsg, State.inv_traceDispatch,
    State.inv_modCluster, keeps_next]

theorem State.inv_feFailed {s : State} {m : Msg} {cause : Byte} (h : s.Inv) : (s.feFailed m cause).Inv := by
  grind [State.feFailed, State.inv_logRec, State.inv_recordError]

theorem State.inv_feStore {s : State} {m : Msg} (h : s.Inv) {p : Byte} {t' : State}
    (hp : s.feStore m = some (p, t')) : t'.Inv := by
  grind [State.feStore, State.inv_retestAll, State.inv_performNow, State.inv_modMem, State.inv_locate, Try.Inv,
    Mem.wf_setBad]

theorem keeps_execFeWordDelivery {i : Nat} {s : State} (h : s.Inv) : Keeps (execFeWordDelivery i s) := by
  grind [execFeWordDelivery, State.inv_feFailed, State.inv_reportFailed, State.inv_reportDone, State.inv_jobDone,
    State.inv_dropFlight, State.inv_feStore, keeps_next]

theorem keeps_execSendGrant {t : Nat} {s : State} (h : s.Inv) : Keeps (execSendGrant t s) := by
  grind [execSendGrant, keeps_execReply, keeps_execSendv, keeps_execSend, State.inv_asThread, State.inv_unstall,
    keeps_next]

theorem keeps_execStampedWriteApply {i : Nat} {s : State} (h : s.Inv) : Keeps (execStampedWriteApply i s) := by
  grind [execStampedWriteApply, keeps_next, State.Inv]

theorem keeps_execSendDisplacement {t : Nat} {s : State} (h : s.Inv) : Keeps (execSendDisplacement t s) := by
  grind [execSendDisplacement, State.inv_displace, keeps_next]

theorem State.inv_hostMessage {s : State} {vi : BitVec 6} {pid : BitVec 16} {seq : BitVec 24} {dest reply : Word}
    {payload : List Word} (h : s.Inv) : (s.hostMessage vi pid seq dest reply payload).Inv :=
  State.inv_ite h (State.inv_ite (State.inv_modCluster h) (State.inv_ite (State.inv_push (State.inv_reserveHere h))
    h))

end Sys2Proof.Machine
end

section
/-! SUPPORT. The canonical form of memory under barriers, fences and service operations (R203–R223). -/

namespace Sys2Proof.Machine
open Sys2Proof.Claims

theorem keeps_execFence {sc : Scope} {s : State} (h : s.Inv) : Keeps (execFence sc s) := by
  grind [execFence, State.inv_retire, State.inv_takeDeferred, State.inv_stall, keeps_noService, keeps_next]

theorem State.inv_modBar {s : State} {cl : Nat} {b : BIdx} {f : BarCell → BarCell} (h : s.Inv) :
    (s.modBar cl b f).Inv :=
  h

theorem State.inv_setRecord {s : State} {t : Nat} {b : BIdx} {r : Arrival} (h : s.Inv) : (s.setRecord t b r).Inv := h
theorem State.inv_madeRequest {s : State} (h : s.Inv) : s.madeRequest.Inv := h
theorem State.inv_takeAnswer {s : State} {b : BIdx} {n : Nat} (h : s.Inv) : (s.takeAnswer b n).Inv :=
  State.inv_ite (State.inv_modMyAct (State.inv_madeRequest h)) (State.inv_ite (State.inv_modMyAct
    (State.inv_madeRequest h)) (State.inv_madeRequest h))

theorem State.inv_barrier {s : State} {b : BIdx} {ev : BarEvent} {fin : State → Out State} (h : s.Inv)
    (hfin : ∀ s, s.Inv → Keeps (fin s)) : Keeps (s.barrier b ev fin) := by
  grind [State.barrier, State.inv_takeAnswer, State.inv_stall, keeps_raiseOpen, State.inv_modBar,
    State.inv_madeRequest, keeps_next]

theorem keeps_execBinit {b : BIdx} {a : GReg} {s : State} (h : s.Inv) : Keeps (execBinit b a s) :=
  keeps_noService h (fun _ h29 => State.inv_barrier h29 (fun _ h27 => State.inv_retire h27))

theorem State.inv_arrive {s : State} {b : BIdx} {chk : Bool} {fin : State → Out State} (h : s.Inv)
    (hfin : ∀ s, s.Inv → Keeps (fin s)) : Keeps (s.arrive b chk fin) := by
  grind [State.arrive, State.inv_stall, State.inv_barrier, keeps_next]

theorem keeps_execBarr {b : BIdx} {sc : Scope} {chk : Bool} {s : State} (h : s.Inv) : Keeps (execBarr b sc chk s) :=
  keeps_noService h (fun _ h29 => State.inv_arrive h29 (fun _ h27 => State.inv_retire h27))

theorem State.inv_awaitPhase {s : State} {b : BIdx} {p : BitVec 32} {back : State} (hs : s.Inv) (hback : back.Inv) :
    Keeps (s.awaitPhase b p back) :=
  keeps_ite (State.inv_stall hback) (State.inv_retire (State.inv_setRecord hs))

theorem keeps_execBsync {b : BIdx} {sc : Scope} {chk : Bool} {s : State} (h : s.Inv) : Keeps
    (execBsync b sc chk s) := by
  grind [execBsync, State.inv_retire, State.inv_awaitPhase, State.inv_arrive, keeps_noService, keeps_next]

theorem keeps_execBwait {b : BIdx} {s : State} (h : s.Inv) : Keeps (execBwait b s) := by
  grind [execBwait, keeps_raiseOpen, State.inv_awaitPhase, keeps_noService]

theorem keeps_execBdrop {b : BIdx} {s : State} (h : s.Inv) : Keeps (execBdrop b s) :=
  keeps_noService h (fun _ h29 => keeps_ite (State.inv_barrier h29 (fun _ h26 => State.inv_retire h26)) (keeps_ite
    (State.inv_stall h29) (State.inv_barrier h29 (fun _ h25 => State.inv_retire h25))))

theorem State.inv_barAnswer {s : State} {cl : Nat} {b : BIdx} {t : Nat} {code : Byte} {rec' : Option Arrival}
    (h : s.Inv) : (s.barAnswer cl b t code rec').Inv := by
  grind [State.barAnswer, State.inv_setRecord, State.inv_modBar, State.inv_modBlock]

theorem State.inv_barReply {s : State} {cl : Nat} {b : BIdx} {e : BarEvent} {code : Byte} {rec' : Option Arrival}
    (h : s.Inv) : (s.barReply cl b e code rec').Inv := by
  unfold State.barReply
  grind [State.inv_barAnswer]

theorem State.inv_barInit {s : State} {cl : Nat} {b : BIdx} {e : BarEvent} {w : Word} (h : s.Inv) :
    (s.barInit cl b e w).Inv :=
  State.inv_ite (State.inv_barReply h) (State.inv_ite (State.inv_barReply h) (State.inv_barReply (State.inv_modBar
    h)))

theorem State.inv_barTake {s : State} {cl : Nat} {b : BIdx} {u : Batch} {e : BarEvent} (h : s.Inv) :
    (s.barTake cl b u e).2.Inv := by
  grind [State.barTake, State.inv_modBar, State.inv_barReply]

theorem State.inv_barTakes {s : State} {cl : Nat} {b : BIdx} {u : Batch} {es : List BarEvent} (h : s.Inv) :
    (s.barTakes cl b u es).2.Inv := by
  induction es generalizing s u with
  | nil => exact h
  | cons e es ih => exact ih (State.inv_barTake h)

theorem State.inv_openEpoch {s : State} {team : Word × Word} {b : BIdx} (h : s.Inv) : (s.openEpoch team b).Inv := h
theorem State.inv_saveEpoch {s : State} {team : Word × Word} (h : s.Inv) : (s.saveEpoch team).Inv := by
  grind [State.saveEpoch, State.inv_saveRecord, State.inv_foldl]

theorem State.inv_barComplete {s : State} {cl : Nat} {b : BIdx} (h : s.Inv) : (s.barComplete cl b).Inv := by
  grind [State.barComplete, State.inv_modBlock, State.inv_modBar, State.inv_openEpoch, State.inv_saveEpoch,
    State.inv_foldl]

theorem keeps_execBarrierBatch {cl : Nat} {b : BIdx} {s : State} (h : s.Inv) : Keeps (execBarrierBatch cl b s) := by
  grind [execBarrierBatch, State.inv_barComplete, State.inv_barTakes, State.inv_barReply, State.inv_barInit,
    State.inv_modBar, State.inv_foldl, keeps_next]

theorem keeps_execAccessAnswer {t seq : Nat} {s : State} (h : s.Inv) : Keeps (execAccessAnswer t seq s) := by
  grind [execAccessAnswer, State.inv_runAndRetest, State.inv_relDone, State.inv_deliver, keeps_next]

theorem State.inv_startRoutine {s : State} {t : Nat} {r : Req} {k : BitVec 6} (h : s.Inv) :
    (s.startRoutine t r k).Inv := by
  grind [State.startRoutine, State.inv_modTh, State.inv_touchLine, State.inv_logRec, State.inv_setReq,
    State.inv_locate]

theorem keeps_execServiceOperation {t seq : Nat} {s : State} (h : s.Inv) : Keeps (execServiceOperation t seq s) := by
  grind [execServiceOperation, State.inv_runAndRetest, State.inv_relDone, State.inv_startRoutine, keeps_next]

theorem keeps_execRoutineAbandon {o : Nat} {s : State} (h : s.Inv) : Keeps (execRoutineAbandon o s) := by
  grind [execRoutineAbandon, State.inv_abandon, keeps_next, State.Inv]

theorem State.inv_returned {s : State} {k : Packet} (h : s.Inv) : (s.returned k).Inv :=
  State.inv_ite (State.inv_forward h) (State.inv_ite (State.inv_forward h) h)

theorem State.inv_passOn {s : State} {k : Packet} (h : s.Inv) : (s.passOn k).Inv := by
  grind [State.passOn, State.inv_returned, State.inv_forward]

theorem State.inv_arrives {s : State} {kind : Byte} {hop : Bool} {p : Packet} {f : Packet → State → State}
    (h : s.Inv) (hf : ∀ (a : Packet) (a_1 : State), a_1.Inv → (f a a_1).Inv) : Keeps (s.arrives kind hop p f) := by
  grind [State.arrives, State.inv_dropReported, State.inv_sawFseq, State.inv_passOn, State.inv_countStomp,
    State.inv_countDrop, keeps_next]

theorem keeps_execNak {t seq : Nat} {p : Option Packet} {s : State} (h : s.Inv) : Keeps (execNak t seq p s) := by
  unfold execNak
  grind [State.inv_reply, State.inv_setReq, State.inv_modCtx, State.inv_modUnacked, State.inv_arrives, keeps_next]

theorem State.inv_callTicket {s : State} {o : Nat} (h : s.Inv) : (s.callTicket o).Inv := by
  grind [State.callTicket, State.inv_setReq, State.inv_reply, State.inv_modOwner]

theorem State.inv_callSlot {s : State} {n : Nat} (h : s.Inv) : (s.callSlot n).Inv := by
  grind [State.callSlot, State.inv_reply, State.Inv]

theorem keeps_execCall {o : Nat} {p : Option Packet} {s : State} (h : s.Inv) : Keeps (execCall o p s) := by
  unfold execCall
  grind [State.inv_callSlot, State.inv_callTicket, State.inv_modUnacked, State.inv_resend, State.inv_arrives,
      keeps_next]

theorem keeps_execTicketLapse {o : Nat} {s : State} (h : s.Inv) : Keeps (execTicketLapse o s) := by
  grind [execTicketLapse, State.inv_modOwner, State.inv_entryFreed, keeps_next]

theorem keeps_execTranslationParkTimeout {t seq : Nat} {s : State} (h : s.Inv) : Keeps
    (execTranslationParkTimeout t seq s) := by
  grind [execTranslationParkTimeout, State.inv_modTh, State.inv_setReq, keeps_next]

theorem keeps_execServiceOperationTimeout {t seq : Nat} {s : State} (h : s.Inv) : Keeps
    (execServiceOperationTimeout t seq s) := by
  unfold execServiceOperationTimeout
  split
  · refine keeps_ite h (State.inv_setReq ?_)
    split
    · exact State.inv_modTh (State.inv_turnOf h)
    · exact h
  · exact h

theorem keeps_execReleaseCountAdvance {d : Nat} {s : State} (h : s.Inv) : Keeps (execReleaseCountAdvance d s) := by
  grind [execReleaseCountAdvance, State.inv_modDie, State.inv_foldl, keeps_next]

end Sys2Proof.Machine
end

section
/-! SUPPORT. The canonical form of memory under jobs, copies and streams (R283, R325–R334). -/

namespace Sys2Proof.Machine
open Sys2Proof.Claims

theorem State.inv_acceptJob {s : State} {blk : Nat} {j : Job} (h : s.Inv) : (s.acceptJob blk j).Inv := h
theorem State.inv_readShape {s : State} {blk : Nat} {ea : Word} (h : s.Inv) {p : Shape} {rd : Bool} {t' : State}
    (hp : s.readShape blk ea = .ok (p, rd, t')) : t'.Inv := by
  grind [State.readShape, State.inv_readS]

theorem State.inv_runPaced {s : State} {t : Nat} {q : Req} (h : s.Inv) : (s.runPaced t q).Inv := by
  grind [State.runPaced, State.inv_modTh, State.inv_runAndRetest, State.Inv]

theorem State.inv_noteHazard {s : State} {blk : Nat} {j : Job} {r : Req} (h : s.Inv) : (s.noteHazard blk j r).Inv :=
  State.inv_ite (State.inv_modJob h) h

theorem State.inv_engineAccessAs {s : State} {t blk : Nat} {j : Job} {r : Req} (h : s.Inv) :
    (s.engineAccessAs t blk j r).2.Inv := by
  grind [State.engineAccessAs, State.inv_noteHazard, State.inv_runPaced, State.inv_setTh, State.Inv]

theorem State.inv_engineAccess {s : State} {blk : Nat} {j : Job} {r : Req} (h : s.Inv) :
    (s.engineAccess blk j r).2.Inv :=
  State.inv_engineAccessAs h

theorem State.inv_engineRead {s : State} {blk : Nat} {j : Job} {keys : List (Nat × Nat)} {ws : List Nat} (h : s.Inv) :
    (s.engineRead blk j keys ws).2.Inv := by
  unfold State.engineRead
  grind [State.inv_engineAccess]

theorem State.inv_engineWriteAt {s : State} {blk : Nat} {j : Job} {hh : Shape} {sync : Sync} {ps : List (Int × Nat)}
    {k : Nat} {whole : Bool} (h : s.Inv) : (s.engineWriteAt blk j hh sync ps k whole).2.Inv := by
  grind [State.engineWriteAt, State.inv_engineAccess]

theorem State.inv_engineWrite {s : State} {blk : Nat} {j : Job} {hh : Shape} {sync : Sync} {xs : List Nat}
    (h : s.Inv) : (s.engineWrite blk j hh sync xs).2.Inv :=
  State.inv_engineWriteAt h

theorem State.inv_matrixFailed {s : State} {blk : Nat} {j : Job} {tile : TIdx} {cause : Byte} {exp found : BitVec 5}
    (h : s.Inv) : (s.matrixFailed blk j tile cause exp found).Inv := by
  grind [State.matrixFailed, State.inv_jobReport, State.inv_logRec, State.inv_modIssuer, State.inv_dropJob,
    State.inv_killEpoch]

theorem State.inv_finishJob {s : State} {blk : Nat} {j : Job} {status : Byte} {fl : BitVec 5} (h : s.Inv) :
    (s.finishJob blk j status fl).Inv :=
  State.inv_ite (State.inv_ite (State.inv_dropJob h) (State.inv_cardFailed (State.inv_dropJob h)))
    (State.inv_modBlock (State.inv_dropJob h))

theorem State.inv_deliverCompletion {s : State} {k : Nat} {m : Msg} (h : s.Inv) {p : Byte} {t' : State}
    (hp : s.deliverCompletion k m = some (p, t')) : t'.Inv := by
  grind [State.deliverCompletion, State.inv_joinEvent, State.inv_enchannel, State.inv_modBlock, State.inv_doneAt,
    State.inv_feStore]

theorem State.inv_sendCompletion {s : State} {blk p : Nat} {j : Job} {m : Msg} (h : s.Inv) {t' : State}
    (hp : s.sendCompletion blk p j m = some t') : t'.Inv := by
  grind [State.sendCompletion, State.inv_completed, State.inv_push, State.inv_modJob, State.inv_reserveHere,
    State.inv_doneAt, State.inv_releaseStamp]

theorem State.inv_tryCompletions {s : State} {blk : Nat} {passed : List Word} {js : List Job} (h : s.Inv) :
    (s.tryCompletions blk passed js).Inv := by
  induction js generalizing s passed with
  | nil => exact h
  | cons j js ih =>
    unfold State.tryCompletions
    split
    · exact h
    · next m hm =>
      refine State.inv_ite (ih h) (State.inv_ite ?_ ?_)
      · dsimp only
        split
        · next s1 hs1 => 
          have hs : (s1 : State).Inv := State.inv_of_pair hs1 (State.inv_sendAway (State.inv_modAct
              (State.inv_of_mem rfl h)))
          exact State.inv_modJob hs
        · exact State.inv_completed h
      · dsimp only
        split
        · next s1 hs1 =>
          split at hs1
          · cases hs1; exact State.inv_completed h
          · split at hs1
            · exact State.inv_sendCompletion h hs1
            · obtain ⟨⟨c, s2⟩, hr, rfl⟩ := Option.map_eq_some_iff.mp hs1
              exact State.inv_completed (State.inv_deliverCompletion h hr)
        · exact ih (State.inv_waitAt h)

theorem keeps_execCompletionDelivery {blk eng : Nat} {s : State} (h : s.Inv) : Keeps
    (execCompletionDelivery blk eng s) :=
  State.inv_tryCompletions h

theorem State.inv_startJob {s : State} {blk id : Nat} {e : Engine} (h : s.Inv) : (s.startJob blk id e).Inv := by
  grind [State.startJob, State.inv_modJob]

theorem State.inv_modQuern {s : State} {blk : Nat} {f : Quern → Quern} (h : s.Inv) : (s.modQuern blk f).Inv := h
theorem State.inv_releaseForest {s : State} {blk : Nat} {j : Job} (h : s.Inv) : (s.releaseForest blk j).Inv := by
  grind [State.releaseForest, State.inv_modQuern, State.inv_foldl]

theorem State.inv_recall {s : State} {blk id : Nat} (h : s.Inv) : (s.recall blk id).Inv := by
  grind [State.recall, State.inv_modBlock, State.inv_foldl, State.Inv]

theorem State.inv_cancelHeld {s : State} {blk : Nat} {j : Job} (h : s.Inv) : (s.cancelHeld blk j).Inv := h
theorem State.inv_readCard {s : State} {a : Word} {two : Bool} (h : s.Inv) {p : CardRead} {t' : State}
    (hp : s.readCard a two = .ok (p, t')) : t'.Inv := by
  unfold State.readCard at hp
  split at hp
  · cases hp
  · next bs s1 h1 =>
    have hs1 := State.inv_readS h h1
    dsimp only at hp
    split at hp
    · cases hp
    · next src ok s2 h2 =>
      have hs2 := State.inv_readShape hs1 h2
      split at hp
      · cases hp; exact hs2
      · split at hp
        · cases hp
        · next dst ok2 s3 h3 => cases hp; exact State.inv_readShape hs2 h3

theorem State.inv_issueCard {s : State} {blk : Nat} {c : Card} {eng : Engine} {op : JobOp} {src : Shape}
    {dst : Option Shape} {dstRd xs : Bool} {fault : Trap → State → Out State} {bind : State → State} (h : s.Inv)
    (hfault : ∀ tr s, s.Inv → Keeps (fault tr s)) (hbind : ∀ s, s.Inv → (bind s).Inv) : Keeps
    (s.issueCard blk c eng op src dst dstRd xs fault bind) := by
  unfold State.issueCard
  grind [State.inv_acceptJob, State.inv_retire, State.inv_stall, keeps_next]

theorem keeps_plainFault {tr : Trap} {s : State} (h : s.Inv) : Keeps (plainFault tr s) := State.inv_takeFault h
theorem keeps_execCpy {a b : GReg} {s : State} (h : s.Inv) : Keeps (execCpy a b s) := by
  refine keeps_noService h fun s hs => keeps_ite (State.inv_stall hs) ?_
  split
  · exact State.inv_takeFault hs
  · next k s1 h1 =>
    have hs1 := State.inv_readCard hs h1
    split
    · exact keeps_raise hs1
    · refine keeps_ite (keeps_raiseOwn hs1) (keeps_ite (keeps_raise hs1) ?_)
      split
      · exact State.inv_takeFault hs1
      · exact State.inv_issueCard hs1 (fun _ _ => keeps_plainFault) fun _ hs => hs

theorem keeps_execCpys {d : SIdx} {a : GReg} {s : State} (h : s.Inv) : Keeps (execCpys d a s) := by
  grind [execCpys, State.inv_setStream, keeps_plainFault, State.inv_issueCard, keeps_raiseOwn, keeps_raise,
    State.inv_takeFault, State.inv_readCard, State.inv_stall, keeps_noService, keeps_next]

theorem State.inv_modStream {s : State} {blk : Nat} {j : Job} {x : SIdx} {f : Stream → Option Stream} (h : s.Inv) :
    (s.modStream blk j x f).Inv :=
  State.inv_getD (State.inv_modIssuer h) h

theorem State.inv_endStream {s : State} {blk : Nat} {j : Job} (h : s.Inv) : (s.endStream blk j).Inv := by
  grind [State.endStream, State.inv_modStream]

theorem keeps_execStreamElement {blk id : Nat} {s : State} (h : s.Inv) : Keeps (execStreamElement blk id s) := by
  unfold execStreamElement
  split
  · exact h
  · split
    · refine keeps_ite h (keeps_ite (State.inv_finishJob (State.inv_endStream h)) ?_)
      split
      · exact State.inv_modJob (State.inv_endStream h)
      · split
        · next s1 h1 => exact State.inv_of_pair h1 (State.inv_engineRead h)
        · next j1 s1 h1 =>
          have hs1 : s1.Inv := State.inv_of_pair h1 (State.inv_engineRead h)
          split
          · exact State.inv_finishJob (State.inv_endStream hs1)
          · exact State.inv_modJob (State.inv_modStream hs1)
    · exact h

theorem keeps_execCopyJobStart {blk id : Nat} {s : State} (h : s.Inv) : Keeps (execCopyJobStart blk id s) :=
  State.inv_startJob h

theorem keeps_execCopyJobComplete {blk id : Nat} {s : State} (h : s.Inv) : Keeps (execCopyJobComplete blk id s) := by
  grind [execCopyJobComplete, State.inv_engineWriteAt, State.inv_engineWrite, State.inv_finishJob, keeps_next]

theorem keeps_execJwait {a : GReg} {s : State} (h : s.Inv) : Keeps (execJwait a s) := by
  grind [execJwait, State.inv_retire, State.inv_modMyAct, State.inv_takeFault, State.inv_modMe, State.inv_stall,
    keeps_raiseOwn, keeps_noService, keeps_next]

theorem keeps_execJpoll {d a : GReg} {s : State} (h : s.Inv) : Keeps (execJpoll d a s) := by
  grind [execJpoll, State.inv_writeRetire, keeps_raiseOwn, keeps_noService, keeps_next]

theorem State.inv_haltJob {s : State} {blk : Nat} {j : Job} (h : s.Inv) : (s.haltJob blk j).Inv := by
  grind [State.haltJob, State.inv_endStream, State.inv_releaseForest, State.Inv]

theorem State.inv_cancelJob {s : State} {blk : Nat} {j : Job} {quiet : Bool} (h : s.Inv) :
    (s.cancelJob blk j quiet).Inv :=
  State.inv_ite (State.inv_dropJob (State.inv_recall (State.inv_haltJob h))) (State.inv_ite (State.inv_cancelHeld h)
    (State.inv_finishJob (State.inv_haltJob h)))

theorem keeps_execJcancel {d a : GReg} {s : State} (h : s.Inv) : Keeps (execJcancel d a s) := by
  grind [execJcancel, State.inv_cancelJob, State.inv_writeRetire, keeps_raiseOwn, keeps_noService, State.inv_foldl,
    keeps_next]

end Sys2Proof.Machine
end

section
/-! SUPPORT. The canonical form of memory under vector instructions and sweeps (R262–R290). -/

namespace Sys2Proof.Machine
open Sys2Proof.Claims

theorem State.inv_fpWrite {s : State} {d : GReg} {r : Word × FFlags} (h : s.Inv) : (s.fpWrite d r).Inv :=
  State.inv_retire (State.inv_orFlags (State.inv_setG h))

theorem keeps_withRm {i : Instr} {rm : Rm} {s : State} {f : Rm → State → Out State} (h : s.Inv)
    (hf : ∀ (a : Rm) (a_1 : State), a_1.Inv → Keeps (f a a_1)) : Keeps (withRm i rm s f) := by
  grind [withRm, keeps_illegal]

theorem keeps_fpOp {i : Instr} {op : Rm → Fp → Fp → Exact × FFlags} {d a b : GReg} {n : Num} {s : State} (h : s.Inv)
    : Keeps (fpOp i op d a b n s) :=
  keeps_withRm h (fun _ _ hs => State.inv_fpWrite hs)

theorem keeps_execFadd {d a b : GReg} {n : Num} {s : State} (h : s.Inv) : Keeps (execFadd d a b n s) := keeps_fpOp h
theorem keeps_execFsub {d a b : GReg} {n : Num} {s : State} (h : s.Inv) : Keeps (execFsub d a b n s) := keeps_fpOp h
theorem keeps_execFmul {d a b : GReg} {n : Num} {s : State} (h : s.Inv) : Keeps (execFmul d a b n s) := keeps_fpOp h
theorem keeps_execFma {d a b c : GReg} {n : Num} {s : State} (h : s.Inv) : Keeps (execFma d a b c n s) :=
  keeps_withRm h (fun _ _ hs => State.inv_fpWrite hs)

theorem keeps_fpPick {i : Instr} {isMax : Bool} {d a b : GReg} {n : Num} {s : State} (h : s.Inv) : Keeps
    (fpPick i isMax d a b n s) :=
  keeps_withRm h (fun _ _ hs => State.inv_fpWrite hs)

theorem keeps_execFmin {d a b : GReg} {n : Num} {s : State} (h : s.Inv) : Keeps (execFmin d a b n s) := keeps_fpPick h
theorem keeps_execFmax {d a b : GReg} {n : Num} {s : State} (h : s.Inv) : Keeps (execFmax d a b n s) := keeps_fpPick h
theorem keeps_fpTest {op : Nat} {d a b : GReg} {s : State} (h : s.Inv) : Keeps (fpTest op d a b s) :=
  State.inv_fpWrite h

theorem keeps_execFeq {d a b : GReg} {s : State} (h : s.Inv) : Keeps (execFeq d a b s) := keeps_fpTest h
theorem keeps_execFlt {d a b : GReg} {s : State} (h : s.Inv) : Keeps (execFlt d a b s) := keeps_fpTest h
theorem keeps_execFle {d a b : GReg} {s : State} (h : s.Inv) : Keeps (execFle d a b s) := keeps_fpTest h
theorem keeps_execFcvtif {d a : GReg} {n : Num} {s : State} (h : s.Inv) : Keeps (execFcvtif d a n s) :=
  keeps_withRm h (fun _ _ hs => keeps_ite (keeps_reservedFmt hs) (State.inv_fpWrite hs))

theorem keeps_execFcvtfi {d a : GReg} {n : Num} {s : State} (h : s.Inv) : Keeps (execFcvtfi d a n s) :=
  keeps_withRm h (fun _ _ hs => keeps_ite (keeps_reservedFmt hs) (State.inv_fpWrite hs))

theorem keeps_vectorUnit {i : Instr} {s : State} {f : State → Out State} (h : s.Inv) (hf : ∀ s, s.Inv → Keeps (f s))
    : Keeps (vectorUnit i s f) := by
  grind [vectorUnit, State.inv_stall, keeps_raiseOpen, State.inv_modBlock, keeps_noService, keeps_next]

theorem keeps_execVectorGrant {blk : Nat} {s : State} (h : s.Inv) : Keeps (execVectorGrant blk s) := by
  grind [execVectorGrant, State.inv_modBlock, State.inv_unstall, keeps_next]

theorem keeps_vecOp {i : Instr} {n : Num} {useRm : Bool} {srcs : List VIdx} {s : State} {f : Rm → State → Out State}
    (h : s.Inv) (hf : ∀ (a : Rm) (a_1 : State), a_1.Inv → Keeps (f a a_1)) : Keeps (vecOp i n useRm srcs s f) := by
  grind [vecOp, State.inv_takeFault, keeps_reservedFmt, keeps_illegal, keeps_vectorUnit, keeps_next]

theorem State.inv_vecWrite {s : State} {d : VIdx} {v : VReg} {fl : FFlags} (h : s.Inv) : Keeps
    (s.vecWrite d v fl) :=
  State.inv_retire (State.inv_orFlags (State.inv_setV h))

theorem State.inv_vecLanes {s : State} {d : VIdx} {f : BitVec 5} {rs : List (Nat × FFlags)} (h : s.Inv) : Keeps
    (s.vecLanes d f rs) :=
  State.inv_vecWrite h

theorem keeps_vecArith2 {i : Instr} {fi : List Int → Int} {ff : Rm → List Fp → Exact × FFlags} {d a b : VIdx}
    {n : Num} {s : State} (h : s.Inv) : Keeps (vecArith2 i fi ff d a b n s) :=
  keeps_vecOp h (fun _ _ hs => State.inv_vecLanes hs)

theorem keeps_execVadd {d a b : VIdx} {n : Num} {s : State} (h : s.Inv) : Keeps (execVadd d a b n s) :=
  keeps_vecArith2 h

theorem keeps_execVsub {d a b : VIdx} {n : Num} {s : State} (h : s.Inv) : Keeps (execVsub d a b n s) :=
  keeps_vecArith2 h

theorem keeps_execVmul {d a b : VIdx} {n : Num} {s : State} (h : s.Inv) : Keeps (execVmul d a b n s) :=
  keeps_vecArith2 h

theorem keeps_execVfma {d a b c : VIdx} {n : Num} {s : State} (h : s.Inv) : Keeps (execVfma d a b c n s) :=
  keeps_vecOp h (fun _ _ hs => State.inv_vecLanes hs)

theorem keeps_vecPick {i : Instr} {isMax : Bool} {d a b : VIdx} {n : Num} {s : State} (h : s.Inv) : Keeps
    (vecPick i isMax d a b n s) :=
  keeps_vecOp h (fun _ _ hs => State.inv_vecLanes hs)

theorem keeps_execVmin {d a b : VIdx} {n : Num} {s : State} (h : s.Inv) : Keeps (execVmin d a b n s) := keeps_vecPick h
theorem keeps_execVmax {d a b : VIdx} {n : Num} {s : State} (h : s.Inv) : Keeps (execVmax d a b n s) := keeps_vecPick h
theorem keeps_vecEach {i : Instr} {useRm : Bool} {f : Rm → Nat → Nat × FFlags} {d a : VIdx} {n : Num} {s : State}
    (h : s.Inv) : Keeps (vecEach i useRm f d a n s) :=
  keeps_vecOp h (fun _ _ hs => State.inv_vecLanes hs)

theorem keeps_execVabs {d a : VIdx} {n : Num} {s : State} (h : s.Inv) : Keeps (execVabs d a n s) := keeps_vecEach h
theorem keeps_execVneg {d a : VIdx} {n : Num} {s : State} (h : s.Inv) : Keeps (execVneg d a n s) := keeps_vecEach h
theorem keeps_execVcmp {d a b : VIdx} {n : Num} {s : State} (h : s.Inv) : Keeps (execVcmp d a b n s) :=
  keeps_vecOp h (fun _ _ hs => State.inv_vecWrite hs)

theorem keeps_execVsel {d a b c : VIdx} {n : Num} {s : State} (h : s.Inv) : Keeps (execVsel d a b c n s) :=
  keeps_vecOp h (fun _ _ hs => State.inv_vecWrite hs)

theorem keeps_vecRaw {i : Instr} {d a : VIdx} {f : State → BitVec 2048} {s : State} (h : s.Inv) : Keeps
    (vecRaw i d a f s) :=
  keeps_vectorUnit h (fun _ hs => State.inv_vecWrite hs)

theorem keeps_execVand {d a b : VIdx} {n : Num} {s : State} (h : s.Inv) : Keeps (execVand d a b n s) := keeps_vecRaw h
theorem keeps_execVor {d a b : VIdx} {n : Num} {s : State} (h : s.Inv) : Keeps (execVor d a b n s) := keeps_vecRaw h
theorem keeps_execVxor {d a b : VIdx} {n : Num} {s : State} (h : s.Inv) : Keeps (execVxor d a b n s) := keeps_vecRaw h
theorem keeps_execVmov {d a : VIdx} {n : Num} {s : State} (h : s.Inv) : Keeps (execVmov d a n s) := keeps_vecRaw h
theorem keeps_execVtag {d : VIdx} {n : Num} {s : State} (h : s.Inv) : Keeps (execVtag d n s) :=
  keeps_vecOp h (fun _ _ hs => State.inv_retire (State.inv_modMyAct hs))

theorem keeps_vecShift {i : Instr} {f : Nat → Nat → Nat → Nat} {d a b : VIdx} {n : Num} {s : State} (h : s.Inv) :
    Keeps (vecShift i f d a b n s) :=
  keeps_vecOp h (fun _ _ hs => State.inv_vecWrite hs)

theorem keeps_execVshl {d a b : VIdx} {n : Num} {s : State} (h : s.Inv) : Keeps (execVshl d a b n s) := keeps_vecShift h
theorem keeps_execVshr {d a b : VIdx} {n : Num} {s : State} (h : s.Inv) : Keeps (execVshr d a b n s) := keeps_vecShift h
theorem keeps_execVsra {d a b : VIdx} {n : Num} {s : State} (h : s.Inv) : Keeps (execVsra d a b n s) := keeps_vecShift h
theorem keeps_execVcvt {d a : VIdx} {n : Num} {s : State} (h : s.Inv) : Keeps (execVcvt d a n s) := by
  grind [execVcvt, State.inv_vecWrite, State.inv_takeFault, keeps_reservedFmt, keeps_illegal, keeps_vectorUnit,
    keeps_next]

theorem keeps_vecFn {i : Instr} {fn : Nat} {d a : VIdx} {n : Num} {s : State} (h : s.Inv) : Keeps
    (vecFn i fn d a n s) :=
  keeps_vecEach h

theorem keeps_execVexp2 {d a : VIdx} {n : Num} {s : State} (h : s.Inv) : Keeps (execVexp2 d a n s) := keeps_vecFn h
theorem keeps_execVlog2 {d a : VIdx} {n : Num} {s : State} (h : s.Inv) : Keeps (execVlog2 d a n s) := keeps_vecFn h
theorem keeps_execVrcp {d a : VIdx} {n : Num} {s : State} (h : s.Inv) : Keeps (execVrcp d a n s) := keeps_vecFn h
theorem keeps_execVrsq {d a : VIdx} {n : Num} {s : State} (h : s.Inv) : Keeps (execVrsq d a n s) := keeps_vecFn h
theorem keeps_execVsqrt {d a : VIdx} {n : Num} {s : State} (h : s.Inv) : Keeps (execVsqrt d a n s) := keeps_vecFn h
theorem keeps_execVdiv {d a b : VIdx} {n : Num} {s : State} (h : s.Inv) : Keeps (execVdiv d a b n s) :=
  keeps_vecOp h (fun _ _ hs => State.inv_vecLanes hs)

theorem keeps_execVscl {d a : VIdx} {b : GReg} {n : Num} {s : State} (h : s.Inv) : Keeps (execVscl d a b n s) :=
  keeps_vecOp h (fun _ _ hs => State.inv_vecLanes hs)

theorem keeps_execVred {d : GReg} {a : VIdx} {n : Num} {s : State} (h : s.Inv) : Keeps (execVred d a n s) :=
  keeps_vecOp h (fun _ _ hs => State.inv_retire (State.inv_orFlags (State.inv_setG hs)))

theorem keeps_execVbcast {d : VIdx} {a : GReg} {n : Num} {s : State} (h : s.Inv) : Keeps (execVbcast d a n s) :=
  keeps_vecOp h (fun _ _ hs => State.inv_vecWrite hs)

theorem keeps_execVext {d : GReg} {a : VIdx} {b : GReg} {n : Num} {s : State} (h : s.Inv) : Keeps
    (execVext d a b n s) :=
  keeps_vecOp h (fun _ _ hs => State.inv_writeRetire hs)

theorem keeps_execVins {d : VIdx} {a b : GReg} {n : Num} {s : State} (h : s.Inv) : Keeps (execVins d a b n s) :=
  keeps_vecOp h (fun _ _ hs => State.inv_vecWrite hs)

theorem keeps_execViota {d : VIdx} {n : Num} {s : State} (h : s.Inv) : Keeps (execViota d n s) :=
  keeps_vecOp h (fun _ _ hs => State.inv_vecWrite hs)

theorem keeps_execVperm {d a b : VIdx} {n : Num} {s : State} (h : s.Inv) : Keeps (execVperm d a b n s) :=
  keeps_vecOp h (fun _ _ hs => State.inv_vecWrite hs)

theorem keeps_vec64 {i : Instr} {f : Word → Word → Word} {d a b : VIdx} {s : State} (h : s.Inv) : Keeps
    (vec64 i f d a b s) :=
  keeps_vecRaw h

theorem keeps_execVbmm8 {d a b : VIdx} {n : Num} {s : State} (h : s.Inv) : Keeps (execVbmm8 d a b n s) := keeps_vec64 h
theorem keeps_execVpdep {d a b : VIdx} {n : Num} {s : State} (h : s.Inv) : Keeps (execVpdep d a b n s) := keeps_vec64 h
theorem keeps_execVpext {d a b : VIdx} {n : Num} {s : State} (h : s.Inv) : Keeps (execVpext d a b n s) := keeps_vec64 h
theorem keeps_execVbperm {d a b : VIdx} {n : Num} {s : State} (h : s.Inv) : Keeps (execVbperm d a b n s) :=
  keeps_vecRaw h

theorem keeps_openFault {tr : Trap} {s : State} (h : s.Inv) : Keeps (openFault tr s) := keeps_raiseOpen h
theorem keeps_sweepIssue {i : Instr} {a b : GReg} {n : Num} {kind : Nat} {useRm : Bool} {ok : Shape → Shape → Bool}
    {dstRd : Bool} {op : Num → JobOp} {s : State} (h : s.Inv) : Keeps
    (sweepIssue i a b n kind useRm ok dstRd op s) := by
  refine keeps_noService h fun s hs => ?_
  dsimp only
  split
  · exact keeps_illegal hs
  · refine keeps_ite (keeps_reservedFmt hs) (keeps_ite (keeps_reservedFmt hs) (keeps_ite (State.inv_stall hs) ?_))
    split
    · exact State.inv_takeFault hs
    · next k s1 h1 =>
      have hs1 := State.inv_readCard hs h1
      split
      · exact keeps_raise hs1
      · refine keeps_ite (keeps_raise hs1) (keeps_ite (keeps_raiseOwn (State.inv_takeFree hs1)) (keeps_ite
          (keeps_raiseOpen hs1) ?_))
        split
        · exact keeps_openFault hs1
        · exact State.inv_issueCard hs1 (fun _ _ => keeps_openFault) fun _ hs => hs

theorem keeps_execSwmap {a b : GReg} {n : Num} {s : State} (h : s.Inv) : Keeps (execSwmap a b n s) := keeps_sweepIssue h
theorem keeps_execSwred {a b : GReg} {n : Num} {s : State} (h : s.Inv) : Keeps (execSwred a b n s) := keeps_sweepIssue h
theorem keeps_execSwcvt {a b : GReg} {n : Num} {s : State} (h : s.Inv) : Keeps (execSwcvt a b n s) := keeps_sweepIssue h
theorem keeps_execSweepStart {blk id : Nat} {s : State} (h : s.Inv) : Keeps (execSweepStart blk id s) :=
  State.inv_startJob h

theorem keeps_execSweepComplete {blk id : Nat} {s : State} (h : s.Inv) : Keeps (execSweepComplete blk id s) := by
  grind [execSweepComplete, State.inv_finishJob, State.inv_engineWrite, keeps_next, State.Inv]

end Sys2Proof.Machine
end

section
/-! SUPPORT. The canonical form of memory under the equivalence engine (R341–R356). -/

namespace Sys2Proof.Machine
open Sys2Proof.Claims

theorem State.inv_modHome {s : State} {blk : Nat} {q : Quern} {f : Quern → Quern} (h : s.Inv) :
    (s.modHome blk q f).Inv :=
  h

theorem State.inv_eqLocate {s : State} {blk : Nat} {q : Quern} {i : Nat} {write : Bool} (h : s.Inv) {pa k : Nat}
    {t' : State} (hp : s.eqLocate blk q i write = .ok (pa, k, t')) : t'.Inv := by
  grind [State.eqLocate, State.inv_touchLine, State.inv_translate]

theorem State.inv_eqRead {s : State} {blk : Nat} {q : Quern} {i : Nat} (h : s.Inv) {p : BitVec 64} {t' : State}
    (hp : s.eqRead blk q i = .ok (p, t')) : t'.Inv := by
  grind [State.eqRead, State.inv_readWord, State.inv_eqLocate]

theorem State.inv_eqWrite {s : State} {blk : Nat} {q : Quern} {i : Nat} {x : Word} (h : s.Inv) {t' : State}
    (hp : s.eqWrite blk q i x = .ok t') : t'.Inv := by
  grind [State.eqWrite, State.inv_writeWords, State.inv_modMem, State.inv_eqLocate, Mem.wf_setBad]

theorem State.inv_eqWrites {s : State} {blk : Nat} {q : Quern} {es : List (Nat × Word)} (h : s.Inv) {t' : State}
    (hp : s.eqWrites blk q es = .ok t') : t'.Inv := by
  induction es generalizing s with
  | nil => cases hp; exact h
  | cons e es ih => grind [State.eqWrites, State.inv_eqWrite]

theorem keeps_eqIssue {i : Instr} {op : State → EqOp} {s : State} (h : s.Inv) : Keeps (eqIssue i op s) :=
  keeps_noService h (fun _ hs => State.inv_retire (State.inv_modMe (State.inv_killEpoch hs)))

theorem keeps_execEqunite {d a b : GReg} {s : State} (h : s.Inv) : Keeps (execEqunite d a b s) := keeps_eqIssue h
theorem keeps_execEqfind {d a : GReg} {s : State} (h : s.Inv) : Keeps (execEqfind d a s) := keeps_eqIssue h
theorem keeps_execEqsame {d a b : GReg} {s : State} (h : s.Inv) : Keeps (execEqsame d a b s) := keeps_eqIssue h
theorem keeps_execEqsize {d a : GReg} {s : State} (h : s.Inv) : Keeps (execEqsize d a s) := keeps_eqIssue h
theorem keeps_execEqsnap {d : GReg} {s : State} (h : s.Inv) : Keeps (execEqsnap d s) := keeps_eqIssue h
theorem keeps_execEqundo {d : GReg} {s : State} (h : s.Inv) : Keeps (execEqundo d s) := keeps_eqIssue h
theorem keeps_execEqcommit {d : GReg} {s : State} (h : s.Inv) : Keeps (execEqcommit d s) := keeps_eqIssue h
theorem keeps_execEqinit {a : GReg} {size : Bool} {lg : BitVec 2} {s : State} (h : s.Inv) : Keeps
    (execEqinit a size lg s) := by
  refine keeps_noService h fun s hs => keeps_ite (State.inv_stall hs) ?_
  split
  · exact State.inv_takeFault hs
  · next bs s1 h1 =>
    have hs1 := State.inv_readS hs h1
    refine keeps_ite (keeps_raiseOwn hs1) (keeps_ite (keeps_raise hs1) (keeps_ite (keeps_raise hs1) (keeps_ite
        (keeps_raise hs1) ?_)))
    split
    · exact State.inv_takeFault hs1
    · refine keeps_ite (State.inv_stall hs) ?_
      split
      · exact keeps_raise hs1
      · exact keeps_ite (State.inv_stall (State.inv_foldl (fun _ _ => State.inv_modQuern) hs))
          (State.inv_retire (State.inv_killEpoch (State.inv_foldl (fun _ _ => State.inv_modQuern) hs1)))

theorem keeps_execEqEntryWrites {blk : Nat} {s : State} (h : s.Inv) : Keeps (execEqEntryWrites blk s) := by
  unfold execEqEntryWrites
  refine keeps_ite h (keeps_ite ?_ (keeps_ite h ?_))
  · dsimp only
    split
    · exact h
    · next s1 h1 => exact State.inv_modQuern (State.inv_eqWrites h h1)
  · dsimp only
    split
    · next s1 h1 => exact State.inv_of_pair h1 (State.inv_engineAccessAs h)
    · next r s1 h1 =>
      have hs1 : s1.Inv := State.inv_of_pair h1 (State.inv_engineAccessAs h)
      have hs2 (s : State) (hs : s.Inv) (grp : List Nat) (f : Quern → Quern) :
          (grp.foldl (fun s b => s.modQuern b f) s).Inv :=
        State.inv_foldl (fun _ _ => State.inv_modQuern) hs
      exact State.inv_ite (hs2 _ hs1 _ _) (State.inv_getD (State.inv_modIssuer (hs2 _ hs1 _ _)) (hs2 _ hs1 _ _))

theorem State.inv_setOp {s : State} {t : Nat} {o : EqOp} (h : s.Inv) : (s.setOp t o).Inv := h
theorem State.inv_eqAnswer {s : State} {t : Nat} {o : EqOp} {w : Word} (h : s.Inv) : (s.eqAnswer t o w).Inv := h
theorem State.inv_eqError {s : State} {t : Nat} {o : EqOp} {c : Byte} {q : Quern} {i : Nat} (h : s.Inv) :
    (s.eqError t o c q i).Inv :=
  h

theorem State.inv_eqFail {s : State} {t : Nat} {o : EqOp} {c : Byte} {q : Quern} {i : Nat} (h : s.Inv) :
    (s.eqFail t o c q i).Inv :=
  State.inv_ite h (State.inv_ite (State.inv_modTh (State.inv_translate h)) (State.inv_eqError h))

theorem State.inv_eqLog {s : State} {blk : Nat} {q : Quern} {i : Nat} {olds : List (Nat × Word)} (h : s.Inv) :
    (s.eqLog blk q i olds).Inv :=
  State.inv_ite (State.inv_modHome h) h

theorem State.inv_eqWalk {s : State} {t : Nat} {o : EqOp} {q : Quern} (h : s.Inv) : (s.eqWalk t o q).Inv := by
  grind [State.eqWalk, State.inv_setOp, State.inv_eqFail, State.inv_eqRead]

theorem State.inv_eqCompress {s : State} {t : Nat} {o : EqOp} {q : Quern} {i root : Nat} {rest : List (Nat × Nat)}
    (h : s.Inv) : (s.eqCompress t o q i root rest).Inv := by
  grind [State.eqCompress, State.inv_eqLog, State.inv_eqWrite, State.inv_eqFail, State.inv_setOp]

theorem State.inv_eqSnapStep {s : State} {t : Nat} {o : EqOp} {q : Quern} (h : s.Inv) : (s.eqSnapStep t o q).Inv := by
  grind [State.eqSnapStep, State.inv_eqFail, State.inv_eqWrites, State.inv_modHome, State.inv_eqAnswer]

theorem State.inv_eqCompare {s : State} {t : Nat} {o : EqOp} {q : Quern} {rx n ry : Nat} (h : s.Inv) :
    (s.eqCompare t o q rx n ry).Inv := by
  grind [State.eqCompare, State.inv_eqFail, State.inv_eqRead, State.inv_setOp]

theorem keeps_execEqHop {t : Nat} {s : State} (h : s.Inv) : Keeps (execEqHop t s) := by
  unfold execEqHop
  dsimp only
  split
  · exact h
  · split
    · exact State.inv_eqAnswer h
    · refine keeps_ite h (keeps_ite (keeps_ite h (State.inv_eqSnapStep h)) (keeps_ite (keeps_ite (State.inv_eqAnswer
        h) (State.inv_setOp h)) ?_))
      split
      · exact State.inv_eqCompress h
      · exact State.inv_eqAnswer h
      · split
        · exact State.inv_eqWalk h
        · refine keeps_ite (State.inv_setOp h) (keeps_ite (State.inv_setOp h) ?_)
          split
          · exact State.inv_eqWalk h
          · exact keeps_ite (State.inv_eqCompare h) h

theorem keeps_execEqLink {t : Nat} {s : State} (h : s.Inv) : Keeps (execEqLink t s) := by
  unfold execEqLink
  dsimp only
  split
  · split
    · split
      · exact State.inv_eqFail h
      · next wx s1 h1 =>
        have hs1 := State.inv_eqRead h h1
        split
        · exact State.inv_eqFail hs1
        · next wy s2 h2 =>
          have hs2 := State.inv_eqRead hs1 h2
          refine keeps_ite (State.inv_setOp hs2) (keeps_ite (State.inv_setOp hs2) (keeps_ite (State.inv_setOp hs2) ?_))
          split
          · exact State.inv_eqFail h
          · next s4 h4 => exact State.inv_setOp (State.inv_modHome (State.inv_eqWrites (State.inv_eqLog hs2) h4))
    · exact h
  · exact h

theorem State.inv_readMaybe {s : State} {blk : Nat} {ea : Word} (h : s.Inv) {p : Option Shape} {rd : Bool}
    {t' : State} (hp : s.readMaybe blk ea = .ok (p, rd, t')) : t'.Inv := by
  grind [State.readMaybe, State.inv_readShape]

theorem keeps_execEqrelabel {a b : GReg} {dense : Bool} {red : BitVec 3} {s : State} (h : s.Inv) : Keeps
    (execEqrelabel a b dense red s) := by
  refine keeps_noService h fun s hs => keeps_ite (State.inv_stall hs) (keeps_ite (State.inv_stall hs) ?_)
  split
  · exact State.inv_takeFault hs
  · next bs s1 h1 =>
    have hs1 := State.inv_readS hs h1
    dsimp only
    split
    · exact State.inv_takeFault hs1
    · next lab ok1 s2 h2 =>
      have hs2 := State.inv_readShape hs1 h2
      split
      · exact State.inv_takeFault hs2
      · next val ok2 s3 h3 =>
        have hs3 := State.inv_readMaybe hs2 h3
        split
        · exact State.inv_takeFault hs3
        · next out ok3 s4 h4 =>
          have hs4 := State.inv_readMaybe hs3 h4
          split
          · exact keeps_raise hs4
          · refine keeps_ite (keeps_raiseOwn hs4) (keeps_ite (keeps_raise hs4) ?_)
            split
            · exact State.inv_takeFault hs4
            · split
              · exact State.inv_takeFault hs4
              · exact State.inv_takeFault hs4
              · exact State.inv_takeFault hs4
              · exact keeps_ite (State.inv_stall hs) (State.inv_retire (State.inv_acceptJob (State.inv_killEpoch hs4)))

theorem keeps_execRelabelJobStart {blk id : Nat} {s : State} (h : s.Inv) : Keeps (execRelabelJobStart blk id s) := by
  unfold execRelabelJobStart
  split
  · exact h
  · split
    · have hs1 : (s.startJob blk id .equiv).Inv := State.inv_startJob h
      dsimp only
      split
      · refine keeps_ite h ?_
        split
        · exact State.inv_finishJob hs1
        · exact keeps_ite h (State.inv_foldl (fun _ _ => State.inv_modQuern) hs1)
      · exact h
    · exact h

theorem State.inv_readStage {s : State} {blk : Nat} {j : Job} {hh : Option Shape} {n : Nat} (h : s.Inv) :
    (s.readStage blk j hh n).2.Inv := by
  unfold State.readStage
  grind [State.inv_modJob, State.inv_engineRead]

theorem State.inv_readForest {s : State} {blk : Nat} {j : Job} (h : s.Inv) : (s.readForest blk j).2.Inv := by
  grind [State.readForest, State.inv_engineRead]

theorem State.inv_relabelRead {s : State} {blk : Nat} {j f : Job} {dense : Bool} {red : Nat} (h : s.Inv) :
    (s.relabelRead blk j f dense red).Inv :=
  State.inv_releaseForest (State.inv_modJob (State.inv_ite (State.inv_getD (State.inv_modIssuer h) h) h))

theorem keeps_execCardOperandsConsumed {blk id : Nat} {s : State} (h : s.Inv) : Keeps
    (execCardOperandsConsumed blk id s) := by
  unfold execCardOperandsConsumed
  split
  · exact h
  · next j hj =>
    refine keeps_ite h (keeps_ite (State.inv_finishJob (State.inv_releaseForest h)) ?_)
    have hr : (if j.pos = 0 then s.readStage blk j j.src 1 else (some j, s)).2.Inv :=
      State.inv_snd_ite (State.inv_readStage h) h
    dsimp only
    split
    · next s1 h1 => exact State.inv_of_pair h1 hr
    · next j1 s1 h1 =>
      have hs1 : s1.Inv := State.inv_of_pair h1 hr
      split
      · split
        · next s2 h2 => exact State.inv_of_pair h2 (State.inv_readForest hs1)
        · next f s2 h2 => exact State.inv_relabelRead (State.inv_of_pair h2 (State.inv_readForest hs1))
      · split
        · next s2 h2 => exact State.inv_of_pair h2 (State.inv_readStage hs1)
        · next j2 s2 h2 => exact State.inv_modJob (State.inv_of_pair h2 (State.inv_readStage hs1))

theorem keeps_execRelabelJobComplete {blk id : Nat} {s : State} (h : s.Inv) : Keeps
    (execRelabelJobComplete blk id s) := by
  unfold execRelabelJobComplete
  split
  · exact h
  · next j hj =>
    split
    · next lab _ _ _ =>
      refine keeps_ite (State.inv_finishJob h) ?_
      have hr : (if j.pos < 3 then s.engineWrite blk j lab .plain j.labels
          else (some 0, s) : Option Byte × State).2.Inv := State.inv_snd_ite (State.inv_engineWrite h) h
      split
      · next s1 h1 => exact State.inv_of_pair h1 hr
      · next c s1 h1 =>
        have hs1 : s1.Inv := State.inv_of_pair h1 hr
        refine keeps_ite (State.inv_finishJob hs1) ?_
        have hs2 : (s1.modJob blk id fun j => { j with pos := 3 }).Inv := State.inv_modJob hs1
        dsimp only
        split
        · exact State.inv_finishJob hs2
        · split
          · next s3 h3 => exact State.inv_of_pair h3 (State.inv_engineWriteAt hs2)
          · next c s3 h3 => exact State.inv_finishJob (State.inv_of_pair h3 (State.inv_engineWriteAt hs2))
    · exact h

end Sys2Proof.Machine
end

section
/-! SUPPORT. The canonical form of memory under launches, replays and the resolution of code (R109–R118, R143–R147, R163–R165). -/

namespace Sys2Proof.Machine
open Sys2Proof.Claims

theorem State.inv_devWord {s : State} {t : Nat} {pid : BitVec 16} {lva : Nat} (h : s.Inv) {w : Word} {t' : State}
    (hp : s.devWord t pid lva = some (w, t')) : t'.Inv := by
  unfold State.devWord at hp
  split at hp
  · cases hp
  · next l s1 h1 =>
    have hs1 : s1.Inv := State.inv_of_pair h1 (State.inv_translate h)
    dsimp only at hp
    split at hp
    · cases hp
    · split at hp
      · cases hp
      · exact State.inv_of_pair (Option.some.inj hp) (State.inv_readWord (State.inv_touchLine hs1))

theorem State.inv_devWords {s : State} {t : Nat} {pid : BitVec 16} {lva n : Nat} (h : s.Inv) {bs : List Byte}
    {t' : State} (hp : s.devWords t pid lva n = some (bs, t')) : t'.Inv := by
  induction n generalizing s lva bs with
  | zero => cases hp; exact h
  | succ n ih => 
    unfold State.devWords at hp
    grind [State.inv_devWord]

theorem State.inv_devBytes {s : State} {t : Nat} {pid : BitVec 16} {ea : Word} {n : Nat} (h : s.Inv) {p : List Byte}
    {t' : State} (hp : s.devBytes t pid ea n = some (p, t')) : t'.Inv := by
  grind [State.devBytes, State.inv_devWords]

theorem State.inv_readDigests {s : State} {t : Nat} {pid : BitVec 16} {entry : Word} {ks : List Nat} (h : s.Inv)
    {ds : List Digest} {t' : State} (hp : s.readDigests t pid entry ks = some (ds, t')) : t'.Inv := by
  induction ks generalizing s ds with
  | nil => cases hp; exact h
  | cons k ks ih => 
    unfold State.readDigests at hp
    grind [State.inv_devBytes]

theorem State.inv_bindBlock {s : State} {blk : Nat} {id : Word} {pid : BitVec 16}
    {ks : List ((Nat × Nat × Nat × Nat × Byte) × Digest)} (h : s.Inv) : (s.bindBlock blk id pid ks).Inv := by
  grind [State.bindBlock, State.inv_modBlock, State.inv_lookupOrCreate, State.inv_foldl]

theorem State.inv_serveHeader {s : State} {cl : Nat} {hh : Header} (h : s.Inv) : (s.serveHeader cl hh).Inv := by
  unfold State.serveHeader
  extract_lets t p id
  split
  · exact State.inv_reportTo h
  · split
    · exact State.inv_ite (State.inv_report h) (State.inv_report (State.inv_report h))
    · next refuse _ _ _ _ =>
      refine State.inv_ite (State.inv_report h) ?_
      split
      next st s1 h1 =>
      have hs1 : s1.Inv := by
        split at h1
        · cases h1; exact h
        · split at h1
          · next bs s' h2 => cases h1; exact State.inv_devBytes h h2
          · cases h1; exact h
      extract_lets binds
      split
      next digs s2 h2 =>
      have hs2 : s2.Inv := by
        split at h2
        · next ds s' h3 => cases h2; exact State.inv_readDigests hs1 h3
        · cases h2; exact hs1
      split
      · exact State.inv_report hs2
      · exact State.inv_reportTo (State.inv_foldl (fun _ _ => State.inv_bindBlock) (State.inv_of_mem rfl hs2))

theorem keeps_execLaunchHeader {cl : Nat} {s : State} (h : s.Inv) : Keeps (execLaunchHeader cl s) := by
  grind [execLaunchHeader, State.inv_modCluster, State.inv_acquireStamp, State.inv_serveHeader, keeps_next]

theorem keeps_execLaunchEnumeration {id : Word} {s : State} (h : s.Inv) : Keeps (execLaunchEnumeration id s) := by
  grind [execLaunchEnumeration, State.inv_modBlock, State.inv_push, State.inv_releaseStamp, State.inv_modLaunch,
    keeps_next]

theorem State.inv_freeLaunch {s : State} {id : Word} (h : s.Inv) : (s.freeLaunch id).Inv := h
theorem State.inv_completeLaunch {s : State} {l : Launch} (h : s.Inv) : (s.completeLaunch l).Inv :=
  State.inv_ite (State.inv_retireLaunch (State.inv_modLaunch (State.inv_freeLaunch h))) (State.inv_reportTo
    (State.inv_modLaunch (State.inv_freeLaunch h)))

theorem keeps_execLaunchComplete {id : Word} {s : State} (h : s.Inv) : Keeps (execLaunchComplete id s) := by
  grind [execLaunchComplete, State.inv_completeLaunch, keeps_next]

theorem keeps_execLaunchReportResend {id : Word} {s : State} (h : s.Inv) : Keeps (execLaunchReportResend id s) := by
  grind [execLaunchReportResend, State.inv_modLaunch, keeps_next, State.Inv]

theorem keeps_execDispatch {blk : Nat} {s : State} (h : s.Inv) : Keeps (execDispatch blk s) := State.inv_dispatchOne h
theorem State.inv_cancelReqs {s : State} {t : Nat} (h : s.Inv) : (s.cancelReqs t).Inv := by
  grind [State.cancelReqs, State.inv_modTh, State.inv_leaveRetry, State.inv_foldl]

theorem State.inv_recount {s : State} {blk : Nat} {a : Act} (h : s.Inv) : (s.recount blk a).Inv :=
  State.inv_modLaunch (State.inv_ite h (State.inv_modBlock h))

theorem State.inv_restAgain {s : State} {blk : Nat} {d : Displaced} (h : s.Inv) : (s.restAgain blk d).Inv :=
  State.inv_modBlock (State.inv_recount h)

theorem State.inv_restart {s : State} {t : Nat} {a : Act} {resumed : Bool} (h : s.Inv) :
    (s.restart t a resumed).Inv :=
  State.inv_ite (State.inv_traceDispatch (State.inv_startAct (State.inv_recount h))) (State.inv_modBlock
    (State.inv_recount h))

theorem State.inv_restoreJoins {s : State} {team : Word × Word} {cl : Nat} {saved : List (Nat × JoinCell)}
    (h : s.Inv) : (s.restoreJoins team cl saved).Inv :=
  h

theorem State.inv_replayBlock {s : State} {team : Word × Word} {blk : Nat} (h : s.Inv) :
    (s.replayBlock team blk).Inv := by
  unfold State.replayBlock
  split
  · exact h
  · next p _ =>
    have h0 : State.Inv { s with mem := restoreOlds s.mem p.olds } := Mem.wf_restoreOlds p.olds h
    refine State.inv_retestAll (State.inv_foldl (fun s e hs => ?_) (State.inv_foldl (fun _ _ => State.inv_restart)
      (State.inv_foldl (fun _ _ => State.inv_restAgain) (State.inv_foldl (fun _ _ => State.inv_modTh)
        (State.inv_modBlock (State.inv_restoreJoins h0))))))
    split
    · exact State.inv_restart hs
    · exact hs

theorem State.inv_replayTeam {s : State} {team : Word × Word} (h : s.Inv) : (s.replayTeam team).Inv := by
  grind [State.replayTeam, State.inv_replayBlock, State.inv_cancelJob, State.inv_dropDisplaced,
    State.inv_cancelReqs, State.inv_freeThread, State.inv_foldl]

theorem keeps_execTeamReplay {t : Nat} {s : State} (h : s.Inv) : Keeps (execTeamReplay t s) := by
  grind [execTeamReplay, State.inv_replayTeam, State.inv_monitorEntry, keeps_next]

theorem State.inv_modFetch {s : State} {cl : Nat} {hh : BitVec 32} {f : Fetch → Fetch} (h : s.Inv) :
    (s.modFetch cl hh f).Inv :=
  h

theorem State.inv_dropRequests {s : State} {cl : Nat} {hh : BitVec 32} (h : s.Inv) : (s.dropRequests cl hh).Inv := h
theorem State.inv_askSource {s : State} {cl : Nat} {hh : BitVec 32} {fuel : Nat} (h : s.Inv) :
    (s.askSource cl hh fuel).Inv := by
  induction fuel generalizing s with
  | zero => exact h
  | succ fuel ih =>
    unfold State.askSource
    split
    · exact h
    · split
      · extract_lets next
        have hn : next.Inv := State.inv_modFetch h
        split
        · exact ih hn
        · split
          next n s' h1 =>
          split
          · next s1 h2 => exact State.inv_of_pair h2 (State.inv_request (State.inv_of_pair h1 (State.inv_nextSeqTo hn)))
          · exact ih hn
      · exact State.inv_modFetch h
      · exact h

theorem State.inv_nextSource {s : State} {cl : Nat} {hh : BitVec 32} (h : s.Inv) : (s.nextSource cl hh).Inv := by
  grind [State.nextSource, State.inv_modFetch, State.inv_askSource, State.inv_endFetch, State.inv_dropRequests]

theorem State.inv_noOffer {s : State} {cl : Nat} {hh : BitVec 32} (h : s.Inv) : (s.noOffer cl hh).Inv := by
  grind [State.noOffer, State.inv_nextSource, State.inv_dropRequests, State.inv_modFetch, State.inv_askSource]

theorem State.inv_installFetched {s : State} {cl : Nat} {f : Fetch} {i : Inst} (h : s.Inv) :
    (s.installFetched cl f i).Inv := by
  grind [State.installFetched, State.inv_modCluster, State.inv_install, State.inv_endFetch, State.Inv]

theorem State.inv_takeOffer {s : State} {cl : Nat} {f : Fetch} {bs : List Byte} (h : s.Inv) :
    (s.takeOffer cl f bs).Inv := by
  grind [State.takeOffer, State.inv_nextSource, State.inv_logRec, State.inv_noOffer, State.inv_installFetched,
    State.inv_modFetch]

theorem State.inv_resolveCode {s : State} {t cl : Nat} {pid : BitVec 16} {svc : Option (BitVec 6)} {hh : BitVec 32}
    {digest : Digest} {mask : Byte} {trig : BitVec 4} (h : s.Inv) :
    (s.resolveCode t cl pid svc hh digest mask trig).Inv := by
  grind [State.resolveCode, State.inv_modCluster, State.inv_askSource, State.inv_modFetch]

theorem keeps_execCodeMiss {t : Nat} {s : State} (h : s.Inv) : Keeps (execCodeMiss t s) := by
  grind [execCodeMiss, State.inv_modAct, State.inv_resolveCode, State.inv_unstall, keeps_next]

theorem keeps_execCodeSourceTimeout {cl : Nat} {hh : BitVec 32} {s : State} (h : s.Inv) : Keeps
    (execCodeSourceTimeout cl hh s) := by
  grind [execCodeSourceTimeout, State.inv_nextSource, keeps_next]

theorem keeps_execCodeInstall {cl : Nat} {hh : BitVec 32} {offer : List Byte} {s : State} (h : s.Inv) : Keeps
    (execCodeInstall cl hh offer s) := by
  grind [execCodeInstall, State.inv_takeOffer, State.inv_noOffer, keeps_next]

theorem keeps_execKilnInstallRetry {cl : Nat} {s : State} (h : s.Inv) : Keeps (execKilnInstallRetry cl s) := by
  grind [execKilnInstallRetry, State.inv_endFetch, State.inv_install, keeps_next]

theorem keeps_execKilnInstallTimeout {cl : Nat} {s : State} (h : s.Inv) : Keeps (execKilnInstallTimeout cl s) := by
  grind [execKilnInstallTimeout, State.inv_endFetch, keeps_next]

end Sys2Proof.Machine
end

section
/-! SUPPORT. The canonical form of memory under control registers and the fabric (R159–R161, R362–R385). -/

namespace Sys2Proof.Machine
open Sys2Proof.Claims

theorem State.inv_coreReg {s : State} (h : s.Inv) : s.coreReg.Inv := by
  grind [State.coreReg, State.inv_takeFree, CRead.Inv]

theorem State.inv_lowReg {s : State} {n : Nat} (h : s.Inv) : (s.lowReg n).Inv := by
  unfold State.lowReg
  grind [State.inv_coreReg, CRead.Inv]

theorem State.inv_highReg {s : State} {n : Nat} (h : s.Inv) : (s.highReg n).Inv := by
  unfold State.highReg
  grind [CRead.Inv]

theorem keeps_execGetc {d : GReg} {n : BitVec 12} {s : State} (h : s.Inv) : Keeps (execGetc d n s) := by
  grind [execGetc, keeps_illegal, State.inv_stall, State.inv_writeRetire, State.inv_highReg, State.inv_lowReg,
    keeps_raiseOpen, CRead.Inv, keeps_next]

theorem State.inv_writeHigh {s : State} {n : Nat} {w : Word} (h : s.Inv) {t' : State} (hp : s.writeHigh n w = some t')
    : t'.Inv := by
  unfold State.writeHigh at hp
  split at hp
  case h_8 => cases hp; exact State.inv_modMe (State.inv_ite (State.inv_modMe (State.inv_traceFlush h)) h)
  case h_11 => cases hp
  all_goals cases hp; exact h

theorem keeps_execSetc {a : GReg} {n : BitVec 12} {s : State} (h : s.Inv) : Keeps (execSetc a n s) := by
  grind [execSetc, State.inv_writeHigh, keeps_illegal, State.inv_modMyAct, State.inv_retire, keeps_raiseOpen,
    keeps_next]

theorem State.inv_renumber {s : State} {k : Packet} (h : s.Inv) : (s.renumber k).Inv := h
theorem State.inv_acceptRequest {s : State} {k : Packet} (h : s.Inv) : (s.acceptRequest k).Inv := by
  grind [State.acceptRequest, State.inv_addInbound, State.inv_forward, State.inv_setReq, State.inv_renumber]

theorem keeps_execRd {p : Packet} {s : State} (h : s.Inv) : Keeps (execRd p s) :=
  State.inv_arrives h (fun _ _ hs => State.inv_acceptRequest hs)

theorem keeps_execWr {p : Packet} {s : State} (h : s.Inv) : Keeps (execWr p s) :=
  State.inv_arrives h (fun _ _ hs => State.inv_acceptRequest hs)

theorem keeps_execAtm {p : Packet} {s : State} (h : s.Inv) : Keeps (execAtm p s) :=
  State.inv_arrives h (fun _ _ hs => State.inv_acceptRequest hs)

theorem State.inv_answerMsg {s : State} {k : Packet} {st : Byte} (h : s.Inv) : (s.answerMsg k st).Inv :=
  State.inv_reply h

theorem State.inv_acceptMessage {s : State} {k : Packet} (h : s.Inv) : (s.acceptMessage k).Inv := by
  grind [State.acceptMessage, State.inv_modCluster, State.inv_enchannel, State.inv_answerMsg, State.inv_forward,
    State.Inv]

theorem keeps_execMsg {p : Packet} {s : State} (h : s.Inv) : Keeps (execMsg p s) :=
  keeps_ite h (State.inv_arrives h (fun _ _ hs => State.inv_acceptMessage hs))

theorem State.inv_acceptCopy {s : State} {k : Packet} (h : s.Inv) : (s.acceptCopy k).Inv := by
  grind [State.acceptCopy, State.inv_mcArrive, State.inv_outPkt, State.inv_modMcWait]

theorem keeps_execMcw {p : Packet} {s : State} (h : s.Inv) : Keeps (execMcw p s) :=
  keeps_ite h (State.inv_arrives h (fun _ _ hs => State.inv_acceptCopy hs))

theorem keeps_execMcack {port : Nat} {p : Packet} {s : State} (h : s.Inv) : Keeps (execMcack port p s) := by
  grind [execMcack, State.inv_dropUnacked, State.inv_mcAnswer, State.inv_arrives]

theorem keeps_execMcackTimeout {g : Nat} {s : State} (h : s.Inv) : Keeps (execMcackTimeout g s) := by
  grind [execMcackTimeout, State.inv_dropCopies, State.inv_modMcWait, State.inv_mcSettle, keeps_next]

theorem State.inv_elementDone {s : State} {u : Unacked} {err : Byte} {ea : Word} {res : List Nat} {fl : BitVec 5}
    (h : s.Inv) : (s.elementDone u err ea res fl).Inv := by
  grind [State.elementDone, State.inv_setReq, State.inv_dropUnacked]

theorem State.inv_sendAnswered {s : State} {u : Unacked} {st : Word} (h : s.Inv) : (s.sendAnswered u st).Inv :=
  State.inv_ite (State.inv_modUnacked h) (State.inv_ite (State.inv_unstall (State.inv_modTh (State.inv_dropUnacked
    h))) (State.inv_modTh (State.inv_dropUnacked h)))

theorem State.inv_messageAnswered {s : State} {u : Unacked} {m : Msg} {st : Word} (h : s.Inv) :
    (s.messageAnswered u m st).Inv := by
  grind [State.messageAnswered, State.inv_reportFailed, State.inv_reportDone, State.inv_completed,
    State.inv_modUnacked, State.inv_sendAnswered, State.inv_dropUnacked]

theorem State.inv_requestFailed {s : State} {u : Unacked} {cause : Byte} (h : s.Inv) :
    (s.requestFailed u cause).Inv := by
  grind [State.requestFailed, State.inv_elementDone, State.inv_mcAnswer, State.inv_dropUnacked,
    State.inv_nextSource, State.inv_messageAnswered]

theorem State.inv_answers {s : State} {k : Packet} {f : Unacked → State} (h : s.Inv)
    (hf : ∀ (a : Unacked), (f a).Inv) : (s.answers k f).Inv := by
  grind [State.answers]

theorem keeps_execRda {p : Packet} {s : State} (h : s.Inv) : Keeps (execRda p s) :=
  State.inv_arrives h (fun _ _ hs => State.inv_answers hs (fun _ => State.inv_elementDone hs))

theorem keeps_execAck {p : Packet} {s : State} (h : s.Inv) : Keeps (execAck p s) :=
  State.inv_arrives h (fun _ _ hs => State.inv_answers hs (fun _ => State.inv_elementDone hs))

theorem keeps_execTnak {p : Packet} {s : State} (h : s.Inv) : Keeps (execTnak p s) := by
  grind [execTnak, State.inv_requestFailed, State.inv_elementDone, State.inv_answers, State.inv_arrives]

theorem keeps_execMsga {p : Packet} {s : State} (h : s.Inv) : Keeps (execMsga p s) := by
  grind [execMsga, State.inv_messageAnswered, State.inv_answers, State.inv_arrives]

theorem keeps_execSeqnakTimer {src : BitVec 22} {fseq : BitVec 24} {s : State} (h : s.Inv) : Keeps
    (execSeqnakTimer src fseq s) :=
  keeps_ite (State.inv_forward h) h

theorem State.inv_again {s : State} {u : Unacked} (h : s.Inv) : (s.again u).2.Inv := by
  grind [State.again, State.inv_resend, State.inv_outCopy]

theorem keeps_execSeqnak {p : Packet} {s : State} (h : s.Inv) : Keeps (execSeqnak p s) :=
  State.inv_arrives h (fun _ _ hs => State.inv_answers hs (fun _ => State.inv_ite hs (State.inv_again hs)))

theorem keeps_execRequestResendTimer {fseq : BitVec 24} {dst : BitVec 22} {s : State} (h : s.Inv) : Keeps
    (execRequestResendTimer fseq dst s) := by
  grind [execRequestResendTimer, State.inv_modUnacked, State.inv_again, State.inv_requestFailed, keeps_next]

theorem keeps_execCfreq {p : Packet} {s : State} (h : s.Inv) : Keeps (execCfreq p s) := by
  grind [execCfreq, State.inv_forward, State.inv_reply, State.inv_arrives, State.inv_foldl]

theorem keeps_execCfdat {p : Packet} {s : State} (h : s.Inv) : Keeps (execCfdat p s) := by
  grind [execCfdat, State.inv_modFetch, State.inv_dropUnacked, State.inv_answers, State.inv_arrives]

theorem keeps_execCfnone {p : Packet} {s : State} (h : s.Inv) : Keeps (execCfnone p s) :=
  State.inv_arrives h (fun _ _ hs => State.inv_answers hs (fun _ => State.inv_ite hs (State.inv_noOffer
    (State.inv_dropUnacked hs))))

theorem State.inv_reroute {s : State} {k : Packet} (h : s.Inv) : (s.reroute k).Inv := by
  grind [State.reroute, State.inv_returned, State.inv_requestFailed, State.inv_forward]

theorem State.inv_takeDown {s : State} {port : Nat} {why : Byte} (h : s.Inv) : (s.takeDown port why).Inv := by
  grind [State.takeDown, State.inv_reroute, State.inv_portNotice, State.inv_stomp, State.inv_modPort,
    State.inv_foldl, State.Inv]

theorem State.inv_chipDown {s : State} {c : BitVec 22} {up : Bool} (h : s.Inv) : (s.chipDown c up).Inv := h
theorem State.inv_train {s : State} {port : Nat} (h : s.Inv) : (s.train port).Inv :=
  State.inv_ite h (State.inv_modPort h)

theorem keeps_execFlitReplay {port : Nat} {s : State} (h : s.Inv) : Keeps (execFlitReplay port s) := by
  grind [execFlitReplay, State.inv_modPort, keeps_next, State.Inv]

theorem keeps_execLinkRetrain {port : Nat} {lane : Option (BitVec 3)} {s : State} (h : s.Inv) : Keeps
    (execLinkRetrain port lane s) := by
  unfold execLinkRetrain
  grind [State.inv_takeDown, State.inv_modPort, keeps_next]

theorem keeps_execLinkTrained {port : Nat} {s : State} (h : s.Inv) : Keeps (execLinkTrained port s) :=
  keeps_ite h (State.inv_modPort h)

theorem keeps_execPortDown {port : Nat} {why : Byte} {s : State} (h : s.Inv) : Keeps (execPortDown port why s) :=
  State.inv_takeDown h

theorem keeps_execNotice {port : Nat} {p : Packet} {s : State} (h : s.Inv) : Keeps (execNotice port p s) := by
  grind [execNotice, State.inv_flood, State.inv_arrives, State.Inv]

theorem State.inv_writeEn {s : State} {port : Nat} {en : Bool} (h : s.Inv) : (s.writeEn port en).Inv :=
  State.inv_ite (State.inv_train (State.inv_modPort h)) (State.inv_takeDown (State.inv_modPort h))

theorem State.inv_writeFgeom {s : State} {w : Word} (h : s.Inv) : (s.writeFgeom w).Inv := by
  grind [State.writeFgeom, State.inv_countDrop, State.Inv]

theorem State.inv_writePkas {s : State} {ws : List (Nat × Word)} (h : s.Inv) : (s.writePkas ws).Inv := by
  grind [State.writePkas, State.inv_countDrop, State.Inv]

theorem State.inv_writePka {s : State} {n : Nat} {w : Word} (h : s.Inv) : (s.writePka n w).Inv := State.inv_writePkas h
theorem State.inv_writePkb {s : State} {n : Nat} {w : Word} (h : s.Inv) : (s.writePkb n w).Inv := h
theorem State.inv_writeRank {s : State} {i : Nat} {w : Word} (h : s.Inv) : (s.writeRank i w).Inv := h
theorem State.inv_writeKey {s : State} {off : Nat} {bs : List Byte} (h : s.Inv) : (s.writeKey off bs).Inv := h
theorem State.inv_mgmtWrite {s : State} {a : Nat} {w : Word} (h : s.Inv) : (s.mgmtWrite a w).Inv := by
  grind [State.mgmtWrite, State.inv_writeRank, State.inv_writePkb, State.inv_writePka, State.inv_writeEn,
    State.inv_writeKey, State.inv_writeFgeom, State.Inv]

theorem State.inv_mgmtPut {s : State} {a : Nat} {bs : List Byte} {fuel : Nat} (h : s.Inv) :
    (s.mgmtPut a bs fuel).Inv := by
  grind [State.mgmtPut, State.inv_mgmtWrite, State.inv_writePkas, State.inv_foldl]

theorem State.inv_acceptNonce {s : State} {k : Packet} (h : s.Inv) : (s.acceptNonce k).Inv := h
theorem State.inv_manageAnswer {s : State} {k : Packet} {data : List Byte} (h : s.Inv) :
    (s.manageAnswer k data).Inv :=
  State.inv_forward h

theorem keeps_execMgw {p : Packet} {s : State} (h : s.Inv) : Keeps (execMgw p s) :=
  State.inv_arrives h (fun _ _ hs => State.inv_ite (State.inv_dropReported hs) (State.inv_manageAnswer
    (State.inv_mgmtPut (State.inv_acceptNonce hs))))

theorem keeps_execMgr {p : Packet} {s : State} (h : s.Inv) : Keeps (execMgr p s) :=
  State.inv_arrives h (fun _ _ hs => State.inv_ite (State.inv_dropReported hs) (State.inv_manageAnswer
    (State.inv_acceptNonce hs)))

theorem keeps_execPortEnWrite {port : Nat} {en : Bool} {s : State} (h : s.Inv) : Keeps
    (execPortEnWrite port en s) :=
  State.inv_writeEn h

theorem keeps_execFgeomWrite {w : Word} {s : State} (h : s.Inv) : Keeps (execFgeomWrite w s) := State.inv_writeFgeom h
theorem keeps_execPkaWrite {slot : BitVec 6} {w : Word} {s : State} (h : s.Inv) : Keeps (execPkaWrite slot w s) :=
  State.inv_writePka h

theorem keeps_execMcwait {d a : GReg} {s : State} (h : s.Inv) : Keeps (execMcwait d a s) := by
  grind [execMcwait, State.inv_writeRetire, State.inv_storeAt, State.inv_modMem, State.inv_modMyAct,
    State.inv_stall, State.inv_takeFault, keeps_raiseOwn, keeps_noService, keeps_next, Mem.wf_clearPoison]

theorem keeps_execFlowend {a : GReg} {s : State} (h : s.Inv) : Keeps (execFlowend a s) := by
  grind [execFlowend, State.inv_retire, keeps_illegal, keeps_noService, keeps_next, State.Inv]

theorem keeps_execRankc {d a : GReg} {s : State} (h : s.Inv) : Keeps (execRankc d a s) :=
  keeps_noService h (fun _ hs => keeps_ite (keeps_illegal hs) (State.inv_writeRetire hs))

end Sys2Proof.Machine
end

section
/-! SUPPORT. The canonical form of memory under the monitor's instructions, traces and the device (R394–R428). -/

namespace Sys2Proof.Machine
open Sys2Proof.Claims

theorem keeps_doubleOpen {s : State} (h : s.Inv) : Keeps (doubleOpen s) := by
  grind [doubleOpen, State.inv_doubleFault, State.inv_takeFree, keeps_next, State.Inv]

theorem keeps_execMcall {n : BitVec 48} {s : State} (h : s.Inv) : Keeps (execMcall n s) :=
  keeps_noService h (fun _ hs => State.inv_takeFault hs)

theorem State.inv_exitMonitor {s : State} {cause : Byte} (h : s.Inv) : (s.exitMonitor cause).Inv :=
  State.inv_endFaulted h

theorem keeps_execMext {a : GReg} {s : State} (h : s.Inv) : Keeps (execMext a s) :=
  keeps_monitorOnly h (fun _ hs => keeps_ite (keeps_illegal hs) (State.inv_exitMonitor hs))

theorem State.inv_sealWith {s : State} {blk n : Nat} {a : Act} {key : Option Digest} (h : s.Inv) :
    (s.sealWith blk n a key).Inv := by
  unfold State.sealWith
  grind [State.inv_sealRecord]

theorem State.inv_stopThread {s : State} {t : Nat} {a : Act} (h : s.Inv) : (s.stopThread t a).Inv :=
  State.inv_modBlock (State.inv_sealWith (State.inv_saveRecord (State.inv_traceLeft (State.inv_freeThread h))))

theorem State.inv_stopDisplaced {s : State} {blk : Nat} {d : Displaced} (h : s.Inv) : (s.stopDisplaced blk d).Inv :=
  State.inv_modBlock (State.inv_ite h (State.inv_sealWith (State.inv_saveRecord h)))

theorem keeps_execMret {s : State} (h : s.Inv) : Keeps (execMret s) :=
  keeps_monitorOnly h (fun _ hs => keeps_ite (State.inv_exitMonitor hs) (keeps_ite (keeps_doubleOpen
    (State.inv_modMe hs)) (keeps_ite (State.inv_stopThread hs) (State.inv_modMe hs))))

theorem keeps_execPent {a b : GReg} {s : State} (h : s.Inv) : Keeps (execPent a b s) :=
  keeps_monitorOnly h (fun _ hs => keeps_ite (keeps_illegal hs) (State.inv_retire (State.inv_modOwner hs)))

theorem keeps_execPentr {d a : GReg} {s : State} (h : s.Inv) : Keeps (execPentr d a s) :=
  keeps_monitorOnly h (fun _ hs => keeps_ite (keeps_illegal hs) (State.inv_writeRetire hs))

theorem State.inv_loadKey {s : State} {kind : Nat} {pid : BitVec 16} {slot : Nat} {key : Digest} {encl : Byte}
    (h : s.Inv) : (s.loadKey kind pid slot key encl).Inv := by
  unfold State.loadKey
  grind [State.inv_modBlock, State.Inv]

theorem State.inv_zeroRecord {s : State} {ea : Word} {pa old : Nat} (h : s.Inv) : (s.zeroRecord ea pa old).Inv := by
  grind [State.zeroRecord, State.inv_writeAt, State.inv_modMem, State.inv_retestAll, Mem.wf_setTags]

theorem keeps_execKeyslot {a b : GReg} {s : State} (h : s.Inv) : Keeps (execKeyslot a b s) := by
  refine keeps_monitorOnly h fun s hs => keeps_ite (keeps_illegal hs) (keeps_ite (State.inv_stall hs) ?_)
  split
  · exact State.inv_takeFault hs
  · exact State.inv_takeFault hs
  · next pa key bs s1 _ h1 =>
    have hs1 := State.inv_readS hs h1
    exact keeps_ite (keeps_raiseOpen hs1) (keeps_ite (State.inv_stall hs) (State.inv_retire (State.inv_zeroRecord
        (State.inv_loadKey hs1))))

theorem State.inv_touchRecord {s : State} {blk n : Nat} (h : s.Inv) : (s.touchRecord blk n).Inv := by
  grind [State.touchRecord, State.inv_touchLine, State.inv_foldl]

theorem keeps_execCtxsv {a : GReg} {s : State} (h : s.Inv) : Keeps (execCtxsv a s) := by
  refine keeps_monitorOnly h fun s hs => keeps_ite (keeps_illegal hs) (keeps_ite (State.inv_stall hs) ?_)
  extract_lets s1 _ c
  have hs1 : s1.Inv := State.inv_touchRecord hs
  -- whether the record is sealed is left unevaluated: both ways go on alike
  generalize s1.recordSealed (blockOf s.cur) (s.g a).toNat = isSealed
  exact keeps_ite (State.inv_retire hs1) (State.inv_retire (State.inv_modBlock (State.inv_saveRecord hs1)))

theorem keeps_execCtxld {a : GReg} {s : State} (h : s.Inv) : Keeps (execCtxld a s) := by
  grind [execCtxld, State.inv_clearValid, State.inv_modBlock, State.inv_modMe, State.inv_noteConf, State.inv_retire,
    State.inv_stall, keeps_doubleOpen, State.inv_touchRecord, keeps_monitorOnly, keeps_next, State.Inv]

theorem State.inv_scrubRecords {s : State} {lo n : Nat} (h : s.Inv) : (s.scrubRecords lo n).Inv := h
theorem State.inv_scrub {s : State} {key pa n : Nat} {e : List Byte} {os : List Nat} (h : s.Inv) :
    (s.scrub key pa n e os).Inv := by
  grind [State.scrub, State.inv_scrubRecords, State.inv_retestAll, State.inv_modMem, State.Inv, Mem.wf_scrub]

theorem keeps_execScrub {a b : GReg} {s : State} (h : s.Inv) : Keeps (execScrub a b s) := by
  grind [execScrub, State.inv_scrub, State.inv_retire, State.inv_stall, keeps_raiseOpen, keeps_illegal,
    keeps_monitorOnly, keeps_next]

theorem State.inv_stopContexts {s : State} {mine : Act → Bool} {pids : BitVec 16 → Bool} (h : s.Inv) :
    (s.stopContexts mine pids).Inv := by
  grind [State.stopContexts, State.inv_cancelJob, State.inv_stopDisplaced, State.inv_stopThread, State.inv_foldl]

theorem State.inv_closeLaunch {s : State} {vi : BitVec 6} {id : Word} (h : s.Inv) : (s.closeLaunch vi id).Inv := by
  grind [State.closeLaunch, State.inv_completeLaunch, State.inv_reportTo, State.inv_modLaunch, State.inv_takeFree]

theorem State.inv_closeLaunches {s : State} {p : Launch → Bool} (h : s.Inv) : (s.closeLaunches p).Inv := by
  grind [State.closeLaunches, State.inv_closeLaunch, State.inv_foldl]

theorem State.inv_freezeVi {s : State} {vi : BitVec 6} (h : s.Inv) : (s.freezeVi vi).Inv := by
  grind [State.freezeVi, State.inv_stopContexts, State.inv_closeLaunches, State.Inv]

theorem keeps_execVifrz {a : GReg} {s : State} (h : s.Inv) : Keeps (execVifrz a s) :=
  keeps_monitorOnly h (fun _ hs => keeps_ite (keeps_illegal hs) (State.inv_retire (State.inv_freezeVi hs)))

theorem State.inv_lockSlots {s : State} {pid : BitVec 16} (h : s.Inv) : (s.lockSlots pid).Inv := by
  grind [State.lockSlots, State.inv_modBlock, State.inv_foldl]

theorem State.inv_sealRecords {s : State} {pid : BitVec 16} {key : Option Digest} (h : s.Inv) :
    (s.sealRecords pid key).Inv := by
  grind [State.sealRecords, State.inv_eachBlock, State.inv_sealWith, State.inv_foldl]

theorem State.inv_quarantine {s : State} {pid : BitVec 16} (h : s.Inv) : (s.quarantine pid).Inv := by
  grind [State.quarantine, State.inv_sealRecords, State.inv_stopContexts, State.inv_closeLaunches,
    State.inv_lockSlots, State.Inv]

theorem keeps_execQuar {a : GReg} {s : State} (h : s.Inv) : Keeps (execQuar a s) :=
  keeps_monitorOnly h (fun _ hs => keeps_ite (keeps_illegal hs) (State.inv_retire (State.inv_quarantine hs)))

theorem State.inv_setRoutine {s : State} {pid : BitVec 16} {k : BitVec 6} {dig : Digest} {i : Inst} (h : s.Inv) :
    (s.setRoutine pid k dig i).Inv := by
  grind [State.setRoutine, State.inv_modMem, State.Inv, Mem.wf_putBytes]

theorem State.inv_installStep {s : State} {pid : BitVec 16} {dig : Digest} {img : Option (List Byte)} {trans : Bool}
    {svc : Option (BitVec 6)} (h : s.Inv) : (s.installStep pid dig img trans svc).2.Inv := by
  unfold State.installStep
  extract_lets cl route
  have hroute {i : Inst} {s : State} (hs : s.Inv) : (route i s).Inv := by
    cases svc with
    | none => exact hs
    | some k => exact State.inv_setRoutine hs
  split
  · exact hroute h
  · split
    · exact h
    · split
      · exact h
      · split
        · next s1 h1 => exact State.inv_of_pair h1 (State.inv_lookupOrCreate h)
        · next hd s1 h1 =>
          have hs1 : s1.Inv := State.inv_of_pair h1 (State.inv_lookupOrCreate h)
          have hs2 {i : Inst} {s2 : State} {b : Bool}
              (h2 : (if s1.installWaits cl then (s1, false) else s1.install cl pid hd i) = (s2, b)) : s2.Inv := by
            split at h2
            · cases h2; exact hs1
            · have h3 := State.inv_install (cl := cl) (hh := hd) (pid := pid) (i := i) hs1
              rw [h2] at h3
              exact h3
          split
          · next s2 h2 => exact hroute (hs2 h2)
          · next s2 h2 => exact hs2 h2

theorem State.inv_imageAt {s : State} {pid : BitVec 16} {ea : Word} {n : Nat} (h : s.Inv) {p : List Byte}
    {t' : State} (hp : s.imageAt pid ea n = some (p, t')) : t'.Inv := by
  grind [State.imageAt, State.inv_devBytes]

theorem keeps_execCodeinst {d a b : GReg} {s : State} (h : s.Inv) : Keeps (execCodeinst d a b s) := by
  refine keeps_monitorOnly h fun s hs => keeps_ite (State.inv_stall hs) ?_
  split
  · exact State.inv_takeFault hs
  · next bs s1 h1 =>
    have hs1 := State.inv_readS hs h1
    refine keeps_ite (keeps_illegal hs) ?_
    dsimp only
    have hs2 (pid : BitVec 16) (ea : Word) (n : Nat) :
        State.Inv (match s1.imageAt pid ea n with | some r => r.2 | none => s1) := by
      split
      · next r h2 => exact State.inv_imageAt hs1 h2
      · exact hs1
    split
    · next s3 h3 => exact State.inv_stall (State.inv_of_pair h3 (State.inv_installStep (hs2 _ _ _)))
    · next st hd s3 h3 => exact State.inv_writeRetire (State.inv_of_pair h3 (State.inv_installStep (hs2 _ _ _)))

theorem keeps_execCodeevict {a : GReg} {s : State} (h : s.Inv) : Keeps (execCodeevict a s) := by
  grind [execCodeevict, State.inv_evict, State.inv_retire, keeps_doubleOpen, keeps_illegal, keeps_monitorOnly,
    keeps_next]

theorem keeps_execStinv {a b : GReg} {s : State} (h : s.Inv) : Keeps (execStinv a b s) := by
  grind [execStinv, State.inv_retire, State.inv_stall, keeps_illegal, keeps_monitorOnly, keeps_next, State.Inv]

theorem State.inv_attest {s : State} {i : Instr} {kind : Nat} {a b : GReg} (h : s.Inv) : Keeps
    (s.attest i kind a b) := by
  grind [State.attest, State.inv_retire, State.inv_monitorWrite, State.inv_takeFault, State.inv_readS,
    State.inv_stall, keeps_illegal, keeps_next, State.Inv]

theorem keeps_execAtreqAttestation {a b : GReg} {s : State} (h : s.Inv) : Keeps (execAtreqAttestation a b s) :=
  keeps_monitorOnly h (fun _ hs => State.inv_attest hs)

theorem keeps_execAtreqAllocation {a b : GReg} {s : State} (h : s.Inv) : Keeps (execAtreqAllocation a b s) :=
  keeps_monitorOnly h (fun _ hs => State.inv_attest hs)

theorem State.inv_serveCall {s : State} {st : Word} (h : s.Inv) : (s.serveCall st).Inv := h
theorem State.inv_refuseCall {s : State} (h : s.Inv) : s.refuseCall.Inv := h
theorem State.inv_service {s : State} {n : Nat} {f : State → State} (h : s.Inv)
    (hf : ∀ (a : State), a.Inv → (f a).Inv) : Keeps (s.service n f) := by
  grind [State.service, State.inv_serveCall, keeps_next]

theorem keeps_execMcallInstallRoutine {s : State} (h : s.Inv) : Keeps (execMcallInstallRoutine s) := by
  unfold execMcallInstallRoutine
  grind [State.inv_serveCall, State.inv_installStep, State.inv_refuseCall, State.inv_readS, State.inv_service]

theorem State.inv_freeDigest {s : State} (h : s.Inv) : s.freeDigest.2.Inv := h
theorem State.inv_formGroup {s : State} {pid : BitVec 16} {g : Nat} {chips : List (BitVec 22)} (h : s.Inv) :
    (s.formGroup pid g chips).Inv := by
  grind [State.formGroup, State.inv_freeDigest, State.inv_modMem, State.inv_foldl, State.Inv, Mem.wf_putBytes]

theorem State.inv_putGroup {s : State} {g : Nat} {entry : List Byte} (h : s.Inv) : (s.putGroup g entry).Inv := by
  grind [State.putGroup, State.inv_modMem, Mem.wf_putBytes]

theorem keeps_execMcallFormGroup {s : State} (h : s.Inv) : Keeps (execMcallFormGroup s) := by
  grind [execMcallFormGroup, State.inv_formGroup, State.inv_serveCall, State.inv_refuseCall, State.inv_readS,
    State.inv_service]

theorem keeps_execMcallSetCodePeers {s : State} (h : s.Inv) : Keeps (execMcallSetCodePeers s) := by
  grind [execMcallSetCodePeers, State.inv_modMem, State.inv_serveCall, State.inv_refuseCall, State.inv_readS,
    State.inv_service, Mem.wf_putBytes]

theorem keeps_execTrmark {a : GReg} {mark : BitVec 48} {s : State} (h : s.Inv) : Keeps (execTrmark a mark s) :=
  keeps_noService h (fun _ hs => State.inv_retire (State.inv_ite (State.inv_traceEntry hs) hs))

theorem State.inv_setPaused {s : State} {b : Bool} (h : s.Inv) : (s.setPaused b).Inv := h
theorem keeps_execTrctlFlush {a : GReg} {s : State} (h : s.Inv) : Keeps (execTrctlFlush a s) :=
  keeps_noService h (fun _ hs => keeps_ite (keeps_illegal hs) (State.inv_retire (State.inv_ite (State.inv_traceFlush
    hs) hs)))

theorem keeps_execTrctlPause {a : GReg} {s : State} (h : s.Inv) : Keeps (execTrctlPause a s) :=
  keeps_noService h (fun _ hs => keeps_ite (keeps_illegal hs) (State.inv_retire (State.inv_ite (State.inv_setPaused
    (State.inv_traceState hs)) hs)))

theorem keeps_execTrctlResume {a : GReg} {s : State} (h : s.Inv) : Keeps (execTrctlResume a s) :=
  keeps_noService h (fun _ hs => keeps_ite (keeps_illegal hs) (State.inv_retire (State.inv_ite (State.inv_setPaused
    (State.inv_traceState hs)) hs)))

theorem keeps_execBkpt {code : BitVec 48} {s : State} (h : s.Inv) : Keeps (execBkpt code s) :=
  keeps_noService h (fun _ hs => keeps_raise hs)

theorem keeps_execTraceIdleRecord {t : Nat} {s : State} (h : s.Inv) : Keeps (execTraceIdleRecord t s) := by
  grind [execTraceIdleRecord, State.inv_traceState, keeps_next, State.Inv]

theorem State.inv_debugHold {s : State} {blks : List Nat} {on : Bool} (h : s.Inv) : (s.debugHold blks on).Inv := by
  grind [State.debugHold, State.inv_modBlock, State.inv_foldl]

theorem keeps_execDebugStop {blks : List Nat} {s : State} (h : s.Inv) : Keeps (execDebugStop blks s) :=
  State.inv_debugHold h

theorem keeps_execDebugResume {blks : List Nat} {s : State} (h : s.Inv) : Keeps (execDebugResume blks s) :=
  State.inv_debugHold h

theorem keeps_execModuleReset {s : State} (h : s.Inv) : Keeps (execModuleReset s) := State.inv_moduleReset h
theorem keeps_execResetCommand {s : State} (h : s.Inv) : Keeps (execResetCommand s) := State.inv_moduleReset h
theorem State.inv_endStage {s : State} {d : Digest} (h : s.Inv) : (s.endStage d).Inv := by
  grind [State.endStage, State.inv_train, State.inv_modCluster, State.inv_modOwner, State.inv_foldl, State.Inv]

theorem State.inv_bringUp {s : State} {ok : Bool} {d : Digest} (h : s.Inv) : (s.bringUp ok d).Inv := by
  grind [State.bringUp, State.inv_endStage, State.Inv]

theorem State.inv_sense {s : State} {die : Nat} {temp : Byte} (h : s.Inv) : (s.sense die temp).Inv := by
  grind [State.sense, State.inv_moduleReset, State.Inv]

theorem keeps_execThermalTrip {die : Nat} {temp : Byte} {s : State} (h : s.Inv) : Keeps
    (execThermalTrip die temp s) :=
  State.inv_sense h

theorem keeps_execThermalThrottle {die : Nat} {temp : Byte} {s : State} (h : s.Inv) : Keeps
    (execThermalThrottle die temp s) :=
  State.inv_sense h

theorem keeps_execInputVoltageFault {volts : Nat} {s : State} (h : s.Inv) : Keeps (execInputVoltageFault volts s) := by
  grind [execInputVoltageFault, State.inv_moduleReset, keeps_next, State.Inv]

theorem keeps_execClusterDrain {cl : Nat} {monitor : Digest} {s : State} (h : s.Inv) : Keeps
    (execClusterDrain cl monitor s) := by
  grind [execClusterDrain, State.inv_modOwner, State.inv_modCluster, State.inv_foldl, keeps_next, State.Inv]

theorem State.inv_retireFrame {s : State} {a : Nat} (h : s.Inv) : (s.retireFrame a).Inv := by
  grind [State.retireFrame, State.Inv]

theorem keeps_execPortHold {port : Nat} {s : State} (h : s.Inv) : Keeps (execPortHold port s) :=
  State.inv_takeDown (State.inv_modPort h)

theorem keeps_execPortRelease {port : Nat} {s : State} (h : s.Inv) : Keeps (execPortRelease port s) :=
  State.inv_train (State.inv_modPort h)

theorem keeps_execDebugToken {token : List Byte} {s : State} (h : s.Inv) : Keeps (execDebugToken token s) := by
  grind [execDebugToken, State.inv_eachBlock, State.inv_freezeVi, State.inv_foldl, keeps_next, State.Inv]

theorem State.inv_loseThread {s : State} {t : Nat} (h : s.Inv) : (s.loseThread t).Inv :=
  State.inv_ite h (State.inv_ite (State.inv_awaitReplay h) (State.inv_endFaulted (State.inv_takeFree h)))

theorem State.inv_loseTeam {s : State} {team : Word × Word} (h : s.Inv) : (s.loseTeam team).Inv := by
  grind [State.loseTeam, State.inv_replayTeam, State.inv_loseThread, keeps_next, State.Inv]

theorem State.inv_loseMessage {s : State} {n : Binding} {m : Msg} (h : s.Inv) : (s.loseMessage n m).Inv :=
  State.inv_stopOnError (State.inv_errorReport (State.inv_takeFree (State.inv_takeFree (State.inv_takeFree h))))

theorem State.inv_loseChannels {s : State} {blk : Nat} {spare : Bool} (h : s.Inv) :
    (s.loseChannels blk spare).Inv := by
  grind [State.loseChannels, State.inv_loseTeam, State.inv_loseMessage, State.inv_modLaunch, State.inv_modBlock,
    State.inv_foldl, keeps_next, State.Inv]

theorem State.inv_loseCluster {s : State} {cl : Nat} (h : s.Inv) : (s.loseCluster cl).Inv := by
  grind [State.loseCluster, State.inv_modCluster, State.inv_cancelJob, State.inv_modMem, State.inv_loseChannels,
    State.inv_loseThread, State.inv_foldl, keeps_next, State.Inv, Mem.wf_write, Mem.wf_loseBlock, Mem.wf_scrub,
    Mem.wf_foldl, Mem.wf_putBytes, Mem.wf_setStamp, Mem.wf_setWord, Mem.wf_setBad, Mem.wf_setTag,
    Mem.wf_clearPoison, Mem.wf_setTags]

theorem keeps_execPartFailure {p : Part} {s : State} (h : s.Inv) : Keeps (execPartFailure p s) := by
  unfold execPartFailure
  grind [State.inv_takeDown, State.inv_loseCluster, State.inv_loseThread, keeps_next, State.Inv]

end Sys2Proof.Machine
end

section
/-! SUPPORT. The canonical form of memory under the matrix engine (R295–R317). -/

namespace Sys2Proof.Machine
open Sys2Proof.Claims

theorem State.inv_issueMatrix {s : State} {j : Job} {names : Bool} (h : s.Inv) : Keeps (s.issueMatrix j names) :=
  keeps_ite (State.inv_stall h) (State.inv_retire (State.inv_ite (State.inv_modMyAct (State.inv_acceptJob h))
    (State.inv_acceptJob h)))

theorem keeps_mmaIssue {i : Instr} {bfp : Bool} {d : TIdx} {a b : GReg} {n : Num} {s : State} (h : s.Inv) : Keeps
    (mmaIssue i bfp d a b n s) := by
  refine keeps_noService h fun s hs => keeps_ite (keeps_reservedFmt hs) (keeps_ite (keeps_reservedFmt hs)
    (keeps_ite (keeps_raiseOwn hs) (keeps_ite (keeps_raiseOwn hs) (keeps_ite (keeps_raise hs) ?_))))
  dsimp only
  split
  · exact State.inv_takeFault hs
  · exact keeps_ite (State.inv_stall hs) (State.inv_issueMatrix (State.inv_ite (State.inv_modBlock hs) hs))

theorem keeps_execMma {d : TIdx} {a b : GReg} {n : Num} {s : State} (h : s.Inv) : Keeps (execMma d a b n s) :=
  keeps_mmaIssue h

theorem keeps_execMmab {d : TIdx} {a b : GReg} {n : Num} {s : State} (h : s.Inv) : Keeps (execMmab d a b n s) :=
  keeps_mmaIssue h

theorem keeps_execMzero {d : TIdx} {s : State} (h : s.Inv) : Keeps (execMzero d s) :=
  keeps_noService h (fun _ hs => keeps_ite (State.inv_stall hs) (State.inv_issueMatrix hs))

theorem keeps_execMload {d : TIdx} {a : GReg} {n : Num} {s : State} (h : s.Inv) : Keeps (execMload d a n s) := by
  grind [execMload, State.inv_issueMatrix, State.inv_stall, State.inv_takeFault, keeps_raiseOwn, keeps_reservedFmt,
    keeps_noService, keeps_next, State.Inv]

theorem keeps_execMdrain {a : TIdx} {b : GReg} {n : Num} {s : State} (h : s.Inv) : Keeps (execMdrain a b n s) :=
  keeps_noService h (fun _ hs => keeps_ite (keeps_reservedFmt hs) (keeps_ite (keeps_raise hs) (keeps_ite
    (State.inv_stall hs) (State.inv_issueMatrix hs))))

theorem State.inv_startMatrix {s : State} {blk : Nat} {j : Job} (h : s.Inv) : (s.startMatrix blk j).Inv := by
  grind [State.startMatrix, State.inv_modJob, State.inv_matrixFailed, keeps_next, State.Inv]

theorem keeps_execMatrixJobStart {blk : Nat} {s : State} (h : s.Inv) : Keeps (execMatrixJobStart blk s) := by
  grind [execMatrixJobStart, State.inv_matrixFailed, State.inv_startMatrix, keeps_next, State.Inv]

theorem keeps_execGangBarrierFire {blk : Nat} {s : State} (h : s.Inv) : Keeps (execGangBarrierFire blk s) := by
  grind [execGangBarrierFire, State.inv_startMatrix, State.inv_matrixFailed, State.inv_foldl, keeps_next, State.Inv]

theorem keeps_execGangBreak {blk : Nat} {s : State} (h : s.Inv) : Keeps (execGangBreak blk s) := by
  grind [execGangBreak, State.inv_modCluster, State.inv_matrixFailed, State.inv_foldl, keeps_next, State.Inv]

theorem State.inv_multicastA {s : State} {blk : Nat} {j : Job} (h : s.Inv) : (s.multicastA blk j).Inv := by
  grind [State.multicastA, State.inv_modJob, State.inv_foldl, keeps_next, State.Inv]

theorem State.inv_readOperands {s : State} {blk : Nat} {j : Job} {os : List (Operand × Nat × Nat × Nat)} (h : s.Inv) :
    (s.readOperands blk j os).2.Inv := by
  induction os generalizing s j with
  | nil => exact h
  | cons o os ih => 
    unfold State.readOperands
    grind [State.inv_engineRead, State.inv_multicastA, State.inv_modJob]

theorem keeps_execMatrixOperandsConsumed {blk id : Nat} {s : State} (h : s.Inv) : Keeps
    (execMatrixOperandsConsumed blk id s) := by
  grind [execMatrixOperandsConsumed, State.inv_modJob, State.inv_matrixFailed, State.inv_readOperands, keeps_next,
    State.Inv]

theorem State.inv_matrixDone {s : State} {blk : Nat} {j : Job} {fl : FFlags} (h : s.Inv) :
    (s.matrixDone blk j fl).Inv :=
  State.inv_getD (State.inv_modIssuer (State.inv_killEpoch (State.inv_dropJob h))) (State.inv_killEpoch
      (State.inv_dropJob h))

theorem keeps_execMatrixJobComplete {blk id : Nat} {s : State} (h : s.Inv) : Keeps
    (execMatrixJobComplete blk id s) := by
  grind [execMatrixJobComplete, State.inv_writeTile, State.inv_zeroTile, State.inv_matrixDone, keeps_next,
    State.Inv]

theorem keeps_execDrainRow {blk id : Nat} {s : State} (h : s.Inv) : Keeps (execDrainRow blk id s) := by
  unfold execDrainRow
  split
  · exact h
  · split
    · split
      · exact h
      · extract_lets a m s1 s2
        have hs1 : s1.Inv := State.inv_ite (State.inv_killEpoch (State.inv_modMem h fun _ hm => Mem.wf_dropBytes _
            hm)) h
        have hs2 : s2.Inv := State.inv_enchannel hs1
        exact keeps_ite (State.inv_matrixFailed h) (State.inv_ite (State.inv_dropJob hs2) (State.inv_modJob hs2))
      · exact State.inv_matrixFailed h
    · exact h

theorem State.inv_matrixWaited {s : State} {fin : State → Out State} (h : s.Inv) (hfin : ∀ s, s.Inv → Keeps (fin s))
    : Keeps (s.matrixWaited fin) := by
  grind [State.matrixWaited, State.inv_modMyAct, State.inv_takeFault, keeps_next, State.Inv]

theorem keeps_execMwait {a : TIdx} {s : State} (h : s.Inv) : Keeps (execMwait a s) :=
  keeps_noService h (fun _ h29 => keeps_ite (State.inv_stall (State.inv_modMe h29)) (State.inv_matrixWaited
    (State.inv_modMe h29) (fun _ h26 => State.inv_retire h26)))

theorem keeps_execMstat {d : GReg} {s : State} (h : s.Inv) : Keeps (execMstat d s) :=
  keeps_noService h (fun _ h29 => keeps_ite (State.inv_stall h29) (State.inv_matrixWaited h29 (fun _ h26 =>
    State.inv_writeRetire h26)))

end Sys2Proof.Machine
end

section
/-! SUPPORT. The canonical form of memory under every instruction and event, the issue of a thread, and the step. -/

namespace Sys2Proof.Machine
open Sys2Proof.Claims

theorem keeps_exec {i : Instr} {s : State} (h : s.Inv) : Keeps (exec i s) := by
  cases i with
  | add | sub | and | or | xor | andn | shl | shr | sra | rol | ror | min | max | minu | maxu | seq | sne | slt |
      sltu | addi | andi | ori | xori | slti | shli | shri | srai | mul | mulh | mulhu | div | divu | rem | remu |
      sel | lea | widx | widc | clz | ctz | popc | bswap | sext | zext | li | bmm8 | bmm8x | bmm8t | pdep | pext |
      bfx | bfi | brev | nop | flowletTimeout | keynextWrite | rankMapBankFlip | powerWindow | memoryTraining |
      housekeepingRead | pwrlimWrite | viThaw | serviceCoreFirmwareUpdate | stationFirmwareUpdate | debugChallenge
      => exact h
  | bperm => exact keeps_execBperm h
  | fadd => exact keeps_execFadd h
  | fsub => exact keeps_execFsub h
  | fmul => exact keeps_execFmul h
  | fma => exact keeps_execFma h
  | fmin => exact keeps_execFmin h
  | fmax => exact keeps_execFmax h
  | feq => exact keeps_execFeq h
  | flt => exact keeps_execFlt h
  | fle => exact keeps_execFle h
  | fcvtif => exact keeps_execFcvtif h
  | fcvtfi => exact keeps_execFcvtfi h
  | beq => exact keeps_execBeq h
  | bne => exact keeps_execBne h
  | blt => exact keeps_execBlt h
  | bge => exact keeps_execBge h
  | bltu => exact keeps_execBltu h
  | bgeu => exact keeps_execBgeu h
  | jmp => exact keeps_execJmp h
  | jmpr => exact keeps_execJmpr h
  | leac => exact keeps_execLeac h
  | loop => exact keeps_execLoop h
  | loopi => exact keeps_execLoopi h
  | calld => exact keeps_execCalld h
  | calldr => exact keeps_execCalldr h
  | ret => exact keeps_execRet h
  | yield => exact keeps_execYield h
  | endAct => exact keeps_execEndAct h
  | trap => exact keeps_execTrap h
  | send => exact keeps_execSend h
  | sendnb => exact keeps_execSendnb h
  | sendv => exact keeps_execSendv h
  | reply => exact keeps_execReply h
  | fork => exact keeps_execFork h
  | join => exact keeps_execJoin h
  | jinit => exact keeps_execJinit h
  | launch => exact keeps_execLaunch h
  | trigger => exact keeps_execTrigger h
  | chbind => exact keeps_execChbind h
  | chinfo => exact keeps_execChinfo h
  | qpush => exact keeps_execQpush h
  | qpop => exact keeps_execQpop h
  | qpeek => exact keeps_execQpeek h
  | qtry => exact keeps_execQtry h
  | spop => exact keeps_execSpop h
  | stry => exact keeps_execStry h
  | getc => exact keeps_execGetc h
  | setc => exact keeps_execSetc h
  | ld => exact keeps_execLd h
  | ldx => exact keeps_execLdx h
  | st => exact keeps_execSt h
  | stx => exact keeps_execStx h
  | vld => exact keeps_execVld h
  | vst => exact keeps_execVst h
  | vldx => exact keeps_execVldx h
  | vstx => exact keeps_execVstx h
  | tagrd => exact keeps_execTagrd h
  | tagwr => exact keeps_execTagwr h
  | amo => exact keeps_execAmo h
  | amof => exact keeps_execAmof h
  | cas => exact keeps_execCas h
  | vamo => exact keeps_execVamo h
  | ams => exact keeps_execAms h
  | fence => exact keeps_execFence h
  | binit => exact keeps_execBinit h
  | barr => exact keeps_execBarr h
  | bsync => exact keeps_execBsync h
  | bwait => exact keeps_execBwait h
  | bdrop => exact keeps_execBdrop h
  | vadd => exact keeps_execVadd h
  | vsub => exact keeps_execVsub h
  | vmul => exact keeps_execVmul h
  | vfma => exact keeps_execVfma h
  | vmin => exact keeps_execVmin h
  | vmax => exact keeps_execVmax h
  | vabs => exact keeps_execVabs h
  | vneg => exact keeps_execVneg h
  | vcmp => exact keeps_execVcmp h
  | vsel => exact keeps_execVsel h
  | vand => exact keeps_execVand h
  | vor => exact keeps_execVor h
  | vxor => exact keeps_execVxor h
  | vmov => exact keeps_execVmov h
  | vtag => exact keeps_execVtag h
  | vshl => exact keeps_execVshl h
  | vshr => exact keeps_execVshr h
  | vsra => exact keeps_execVsra h
  | vcvt => exact keeps_execVcvt h
  | vexp2 => exact keeps_execVexp2 h
  | vlog2 => exact keeps_execVlog2 h
  | vrcp => exact keeps_execVrcp h
  | vrsq => exact keeps_execVrsq h
  | vsqrt => exact keeps_execVsqrt h
  | vdiv => exact keeps_execVdiv h
  | vscl => exact keeps_execVscl h
  | vred => exact keeps_execVred h
  | vbcast => exact keeps_execVbcast h
  | vext => exact keeps_execVext h
  | vins => exact keeps_execVins h
  | viota => exact keeps_execViota h
  | vperm => exact keeps_execVperm h
  | vbmm8 => exact keeps_execVbmm8 h
  | vpdep => exact keeps_execVpdep h
  | vpext => exact keeps_execVpext h
  | vbperm => exact keeps_execVbperm h
  | swmap => exact keeps_execSwmap h
  | swred => exact keeps_execSwred h
  | swcvt => exact keeps_execSwcvt h
  | mma => exact keeps_execMma h
  | mmab => exact keeps_execMmab h
  | mzero => exact keeps_execMzero h
  | mload => exact keeps_execMload h
  | mdrain => exact keeps_execMdrain h
  | mwait => exact keeps_execMwait h
  | mstat => exact keeps_execMstat h
  | cpy => exact keeps_execCpy h
  | cpys => exact keeps_execCpys h
  | jwait => exact keeps_execJwait h
  | jpoll => exact keeps_execJpoll h
  | jcancel => exact keeps_execJcancel h
  | eqinit => exact keeps_execEqinit h
  | equnite => exact keeps_execEqunite h
  | eqfind => exact keeps_execEqfind h
  | eqsame => exact keeps_execEqsame h
  | eqsize => exact keeps_execEqsize h
  | eqsnap => exact keeps_execEqsnap h
  | equndo => exact keeps_execEqundo h
  | eqcommit => exact keeps_execEqcommit h
  | eqrelabel => exact keeps_execEqrelabel h
  | mcwait => exact keeps_execMcwait h
  | flowend => exact keeps_execFlowend h
  | rankc => exact keeps_execRankc h
  | mcall => exact keeps_execMcall h
  | mret => exact keeps_execMret h
  | mext => exact keeps_execMext h
  | pent => exact keeps_execPent h
  | pentr => exact keeps_execPentr h
  | keyslot => exact keeps_execKeyslot h
  | ctxsv => exact keeps_execCtxsv h
  | ctxld => exact keeps_execCtxld h
  | scrub => exact keeps_execScrub h
  | codeinst => exact keeps_execCodeinst h
  | codeevict => exact keeps_execCodeevict h
  | quar => exact keeps_execQuar h
  | vifrz => exact keeps_execVifrz h
  | stinv => exact keeps_execStinv h
  | atreqAttestation => exact keeps_execAtreqAttestation h
  | atreqAllocation => exact keeps_execAtreqAllocation h
  | trmark => exact keeps_execTrmark h
  | trctlFlush => exact keeps_execTrctlFlush h
  | trctlPause => exact keeps_execTrctlPause h
  | trctlResume => exact keeps_execTrctlResume h
  | bkpt => exact keeps_execBkpt h
  | unassignedOpcode => exact keeps_execUnassignedOpcode h
  | sendGrant => exact keeps_execSendGrant h
  | queueWaiterServed => exact keeps_execQueueWaiterServed h
  | accessAnswer => exact keeps_execAccessAnswer h
  | serviceOperation => exact keeps_execServiceOperation h
  | routineAbandon => exact keeps_execRoutineAbandon h
  | barrierBatch => exact keeps_execBarrierBatch h
  | nak => exact keeps_execNak h
  | call => exact keeps_execCall h
  | ticketLapse => exact keeps_execTicketLapse h
  | vectorGrant => exact keeps_execVectorGrant h
  | sweepStart => exact keeps_execSweepStart h
  | sweepComplete => exact keeps_execSweepComplete h
  | matrixJobStart => exact keeps_execMatrixJobStart h
  | matrixOperandsConsumed => exact keeps_execMatrixOperandsConsumed h
  | matrixJobComplete => exact keeps_execMatrixJobComplete h
  | gangBarrierFire => exact keeps_execGangBarrierFire h
  | gangBreak => exact keeps_execGangBreak h
  | drainRow => exact keeps_execDrainRow h
  | copyJobStart => exact keeps_execCopyJobStart h
  | copyJobComplete => exact keeps_execCopyJobComplete h
  | cardOperandsConsumed => exact keeps_execCardOperandsConsumed h
  | streamElement => exact keeps_execStreamElement h
  | completionDelivery => exact keeps_execCompletionDelivery h
  | eqEntryWrites => exact keeps_execEqEntryWrites h
  | eqHop => exact keeps_execEqHop h
  | eqLink => exact keeps_execEqLink h
  | relabelJobStart => exact keeps_execRelabelJobStart h
  | relabelJobComplete => exact keeps_execRelabelJobComplete h
  | doubleFault => exact keeps_execDoubleFault h
  | channelDelivery => exact keeps_execChannelDelivery h
  | queueDelivery => exact keeps_execQueueDelivery h
  | joinCellDelivery => exact keeps_execJoinCellDelivery h
  | joinContinuationRecruit => exact keeps_execJoinContinuationRecruit h
  | feWordDelivery => exact keeps_execFeWordDelivery h
  | dispatch => exact keeps_execDispatch h
  | sendDisplacement => exact keeps_execSendDisplacement h
  | launchHeader => exact keeps_execLaunchHeader h
  | launchEnumeration => exact keeps_execLaunchEnumeration h
  | launchComplete => exact keeps_execLaunchComplete h
  | launchReportResend => exact keeps_execLaunchReportResend h
  | teamReplay => exact keeps_execTeamReplay h
  | codeMiss => exact keeps_execCodeMiss h
  | codeSourceTimeout => exact keeps_execCodeSourceTimeout h
  | codeInstall => exact keeps_execCodeInstall h
  | kilnInstallRetry => exact keeps_execKilnInstallRetry h
  | kilnInstallTimeout => exact keeps_execKilnInstallTimeout h
  | translationParkTimeout => exact keeps_execTranslationParkTimeout h
  | releaseCountAdvance => exact keeps_execReleaseCountAdvance h
  | stampedWriteApply => exact keeps_execStampedWriteApply h
  | rd => exact keeps_execRd h
  | wr => exact keeps_execWr h
  | atm => exact keeps_execAtm h
  | msg => exact keeps_execMsg h
  | mcw => exact keeps_execMcw h
  | rda => exact keeps_execRda h
  | ack => exact keeps_execAck h
  | tnak => exact keeps_execTnak h
  | msga => exact keeps_execMsga h
  | mcack => exact keeps_execMcack h
  | mcackTimeout => exact keeps_execMcackTimeout h
  | seqnak => exact keeps_execSeqnak h
  | seqnakTimer => exact keeps_execSeqnakTimer h
  | requestResendTimer => exact keeps_execRequestResendTimer h
  | flitReplay => exact keeps_execFlitReplay h
  | linkRetrain => exact keeps_execLinkRetrain h
  | portDown => exact keeps_execPortDown h
  | notice => exact keeps_execNotice h
  | cfreq => exact keeps_execCfreq h
  | cfdat => exact keeps_execCfdat h
  | cfnone => exact keeps_execCfnone h
  | mgw => exact keeps_execMgw h
  | mgr => exact keeps_execMgr h
  | portEnWrite => exact keeps_execPortEnWrite h
  | fgeomWrite => exact keeps_execFgeomWrite h
  | pkaWrite => exact keeps_execPkaWrite h
  | thermalTrip => exact keeps_execThermalTrip h
  | thermalThrottle => exact keeps_execThermalThrottle h
  | inputVoltageFault => exact keeps_execInputVoltageFault h
  | clusterDrain => exact keeps_execClusterDrain h
  | partFailure => exact keeps_execPartFailure h
  | portHold => exact keeps_execPortHold h
  | portRelease => exact keeps_execPortRelease h
  | debugToken => exact keeps_execDebugToken h
  | debugStop => exact keeps_execDebugStop h
  | debugResume => exact keeps_execDebugResume h
  | traceIdleRecord => exact keeps_execTraceIdleRecord h
  | serviceOperationTimeout => exact keeps_execServiceOperationTimeout h
  | linkTrained => exact keeps_execLinkTrained h
  | mcallInstallRoutine => exact keeps_execMcallInstallRoutine h
  | mcallFormGroup => exact keeps_execMcallFormGroup h
  | mcallSetCodePeers => exact keeps_execMcallSetCodePeers h
  | codeIntegrityFault => exact keeps_execCodeIntegrityFault h
  | deadlineOverrun => exact keeps_execDeadlineOverrun h
  | retireLimit => exact keeps_execRetireLimit h
  | moduleReset => exact keeps_execModuleReset h
  | resetCommand => exact keeps_execResetCommand h
  | fallThroughPastInstance => exact keeps_execFallThroughPastInstance h

theorem State.keeps_limitHit {s s' : State} {n : Nat} {f : State → Out State} (hf : s.limitHit n = some f)
    (h : s'.Inv) : Keeps (f s') := by
  unfold State.limitHit at hf
  dsimp only at hf
  split at hf
  · split at hf
    · split at hf
      · cases hf; exact keeps_exec h
      · cases hf
    · cases hf
  · split at hf
    · generalize (if s.me.wdcfg = 0 then 65536 else s.me.wdcfg.toNat) = lim at hf
      split at hf
      · cases hf; exact keeps_exec (State.inv_takeFree (State.inv_takeFree h))
      · cases hf
    · split at hf
      · cases hf; exact keeps_exec h
      · cases hf

theorem State.keeps_before {s : State} {is : List Instr} {n : Nat} {o : Out State} (h : s.Inv)
    (ho : s.before is n = some o) : Keeps o := by
  unfold State.before at ho
  dsimp only at ho
  split at ho
  · cases ho; exact State.inv_stall h
  · split at ho
    · cases ho; exact keeps_raiseOpen (State.inv_modMe h)
    · split at ho
      · obtain ⟨tr, -, rfl⟩ := Option.map_eq_some_iff.mp ho
        exact State.inv_takeDeferred h
      · split at ho
        · cases ho
        · obtain ⟨f, hf, rfl⟩ := Option.map_eq_some_iff.mp ho
          exact State.keeps_limitHit hf h

theorem State.inv_issued {s : State} {t : Nat} {hd : BitVec 32} (h : s.Inv) : (s.issued t hd).Inv :=
  State.inv_ite (State.inv_modCluster h) h

theorem State.keeps_issueOne {s0 s : State} {w : InstrWord} (h0 : s0.Inv) (h : s.Inv) : Keeps (s0.issueOne s w) := by
  unfold State.issueOne
  split
  · exact keeps_raise h
  · dsimp only
    split
    · next o ho => exact keeps_ite (State.inv_stall h0) (State.keeps_before h ho)
    · exact keeps_exec h

theorem State.inv_of_keeps {o : Out State} {s : State} (he : o = .next s) (h : Keeps o) : s.Inv := by
  rw [he] at h; exact h

theorem firstTrap_inv {sa sb st : State} {k : Nat} (ha : sa.Inv) (hb : sb.Inv) (hst : firstTrap sa sb = some (k, st))
    : st.Inv := by
  unfold firstTrap at hst
  split at hst
  · split at hst
    · cases hst; exact hb
    · cases hst; exact ha
  · cases hst; exact ha
  · cases hst; exact hb
  · cases hst

theorem State.keeps_issuePair {s0 s : State} {wa wb : InstrWord} {loopEnd : Bool} (h0 : s0.Inv) (h : s.Inv) : Keeps
    (s0.issuePair s wa wb loopEnd) := by
  unfold State.issuePair
  split
  · exact keeps_raise h
  · split
    · next sa hsa =>
      split
      · exact keeps_ite (State.inv_of_keeps hsa (keeps_exec h)) (keeps_raise h)
      · exact keeps_raise h
    · exact keeps_raise h
  · dsimp only
    refine keeps_ite (keeps_raiseOpen h) ?_
    split
    · next o ho => exact keeps_ite (State.inv_stall h0) (State.keeps_before h ho)
    · split
      · next sa sb hsa hsb =>
        have ha : sa.Inv := State.inv_of_keeps hsa (keeps_exec h)
        have hb : sb.Inv := State.inv_of_keeps hsb (keeps_exec (State.inv_modMe h))
        split
        · next k st hst => exact keeps_ite (keeps_raise h) (firstTrap_inv ha hb hst)
        · refine keeps_ite (keeps_raise h) (keeps_ite (State.inv_modMe ha) (keeps_ite (State.inv_modMe hb) ?_))
          split
          · next s2 hs2 => exact State.inv_modMe (State.inv_of_keeps hs2 (keeps_exec (State.inv_modMe ha)))
          · exact keeps_exec (State.inv_modMe ha)
      · exact keeps_exec (State.inv_modMe h)
      · exact keeps_exec h

theorem State.keeps_issueAt {s : State} (h : s.Inv) : Keeps s.issueAt := by
  unfold State.issueAt
  dsimp only
  split
  · exact State.inv_takeDeferred (State.inv_modMyAct h)
  · refine keeps_ite (State.inv_miss (State.inv_modMyAct h)) (keeps_ite (keeps_raise (State.inv_modMyAct h)) ?_)
    split
    · show State.Inv _
      split
      · exact State.inv_ite (State.inv_miss h) (State.inv_missRoutine h)
      · exact State.inv_ite (State.inv_miss h) h
    · refine keeps_ite (keeps_exec h) (keeps_ite (keeps_raise (State.inv_modMyAct h)) ?_)
      have h0 : (s.modMyAct fun a => { a with enter := 0 }).Inv := State.inv_modMyAct h
      split
      · exact State.inv_issued h0
      · exact keeps_ite (keeps_exec (State.inv_issued h0)) (keeps_ite (keeps_raise (State.inv_issued h0))
          (keeps_ite (State.keeps_issuePair h0 (State.inv_issued h0)) (State.keeps_issueOne h0 (State.inv_issued h0))))

theorem keeps_afterIssue {t : Nat} {o : Out State} (h : Keeps o) : Keeps (afterIssue t o) := by
  cases o with
  | next s => exact State.inv_ite (State.inv_modOwner (State.inv_modTh h)) (State.inv_modTh h)
  | _ => trivial

theorem State.keeps_issue {s : State} {t : Nat} (h : s.Inv) : Keeps (s.issue t) := by
  have hs : State.Inv { s with cur := t, trap := none } := h
  unfold State.issue
  refine keeps_ite hs (keeps_ite (keeps_exec hs) ?_)
  split
  · exact hs
  · exact keeps_afterIssue (State.keeps_issueAt hs)
  · exact keeps_ite (keeps_afterIssue (State.keeps_issueAt (State.inv_modMe hs))) hs

theorem keeps_traced {o : Out State} (h : Keeps o) : Keeps (traced o) := by
  cases o with
  | next s => exact State.inv_traceChanges h
  | _ => trivial

theorem State.keeps_moveThread {s : State} {t : Nat} (h : s.Inv) : Keeps (s.moveThread t) :=
  keeps_ite (keeps_traced (State.keeps_issue h)) trivial

theorem State.keeps_moveEvent {s : State} {e : Instr} (h : s.Inv) : Keeps (s.moveEvent e) :=
  keeps_ite (keeps_traced (keeps_exec h)) h

theorem State.inv_jobUpset {s : State} {blk id : Nat} (h : s.Inv) : (s.jobUpset blk id).Inv := by
  unfold State.jobUpset
  split
  · exact h
  · refine State.inv_ite h (State.inv_ite (State.inv_matrixFailed (State.inv_haltJob h)) ?_)
    split
    · exact State.inv_loseThread (State.inv_dropJob (State.inv_haltJob h))
    · exact State.inv_finishJob (State.inv_haltJob h)

theorem State.inv_upset {s : State} {u : Upset} (h : s.Inv) : (s.upset u).Inv := by
  cases u with
  | greg t r => exact State.inv_ite h (State.inv_modTh h)
  | vreg t r => exact State.inv_ite h (State.inv_modAct h)
  | latch t => exact State.inv_ite h (State.inv_modTh h)
  | root => exact State.inv_moduleReset h
  | unit blk => exact h
  | job blk id => exact State.inv_jobUpset h
  | corrected w => exact h
  | word w => exact State.inv_modMem h fun m hm => Mem.wf_setBad w true hm
  | tail port => exact State.inv_stomp h

/-- What the agenda may say leaves the memory in canonical form. -/
theorem keeps_step {s : State} (h : s.Inv) : Keeps (step s) := by
  have hs (rest : List Move) : State.Inv { s with agenda := rest } := h
  unfold step
  split
  case h_1 => exact State.keeps_moveThread h
  case h_2 => exact State.keeps_moveThread (hs _)
  case h_3 => exact State.keeps_moveEvent (hs _)
  case h_4 => exact keeps_traced (State.inv_hostMessage (hs _))
  case h_5 => exact keeps_traced (o := .next _) h
  case h_6 => exact keeps_traced (State.inv_upset (hs _))
  case h_7 => exact State.inv_ite (State.inv_modTh (hs _)) (hs _)
  case h_8 => exact h
  case h_9 => exact keeps_traced (State.inv_depart (hs _))
  case h_10 => exact keeps_traced (State.inv_chipDown (hs _))
  case h_11 => exact keeps_traced (State.inv_putGroup (hs _))
  case h_12 => exact keeps_traced (State.inv_bringUp (hs _))
  case h_13 => exact keeps_traced (State.inv_retireFrame (hs _))
  case h_14 => exact keeps_traced (State.inv_mapChannel (hs _))

/-- Settles O56, by one lemma for each function of the model that gives a state, up to `step`. -/
theorem stepKeepsTheInvariant : Obligations.StepKeepsTheInvariant := by
  intro s t h ht
  exact State.inv_of_keeps ht (keeps_step h)

end Sys2Proof.Machine
end

section
/-! SUPPORT. Classes 4 and 5: the access that an instruction asks for, with its elements (R46, R187, R194–R198, R207–R212). -/

namespace Sys2Proof.Machine

open Sys2Proof.Claims

/-- r asks for an access to these elements: address, bytes, operand and second operand of each, none of them performed. -/
structure Asks (s : State) (w : Access) (m : MemF) (dst : Dest) (es : List (Word × Nat × Nat × Word)) (r : Req) : Prop where
  what : r.what = w
  sp : r.sp = m.sp
  sync : r.sync = m.sy
  sx : r.sx = m.sx
  dst : r.dst = dst
  phase : r.phase = .sent
  pid : r.pid = s.me.act.pid
  places : r.elems.map (fun e => (e.ea, e.size)) = es.map fun e => (e.1, e.2.1)
  data : w.isLoad = false → r.elems.map (fun e => (e.data.toNat % 2 ^ (8 * e.size), e.data2)) = es.map fun e => e.2.2
  fresh : ∀ e ∈ r.elems, e.done = false ∧ e.hold = .free

theorem bytesOf_eq_laneOf (v : VReg) (n k : Nat) : bytesOf v.bits (n * k) n = laneOf v n k := by
  simp [bytesOf, laneOf, BitVec.extractLsb'_toNat, Nat.shiftRight_eq_div_pow, Nat.mul_assoc]

/-- A vector wide enough keeps the low n bytes of a number. -/
theorem ofNat_mod (W x n : Nat) (h : 8 * n ≤ W) : (BitVec.ofNat W x).toNat % 2 ^ (8 * n) = x % 2 ^ (8 * n) := by
  rw [BitVec.toNat_ofNat, Nat.mod_mod_of_dvd _ (Nat.pow_dvd_pow 2 h)]

/-- An operand of at most 128 bytes keeps its value in an element. -/
theorem bytesOf_mod (v : BitVec 2048) (off n : Nat) (hn : n ≤ 128) :
    (BitVec.ofNat 1024 (bytesOf v off n)).toNat % 2 ^ (8 * n) = bytesOf v off n := by
  rw [ofNat_mod _ _ _ (by omega), bytesOf, Nat.mod_mod]

theorem sizeBytes_le (sz : Size) : sizeBytes sz ≤ 128 := by cases sz <;> decide

theorem fst_withData (as : List Word) (n : Nat) (v : VReg) :
    (withData as n v).map (fun e => (e.1, e.2.1)) = as.map fun a => (a, n) := by
  refine List.ext_getElem (by simp [withData]) fun i _ _ => ?_
  simp [withData]

theorem fst_noData (as : List Word) (n : Nat) : (noData as n).map (fun e => (e.1, e.2.1)) = as.map fun a => (a, n) := by
  simp [noData]

theorem vecElems_places (ea : Word) (sz : Size) (v : BitVec 2048) :
    (vecElems ea sz v).map (fun e => (e.ea, e.size)) = (lanesFrom ea (sizeBytes sz)).map fun a => (a, sizeBytes sz) := by
  simp [vecElems, lanesFrom]

theorem laneElems_places (base : Word) (sz : Size) (ix : VReg) (v : BitVec 2048) :
    (laneElems base sz ix.bits v).map (fun e => (e.ea, e.size)) = (lanesBy base (sizeBytes sz) ix).map fun a => (a, sizeBytes sz) := by
  simp [laneElems, lanesBy, bytesOf_eq_laneOf]

theorem vecElems_data (ea : Word) (sz : Size) (v : VReg) :
    (vecElems ea sz v.bits).map (fun e => (e.data.toNat % 2 ^ (8 * e.size), e.data2)) =
      (withData (lanesFrom ea (sizeBytes sz)) (sizeBytes sz) v).map fun e => e.2.2 := by
  refine List.ext_getElem (by simp [vecElems, withData, lanesFrom]) fun i _ _ => ?_
  have hb := bytesOf_mod v.bits (sizeBytes sz * i) (sizeBytes sz) (sizeBytes_le sz)
  simp only [vecElems, withData, lanesFrom, List.getElem_map, List.getElem_range, List.getElem_zipIdx, Nat.zero_add] at *
  rw [hb, bytesOf_eq_laneOf]

theorem laneElems_data (base : Word) (sz : Size) (ix v : VReg) :
    (laneElems base sz ix.bits v.bits).map (fun e => (e.data.toNat % 2 ^ (8 * e.size), e.data2)) =
      (withData (lanesBy base (sizeBytes sz) ix) (sizeBytes sz) v).map fun e => e.2.2 := by
  refine List.ext_getElem (by simp [laneElems, withData, lanesBy]) fun i _ _ => ?_
  have hb := bytesOf_mod v.bits (sizeBytes sz * i) (sizeBytes sz) (sizeBytes_le sz)
  simp only [laneElems, withData, lanesBy, List.getElem_map, List.getElem_range, List.getElem_zipIdx, Nat.zero_add] at *
  rw [hb, bytesOf_eq_laneOf]

theorem vecElems_fresh (ea : Word) (sz : Size) (v : BitVec 2048) : ∀ e ∈ vecElems ea sz v, e.done = false ∧ e.hold = .free := by
  intro e he
  obtain ⟨i, -, rfl⟩ := List.mem_map.mp he
  exact ⟨rfl, rfl⟩

theorem laneElems_fresh (base : Word) (sz : Size) (ix v : BitVec 2048) :
    ∀ e ∈ laneElems base sz ix v, e.done = false ∧ e.hold = .free := by
  intro e he
  obtain ⟨i, -, rfl⟩ := List.mem_map.mp he
  exact ⟨rfl, rfl⟩

/-- g0 adds nothing to an address. -/
theorem State.addrOf_zero (s : State) (a : GReg) (imm : BitVec 48) : s.addrOf a 0 imm = s.g a + imm.signExtend 64 := by
  rw [State.addrOf, show s.g 0 = 0 from rfl, add_zero]

/-- The operand of one element, widened. -/
theorem setWidth_operand (w : Word) (sz : Size) :
    (w.setWidth 1024).toNat % 2 ^ (8 * sizeBytes sz) = w.toNat % 2 ^ (8 * sizeBytes sz) := by
  rw [BitVec.toNat_setWidth_of_le (by decide)]


section
variable {s : State} {w : Access} {m : MemF} {dst : Dest} {es : List (Word × Nat × Nat × Word)}

/-- r is what MOD says of an access to these elements (R46, R187), whatever its order (R203), and lane-wise or not. -/
def State.IsReq (s : State) (w : Access) (m : MemF) (dst : Dest) (elems : List Elem) (r : Req) : Prop :=
  r = { s.reqOf w m dst elems with acq := r.acq, rel := r.rel, perOwner := r.perOwner, perWord := r.perWord }

theorem State.IsReq.asks {r : Req} {elems : List Elem} (hr : s.IsReq w m dst elems r)
    (hp : elems.map (fun e => (e.ea, e.size)) = es.map fun e => (e.1, e.2.1))
    (hd : w.isLoad = false → elems.map (fun e => (e.data.toNat % 2 ^ (8 * e.size), e.data2)) = es.map fun e => e.2.2)
    (hf : ∀ e ∈ elems, e.done = false ∧ e.hold = .free) : Asks s w m dst es r := by
  rw [State.IsReq] at hr
  rw [hr]
  exact ⟨rfl, rfl, rfl, rfl, rfl, rfl, rfl, hp, hd, hf⟩

section
variable {r : Req}

/-- An access of one element. -/
theorem asks_one {e : Elem} {a : Word} {n x : Nat} {y : Word} (hr : s.IsReq w m dst [e] r) (ha : e.ea = a) (hn : e.size = n)
    (hx : w.isLoad = false → e.data.toNat % 2 ^ (8 * n) = x ∧ e.data2 = y) (hdone : e.done = false) (hhold : e.hold = .free) :
    Asks s w m dst [(a, n, x, y)] r :=
  hr.asks (by simp [ha, hn]) (fun hw => by simp [hn, hx hw]) (by simp [hdone, hhold])

/-- A vector load (R196). -/
theorem asks_vld {ea : Word} (hr : s.IsReq .load m dst (vecElems ea m.sz 0) r) :
    Asks s .load m dst (noData (lanesFrom ea (sizeBytes m.sz)) (sizeBytes m.sz)) r :=
  hr.asks ((vecElems_places ..).trans (fst_noData ..).symm) nofun (vecElems_fresh _ _ _)

/-- A vector store (R196). -/
theorem asks_vst {ea : Word} {v : VReg} (hr : s.IsReq .store m dst (vecElems ea m.sz v.bits) r) :
    Asks s .store m dst (withData (lanesFrom ea (sizeBytes m.sz)) (sizeBytes m.sz) v) r :=
  hr.asks ((vecElems_places ..).trans (fst_withData ..).symm) (fun _ => vecElems_data ..) (vecElems_fresh _ _ _)

/-- A gather (R197). -/
theorem asks_gather {base : Word} {ix : VReg} (hr : s.IsReq .load m dst (laneElems base m.sz ix.bits 0) r) :
    Asks s .load m dst (noData (lanesBy base (sizeBytes m.sz) ix) (sizeBytes m.sz)) r :=
  hr.asks ((laneElems_places ..).trans (fst_noData ..).symm) nofun (laneElems_fresh _ _ _ _)

/-- Lanes with data: a scatter (R197) or a VAMO (R210). -/
theorem asks_scatter {base : Word} {ix v : VReg} (hr : s.IsReq w m dst (laneElems base m.sz ix.bits v.bits) r) :
    Asks s w m dst (withData (lanesBy base (sizeBytes m.sz) ix) (sizeBytes m.sz) v) r :=
  hr.asks ((laneElems_places ..).trans (fst_withData ..).symm) (fun _ => laneElems_data ..) (laneElems_fresh _ _ _ _)

end

/-- A class 4 or 5 instruction of an activation thread is an access of the elements that it names. -/
theorem exec_access {i : Instr} (hi : Claims.accessOf s i = some (w, m, dst, es)) (hact : isAct s.cur = true)
    (hk : routineThere s w) : ∃ r sz ls mc vec, exec i s = s.access i r sz ls mc vec ∧ Asks s w m dst es r := by
  have operand (x : Word) (sz : Size) := setWidth_operand x sz
  unfold Claims.accessOf at hi
  split at hi
  case h_1 => cases hi; exact ⟨_, _, _, _, _, rfl, asks_one rfl rfl rfl nofun rfl rfl⟩
  case h_2 => cases hi; exact ⟨_, _, _, _, _, rfl, asks_one rfl rfl rfl nofun rfl rfl⟩
  case h_3 => cases hi; exact ⟨_, _, _, _, _, rfl, asks_one rfl rfl rfl (fun _ => ⟨operand _ _, rfl⟩) rfl rfl⟩
  case h_4 => cases hi; exact ⟨_, _, _, _, _, rfl, asks_one rfl rfl rfl (fun _ => ⟨operand _ _, rfl⟩) rfl rfl⟩
  case h_5 => cases hi; exact ⟨_, _, _, _, _, if_pos hact, asks_vld rfl⟩
  case h_6 => cases hi; exact ⟨_, _, _, _, _, if_pos hact, asks_vst rfl⟩
  case h_7 => cases hi; exact ⟨_, _, _, _, _, if_pos hact, asks_gather (by rw [← State.addrOf_zero]; rfl)⟩
  case h_8 => cases hi; exact ⟨_, _, _, _, _, if_pos hact, asks_scatter (by rw [← State.addrOf_zero]; rfl)⟩
  case h_9 => cases hi; exact ⟨_, _, _, _, _, rfl, asks_one rfl rfl rfl nofun rfl rfl⟩
  case h_10 => cases hi; exact ⟨_, _, _, _, _, rfl, asks_one rfl rfl rfl (fun _ => ⟨operand _ _, rfl⟩) rfl rfl⟩
  case h_11 => cases hi; exact ⟨_, _, _, _, _, if_pos hact, asks_one rfl rfl rfl (fun _ => ⟨operand _ _, rfl⟩) rfl rfl⟩
  case h_12 => cases hi; exact ⟨_, _, _, _, _, if_pos hact, asks_one rfl rfl rfl (fun _ => ⟨operand _ .w, rfl⟩) rfl rfl⟩
  case h_13 =>
    cases hi
    exact ⟨_, _, _, _, _, if_pos hact, asks_one rfl (State.addrOf_zero ..) rfl (fun _ => ⟨operand _ _, rfl⟩) rfl rfl⟩
  case h_14 => cases hi; exact ⟨_, _, _, _, _, if_pos hact, asks_scatter rfl⟩
  case h_15 d a b c m op =>
    cases hi
    obtain ⟨i, hi⟩ := hk _ rfl
    have hthere : (!(s.sys.routines.any fun r => r.1 == s.me.act.pid && r.2.1 == opnOf op)) ≠ true := by
      simpa using ⟨i, hi⟩
    have hx (w : Word) : (w.setWidth 1024).toNat % 2 ^ (8 * 8) = w.toNat := (operand w .d).trans (Nat.mod_eq_of_lt w.isLt)
    exact ⟨_, _, _, _, _, (if_pos hact).trans (if_neg hthere), asks_one rfl rfl rfl (fun _ => ⟨hx _, rfl⟩) rfl rfl⟩
  case h_16 => cases hi

end

end Sys2Proof.Machine
end

section
/-! SUPPORT. The checks of an access to a local or cross-block space, in order (R169, R170, R189). -/

namespace Sys2Proof.Machine

open Sys2Proof.Claims

/-- What a check gives of an element at address a: nothing where it holds, else the fault of its code with that address. -/
noncomputable def checkTrap (p : Prop) (code : Byte) (a : Word) : Option Trap :=
  open Classical in if p then none else some { code, val := a }

theorem checkTrap_of_pass {p : Prop} {code : Byte} {a : Word} (h : p) : checkTrap p code a = none := if_pos h
theorem checkTrap_of_fail {p : Prop} {code : Byte} {a : Word} (h : ¬ p) : checkTrap p code a = some { code, val := a } := if_neg h
theorem checkTrap_eq_ite (p : Prop) [Decidable p] (code : Byte) (a : Word) :
    checkTrap p code a = if p then none else some { code, val := a } := by
  by_cases h : p
  · rw [checkTrap_of_pass h, if_pos h]
  · rw [checkTrap_of_fail h, if_neg h]

section
variable {α : Type} {p : Word × α → Prop} {code : Byte} {es : List (Word × α)}

theorem findSome_checkTrap_of_all (h : ∀ x ∈ es, p x) : es.findSome? (fun e => checkTrap (p e) code e.1) = none :=
  List.findSome?_eq_none_iff.mpr fun x hx => checkTrap_of_pass (h x hx)

/-- The first element that fails the check gives its fault. -/
theorem findSome_checkTrap_of_first {before after : List (Word × α)} {e : Word × α} (hes : es = before ++ e :: after)
    (hb : ∀ x ∈ before, p x) (he : ¬ p e) : es.findSome? (fun e => checkTrap (p e) code e.1) = some { code, val := e.1 } := by
  rw [hes, List.findSome?_append, findSome_checkTrap_of_all hb, Option.none_or, List.findSome?_cons, checkTrap_of_fail he]

end

theorem spaceAllows_iff (sp : Space) (w : Access) : spaceAllows sp w = true ↔ spaceFor w sp := by
  cases w <;> cases sp <;> simp [spaceAllows, spaceFor]

theorem granted_iff_of_pentFor {s : State} {w : Access} {sp : Space} {ea : Word} {n : Nat} {p : Pent}
    (hp : s.pentFor s.cur sp ea n = some p) : granted s w sp ea n ↔
      ((w.isStore || p.r) && (w.isLoad || p.w) && ((s.block (blockOf s.cur)).stampFor p.encl).isSome) = true := by
  simp [granted, hp, Option.isSome_iff_exists, and_assoc]

section
variable {s : State} {w : Access} {m : MemF} {dst : Dest} {es : List (Word × Nat × Nat × Word)} {r : Req}

/-- A check that looks at an element's address and size only is a check of what the instruction names. -/
theorem Asks.findSome_eq (h : Asks s w m dst es r) {f : Elem → Option Trap} {p : Word → Nat → Prop} {code : Byte}
    (hf : ∀ e, f e = checkTrap (p e.ea e.size) code e.ea) :
    r.elems.findSome? f = es.findSome? fun e => checkTrap (p e.1 e.2.1) code e.1 := by
  have hmap (l : List (Word × Nat)) (g : Word × Nat → Option Trap) (hl : r.elems.map (fun e => (e.ea, e.size)) = l)
      (hg : ∀ e, f e = g (e.ea, e.size)) : r.elems.findSome? f = l.findSome? g := by
    rw [← hl, List.findSome?_map]
    exact congrArg (fun g => r.elems.findSome? g) (funext hg)
  rw [hmap _ (fun x => checkTrap (p x.1 x.2) code x.1) h.places hf, List.findSome?_map]
  rfl

theorem Asks.kindFault_eq (h : Asks s w m dst es r) (hd : m.sp ≠ .d) (mc : Bool) (e : Elem) :
    s.kindFault r mc e = checkTrap (spaceFor w m.sp) 0x08 e.ea := by
  have hd' : (m.sp == .d) = false := by simpa using hd
  rw [State.kindFault, h.sp, h.what, hd', ← spaceAllows_iff, checkTrap_eq_ite]
  cases spaceAllows m.sp w <;> rfl

theorem alignFault_eq (e : Elem) : alignFault e = checkTrap (e.ea.toNat % e.size = 0) 0x09 e.ea := by
  rw [alignFault, checkTrap_eq_ite]

theorem Asks.rangeFault_eq (h : Asks s w m dst es r) (hd : m.sp ≠ .d) (e : Elem) :
    rangeFault s.cur r.sp e = checkTrap ((flatAddr s.cur m.sp e.ea e.size).isSome) 0x08 e.ea := by
  simp only [rangeFault, checkTrap_eq_ite, h.sp, hd, false_or]

theorem Asks.protFault_eq (h : Asks s w m dst es r) (hd : m.sp ≠ .d) (e : Elem) :
    s.protFault s.cur r e = checkTrap (granted s w m.sp e.ea e.size) 0x07 e.ea := by
  have hd' : r.sp ≠ .d := by rw [h.sp]; exact hd
  rw [State.protFault, if_neg hd', h.sp, h.what]
  split
  · next hp => rw [checkTrap_of_fail]; rintro ⟨p, k, hpk, -⟩; cases hp.symm.trans hpk
  · next p hp => rw [granted_iff_of_pentFor hp, checkTrap_eq_ite]

/-- The checks of R189 in order, each over every element before the next. -/
theorem Asks.accessFault_eq (h : Asks s w m dst es r) (hd : m.sp ≠ .d) (mc : Bool) : s.accessFault r mc =
    (es.findSome? fun e => checkTrap (spaceFor w m.sp) 0x08 e.1).orElse fun _ =>
    (es.findSome? fun e => checkTrap (e.1.toNat % e.2.1 = 0) 0x09 e.1).orElse fun _ =>
    (es.findSome? fun e => checkTrap ((flatAddr s.cur m.sp e.1 e.2.1).isSome) 0x08 e.1).orElse fun _ =>
    es.findSome? fun e => checkTrap (granted s w m.sp e.1 e.2.1) 0x07 e.1 := by
  rw [State.accessFault, h.findSome_eq (p := fun _ _ => spaceFor w m.sp) (h.kindFault_eq hd mc),
    h.findSome_eq (p := fun a n => a.toNat % n = 0) alignFault_eq,
    h.findSome_eq (p := fun a n => (flatAddr s.cur m.sp a n).isSome) (h.rangeFault_eq hd),
    h.findSome_eq (p := granted s w m.sp) (h.protFault_eq hd)]

end

/-- Settles O22: the fault of an access is the first of R189's checks that an element fails, and every element is checked
before the next check. -/
theorem accessChecksComeInOrder : Obligations.AccessChecksComeInOrder := by
  unfold Obligations.AccessChecksComeInOrder
  intro s i w m dst es hi hact hy hd hk fine inRange before e after hes
  obtain ⟨r, sz, ls, mc, vec, hexec, hr⟩ := exec_access hi hact hk
  have hfault {tr : Trap} (h : s.accessFault r mc = some tr) : exec i s = .next (s.takeFault tr) := by
    rw [hexec, State.access, hact, hr.sp, if_neg hy, h]
    rfl
  have hspace (h : spaceFor w m.sp) : (es.findSome? fun e => checkTrap (spaceFor w m.sp) 0x08 e.1) = none :=
    findSome_checkTrap_of_all fun _ _ => h
  refine ⟨fun hs hb => hfault ?_, fun hs hb he => hfault ?_, fun hs hall hb he => hfault ?_, fun hs hall hb he => hfault ?_⟩
  · rw [hr.accessFault_eq hd, findSome_checkTrap_of_first hes (by simp [hb]) hs]
    rfl
  · rw [hr.accessFault_eq hd, hspace hs, findSome_checkTrap_of_first hes hb he]
    rfl
  · rw [hr.accessFault_eq hd, hspace hs, findSome_checkTrap_of_all hall, findSome_checkTrap_of_first hes hb he]
    rfl
  · rw [hr.accessFault_eq hd, hspace hs, findSome_checkTrap_of_all fun x hx => (hall x hx).1,
      findSome_checkTrap_of_all fun x hx => (hall x hx).2, findSome_checkTrap_of_first hes hb he]
    rfl

end Sys2Proof.Machine
end

section
/-! SUPPORT. An access that passes its checks, and one that is accepted without being performed (R168, R178, R189, R203, R237). -/

namespace Sys2Proof.Machine

open Sys2Proof.Claims

theorem State.retire_outst (s : State) : s.retire.me.outst = s.me.outst := by
  obtain ⟨_, _, _, _, _, h⟩ := s.me.goOn_eq s.cur s.fallPc (loopFall s.here.1 s.here.2 s.me.loops).1
  rw [State.retire_me, h]

/-! ## An access that passes its checks (R189) -/

section
variable {s : State} {w : Access} {m : MemF} {dst : Dest} {es : List (Word × Nat × Nat × Word)} {r : Req}

theorem Asks.mayAccess_of_mem (h : Asks s w m dst es r) (hmay : ∀ e ∈ es, mayAccess s w m.sp e.1 e.2.1)
    {e : Elem} (he : e ∈ r.elems) : mayAccess s w m.sp e.ea e.size := by
  have hmem : (e.ea, e.size) ∈ es.map fun e => (e.1, e.2.1) := h.places ▸ List.mem_map_of_mem he
  obtain ⟨x, hx, hxe⟩ := List.mem_map.mp hmem
  obtain ⟨h1, h2⟩ := Prod.mk.inj hxe
  exact h1 ▸ h2 ▸ hmay x hx

/-- An address of this chip names it by kind 0, or by kind 1 with the own rank. -/
theorem onChip_kind {pid : BitVec 16} {ea : Word} (h : s.onChip pid ea = true) : dKind ea = 0 ∨ dKind ea = 1 := by
  simp only [State.onChip, Bool.or_eq_true, Bool.and_eq_true, beq_iff_eq] at h
  exact h.imp_right And.left

theorem isMcast_of_mayAccess {sp : Space} {ea : Word} {n : Nat} (h : mayAccess s w sp ea n) : isMcast sp ea = false := by
  obtain ⟨-, -, hd, -⟩ := h
  simp only [isMcast, Bool.and_eq_false_iff, beq_eq_false_iff_ne]
  by_cases hsp : sp = .d
  · have := onChip_kind (hd hsp).1
    omega
  · exact .inl hsp

theorem Asks.kindFault_none (h : Asks s w m dst es r) {e : Elem} (he : mayAccess s w m.sp e.ea e.size) (mc : Bool) :
    s.kindFault r mc e = none := by
  obtain ⟨hspace, -, hd, -⟩ := he
  by_cases hsp : m.sp = .d
  · obtain ⟨hchip, h0, h1⟩ := hd hsp
    have hs := (spaceAllows_iff m.sp w).mpr hspace
    rw [State.kindFault, h.sp, h.what, h.pid, hs, hsp]
    rcases onChip_kind hchip with hk | hk
    · simp [hk, h0 hk]
    · simp [hk, h1 hk]
  · rw [h.kindFault_eq hsp, checkTrap_of_pass hspace]

theorem Asks.accessFault_none (h : Asks s w m dst es r) (hmay : ∀ e ∈ es, mayAccess s w m.sp e.1 e.2.1) (mc : Bool) :
    s.accessFault r mc = none := by
  have hall {f : Elem → Option Trap} (hf : ∀ e, mayAccess s w m.sp e.ea e.size → f e = none) : r.elems.findSome? f = none :=
    List.findSome?_eq_none_iff.mpr fun e he => hf e (h.mayAccess_of_mem hmay he)
  rw [State.accessFault, hall fun e he => h.kindFault_none he mc, hall fun e he => ?align, hall fun e he => ?range,
    hall fun e he => ?prot]
  · rfl
  case align => rw [alignFault_eq, checkTrap_of_pass he.2.1]
  case range =>
    by_cases hsp : m.sp = .d
    · rw [rangeFault, h.sp, if_pos (.inl hsp)]
    · rw [h.rangeFault_eq hsp, checkTrap_of_pass (he.2.2.2 hsp).1]
  case prot =>
    by_cases hsp : m.sp = .d
    · rw [State.protFault, h.sp, if_pos hsp]
    · rw [h.protFault_eq hsp, checkTrap_of_pass (he.2.2.2 hsp).2]

/-- What the checks find out of an element keeps what it is asked for. -/
theorem State.resolve_eq (s : State) (r : Req) (e : Elem) : ∃ pa key, s.resolve r e = { e with pa, key } := by
  unfold State.resolve
  split
  · exact ⟨e.pa, e.key, rfl⟩
  · exact ⟨_, _, rfl⟩

/-- Elements as asked for keep what they are asked for when the checks resolve them. -/
theorem Asks.resolve (h : Asks s w m dst es r) : Asks s w m dst es { r with elems := r.elems.map (s.resolve r) } where
  what := h.what
  sp := h.sp
  sync := h.sync
  sx := h.sx
  dst := h.dst
  phase := h.phase
  pid := h.pid
  places := by
    rw [← h.places, List.map_map]
    refine List.map_congr_left fun e _ => ?_
    obtain ⟨_, _, he⟩ := s.resolve_eq r e
    simp [he]
  data hw := by
    rw [← h.data hw, List.map_map]
    refine List.map_congr_left fun e _ => ?_
    obtain ⟨_, _, he⟩ := s.resolve_eq r e
    simp [he]
  fresh e he := by
    obtain ⟨x, hx, rfl⟩ := List.mem_map.mp he
    obtain ⟨_, _, he⟩ := s.resolve_eq r x
    rw [he]
    exact h.fresh x hx

/-- A checked access of this chip, not to a multicast group, is issued and retires. -/
theorem Asks.startAccess_eq (h : Asks s w m dst es r) (hes : es ≠ []) (hmay : ∀ e ∈ es, mayAccess s w m.sp e.1 e.2.1)
    (hhaz : s.haz = false) (hdef : s.me.act.deferred = none) (hrel : m.sp = .d → s.releaseStalls (dieOf s.cur) = false)
    (sz : Nat) (vec : Option (BitVec 2048)) :
    s.startAccess r sz vec = .next (s.issueReq { r with elems := r.elems.map (s.resolve r) }).retire := by
  have hr := h.resolve
  unfold State.startAccess
  extract_lets q mcs rest away out s1 stores
  have hq : Asks s w m dst es q := hr
  have hno (e : Elem) (he : e ∈ q.elems) : isMcast q.sp e.ea = false := hq.sp ▸ isMcast_of_mayAccess (hq.mayAccess_of_mem hmay he)
  have hmcs : mcs = [] := List.filter_eq_nil_iff.mpr fun e he => by simp [hno e he]
  have hrest : rest = q.elems := List.filter_eq_self.mpr fun e he => by simp [hno e he]
  have hne : q.elems ≠ [] := fun h0 => hes (by simpa [h0] using hq.places)
  have haway : away = false := by
    by_cases hsp : m.sp = .d
    · have : (q.elems.any fun e => isMcast q.sp e.ea || !s.onChip q.pid e.ea) = false := List.any_eq_false.mpr fun e he => by
        simp [hno e he, hq.pid, ((hq.mayAccess_of_mem hmay he).2.2.1 hsp).1]
      simp [away, this]
    · simp [away, hq.sp, hsp]
  have hout : out = 0 := if_pos hmcs
  have hstall : (q.rel && q.sp == .d && rest != [] && s.releaseStalls (dieOf s.cur)) = false := by
    by_cases hsp : m.sp = .d
    · simp [hrel hsp]
    · simp [hq.sp, hsp]
  have hs1 : s1 = s.issueReq q := (if_neg (by simp [hrest, hne, hout])).trans (by rw [hrest])
  rw [hrest] at hstall
  rw [hout, hmcs, hrest, haway, hhaz, hdef, hs1]
  simp [hstall]
  rfl

end

/-! ## An access that is accepted, and does not act at once (R168; log 3) -/

/-- The stamp of an access as it issues, and what handing out the stamp of a release leaves of the state (R237). -/
def State.stampFor (s : State) (r : Req) : List (BitVec 16) × State :=
  if r.sp = .d && !r.what.isLoad then
    (if r.rel then s.releaseStamp (dieOf s.cur) else (s.writeStamp (dieOf s.cur), s)) else ([], s)

/-- A stamp counts at its die and nowhere else. -/
theorem State.stampFor_snd (s : State) (r : Req) : (s.stampFor r).2 = { s with dies := (s.stampFor r).2.dies } := by
  unfold State.stampFor
  split
  · split <;> rfl
  · rfl

/-- Adding an access to the outstanding ones is a change that control and registers do not see. -/
theorem State.addReq_quietly (s : State) (r : Req) : Quietly s (s.addReq r).2 :=
  Quietly.modMe s (fun x => { x with
    outst := x.outst ++ [(s.addReq r).1], nextSeq := x.nextSeq + 1, act := { x.act with count := x.act.count + 1 } })
    rfl rfl rfl rfl (fun _ => rfl) rfl

theorem State.addReq_outst (s : State) (r : Req) : (s.addReq r).2.me.outst = s.me.outst ++ [(s.addReq r).1] := by
  simp only [State.addReq, State.me_modMe]

theorem State.stampFor_quietly (s : State) (r : Req) : Quietly s (s.stampFor r).2 := by
  rw [s.stampFor_snd r]
  exact Quietly.of_threads rfl rfl rfl fun _ => rfl

theorem State.stampFor_me (s : State) (r : Req) : (s.stampFor r).2.me = s.me := by
  rw [s.stampFor_snd r]
  rfl

/-- An access to another block or to device memory, an atomic, or one that comes late, is only added to the outstanding ones. -/
theorem State.issueReq_eq (s : State) (r : Req)
    (h : r.what.isAtom = true ∨ r.sp ≠ .s ∧ r.sp ≠ .a ∧ r.sp ≠ .w ∨ s.me.late = true) :
    s.issueReq r = ((s.stampFor r).2.addReq { r with stamp := (s.stampFor r).1 }).2 := by
  have hlate : ((s.stampFor r).2.addReq { r with stamp := (s.stampFor r).1 }).2.me.late = s.me.late := by
    simp only [State.addReq, State.me_modMe, State.stampFor_me]
  refine if_neg ?_
  rintro ⟨hsp, hatom, hl, -⟩
  have hl' : s.me.late = false := hlate.symm.trans (Bool.not_eq_true' _ |>.mp hl)
  rcases h with h | ⟨hs, ha, hw⟩ | h
  · exact absurd (h : r.what.isAtom = true) (by simpa using hatom)
  · exact hsp.elim hs fun h => h.elim ha hw
  · rw [hl'] at h; cases h

theorem spaceFor_ne_y {w : Access} {sp : Space} (h : spaceFor w sp) : sp ≠ .y := by
  rintro rfl
  cases w <;> simp [spaceFor] at h

/-- Settles O21: an access whose checks hold is issued, and one that does not act at once is only added to the outstanding ones, as
it was asked for; the instruction then retires. -/
theorem accessesRetireWhenAccepted : Obligations.AccessesRetireWhenAccepted := by
  unfold Obligations.AccessesRetireWhenAccepted
  intro s i w m dst es hi hact hes hmay hk hlater hhaz hdef hrel
  obtain ⟨r, sz, ls, mc, vec, hexec, hr⟩ := exec_access hi hact hk
  have hq := hr.resolve
  set q := { r with elems := r.elems.map (s.resolve r) }
  obtain ⟨e, he⟩ := List.exists_mem_of_ne_nil es hes
  have hy : r.sp ≠ .y := hr.sp ▸ spaceFor_ne_y (hmay e he).1
  have hgo : exec i s = .next (s.issueReq q).retire := by
    rw [hexec, State.access, hact, if_neg hy, hr.accessFault_none hmay]
    exact hr.startAccess_eq hes hmay hhaz hdef hrel sz vec
  have hissue := s.issueReq_eq q (by
    rw [hq.what, hq.sp]
    rcases hlater with h | h | h | h | h | h <;> simp [h])
  have hquiet : Quietly s (s.issueReq q) := by
    rw [hissue]
    exact (s.stampFor_quietly q).trans (State.addReq_quietly _ _)
  obtain ⟨hret, hreg⟩ := hquiet.retire
  refine ⟨_, ((s.stampFor q).2.addReq { q with stamp := (s.stampFor q).1 }).1, hgo, hret.toMoved, hreg, ?_, ?_,
    hq.what, hq.sp, hq.sync, hq.sx, hq.dst, hq.phase, ?_, hq.pid, ?_, hq.places, hq.data, hq.fresh⟩
  · rw [State.retire_mem, hissue, State.addReq, State.modMe_mem, State.stampFor_snd]
  · rw [State.retire_outst, hissue, State.addReq_outst, State.stampFor_me]
  · simp only [State.addReq, State.stampFor_me]
  · simp only [State.addReq, (s.stampFor_quietly q).cur]

end Sys2Proof.Machine
end

section
/-! SUPPORT. LD and ST in Y: the areas that they read and write (R171, R372, R402). -/

namespace Sys2Proof.Machine

open Sys2Proof.Claims

section
variable {s : State} {ea w : Word}

/-- The 8 bytes just written are the word that was written. -/
theorem Mem.ofNat_read_write (m : Mem) (a : Nat) (w : Word) : BitVec.ofNat 64 ((m.write a 8 w.toNat).read a 8) = w := by
  rw [Mem.read_write, Nat.mod_eq_of_lt (show w.toNat < 256 ^ 8 from w.isLt), BitVec.ofNat_toNat, BitVec.setWidth_eq]

/-! ## The areas of Y that ST writes (R372, R402) -/

theorem yWrite_group {x : Word} (h1 : 0x100000000 ≤ ea.toNat) (h2 : ea.toNat < 0x100040000) :
    s.yWrite ea x = some (s.modMem fun m => m.write (yBase + ea.toNat) 8 (x &&& grpMask (ea.toNat % 64)).toNat) :=
  if_pos ⟨h1, h2⟩

theorem yWrite_context {x : Word} (h1 : 0x110000000 ≤ ea.toNat) (h2 : ea.toNat < 0x110200000) (h3 : ea.toNat % 0x2000 ≠ 0) :
    s.yWrite ea x = some (s.modMem fun m => m.write (yBase + ea.toNat) 8 (x &&& ctxMask (ea.toNat % 0x2000)).toNat) := by
  rw [State.yWrite, if_neg (by omega), if_pos ⟨h1, h2⟩]
  dsimp only
  rw [if_neg fun h => h3 h.1]

theorem yWrite_management {x : Word} (h : ea.toNat < 0xC0000000) : s.yWrite ea x = none := by
  rw [State.yWrite, if_neg (by omega), if_neg (by omega)]

theorem yRead_group (h1 : 0x100000000 ≤ ea.toNat) (h2 : ea.toNat < 0x100040000) :
    s.yRead ea = some (BitVec.ofNat 64 (s.mem.read (yBase + ea.toNat) 8)) := by
  rw [State.yRead, if_neg (by omega), if_pos ⟨h1, h2⟩]

theorem yRead_context (h1 : 0x110000000 ≤ ea.toNat) (h2 : ea.toNat < 0x110200000) (h3 : ea.toNat % 0x2000 ≠ 0) :
    s.yRead ea = some (BitVec.ofNat 64 (s.mem.read (yBase + ea.toNat) 8)) := by
  rw [State.yRead, if_neg (by omega), if_neg (by omega), if_pos ⟨h1, h2⟩]
  exact congrArg some (if_neg h3)

theorem yRead_logcnt (h : ea = 0x120000000) : s.yRead ea = some s.sys.logcnt := by
  subst h
  rfl

theorem ctxMask_reserved {off : Nat} (h : off = 0x18 ∨ (0x60 ≤ off ∧ off < 0x100) ∨ 0x1900 ≤ off) : ctxMask off = 0 := by
  unfold ctxMask
  rw [if_neg (by omega), if_neg (by omega), if_neg (by omega), if_neg (by omega), if_neg (by omega), if_neg (by omega)]

/-! ## LD and ST in Y (R171) -/

variable {a b c d : GReg} {m : MemF} {imm : BitVec 48}

theorem exec_ld_y (hsp : m.sp = .y) (hact : isAct s.cur = true) : exec (.ld d a b m imm) s =
    s.yAccess (s.reqOf .load m (.g d) [{ ea := s.addrOf a b imm, size := sizeBytes m.sz }]) true := by
  show s.access _ _ _ _ _ _ = _
  rw [State.access, hact]
  exact if_pos hsp

theorem exec_st_y (hsp : m.sp = .y) (hact : isAct s.cur = true) : exec (.st a b c m imm) s =
    s.yAccess (s.reqOf .store m .none [{ ea := s.addrOf a b imm, size := sizeBytes m.sz, data := (s.g c).setWidth 1024 }]) true := by
  show s.access _ _ _ _ _ _ = _
  rw [State.access, hact]
  exact if_pos hsp

section
variable {r : Req} {e : Elem} (hr : r.elems = [e]) (hea : e.ea = ea)
include hr

theorem yAccess_context (hmode : s.me.mode = .context) : s.yAccess r true = raiseOpen 0x15 s := by
  rw [State.yAccess, hr]
  exact if_pos (by rw [hmode]; decide)

include hea

theorem yAccess_size (hmode : s.me.mode = .monitor) (hsz : e.size ≠ 8) :
    s.yAccess r true = .next (s.takeFault { code := 0x08, val := ea }) := by
  subst hea
  rw [State.yAccess, hr]
  exact (if_neg (by simp [hmode])).trans (if_pos (.inr (.inr hsz)))

theorem yAccess_misaligned (hmode : s.me.mode = .monitor) (hsync : r.sync = .plain) (hsz : e.size = 8) (hal : ea.toNat % 8 ≠ 0) :
    s.yAccess r true = .next (s.takeFault { code := 0x09, val := ea }) := by
  subst hea
  rw [State.yAccess, hr]
  exact (if_neg (by simp [hmode])).trans ((if_neg (by simp [hsync, hsz])).trans (if_pos hal))

theorem yAccess_load (hmode : s.me.mode = .monitor) (hsync : r.sync = .plain) (hsz : e.size = 8) (hal : ea.toNat % 8 = 0)
    (hwhat : r.what = .load) (hdst : r.dst = .g d) : s.yAccess r true =
      match s.yRead ea with
      | some w => .next (s.writeRetire d w)
      | none => .next (s.takeFault { code := 0x08, val := ea }) := by
  subst hea
  rw [State.yAccess, hr]
  dsimp only
  rw [if_neg (by simp [hmode]), if_neg (by simp [hsync, hsz]), if_neg (by simp [hal]), hwhat, hdst]
  cases s.yRead e.ea <;> rfl

theorem yAccess_store (hmode : s.me.mode = .monitor) (hsync : r.sync = .plain) (hsz : e.size = 8) (hal : ea.toNat % 8 = 0)
    (hwhat : r.what = .store) : s.yAccess r true =
      match s.yWrite ea (e.data.setWidth 64) with
      | some t => .next t.retire
      | none => .next (s.takeFault { code := 0x08, val := ea }) := by
  subst hea
  rw [State.yAccess, hr]
  dsimp only
  rw [if_neg (by simp [hmode]), if_neg (by simp [hsync, hsz]), if_neg (by simp [hal]), hwhat]
  cases s.yWrite e.ea (e.data.setWidth 64) <;> rfl

end

end

/-- A retirement after a change that control and registers do not see, whatever the change has made of memory. -/
theorem Quietly.retire_mem {s u : State} {mem : Mem} (h : Quietly { s with mem } u) : Moved s u.retire ∧ NoReg s u.retire := by
  obtain ⟨hret, hreg⟩ := h.retire
  exact ⟨⟨hret.at', hret.stack, hret.cur, hret.mode, hret.status, hret.others, hret.trap⟩, hreg⟩

/-- A store to Y retires; it changes no register, and no byte of banks or device memory, which lie below Y. -/
theorem retire_yStore (s : State) (ea w : Word) : let t := (s.modMem fun m => m.write (yBase + ea.toNat) 8 w.toNat).retire
    Moved s t ∧ NoReg s t ∧ (∀ k, k < 2 ^ 50 → t.mem.byte k = s.mem.byte k) ∧
      BitVec.ofNat 64 (t.mem.read (yBase + ea.toNat) 8) = w := by
  have h : Quietly { s with mem := s.mem.write (yBase + ea.toNat) 8 w.toNat }
      (s.modMem fun m => m.write (yBase + ea.toNat) 8 w.toNat) :=
    Quietly.refl _
  obtain ⟨hmoved, hreg⟩ := h.retire_mem
  exact ⟨hmoved, hreg, fun k hk => Mem.byte_write_outside _ _ _ _ _ (.inl (by rw [yBase]; omega)), Mem.ofNat_read_write ..⟩

/-- Settles O26: LD and ST in Y are checked in order, and then read the area that the address lies in, or write it under
the mask of its word. -/
theorem systemRegistersAreTheMonitors : Obligations.SystemRegistersAreTheMonitors := by
  unfold Obligations.SystemRegistersAreTheMonitors
  intro s a b c d m imm hsp hact ea
  have hld := exec_ld_y (a := a) (b := b) (d := d) (imm := imm) hsp hact
  have hst := exec_st_y (a := a) (b := b) (c := c) (imm := imm) hsp hact
  have hdata : (((s.g c).setWidth 1024).setWidth 64) = s.g c := by simp
  refine ⟨fun hmode => ?_, fun hmode hsy hsz => ?_, fun hmode hsy hsz hal => ?_, fun hmode hsy hsz hal => ?_⟩
  · rw [hld, hst, yAccess_context rfl hmode, yAccess_context rfl hmode]
    exact ⟨raisesOpen_raiseOpen s _, raisesOpen_raiseOpen s _⟩
  · have hn : sizeBytes m.sz ≠ 8 := by cases h : m.sz <;> simp_all [sizeBytes]
    exact ⟨hld.trans (yAccess_size rfl rfl hmode hn), hst.trans (yAccess_size rfl rfl hmode hn)⟩
  · have hn : sizeBytes m.sz = 8 := by rw [hsz]; rfl
    exact hld.trans (yAccess_misaligned rfl rfl hmode hsy hn hal)
  · have hn : sizeBytes m.sz = 8 := by rw [hsz]; rfl
    have hload := hld.trans (yAccess_load rfl (ea := ea) rfl hmode hsy hn hal rfl rfl)
    have hstore := hst.trans (yAccess_store rfl (ea := ea) rfl hmode hsy hn hal rfl)
    dsimp only at hload hstore
    rw [hdata] at hstore
    have hread {w : Word} (h : s.yRead ea = some w) :
        ∃ t, exec (.ld d a b m imm) s = .next t ∧ FallsThrough s t ∧ SetsG s t d w 0 := by
      refine ⟨s.writeRetire d w, ?_, s.writeRetire_spec d w⟩
      rw [hload, h]
    refine ⟨fun w h => hread h, fun h => hread (yRead_logcnt h), fun h => ?_, fun h1 h2 => ?_, fun h1 h2 h3 => ?_, fun h => ?_⟩
    · rw [hload, h]
    · rw [yWrite_group h1 h2] at hstore
      obtain ⟨hmoved, hreg, hbytes, hback⟩ := retire_yStore s ea (s.g c &&& grpMask (ea.toNat % 64))
      exact ⟨_, hstore, hmoved, hreg, (yRead_group h1 h2).trans (congrArg some hback), hbytes⟩
    · rw [yWrite_context h1 h2 h3] at hstore
      obtain ⟨hmoved, hreg, hbytes, hback⟩ := retire_yStore s ea (s.g c &&& ctxMask (ea.toNat % 0x2000))
      have hy := (yRead_context h1 h2 h3).trans (congrArg some hback)
      refine ⟨_, hstore, hmoved, hreg, hy, fun off hoff hres => hy.trans ?_⟩
      rw [← hoff, ctxMask_reserved hres]
      exact congrArg some BitVec.and_zero
    · rw [hstore, yWrite_management h]

end Sys2Proof.Machine
end

section
/-! SUPPORT. A word of memory read and written at its home, bit by bit (R168, R184, R185). -/

namespace Sys2Proof.Machine

open Sys2Proof.Claims

/-! ## The bits of a number in memory -/

theorem Mem.read_lt (m : Mem) (a n : Nat) : m.read a n < 2 ^ (8 * n) := by
  induction n generalizing a with
  | zero => exact Nat.one_pos
  | succ n ih =>
    have hbyte := (m.byte a).isLt
    have hrest := ih (a + 1)
    have hpow : 2 ^ (8 * (n + 1)) = 256 * 2 ^ (8 * n) := by rw [Nat.mul_succ, Nat.pow_add, Nat.mul_comm]
    rw [Mem.read, hpow]
    omega

/-- The bits of the number in n bytes are those of memory, and no others. -/
theorem Mem.testBit_read (m : Mem) (a n i : Nat) : (m.read a n).testBit i = (decide (i < 8 * n) && m.bit (8 * a + i)) := by
  by_cases hi : i < 8 * n
  · have hat : (8 * a + i) / 8 = a + i / 8 := by omega
    have hbit : (8 * a + i) % 8 = i % 8 := by omega
    rw [m.read_testBit n a i hi, decide_eq_true hi, Bool.true_and, Mem.bit, hat, hbit]
  · rw [decide_eq_false hi, Bool.false_and]
    exact Nat.testBit_lt_two_pow ((m.read_lt a n).trans_le (Nat.pow_le_pow_right (by decide) (by omega)))

/-- Memories with the same bits have the same bytes. -/
theorem Mem.byte_of_bit {m u : Mem} (h : u.bit = m.bit) (a : Nat) : u.byte a = m.byte a := by
  refine BitVec.eq_of_getLsbD_eq fun i hi => ?_
  have hq := congrFun h (8 * a + i)
  have hat : (8 * a + i) / 8 = a := by omega
  have hbit : (8 * a + i) % 8 = i := by omega
  rwa [Mem.bit, Mem.bit, hat, hbit] at hq

/-- n bytes from pa are written when their bits are, and no other bit is. -/
theorem Stores.of_bit {s t : State} {pa n x : Nat}
    (h : ∀ q, t.mem.bit q = if 8 * pa ≤ q ∧ q < 8 * (pa + n) then x.testBit (q - 8 * pa) else s.mem.bit q) : Stores s t pa n x := by
  intro a
  refine BitVec.eq_of_getLsbD_eq fun i hi => ?_
  have hq := h (8 * a + i)
  have hat : (8 * a + i) / 8 = a := by omega
  have hbit : (8 * a + i) % 8 = i := by omega
  rw [Mem.bit, Mem.bit, hat, hbit] at hq
  rw [hq]
  by_cases hin : pa ≤ a ∧ a < pa + n
  · have hpow : (256 : Nat) ^ (a - pa) = 2 ^ (8 * (a - pa)) := by rw [Nat.pow_mul]
    rw [if_pos hin, if_pos (by omega), BitVec.getLsbD_ofNat, decide_eq_true hi, Bool.true_and, hpow, Nat.testBit_div_two_pow]
    exact congrArg x.testBit (by omega)
  · rw [if_neg hin, if_neg (by omega)]

/-! ## An access of one word at its home (R184, R185) -/

theorem wordsOf_one {pa n : Nat} (hn : n = 1 ∨ n = 2 ∨ n = 4 ∨ n = 8) : wordsOf pa n = [pa / 8] := by
  rcases hn with rfl | rfl | rfl | rfl <;> rfl

section
variable {s : State} {key pa n : Nat} (hn : n = 1 ∨ n = 2 ∨ n = 4 ∨ n = 8) (hal : pa % n = 0)
  (hstamp : s.mem.stamp (pa / 8) = 0 ∨ s.mem.stamp (pa / 8) = key)
include hn hal

/-- An aligned access of at most eight bytes lies in one word. -/
theorem aligned_in_word : pa % 8 + n ≤ 8 := by
  rcases hn with rfl | rfl | rfl | rfl <;> omega

include hstamp

/-- A read under the writer's key gives the bytes there. -/
theorem State.readAt_eq : s.readAt key pa n = (s.mem.read pa n, s) := by
  have hin := aligned_in_word hn hal
  by_cases hwide : n < 8
  · have hword : (s.mem.word (pa / 8)).toNat / 2 ^ (8 * (pa % 8)) % 2 ^ (8 * n) = s.mem.read pa n := by
      refine Nat.eq_of_testBit_eq fun i => ?_
      rw [Nat.testBit_mod_two_pow, Nat.testBit_div_two_pow, Mem.testBit_read]
      by_cases hi : i < 8 * n
      · have hq : 64 * (pa / 8) + (i + 8 * (pa % 8)) = 8 * pa + i := by omega
        rw [s.mem.word_testBit (by omega), hq]
      · rw [decide_eq_false hi, Bool.false_and, Bool.false_and]
    unfold State.readAt State.readWord
    rw [if_pos hwide, if_pos hstamp]
    exact congrArg (·, s) hword
  · have h8 : n = 8 := by omega
    have hat : 8 * (pa / 8) = pa := by omega
    rw [h8, readAt_of_sound hstamp, Mem.word, BitVec.toNat_ofNat, hat, Nat.mod_eq_of_lt (s.mem.read_lt pa 8)]

/-- A write puts the low bits of its number into the word, under the writer's key; the word's other bytes stay. -/
theorem State.writeAt_eq (x : Nat) : ∃ m, s.writeAt key pa n x = { s with mem := m } ∧
    (∀ q, m.bit q = if 8 * pa ≤ q ∧ q < 8 * (pa + n) then x.testBit (q - 8 * pa) else s.mem.bit q) ∧ ∀ v, m.tag v = s.mem.tag v := by
  have hin := aligned_in_word hn hal
  have hput (y : Nat) (hy : ∀ i, i < 64 → y.testBit i =
      if 8 * (pa % 8) ≤ i ∧ i < 8 * (pa % 8 + n) then x.testBit (i - 8 * (pa % 8)) else s.mem.bit (64 * (pa / 8) + i)) :
      ∃ m, s.writeWords key (pa / 8) 1 y = { s with mem := m } ∧
        (∀ q, m.bit q = if 8 * pa ≤ q ∧ q < 8 * (pa + n) then x.testBit (q - 8 * pa) else s.mem.bit q) ∧ ∀ v, m.tag v = s.mem.tag v := by
    obtain ⟨m, hm, hw⟩ := State.writeWords_eq key 1 (pa / 8) y s
    refine ⟨m, hm, fun q => ?_, hw.tags⟩
    rw [hw.bits]
    by_cases hq : 64 * (pa / 8) ≤ q ∧ q < 64 * (pa / 8 + 1)
    · have hat : 64 * (pa / 8) + (q - 64 * (pa / 8)) = q := by omega
      have hoff : q - 64 * (pa / 8) - 8 * (pa % 8) = q - 8 * pa := by omega
      rw [if_pos hq, hy _ (by omega), hat, hoff]
      exact if_congr (by omega) rfl rfl
    · rw [if_neg hq, if_neg (by omega)]
  by_cases hwide : n < 8
  · have hmask : (2 ^ (8 * n) - 1) * 2 ^ (8 * (pa % 8)) < 2 ^ 64 := by
      have hlow : 2 ^ (8 * n) - 1 < 2 ^ (8 * n) := Nat.sub_lt (Nat.two_pow_pos _) Nat.one_pos
      calc (2 ^ (8 * n) - 1) * 2 ^ (8 * (pa % 8)) < 2 ^ (8 * n) * 2 ^ (8 * (pa % 8)) := Nat.mul_lt_mul_of_pos_right hlow (Nat.two_pow_pos _)
        _ = 2 ^ (8 * n + 8 * (pa % 8)) := (Nat.pow_add ..).symm
        _ ≤ 2 ^ 64 := Nat.pow_le_pow_right (by decide) (by omega)
    unfold State.writeAt State.readWord
    rw [if_pos hwide, if_pos hstamp]
    refine hput _ fun i hi => ?_
    rw [Nat.sub_sub, Nat.add_comm 1, Nat.testBit_or, Nat.testBit_and, s.mem.word_testBit hi, Nat.testBit_two_pow_sub_succ hmask, Nat.testBit_mul_two_pow,
      Nat.testBit_mul_two_pow, Nat.testBit_two_pow_sub_one, Nat.testBit_mod_two_pow, decide_eq_true hi]
    by_cases hlo : 8 * (pa % 8) ≤ i <;> by_cases hhi : i - 8 * (pa % 8) < 8 * n
    · rw [if_pos (by omega)]; simp [hlo, hhi]
    · rw [if_neg (by omega)]; simp [hhi]
    · rw [if_neg (by omega)]; simp [hlo]
    · rw [if_neg (by omega)]; simp [hlo]
  · have h8 : n = 8 := by omega
    have hdiv : n / 8 = 1 := by omega
    rw [State.writeAt, if_neg hwide, hdiv]
    refine hput x fun i hi => ?_
    have hoff : i - 8 * (pa % 8) = i := by omega
    rw [if_pos (by omega), hoff]

end

theorem State.journalWords_of_no_team {s : State} {a : Act} (h : s.teamOf a = none) (ws : List Nat) : s.journalWords a ws = s := by
  have hone (w : Nat) : s.journal a (8 * w) = s := by rw [State.journal, h]
  induction ws with
  | nil => rfl
  | cons w ws ih => exact (congrArg (fun s : State => s.journalWords a ws) (hone w)).trans ih

end Sys2Proof.Machine
end

section
/-! SUPPORT. The one access of a thread, performed at its home or made to wait (R168, R183, R185, R186, R190). -/

namespace Sys2Proof.Machine

open Sys2Proof.Claims

/-! ## The one access of a thread, performed at its home (R168, R185, R186) -/

/-- Memory as a load leaves it: WFE leaves its word empty (R185). -/
def Mem.loaded (m : Mem) (sync : Sync) (w : Nat) : Mem := if sync = .wfe then setTags false [w] m else m

theorem Mem.bit_loaded (m : Mem) (sync : Sync) (w : Nat) : (m.loaded sync w).bit = m.bit := by
  unfold Mem.loaded
  split
  · obtain ⟨full, h⟩ := setTags_rest false [w] m
    rw [h]
    rfl
  · rfl

theorem Mem.tag_loaded (m : Mem) (sync : Sync) (w v : Nat) :
    (m.loaded sync w).tag v = if v = w then (if sync = .wfe then false else m.tag w) else m.tag v := by
  unfold Mem.loaded
  split
  · rw [Mem.tag_setTags]
    simp
  · split
    next h => rw [h]
    next => rfl

/-- A request of one element as it stands when that is performed, with its result. -/
def Req.performedWith (r : Req) (e : Elem) (x : Nat) : Req :=
  { r with elems := [{ e with done := true, res := BitVec.ofNat 1024 x }], phase := .done }

theorem State.touchLine_of_bank (s : State) {pa : Nat} (h : 2 ^ 42 ≤ pa) : s.touchLine pa = s := by
  rw [State.touchLine, Mem.unproved, isBank, decide_eq_true h]
  rfl

/-- A buffer has no page that could refuse the access. -/
theorem tnakCause_of_buffer (what : Access) (sync : Sync) : tnakCause (BitVec.allOnes 64) what sync = 0 := by
  unfold tnakCause
  simp only [BitVec.getLsbD_allOnes]
  simp

section
variable {s : State} {t : Nat} {r : Req} {e : Elem} (h : AtHome s t r e)
include h

theorem AtHome.lt : t < 16384 := of_decide_eq_true h.act

theorem AtHome.not_engine : isEngine t = false := by
  have := AtHome.lt h
  exact decide_eq_false (by omega)

theorem AtHome.size_ne : e.size ≠ 0 := by
  have := h.size
  omega

theorem AtHome.not_heldSpan : s.heldSpan e.pa e.size = false := by
  have := h.size
  rw [State.heldSpan, h.free, Bool.false_or, decide_eq_false (by omega), Bool.false_and]

theorem AtHome.perform_eq : s.perform t r e e.pa e.key = s.performNow t r e e.pa e.key := by
  have hepoch : s.epochOf t = none := by
    rw [State.epochOf, h.noTeam]
    exact ite_self _
  rw [State.perform, hepoch]

/-! ### What trying the element gives -/

theorem AtHome.performNow_load (hwhat : r.what = .load) (hmeets : tagMeets r.sync (s.mem.tag (e.pa / 8))) :
    s.performNow t r e e.pa e.key = .done (s.mem.read e.pa e.size) 0 { s with mem := s.mem.loaded r.sync (e.pa / 8) } := by
  have hfull : ¬ ((r.sync = .wf ∨ r.sync = .wfe) ∧ (!s.mem.tag (e.pa / 8)) = true) := by
    rintro ⟨hs, ht⟩
    rw [hmeets.1 hs] at ht
    cases ht
  unfold State.performNow
  simp only [hwhat, s.touchLine_of_bank h.bank, ite_self, AtHome.size_ne h, AtHome.not_heldSpan h, wordsOf_one h.size, List.any_cons, List.any_nil, List.all_cons, List.all_nil,
    h.sound, State.readAt_eq h.size h.aligned h.stamp, Access.isAtom, Bool.false_and, Bool.or_false, Bool.and_true, Bool.false_eq_true, if_false, hfull,
    State.journalWords_of_no_team h.noTeam, Mem.loaded]
  split <;> rfl

theorem AtHome.performNow_store (hwhat : r.what = .store) (hsync : r.sync = .plain ∨ r.sync = .wef ∨ r.sync = .sf ∨ r.sync = .se)
    (hmeets : tagMeets r.sync (s.mem.tag (e.pa / 8))) : ∃ m, s.performNow t r e e.pa e.key = .done 0 0 { s with mem := m } ∧
      Stores s { s with mem := m } e.pa e.size e.data.toNat ∧
      SetsTag s { s with mem := m } (e.pa / 8) (tagStored r.sync (s.mem.tag (e.pa / 8))) := by
  obtain ⟨-, -, -, hmask⟩ := h.fresh
  have hempty : ¬ (r.sync = .wef ∧ (!!s.mem.tag (e.pa / 8)) = true) := by
    rintro ⟨hs, ht⟩
    rw [hmeets.2 hs] at ht
    cases ht
  obtain ⟨m, hm, hbits, htags⟩ := State.writeAt_eq h.size h.aligned h.stamp e.data.toNat
  obtain ⟨hkeep, htag, -, -⟩ := tagAction_spec r.sync [e.pa / 8] m
  refine ⟨tagAction r.sync [e.pa / 8] m, ?_, Stores.of_bit fun q => ?_, fun v => ?_⟩
  · unfold State.performNow
    simp only [hwhat, s.touchLine_of_bank h.bank, ite_self, AtHome.size_ne h, AtHome.not_heldSpan h, wordsOf_one h.size, List.any_cons, List.any_nil, List.all_cons, List.all_nil,
      h.sound, h.noHazards, Elem.merged, hmask, State.storeAt, State.journalWords_of_no_team h.noTeam, hm, Access.isAtom, Bool.false_and, Bool.or_false,
      Bool.and_true, Bool.false_eq_true, if_false, false_and, hempty]
    rfl
  · exact (congrFun hkeep q).trans (hbits q)
  · refine (htag v).trans ?_
    rw [htags]
    by_cases hv : v = e.pa / 8
    · rw [if_pos (by simp [hv]), if_pos hv, hv]
      rcases hsync with hs | hs | hs | hs <;> rw [hs] <;> rfl
    · rw [if_neg (by simp [hv]), if_neg hv]

/-- Where the tag does not let it, the access waits. -/
theorem AtHome.performNow_waits (hwhat : r.what = .load ∧ (r.sync = .wf ∨ r.sync = .wfe) ∨ r.what = .store ∧ r.sync = .wef)
    (hmeets : ¬ tagMeets r.sync (s.mem.tag (e.pa / 8))) : s.performNow t r e e.pa e.key = .wait s := by
  unfold State.performNow
  simp only [s.touchLine_of_bank h.bank, ite_self, AtHome.size_ne h, AtHome.not_heldSpan h, wordsOf_one h.size, List.any_cons, List.any_nil, List.all_cons, List.all_nil, h.sound]
  rcases hwhat with ⟨hwhat, hs⟩ | ⟨hwhat, hs⟩
  · have htag : s.mem.tag (e.pa / 8) = false := by
      by_contra hfull
      refine hmeets ⟨fun _ => by simpa using hfull, fun hwef => ?_⟩
      rcases hs with hs | hs <;> cases hs.symm.trans hwef
    simp only [hwhat, hs, htag]
    rfl
  · have htag : s.mem.tag (e.pa / 8) = true := by
      by_contra hfull
      refine hmeets ⟨fun hwf => ?_, fun _ => by simpa using hfull⟩
      rcases hwf with hwf | hwf <;> cases hs.symm.trans hwf
    simp only [hwhat, hs, htag]
    rfl

/-! ### The run of the request -/

theorem AtHome.owedFirst (ws : List Nat) : s.owedFirst (ownerAt e.pa) t r 0 ws = false := by
  rw [State.owedFirst, h.calm]
  rfl

/-- The element is performed, and what waits at its owner stays: nothing. -/
theorem AtHome.runElem_of_done {x : Nat} {m : Mem} (hnow : s.performNow t r e e.pa e.key = .done x 0 { s with mem := m }) :
    s.runElem t r { err := r.err, errAddr := r.errAddr, flags := r.flags } 0 e =
      ({ elems := [{ e with done := true, res := BitVec.ofNat 1024 x }], err := r.err, errAddr := r.errAddr, flags := r.flags
         changed := [ownerAt e.pa] }, { s with mem := m }) := by
  obtain ⟨hdone, hhold, hloc, -⟩ := h.fresh
  have hperform := (AtHome.perform_eq h).trans hnow
  have hleave : State.leaveOwner { s with mem := m } (ownerAt e.pa) t r.seq 0 .free = { s with mem := m } := by
    show State.leaveRetry { s with mem := m } _ _ _ _ = _
    rw [State.leaveRetry, show (State.owner { s with mem := m } (ownerAt e.pa)).retry = [] from h.calm]
    rfl
  have he : { e with loc := none } = e := by rw [← hloc]
  unfold State.runElem State.locate
  rw [if_neg (by simp [hdone]), if_neg (by simp [AtHome.not_engine h]), if_neg (by simp [h.space]), if_neg h.space]
  dsimp only
  rw [if_pos h.space, he, if_neg (by simp), if_neg (by simp [hhold]), tnakCause_of_buffer, AtHome.owedFirst h, hperform, hhold]
  simp only [ne_eq, not_true_eq_false, if_false, Bool.false_eq_true, hleave]
  simp

/-- The run of a request whose one element waits. -/
def Req.waited (r : Req) (e : Elem) (hold : Hold) : Run :=
  { elems := [{ e with hold }], stop := !(r.perOwner || r.perWord), phase := .waiting, err := r.err, errAddr := r.errAddr, flags := r.flags }

/-- The element stays, and an entry or a ticket at its owner stands for it (R186, R216). -/
theorem AtHome.runElem_of_wait (hnow : s.performNow t r e e.pa e.key = .wait s) :
    ∃ hold owners, s.runElem t r { err := r.err, errAddr := r.errAddr, flags := r.flags } 0 e = (r.waited e hold, { s with owners }) := by
  obtain ⟨hdone, hhold, hloc, -⟩ := h.fresh
  have hperform := (AtHome.perform_eq h).trans hnow
  have hjoin : ∃ hold owners, s.joinRetry (ownerAt e.pa) t r.seq 0 (e.pa / 8) .free = (hold, { s with owners }) := by
    unfold State.joinRetry State.joinRetry.refuse
    dsimp only
    rw [h.calm, List.any_nil, if_neg Bool.false_ne_true]
    split <;> exact ⟨_, _, rfl⟩
  obtain ⟨hold, owners, hjoin⟩ := hjoin
  have he : { e with loc := none } = e := by rw [← hloc]
  refine ⟨hold, owners, ?_⟩
  unfold State.runElem State.locate
  rw [if_neg (by simp [hdone]), if_neg (by simp [AtHome.not_engine h]), if_neg (by simp [h.space]), if_neg h.space]
  dsimp only
  rw [if_pos h.space, he, if_neg (by simp), if_neg (by simp [hhold]), tnakCause_of_buffer, AtHome.owedFirst h, hperform, hhold]
  simp only [ne_eq, not_true_eq_false, if_false, Bool.false_eq_true, hjoin]
  rfl

/-- A request of one element has the outcome of its element. -/
theorem AtHome.runReq_of_runElem {s' : State} {u : Run} (hatom : r.what.isAtom = false)
    (hrun : s.runElem t r { err := r.err, errAddr := r.errAddr, flags := r.flags } 0 e = (u, s')) :
    s.runReq t r = (u.changed, s'.setReq t (r.after u)) := by
  unfold State.runReq State.servedAt
  simp only [Req.after, h.whole, h.elems, hatom, State.runElems, hrun, Bool.false_and, Bool.false_eq_true, if_false, Bool.not_false, if_true]

theorem AtHome.runAndRetest_of_done {x : Nat} {m : Mem} (hatom : r.what.isAtom = false)
    (hnow : s.performNow t r e e.pa e.key = .done x 0 { s with mem := m }) :
    s.runAndRetest t r = State.setReq { s with mem := m } t (r.performedWith e x) := by
  rw [State.runAndRetest, AtHome.runReq_of_runElem h hatom (AtHome.runElem_of_done h hnow)]
  exact State.retestAll_of_no_retry h.calm

theorem AtHome.runAndRetest_of_wait (hatom : r.what.isAtom = false) (hnow : s.performNow t r e e.pa e.key = .wait s) :
    ∃ hold owners, s.runAndRetest t r = State.setReq { s with owners } t (r.after (r.waited e hold)) := by
  obtain ⟨hold, owners, hrun⟩ := AtHome.runElem_of_wait h hnow
  refine ⟨hold, owners, ?_⟩
  rw [State.runAndRetest, AtHome.runReq_of_runElem h hatom hrun]
  rfl

/-- In place of the request, its thread has the one that it has become. -/
theorem AtHome.outst_setReq (q : Req) (hq : q.seq = r.seq) (u : State) (hu : u.threads = s.threads) : ((u.setReq t q).th t).outst = [q] := by
  have hth : (u.th t).outst = [r] := by
    rw [State.th, hu]
    exact h.alone
  rw [State.setReq, State.th_modTh, if_pos rfl, hth, List.map_singleton, if_pos hq.symm]

end

/-- When a release completes, its thread takes note; what is outstanding and memory stay (R178). -/
theorem State.relDone_rest (s : State) (t seq : Nat) :
    (∀ v, ((s.relDone t seq).th v).outst = (s.th v).outst) ∧ (s.relDone t seq).mem = s.mem := by
  unfold State.relDone
  split
  · split
    · refine ⟨fun v => ?_, rfl⟩
      rw [State.modCtx, State.th_modTh]
      split
      next hv => rw [hv]
      next => rfl
    · exact ⟨fun _ => rfl, rfl⟩
  · exact ⟨fun _ => rfl, rfl⟩

/-- The order lets a thread's only access go on, when every message of the thread is delivered (R203, R226). -/
theorem AtHome.canPerform {s : State} {t : Nat} {r : Req} {e : Elem} (h : AtHome s t r e) : s.canPerform t r = true := by
  have hsent : s.sentBefore t r = false := by
    have hdel := h.delivered
    rw [State.delivered, List.all_eq_true] at hdel
    exact List.any_eq_false.mpr fun m hm => by simp [show m.origin ≠ .thread t by simpa using hdel m hm]
  simp [State.canPerform, hsent, h.alone, h.space]

/-- An answer event performs the access of a thread that has no other. -/
theorem AtHome.exec_answer {s : State} {t : Nat} {r : Req} {e : Elem} (h : AtHome s t r e) (hatom : r.what.isAtom = false) :
    exec (.accessAnswer t r.seq) s = .next ((s.runAndRetest t r).relDone t r.seq) := by
  have hreq : s.req? t r.seq = some r := by
    rw [State.req?, h.alone]
    simp
  have hserved : s.nextIsServed t r = false := by rw [State.nextIsServed, hatom, Bool.false_and]
  have hturn : s.inTurn t r = true ∧ s.hostTurn t r = true := by
    have hlt : t < 65536 := by have := AtHome.lt h; omega
    exact ⟨if_pos (.inl hlt), if_pos (.inl hlt)⟩
  show execAccessAnswer t r.seq s = _
  unfold execAccessAnswer
  rw [hreq]
  simp [h.sent, Req.pending, hserved, AtHome.canPerform h, hturn]

theorem outstandingAccessesArePerformedAtHome : Claims.OutstandingAccessesArePerformedAtHome := by
  intro s t r e h
  refine ⟨fun hwhat hsync hmeets => ?_, fun hwhat hsync hmeets => ?_, fun hwhat hmeets => ?_⟩
  · have hatom : r.what.isAtom = false := by rw [hwhat]; rfl
    have hrun := AtHome.runAndRetest_of_done h hatom (AtHome.performNow_load h hwhat hmeets)
    obtain ⟨houtst, hmem⟩ := (s.runAndRetest t r).relDone_rest t r.seq
    refine ⟨_, r.performedWith e (s.mem.read e.pa e.size), AtHome.exec_answer h hatom, ?_, rfl, rfl, rfl, rfl, fun a => ?_, fun v => ?_⟩
    · rw [houtst, hrun]
      exact AtHome.outst_setReq h (r.performedWith e _) rfl { s with mem := _ } rfl
    · rw [hmem, hrun]
      exact Mem.byte_of_bit (s.mem.bit_loaded r.sync (e.pa / 8)) a
    · rw [hmem, hrun]
      exact s.mem.tag_loaded r.sync (e.pa / 8) v
  · have hatom : r.what.isAtom = false := by rw [hwhat]; rfl
    obtain ⟨m, hnow, hbytes, htags⟩ := AtHome.performNow_store h hwhat hsync hmeets
    have hrun := AtHome.runAndRetest_of_done h hatom hnow
    obtain ⟨houtst, hmem⟩ := (s.runAndRetest t r).relDone_rest t r.seq
    rw [hrun] at hmem
    refine ⟨_, r.performedWith e 0, AtHome.exec_answer h hatom, ?_, rfl, rfl, fun a => ?_, fun v => ?_⟩
    · rw [houtst, hrun]
      exact AtHome.outst_setReq h (r.performedWith e 0) rfl { s with mem := m } rfl
    · rw [hrun, hmem]
      exact hbytes a
    · rw [hrun, hmem]
      exact htags v
  · have hatom : r.what.isAtom = false := by rcases hwhat with ⟨hwhat, -⟩ | ⟨hwhat, -⟩ <;> rw [hwhat] <;> rfl
    obtain ⟨hold, owners, hrun⟩ := AtHome.runAndRetest_of_wait h hatom (AtHome.performNow_waits h hwhat hmeets)
    obtain ⟨houtst, hmem⟩ := (s.runAndRetest t r).relDone_rest t r.seq
    refine ⟨_, r.after (r.waited e hold), AtHome.exec_answer h hatom, ?_, rfl, ?_⟩
    · rw [houtst, hrun]
      exact AtHome.outst_setReq h (r.after (r.waited e hold)) rfl { s with owners } rfl
    · rw [hmem, hrun]
      rfl

end Sys2Proof.Machine
end

section
/-! SUPPORT. The answer of an access: its thread, its register, and the error that RFAULT records (R177, R178, R194, R208). -/

namespace Sys2Proof.Machine

open Sys2Proof.Claims

/-! ## The answer of an access in its register (R177, R178) -/

/-- The activation as an answer leaves it. -/
def Req.settle (r : Req) (a : Act) : Act := { r.answered a with flags := (r.answered a).flags ||| r.flags }
/-- The thread as an answer without an error to be recorded leaves it. -/
def Req.settleThread (r : Req) (x : Thread) : Thread :=
  { r.answeredMon x with
    act := r.settle (r.answeredMon x).act
    entry := if r.mon then (r.answeredMon x).entry else (r.answeredMon x).entry.map r.settle
    status := if (r.answeredMon x).status = .stalled .access then .running else (r.answeredMon x).status }
/-- The thread without an access that is answered. -/
def Thread.without (x : Thread) (seq : Nat) : Thread := { x with outst := x.outst.filter fun q => q.seq != seq }
/-- The thread with the error of an access. -/
def Req.failed (r : Req) (x : Thread) : Thread :=
  if r.err = 0 then x else
  { x with act := x.act.addError r.err (accessOp r.what) (spaceNo r.sp) r.errAddr
           entry := x.entry.map fun a => a.addError r.err (accessOp r.what) (spaceNo r.sp) r.errAddr }

/-- The thread as the answer of an access leaves it. -/
def Req.answeredThread (r : Req) (x : Thread) : Thread :=
  if r.orphan then x.without r.seq else r.settleThread (r.failed (x.without r.seq))

/-- An answer changes its thread alone. -/
theorem State.deliver_spec (s : State) {t : Nat} (ht : isAct t = true) (r : Req) :
    (∃ threads, s.deliver t r = { s with threads }) ∧
      ∀ v, (s.deliver t r).th v = if v = t then r.answeredThread (s.th t) else s.th v := by
  have hlt : t < 16384 := of_decide_eq_true ht
  have hengine : isEngine t = false := decide_eq_false (by omega)
  unfold State.deliver Req.answeredThread
  rw [hengine, if_neg Bool.false_ne_true, if_neg (by omega)]
  dsimp only
  split
  · exact ⟨⟨_, rfl⟩, fun v => State.th_modTh ..⟩
  · unfold Req.failed
    split
    · refine ⟨⟨_, rfl⟩, fun v => ?_⟩
      simp only [State.th_modTh, if_true]
      split <;> rfl
    · refine ⟨⟨_, rfl⟩, fun v => ?_⟩
      simp only [State.recordError, State.modCtx, State.th_modTh, if_true]
      split <;> rfl

/-! ### The value -/

/-- The sign extension of an answer's bytes is that of their vector. -/
theorem sextTo_eq {x : BitVec 1024} {n : Nat} (hn : 1 ≤ n ∧ n ≤ 8) (hx : x.toNat < 2 ^ (8 * n)) :
    Req.scalar.sextTo x n = (BitVec.ofNat (8 * n) x.toNat).signExtend 64 := by
  have hpow : 2 ^ (8 * n) ≤ 2 ^ 64 := Nat.pow_le_pow_right (by decide) (by omega)
  have hval : (BitVec.ofNat (8 * n) x.toNat).toNat = x.toNat := by rw [BitVec.toNat_ofNat, Nat.mod_eq_of_lt hx]
  refine BitVec.eq_of_toNat_eq ?_
  rw [BitVec.toNat_signExtend, BitVec.toNat_setWidth, hval, BitVec.msb_eq_decide, hval, Nat.mod_eq_of_lt (hx.trans_le hpow)]
  unfold Req.scalar.sextTo
  simp only [decide_eq_true_eq, Nat.mod_eq_of_lt hx]
  split <;> rw [BitVec.toNat_ofNat] <;> omega

/-- An answer's value is its bytes, with the sign or zeros above (R194). -/
theorem Req.scalar_eq {r : Req} {e : Elem} (helems : r.elems = [e]) (hsize : e.size = 1 ∨ e.size = 2 ∨ e.size = 4 ∨ e.size = 8)
    (hres : e.res.toNat < 2 ^ (8 * e.size)) : r.scalar = if r.sx then (BitVec.ofNat (8 * e.size) e.res.toNat).signExtend 64 else
      (BitVec.ofNat (8 * e.size) e.res.toNat).setWidth 64 := by
  rw [Req.scalar, helems]
  dsimp only
  split
  · exact sextTo_eq (by omega) hres
  · refine BitVec.eq_of_toNat_eq ?_
    rw [BitVec.extractLsb'_toNat, BitVec.toNat_setWidth, BitVec.toNat_ofNat, Nat.mod_eq_of_lt hres, Nat.shiftRight_zero]

/-! ### The thread -/

theorem Req.settleThread_outst (r : Req) (x : Thread) : (r.settleThread x).outst = x.outst := by
  unfold Req.settleThread Req.answeredMon
  split
  · split
    · rfl
    · split <;> rfl
  · rfl

theorem Req.failed_outst (r : Req) (x : Thread) : (r.failed x).outst = x.outst := by
  unfold Req.failed
  split <;> rfl

section
variable {r : Req} {d : GReg} (hdst : r.dst = .g d) (hd : d ≠ 0)
include hdst hd

/-- An answer without an error gives its register the value, in the context's bank. -/
theorem Req.settleThread_of_context (hmon : r.mon = false) (herr : r.err = 0) (x : Thread) :
    (r.settleThread x).act = { x.act.setG d r.scalar with flags := x.act.flags ||| r.flags } ∧ (r.settleThread x).mg = x.mg := by
  have hbank : r.answeredMon x = x := by rw [Req.answeredMon, hdst, hmon]; exact if_pos (.inr rfl)
  have hput : r.answered x.act = x.act.setG d r.scalar := by
    rw [Req.answered, hdst, hmon]
    dsimp only
    rw [if_neg fun h => h.elim hd nofun, if_pos herr]
  unfold Req.settleThread Req.settle
  rw [hbank, hput]
  refine ⟨?_, rfl⟩
  unfold Act.setG
  split <;> rfl

/-- An answer without an error gives its register the value, in the monitor's bank. -/
theorem Req.settleThread_of_monitor (hmon : r.mon = true) (herr : r.err = 0) (x : Thread) :
    (r.settleThread x).act = { x.act with flags := x.act.flags ||| r.flags } ∧ (r.settleThread x).mg = Map.set 0 x.mg d.toNat r.scalar := by
  have hbank : r.answeredMon x = { x with mg := Map.set 0 x.mg d.toNat r.scalar, mgErr := x.mgErr &&& ~~~(1#32 <<< d.toNat)
                                          mgBad := x.mgBad &&& ~~~(1#32 <<< d.toNat) } := by
    rw [Req.answeredMon, hdst, hmon]
    dsimp only
    rw [if_neg fun h => h.elim hd nofun, if_pos herr]
  have hput (a : Act) : r.answered a = a := by rw [Req.answered, hdst, hmon]; exact if_pos (.inr rfl)
  unfold Req.settleThread Req.settle
  rw [hbank]
  exact ⟨by rw [hput], rfl⟩

/-- An answer with an error marks its register in the context's bank. -/
theorem Req.settleThread_of_error (hmon : r.mon = false) (herr : r.err ≠ 0) (x : Thread) :
    (r.settleThread x).act = { x.act with gErr := x.act.gErr ||| (1#32 <<< d.toNat), flags := x.act.flags ||| r.flags } := by
  have hbank : r.answeredMon x = x := by rw [Req.answeredMon, hdst, hmon]; exact if_pos (.inr rfl)
  have hput : r.answered x.act = { x.act with gErr := x.act.gErr ||| (1#32 <<< d.toNat) } := by
    rw [Req.answered, hdst, hmon]
    dsimp only
    rw [if_neg fun h => h.elim hd nofun, if_neg herr]
  unfold Req.settleThread Req.settle
  rw [hbank, hput]

end

/-- An error of a cause below 16 changes RFAULT and what stands for its further errors (R177). -/
theorem Act.addError_rest (a : Act) {cause : Byte} (hlt : cause.toNat < 16) (op sp : Nat) (addr : Word) :
    ∃ rfault rfaultAddr later, a.addError cause op sp addr = { a with rfault, rfaultAddr, later } := by
  have hcause : cause ≠ 0x17 := by rintro rfl; exact absurd hlt (by decide)
  rw [Act.addError, if_neg hcause]
  cases a.errors <;> exact ⟨_, _, _, rfl⟩

theorem accessOp_lt (what : Access) : accessOp what < 4 := by
  unfold accessOp
  split <;> decide

theorem spaceNo_lt (sp : Space) : spaceNo sp < 16 := by cases sp <;> decide

/-- The first error is recorded with its cause and address (R177). -/
theorem Act.addError_first {a : Act} (hnone : a.rfault.extractLsb' 60 4 = 0) {cause : Byte} (hlt : cause.toNat < 16) {op sp : Nat} (hop : op < 4)
    (hsp : sp < 16) (addr : Word) : (a.addError cause op sp addr).rfault.extractLsb' 60 4 = cause.setWidth 4 ∧
      (a.addError cause op sp addr).rfault.extractLsb' 0 40 = addr.extractLsb' 0 40 := by
  have hcause : cause ≠ 0x17 := by rintro rfl; exact absurd hlt (by decide)
  have hrfault : (a.addError cause op sp addr).rfault =
      BitVec.ofNat 64 (cause.toNat % 16 * 2 ^ 60 + op * 2 ^ 58 + sp * 2 ^ 44 + addr.toNat % 2 ^ 40) := by
    rw [Act.addError, if_neg hcause, Act.errors, if_pos hnone]
    exact BitVec.or_zero
  rw [hrfault]
  refine ⟨BitVec.eq_of_toNat_eq ?_, BitVec.eq_of_toNat_eq ?_⟩
  · rw [BitVec.extractLsb'_toNat, BitVec.toNat_ofNat, BitVec.toNat_setWidth, Nat.shiftRight_eq_div_pow]
    omega
  · rw [BitVec.extractLsb'_toNat, BitVec.extractLsb'_toNat, BitVec.toNat_ofNat, Nat.shiftRight_zero, Nat.shiftRight_zero]
    omega

theorem getLsbD_clear (x : BitVec 32) (d : GReg) : (x &&& ~~~(1#32 <<< d.toNat)).getLsbD d.toNat = false := by
  simp [d.isLt]

theorem getLsbD_mark (x : BitVec 32) (d : GReg) : (x ||| (1#32 <<< d.toNat)).getLsbD d.toNat = true := by
  simp [d.isLt]

theorem answersReachTheirRegister : Claims.AnswersReachTheirRegister := by
  intro s t r e ht hreq hphase helems hsize hres x w
  have hw : r.scalar = w := Req.scalar_eq helems hsize hres
  obtain ⟨⟨threads, hrest⟩, hth⟩ := s.deliver_spec ht r
  have hme : (s.deliver t r).th t = r.answeredThread (s.th t) := (hth t).trans (if_pos rfl)
  have hexec : exec (.accessAnswer t r.seq) s = .next (s.deliver t r) := by
    show execAccessAnswer t r.seq s = _
    unfold execAccessAnswer
    rw [hreq]
    exact if_pos hphase
  refine ⟨_, hexec, by rw [hrest], fun v hv => (hth v).trans (if_neg hv), ?_, fun horphan => ?_, fun d horphan hdst hd herr => ?_,
    fun d horphan hdst hd hmon herr hlt => ?_⟩
  · rw [hme]
    unfold Req.answeredThread
    split
    · rfl
    · rw [Req.settleThread_outst, Req.failed_outst]
      rfl
  · rw [hme, Req.answeredThread, if_pos horphan]
    exact ⟨rfl, rfl⟩
  · rw [hme, Req.answeredThread, horphan, if_neg Bool.false_ne_true, Req.failed, if_pos herr]
    cases hmon : r.mon
    · obtain ⟨hact, hmg⟩ := Req.settleThread_of_context hdst hd hmon herr ((s.th t).without r.seq)
      rw [hact, hmg, hw, Act.setG, if_neg hd]
      exact ⟨fun _ => ⟨fun k => Map.get_set .., getLsbD_clear _ d, rfl⟩, nofun, rfl, rfl⟩
    · obtain ⟨hact, hmg⟩ := Req.settleThread_of_monitor hdst hd hmon herr ((s.th t).without r.seq)
      rw [hact, hmg, hw]
      exact ⟨nofun, fun _ => ⟨fun k => Map.get_set .., rfl⟩, rfl, rfl⟩
  · rw [hme, Req.answeredThread, horphan, if_neg Bool.false_ne_true, Req.settleThread_of_error hdst hd hmon herr, Req.failed, if_neg herr]
    obtain ⟨_, _, _, hrest⟩ := (s.th t).act.addError_rest hlt (accessOp r.what) (spaceNo r.sp) r.errAddr
    refine ⟨?_, getLsbD_mark _ d, fun hnone => ?_⟩
    · show ((s.th t).act.addError _ _ _ _).g = _
      rw [hrest]
    · exact Act.addError_first hnone hlt (accessOp_lt r.what) (spaceNo_lt r.sp) r.errAddr

/-- Settles O23: an access that is its thread's only one is tried at its home and goes on as the word's tag says; and an answer changes its
thread alone, in the bank of the mode. -/
theorem outstandingAccessesEnd : Obligations.OutstandingAccessesEnd := by
  unfold Obligations.OutstandingAccessesEnd
  exact ⟨outstandingAccessesArePerformedAtHome, answersReachTheirRegister⟩

end Sys2Proof.Machine
end

section
/-! SUPPORT. LD, LDX, ST and STX of one word of the own block, which act at once (R168, R185, R190, R194, R195). -/

namespace Sys2Proof.Machine

open Sys2Proof.Claims

/-! ## An access to a word of the own block acts at once (R168; log 3) -/

/-- One word that the running instruction accesses, checked: its flat address and stamp are there. -/
def wordElem (ea : Word) (n : Nat) (x : BitVec 1024) (pa key : Nat) : Elem := { ea, size := n, data := x, pa, key }

/-- The access to that word, as it is issued. -/
def State.wordReq (s : State) (what : Access) (m : MemF) (dst : Dest) (ea : Word) (x : BitVec 1024) (pa key : Nat) : Req :=
  s.reqOf what m dst [wordElem ea (sizeBytes m.sz) x pa key]

/-- The thread as an access that acts at once leaves it, but for its answer: one more access was numbered. -/
def Thread.counted (x : Thread) : Thread := { x with nextSeq := x.nextSeq + 1, act := { x.act with count := x.act.count + 1 } }

theorem sizeBytes_of_word {sz : Size} (h : sz ≠ .l) : sizeBytes sz = 1 ∨ sizeBytes sz = 2 ∨ sizeBytes sz = 4 ∨ sizeBytes sz = 8 := by
  cases sz
  case l => exact absurd rfl h
  all_goals simp [sizeBytes]

/-- Addresses of the own block's buffers lie in the banks, aligned as they are in their space. -/
theorem flatAddr_of_own {t : Nat} {sp : Space} {ea : Word} {n pa : Nat} (hsp : sp = .s ∨ sp = .a ∨ sp = .w)
    (hn : n = 1 ∨ n = 2 ∨ n = 4 ∨ n = 8) (hal : ea.toNat % n = 0) (h : flatAddr t sp ea n = some pa) : 2 ^ 42 ≤ pa ∧ pa % n = 0 := by
  have hcross : isCross sp = false := by rcases hsp with rfl | rfl | rfl <;> rfl
  unfold flatAddr bufBase at h
  simp only [hcross, Bool.false_eq_true, if_false] at h
  split at h
  · cases h
    rcases hn with rfl | rfl | rfl | rfl <;> exact ⟨by omega, by omega⟩
  · cases h

/-- A thread without a recorded error takes no note of a release that completes. -/
theorem State.relDone_of_clean {s : State} {t : Nat} (h : (s.th t).act.deferred = none) (seq : Nat) : s.relDone t seq = s := by
  unfold State.relDone
  split
  · rw [h]
    simp
  · rfl

/-- The answer of an access without an error, in its thread, which runs. -/
theorem State.deliver_of_me {s : State} (hact : isAct s.cur = true) {r : Req} (horphan : r.orphan = false) (herr : r.err = 0) :
    s.deliver s.cur r = s.modMe fun x => r.settleThread (x.without r.seq) := by
  have hlt : s.cur < 16384 := of_decide_eq_true hact
  have hengine : isEngine s.cur = false := decide_eq_false (by omega)
  rw [← State.modMe_modMe]
  unfold State.deliver
  rw [hengine, horphan, if_neg Bool.false_ne_true, if_neg (by omega)]
  dsimp only
  rw [if_neg Bool.false_ne_true, if_pos herr]
  rfl

/-- An access to the own block that its order lets go on, and that its run performs, is answered as it issues. -/
theorem State.issueReq_of_performed {s u v : State} {r q q' : Req} (hsp : r.sp = .s ∨ r.sp = .a ∨ r.sp = .w) (hatom : r.what.isAtom = false)
    (hstamp : r.stamp = []) (hq : s.addReq r = (q, u)) (hlate : u.me.late = false) (hcan : u.canPerform u.cur q = true)
    (hrun : (u.runAndRetest u.cur q).relDone u.cur q.seq = v) (hfind : v.req? v.cur q.seq = some q') (hdone : q'.phase = .done) :
    s.issueReq r = v.deliver v.cur q' := by
  have hst : s.stampFor r = ([], s) := if_neg (by rcases hsp with hsp | hsp | hsp <;> simp [hsp])
  have hadd : (s.stampFor r).2.addReq { r with stamp := (s.stampFor r).1 } = (q, u) := by
    rw [hst, ← hq]
    exact congrArg (fun stamp => s.addReq { r with stamp }) hstamp.symm
  unfold State.stampFor at hadd
  unfold State.issueReq
  simp only [hadd]
  rw [if_pos ⟨hsp, by rw [hatom]; rfl, by rw [hlate]; rfl, hcan⟩, hrun, hfind]
  exact if_pos (beq_iff_eq.mpr hdone)

section
variable {s : State} {what : Access} {m : MemF} {dst : Dest} {ea : Word} {x : BitVec 1024} {pa key : Nat}
  (h : LocalWord s what m.sp ea (sizeBytes m.sz) pa key)
include h

theorem LocalWord.space_own : m.sp = .s ∨ m.sp = .a ∨ m.sp = .w := h.space.imp_right (Or.imp_right And.left)

theorem LocalWord.space_ne_d : m.sp ≠ .d := by
  rcases LocalWord.space_own h with hs | hs | hs <;> rw [hs] <;> decide

theorem LocalWord.mayAccess (hwhat : what = .load ∨ what = .store) : mayAccess s what m.sp ea (sizeBytes m.sz) := by
  obtain ⟨p, hp, hr, hw, hk⟩ := h.grant
  refine ⟨?_, h.aligned, fun hd => absurd hd (LocalWord.space_ne_d h), fun _ => ⟨by rw [h.place]; rfl, p, key, hp, hr, hw, hk⟩⟩
  rcases hwhat with rfl | rfl
  · rcases LocalWord.space_own h with hs | hs | hs <;> rw [hs] <;> simp [spaceFor]
  · rcases h.space with hs | hs | ⟨-, hs⟩
    · exact .inl hs
    · exact .inr (.inl hs)
    · cases hs

/-- The checks pass, and the access is issued with its place and retires. -/
theorem LocalWord.access_eq (hwhat : what = .load ∨ what = .store) (i : Instr) (sz : Nat) (ls mc : Bool) :
    s.access i (s.reqOf what m dst [{ ea, size := sizeBytes m.sz, data := x }]) sz ls mc none =
      .next (s.issueReq (s.wordReq what m dst ea x pa key)).retire := by
  obtain ⟨p, hp, -, -, hk⟩ := h.grant
  have hasks : Asks s what m dst [(ea, sizeBytes m.sz, x.toNat % 2 ^ (8 * sizeBytes m.sz), 0)]
      (s.reqOf what m dst [{ ea, size := sizeBytes m.sz, data := x }]) := asks_one rfl rfl rfl (fun _ => ⟨rfl, rfl⟩) rfl rfl
  have hmay : ∀ e ∈ [(ea, sizeBytes m.sz, x.toNat % 2 ^ (8 * sizeBytes m.sz), (0 : Word))], Claims.mayAccess s what m.sp e.1 e.2.1 := fun e he => by
    rw [List.mem_singleton.mp he]
    exact LocalWord.mayAccess h hwhat
  have hy : (s.reqOf what m dst [{ ea, size := sizeBytes m.sz, data := x }]).sp ≠ .y := by
    show m.sp ≠ .y
    rcases LocalWord.space_own h with hs | hs | hs <;> rw [hs] <;> decide
  have hres : s.resolve (s.reqOf what m dst [{ ea, size := sizeBytes m.sz, data := x }]) { ea, size := sizeBytes m.sz, data := x } =
      wordElem ea (sizeBytes m.sz) x pa key := by
    unfold State.resolve State.reqOf wordElem
    simp only [LocalWord.space_ne_d h, if_false, h.place, hp, hk, Option.getD_some]
  rw [State.access, h.act, if_neg (by decide), if_neg hy, hasks.accessFault_none hmay]
  refine (hasks.startAccess_eq (by simp) hmay h.noHazards h.clean (fun hd => absurd hd (LocalWord.space_ne_d h)) sz none).trans ?_
  exact congrArg (fun e => (Host.Outcome.next (s.issueReq (s.reqOf what m dst [e])).retire : Out State)) hres

/-- Once issued, the access is the only one of its thread, at its word's home. -/
theorem LocalWord.atHome (hsz : m.sz ≠ .l) :
    AtHome (s.addReq (s.wordReq what m dst ea x pa key)).2 s.cur
      (s.addReq (s.wordReq what m dst ea x pa key)).1 (wordElem ea (sizeBytes m.sz) x pa key) := by
  obtain ⟨hbank, hal⟩ := flatAddr_of_own (LocalWord.space_own h) (sizeBytes_of_word hsz) h.aligned h.place
  set R := s.wordReq what m dst ea x pa key
  have hme : (s.addReq R).2.th s.cur = (fun x : Thread => { x with
      outst := x.outst ++ [(s.addReq R).1], nextSeq := x.nextSeq + 1, act := { x.act with count := x.act.count + 1 } }) s.me := State.me_modMe ..
  constructor
  case act => exact h.act
  case alone =>
    rw [hme]
    exact congrArg (· ++ [_]) h.alone
  case sent => rfl
  case elems => rfl
  case fresh => exact ⟨rfl, rfl, rfl, rfl⟩
  case delivered => exact h.delivered
  case whole => rfl
  case space => exact LocalWord.space_ne_d h
  case bank => exact hbank
  case aligned => exact hal
  case size => exact sizeBytes_of_word hsz
  case stamp => exact h.stamp
  case sound => exact h.sound
  case free =>
    refine State.held_of_serve (fun v => .inl ?_) h.free
    by_cases hv : v = s.cur
    · rw [hv, hme]
      rfl
    · exact congrArg Thread.serve (State.th_modMe_ne s _ hv)
  case calm => exact h.calm
  case noTeam => rw [hme]; exact h.noTeam
  case noHazards => rw [hme]; exact h.noHazards

/-- An access that is performed as it issues is answered at once. -/
theorem LocalWord.issueReq_eq (hsz : m.sz ≠ .l) (hwhat : what = .load ∨ what = .store) {q : Req} {u : State}
    (hq : s.addReq (s.wordReq what m dst ea x pa key) = (q, u)) {y : Nat} {m' : Mem}
    (hnow : u.performNow s.cur q (wordElem ea (sizeBytes m.sz) x pa key) pa key = .done y 0 { u with mem := m' }) :
    s.issueReq (s.wordReq what m dst ea x pa key) = State.modMe { s with mem := m' } fun t =>
      (q.performedWith (wordElem ea (sizeBytes m.sz) x pa key) y).settleThread t.counted := by
  have hatom : what.isAtom = false := by rcases hwhat with rfl | rfl <;> rfl
  have hhome := LocalWord.atHome (dst := dst) (x := x) h hsz
  rw [hq] at hhome
  have hu : u = s.modMe fun t => { t.counted with outst := t.outst ++ [q] } := by cases hq; rfl
  have hqwhat : q.what = what := by cases hq; rfl
  have hqsp : q.sp = m.sp := by cases hq; rfl
  have hqerr : q.err = 0 ∧ q.orphan = false := by cases hq; exact ⟨rfl, rfl⟩
  have hcur : u.cur = s.cur := by rw [hu]; rfl
  have hrun := AtHome.runAndRetest_of_done hhome (by rw [hqwhat]; exact hatom) hnow
  set q' := q.performedWith (wordElem ea (sizeBytes m.sz) x pa key) y with hq'
  set v := State.setReq { u with mem := m' } s.cur q' with hv
  have hvcur : v.cur = s.cur := hcur
  have hvme : v = State.modMe { s with mem := m' } fun t => { t.counted with outst := (t.outst ++ [q]).map fun p => if p.seq = q.seq then q' else p } := by
    rw [hv, hu]
    exact State.modMe_modMe { s with mem := m' } (fun t => { t.counted with outst := t.outst ++ [q] })
      fun t => { t with outst := t.outst.map fun p => if p.seq = q'.seq then q' else p }
  have hvth : v.th s.cur = { s.me.counted with outst := [q'] } := by
    rw [hvme]
    refine (State.me_modMe ..).trans ?_
    show ({ s.me.counted with outst := (s.me.outst ++ [q]).map fun p => if p.seq = q.seq then q' else p } : Thread) = _
    rw [h.alone]
    simp
  have hclean : v.relDone s.cur q.seq = v := State.relDone_of_clean (by rw [hvth]; exact h.clean) _
  have hfind : v.req? s.cur q.seq = some q' := by
    rw [State.req?, hvth]
    exact List.find?_cons_of_pos (by simp [hq', Req.performedWith])
  have hdeliver : s.issueReq (s.wordReq what m dst ea x pa key) = v.deliver v.cur q' := by
    refine State.issueReq_of_performed (LocalWord.space_own h) hatom rfl hq ?_ ?_ ?_ ?_ rfl
    · rw [hu, State.me_modMe]
      exact h.prompt
    · rw [hcur]
      exact AtHome.canPerform hhome
    · rw [hcur, hrun, hclean]
    · rw [hvcur]
      exact hfind
  rw [hdeliver, State.deliver_of_me (s := v) (r := q') (by rw [hvcur]; exact h.act) hqerr.2 hqerr.1, hvme, State.modMe_modMe]
  refine State.modMe_congr (congrArg q'.settleThread ?_)
  show ({ s.me.counted with outst := ((s.me.outst ++ [q]).map fun p => if p.seq = q.seq then q' else p).filter fun p => p.seq != q'.seq } : Thread) =
    { s.me.counted with outst := s.me.outst }
  rw [h.alone]
  simp

end

/-! ### What the answer leaves of the running thread -/

section
variable {r : Req} {x : Thread} (herr : r.err = 0) (hflags : r.flags = 0) (hrun : x.status = .running)
include hflags hrun

/-- An answer without a register changes nothing that the thread goes on with. -/
theorem Req.settleThread_of_none (hdst : r.dst = .none) : ∃ entry, r.settleThread x = { x with entry } := by
  have hbank : r.answeredMon x = x := by rw [Req.answeredMon, hdst]
  have hput (a : Act) : r.settle a = a := by
    rw [Req.settle, Req.answered, hdst, hflags]
    exact congrArg (fun flags => { a with flags }) BitVec.or_zero
  refine ⟨(r.settleThread x).entry, ?_⟩
  unfold Req.settleThread
  rw [hbank, hput, hrun]
  rfl

include herr

/-- An answer to the running thread writes its register, in the bank of its mode. -/
theorem Req.settleThread_of_running {d : GReg} (hdst : r.dst = .g d) (hmon : r.mon = (x.mode == .monitor)) :
    ∃ entry, r.settleThread x = ({ x with entry } : Thread).setG d r.scalar := by
  have hkeep (a : Act) : ({ a with flags := a.flags ||| r.flags } : Act) = a := by
    rw [hflags]
    exact congrArg (fun flags => { a with flags }) BitVec.or_zero
  refine ⟨(r.settleThread x).entry, ?_⟩
  by_cases hd : d = 0
  · have hbank : r.answeredMon x = x := by rw [Req.answeredMon, hdst]; exact if_pos (.inl hd)
    have hput : r.settle x.act = x.act := by
      rw [Req.settle, Req.answered, hdst]
      dsimp only
      rw [if_pos (.inl hd), hkeep]
    unfold Req.settleThread
    rw [hbank, hput, hrun, hd]
    rfl
  by_cases hmode : x.mode = .monitor
  · have htrue : r.mon = true := by rw [hmon, hmode]; rfl
    have hbank : r.answeredMon x = { x with mg := Map.set 0 x.mg d.toNat r.scalar, mgErr := x.mgErr &&& ~~~(1#32 <<< d.toNat)
                                            mgBad := x.mgBad &&& ~~~(1#32 <<< d.toNat) } := by
      rw [Req.answeredMon, hdst, htrue]
      dsimp only
      rw [if_neg fun h => h.elim hd nofun, if_pos herr]
    have hput : r.settle x.act = x.act := by
      rw [Req.settle, Req.answered, hdst]
      dsimp only
      rw [if_pos (.inr htrue), hkeep]
    unfold Req.settleThread
    rw [Thread.setG, if_neg hd, if_pos hmode, hbank, hput, hrun]
    rfl
  · have hfalse : r.mon = false := by rw [hmon]; exact beq_eq_false_iff_ne.mpr hmode
    have hbank : r.answeredMon x = x := by rw [Req.answeredMon, hdst, hfalse]; exact if_pos (.inr rfl)
    have hput : r.settle x.act = x.act.setG d r.scalar := by
      rw [Req.settle, Req.answered, hdst, hfalse]
      dsimp only
      rw [if_neg fun h => h.elim hd nofun, if_pos herr, hkeep]
    unfold Req.settleThread
    rw [Thread.setG, if_neg hd, if_neg hmode, hbank, hput, hrun, Act.setG, if_neg hd]
    rfl

end

/-! ### The loads and stores (R194, R195) -/

/-- A change of units, and of what of the running thread control and registers do not see, changes nothing of what a write finds. -/
theorem SetsG.of_counted {s v t : State} {d : GReg} {w : Word} {fl : BitVec 5} {m : Mem} {entry : Option Act}
    (hv : v = State.modMe { s with mem := m } fun x => { x.counted with entry }) (h : SetsG v t d w fl) : SetsG s t d w fl := by
  have hme : v.me = { s.me.counted with entry } := by rw [hv, State.me_modMe]; rfl
  refine ⟨fun r => ?_, fun r => ?_, ?_, ?_, ?_, ?_, ?_⟩
  · rw [h.g, State.reg, hme]
    rfl
  · rw [h.v, State.vreg, hme]
    rfl
  · rw [h.marks, hme]
    rfl
  · rw [h.vmarks, hme]
    rfl
  · rw [h.struck, hme]
    rfl
  · rw [h.vstruck, hme]
    rfl
  · rw [h.flags, hme, hv]
    rfl

theorem quietly_counted (s : State) (entry : Option Act) : Quietly s (s.modMe fun x => { x.counted with entry }) :=
  Quietly.modMe s (fun x => { x.counted with entry }) rfl rfl rfl rfl (fun _ => rfl) rfl

theorem localLoadsReadTheirBytes : Claims.LocalLoadsReadTheirBytes := by
  intro s i m d ea pa key hi hsz hsync htyped h hmeets x
  have hsize := sizeBytes_of_word hsz
  have hexec : exec i s = .next (s.issueReq (s.wordReq .load m (.g d) ea 0 pa key)).retire := by
    obtain ⟨a, b, imm, ⟨rfl, rfl⟩ | ⟨rfl, rfl⟩⟩ := hi
    · exact LocalWord.access_eq h (.inl rfl) _ _ _ _
    · exact LocalWord.access_eq h (.inl rfl) _ _ _ _
  obtain ⟨q, u, hq⟩ : ∃ q u, s.addReq (s.wordReq .load m (.g d) ea 0 pa key) = (q, u) := ⟨_, _, rfl⟩
  have hhome := LocalWord.atHome (dst := .g d) (x := 0) h hsz
  rw [hq] at hhome
  have hqsync : q.sync = m.sy := by cases hq; rfl
  have humem : u.mem = s.mem := by cases hq; rfl
  have hnow := AtHome.performNow_load hhome (by cases hq; rfl) (by rw [hqsync, humem]; exact hmeets)
  have hissue := LocalWord.issueReq_eq h hsz (.inl rfl) hq hnow
  set q' := q.performedWith (wordElem ea (sizeBytes m.sz) 0 pa key) (u.mem.read pa (sizeBytes m.sz))
  obtain ⟨entry, hsettle⟩ := Req.settleThread_of_running (r := q') (x := s.me.counted) (by cases hq; rfl) (by cases hq; rfl) h.running (d := d)
    (by cases hq; rfl) (by cases hq; rfl)
  have hscalar : q'.scalar = if m.sx then x.signExtend 64 else x.setWidth 64 := by
    have hlt := u.mem.read_lt pa (sizeBytes m.sz)
    have hval : (BitVec.ofNat 1024 (u.mem.read pa (sizeBytes m.sz))).toNat = u.mem.read pa (sizeBytes m.sz) := by
      have hle : 8 * sizeBytes m.sz ≤ 1024 := by omega
      rw [BitVec.toNat_ofNat, Nat.mod_eq_of_lt (hlt.trans_le (Nat.pow_le_pow_right Nat.two_pos hle))]
    have hsx : q'.sx = m.sx := by cases hq; rfl
    have heq := Req.scalar_eq (r := q') rfl hsize (hval.trans_lt hlt)
    dsimp only [wordElem] at heq
    rw [hval, hsx, humem] at heq
    exact heq
  rw [hscalar] at hsettle
  set w := if m.sx then x.signExtend 64 else x.setWidth 64
  obtain ⟨v, hv⟩ : ∃ v, v = State.modMe { s with mem := u.mem.loaded q.sync (pa / 8) } fun x => { x.counted with entry } := ⟨_, rfl⟩
  have hwrite : s.issueReq (s.wordReq .load m (.g d) ea 0 pa key) = v.setG d w := by
    rw [hissue, State.setG, hv, State.modMe_modMe]
    exact State.modMe_congr hsettle
  have hquiet : Quietly s v := by
    rw [hv]
    refine (Quietly.of_threads rfl rfl rfl fun a => ?_ : Quietly s { s with mem := u.mem.loaded q.sync (pa / 8) }).trans (quietly_counted _ entry)
    exact (Mem.byte_of_bit (u.mem.bit_loaded q.sync (pa / 8)) a).trans (by rw [humem])
  obtain ⟨hret, -⟩ := hquiet.writeRetire d w
  refine ⟨v.writeRetire d w, by rw [hexec, hwrite]; rfl, hret, SetsG.of_counted hv (v.writeRetire_spec d w).2, ?_, fun k => ?_⟩
  · obtain ⟨_, _, _, _, _, _, hset⟩ := v.me.setG_eq d w
    rw [State.writeRetire, State.retire_outst, State.setG, State.me_modMe, hset, hv, State.me_modMe]
    exact h.alone
  · rw [State.writeRetire, State.retire_mem, hv, ← hqsync, ← humem]
    exact u.mem.tag_loaded q.sync (pa / 8) k

theorem localStoresWriteTheirBytes : Claims.LocalStoresWriteTheirBytes := by
  intro s i m c ea pa key hi hsz hsync htyped h hmeets
  have hexec : exec i s = .next (s.issueReq (s.wordReq .store m .none ea ((s.g c).setWidth 1024) pa key)).retire := by
    obtain ⟨a, b, imm, ⟨rfl, rfl⟩ | ⟨rfl, rfl⟩⟩ := hi
    · exact LocalWord.access_eq h (.inr rfl) _ _ _ _
    · exact LocalWord.access_eq h (.inr rfl) _ _ _ _
  obtain ⟨q, u, hq⟩ : ∃ q u, s.addReq (s.wordReq .store m .none ea ((s.g c).setWidth 1024) pa key) = (q, u) := ⟨_, _, rfl⟩
  have hhome := LocalWord.atHome (dst := .none) (x := (s.g c).setWidth 1024) h hsz
  rw [hq] at hhome
  have hqsync : q.sync = m.sy := by cases hq; rfl
  have humem : u.mem = s.mem := by cases hq; rfl
  obtain ⟨m', hnow, hbytes, htags⟩ := AtHome.performNow_store hhome (by cases hq; rfl) (by rw [hqsync]; exact hsync)
    (by rw [hqsync, humem]; exact hmeets)
  have hissue := LocalWord.issueReq_eq h hsz (.inr rfl) hq hnow
  set q' := q.performedWith (wordElem ea (sizeBytes m.sz) ((s.g c).setWidth 1024) pa key) 0
  obtain ⟨entry, hsettle⟩ := Req.settleThread_of_none (r := q') (x := s.me.counted) (by cases hq; rfl) h.running (by cases hq; rfl)
  have hwrite : s.issueReq (s.wordReq .store m .none ea ((s.g c).setWidth 1024) pa key) =
      State.modMe { s with mem := m' } fun x => { x.counted with entry } := hissue.trans (State.modMe_congr hsettle)
  obtain ⟨hret, hreg⟩ := Quietly.retire_mem (quietly_counted { s with mem := m' } entry)
  refine ⟨_, by rw [hexec, hwrite], hret, hreg, ?_, fun a => ?_, fun k => ?_⟩
  · rw [State.retire_outst, State.me_modMe]
    exact h.alone
  · rw [State.retire_mem]
    have hdata : (wordElem ea (sizeBytes m.sz) ((s.g c).setWidth 1024) pa key).data.toNat = (s.g c).toNat := by
      rw [wordElem, BitVec.toNat_setWidth_of_le (by decide)]
    rw [hdata] at hbytes
    exact (hbytes a).trans (by rw [humem]; rfl)
  · rw [State.retire_mem, ← hqsync, ← humem]
    exact htags k

/-- Settles O20: an access to a word of the own block whose tag lets it go on is performed and answered as it issues, and leaves of the
thread nothing but its answer and its number. -/
theorem localAccessesActAtOnce : Obligations.LocalAccessesActAtOnce := by
  unfold Obligations.LocalAccessesActAtOnce
  exact ⟨localLoadsReadTheirBytes, localStoresWriteTheirBytes⟩

end Sys2Proof.Machine
end
